-- ==== Sys2Proof/Word.lean ====
section
/-!
DEFINITION. The word types of the AGP-1200 (R8, R569): registers are 64 bits, device memory is bytes,
a scratchpad row is one 32-byte house codeword's data, an accumulator element is 128 bits.
-/
namespace Sys2Proof

/-- One register (R569). -/
abbrev Word := BitVec 64

/-- One byte. -/
abbrev Byte := BitVec 8

/-- One lane of a vector register, or any FP32 value as its bits (R98). -/
abbrev Lane := BitVec 32

/-- The data of one scratchpad row, or one script bundle: 256 bits (R76, R108). -/
abbrev Row := BitVec 256

/-- One long-accumulator element (R48). -/
abbrev Acc := BitVec 128

/-- The tile list of one ATTEND of one nib (R196, R197): the logical nib, the ATTEND in script order, its entries. -/
abbrev TileList := Nat × Nat × List (BitVec 128)

/-- The low `n` bits of a natural number from bit `lo` (a field [lo+n-1:lo], R7). -/
def bitsAt (x lo n : Nat) : Nat := x / 2 ^ lo % 2 ^ n

/-- Bit `i` of a natural number (R7). -/
def bitAt (x i : Nat) : Bool := x / 2 ^ i % 2 == 1

end Sys2Proof
end

