-- ==== Sys2Proof/Machine/Bits.lean ====
section
/-!
DEFINITION. Bytes and fields: little-endian byte strings (R8), fields of packed structures (R7), the packing of a
table of (width, value) fields into one number.
-/
namespace Sys2Proof.Machine

/-- The number a little-endian byte string spells (R8). -/
def leNat : List Byte → Nat
  | [] => 0
  | b :: bs => b.toNat + 256 * leNat bs

/-- `n` bytes of `x`, little-endian (R8). -/
def leBytes : Nat → Nat → List Byte
  | 0, _ => []
  | n + 1, x => BitVec.ofNat 8 x :: leBytes n (x / 256)

/-- `n` bytes of `x`, big-endian: network order for the fields R8 excepts. -/
def beBytes (n x : Nat) : List Byte := (leBytes n x).reverse

/-- The number a big-endian byte string spells. -/
def beNat (bs : List Byte) : Nat := leNat bs.reverse

/-- `n` bytes from offset `o` of a byte string; bytes past its end read 0. -/
def slice (bs : List Byte) (o n : Nat) : List Byte :=
  let t := (bs.drop o).take n
  t ++ List.replicate (n - t.length) 0

/-- The little-endian field of `n` bytes at offset `o`. -/
def leField (bs : List Byte) (o n : Nat) : Nat := leNat (slice bs o n)

/-- Pack fields, lowest first: each is its width in bits and its value (R7). -/
def pack : List (Nat × Nat) → Nat
  | [] => 0
  | (w, v) :: fs => v % 2 ^ w + 2 ^ w * pack fs

/-- A Boolean as a bit. -/
def b2n (b : Bool) : Nat := if b then 1 else 0

/-- Saturating addition to an `n`-bit event counter (R577). -/
def satAdd (n c k : Nat) : Nat := min (c + k) (2 ^ n - 1)

/-- Two's complement value of the low `n` bits of `x`. -/
def sext (n x : Nat) : Int :=
  let y := x % 2 ^ n
  if y < 2 ^ (n - 1) then (y : Int) else (y : Int) - (2 ^ n : Nat)

/-- The low `n` bits of an integer, two's complement. -/
def ofInt (n : Nat) (i : Int) : Nat := (i % (2 ^ n : Nat)).toNat

/-- The bytes of a row, byte 0 first (R76, R432). -/
def rowBytes (r : Row) : List Byte := leBytes 32 r.toNat

/-- A row of bytes. -/
def rowOf (bs : List Byte) : Row := BitVec.ofNat 256 (leNat (bs.take 32))

/-- Byte `i` of a row. -/
def rowByte (r : Row) (i : Nat) : Byte := BitVec.ofNat 8 (r.toNat / 256 ^ i)

/-- Cut a byte string into rows of 32 bytes, zero-filled at the end; `fuel` bounds the number of rows. -/
def rowsOf : Nat → List Byte → List Row
  | 0, _ => []
  | fuel + 1, bs => if bs.isEmpty then [] else rowOf bs :: rowsOf fuel (bs.drop 32)

/-- Round `x` up to a multiple of `k`. -/
def roundUp (x k : Nat) : Nat := (x + k - 1) / k * k

/-- Ceiling division. -/
def cdiv (x k : Nat) : Nat := (x + k - 1) / k

/-- Sum of a list of naturals. -/
def sumNat (l : List Nat) : Nat := l.foldl (· + ·) 0

/-- Whether `x` is a multiple of `k`. -/
def aligned (x k : Nat) : Bool := x % k == 0

end Sys2Proof.Machine
end

