-- ==== Sys2Proof/Machine/Codes.lean ====
section
/-!
DEFINITION. Status codes (R385), completion records (R378) and events (R379).
-/
namespace Sys2Proof.Machine

/-- The status codes of R385, by name. -/
inductive Status where
  | ok | badOpcode | badLength | levelDenied | reservedSet | badParameter | badQueue | payloadUnreadable
  | capacity | budget | deadlineInfeasible | resourceConflict | shapeAbovePlan | accOvercommit | licenceRequired
  | planMismatch | versionUnsupported | scriptRefused | tileListInvalid | listStale | listInvalid | sessionUnknown
  | sessionBusy | lengthAboveMax | tenantUnknown | modelUnknown | bedNotReady
  | inexactInfo | tallyTimeout | uncorrectable | pageListChanged | nibRetired | loadIncomplete | deadlineMissed
  | cancelled | alreadyComplete | bedReset | twinResumed | indexRange | tallyOverflow | windowMismatch
  | saturatedWindow | bedFault | noCandidate
  | linkDown | channelRetired | exportTimeout | peerRefused
  | signatureInvalid | imageDecryptFailed | healthTimeoutFallback | serialMismatch | updateSequence | licenceExpired
deriving DecidableEq, Repr

/-- The byte a status is written as (R385). -/
def Status.code : Status → Nat
  | .ok => 0x00 | .badOpcode => 0x01 | .badLength => 0x02 | .levelDenied => 0x03 | .reservedSet => 0x04
  | .badParameter => 0x05 | .badQueue => 0x06 | .payloadUnreadable => 0x07
  | .capacity => 0x20 | .budget => 0x21 | .deadlineInfeasible => 0x22 | .resourceConflict => 0x23
  | .shapeAbovePlan => 0x24 | .accOvercommit => 0x25 | .licenceRequired => 0x26 | .planMismatch => 0x27
  | .versionUnsupported => 0x28 | .scriptRefused => 0x29 | .tileListInvalid => 0x2A | .listStale => 0x2B
  | .listInvalid => 0x2C | .sessionUnknown => 0x2D | .sessionBusy => 0x2E | .lengthAboveMax => 0x2F
  | .tenantUnknown => 0x30 | .modelUnknown => 0x31 | .bedNotReady => 0x32
  | .inexactInfo => 0x40 | .tallyTimeout => 0x41 | .uncorrectable => 0x42 | .pageListChanged => 0x43
  | .nibRetired => 0x44 | .loadIncomplete => 0x45 | .deadlineMissed => 0x46 | .cancelled => 0x47
  | .alreadyComplete => 0x48 | .bedReset => 0x49 | .twinResumed => 0x4A | .indexRange => 0x4B
  | .tallyOverflow => 0x4C | .windowMismatch => 0x4D | .saturatedWindow => 0x4E | .bedFault => 0x4F
  | .noCandidate => 0x50 | .linkDown => 0x60 | .channelRetired => 0x61 | .exportTimeout => 0x62
  | .peerRefused => 0x63 | .signatureInvalid => 0x80 | .imageDecryptFailed => 0x81
  | .healthTimeoutFallback => 0x82 | .serialMismatch => 0x83 | .updateSequence => 0x84 | .licenceExpired => 0x85

/-- A completion or event record (R378), before its PHASE is known. -/
structure Rec where
  tag : Nat := 0
  sqHead : Nat := 0
  sq : Nat := 0
  event : Bool := false
  status : Nat := 0
  inexact : Bool := false
  saturated : Bool := false
  exported : Bool := false
  merged : Nat := 0
  detail : Nat := 0
  session : Nat := 0
  r0 : Nat := 0
  r1 : Nat := 0
  r2 : Nat := 0
  r3 : Nat := 0
  time : Nat := 0
deriving DecidableEq, Repr

/-- The 32 bytes of a record with its PHASE (R378). -/
def Rec.bytes (r : Rec) (phase : Bool) : List Byte :=
  leBytes 32 (pack [(16, r.tag), (16, r.sqHead), (6, r.sq), (1, b2n r.event), (1, b2n phase), (8, r.status),
    (1, b2n r.inexact), (1, b2n r.saturated), (1, b2n r.exported), (5, r.merged), (8, r.detail), (32, r.session),
    (32, r.r0), (32, r.r1), (32, r.r2), (32, r.r3), (32, r.time)])

/-- Event kinds: the DETAIL of an event record (R379). -/
inductive EvKind where
  | bedFaulted | floorPlan | sessionExpired | fenceDrop | asyncDrop | memory | link | throttle | doorbell | twin
  | update | planReloaded
deriving DecidableEq, Repr

/-- DETAIL of an event (R379). -/
def EvKind.code : EvKind → Nat
  | .bedFaulted => 1 | .floorPlan => 2 | .sessionExpired => 3 | .fenceDrop => 4 | .asyncDrop => 5 | .memory => 6
  | .link => 7 | .throttle => 8 | .doorbell => 9 | .twin => 10 | .update => 11 | .planReloaded => 12

end Sys2Proof.Machine
end

