-- ==== Sys2Proof/Machine/Map.lean ====
section
/-!
DEFINITION. Sparse maps: a list of (key, value) pairs, keys strictly rising, no entry equal to the default.
Every large array of the device (memory bytes, scratchpad rows, nibs, frames, sessions …) is one, so equal
contents are equal data and a state is plain data.
-/
namespace Sys2Proof

/-- A sparse array: what is not listed reads as the default its accessor names. -/
abbrev SMap (α : Type) := List (Nat × α)

namespace Machine

variable {α : Type}

/-- The entry at key `k`, or the default `d`. -/
def mget (d : α) : SMap α → Nat → α
  | [], _ => d
  | (k', v) :: m, k => if k' = k then v else mget d m k

/-- The map with key `k` unlisted. -/
def merase : SMap α → Nat → SMap α
  | [], _ => []
  | (k', v) :: m, k => if k' = k then merase m k else (k', v) :: merase m k

/-- The map with `v` listed at `k`, in key order. -/
def minsert : SMap α → Nat → α → SMap α
  | [], k, v => [(k, v)]
  | (k', v') :: m, k, v =>
    if k < k' then (k, v) :: (k', v') :: m
    else if k = k' then (k, v) :: m
    else (k', v') :: minsert m k v

/-- Write `v` at `k`; writing the default unlists the key, so the form stays canonical. -/
def mset [DecidableEq α] (d : α) (m : SMap α) (k : Nat) (v : α) : SMap α :=
  if v = d then merase m k else minsert m k v

/-- Change the entry at `k` by `f`. -/
def mupd [DecidableEq α] (d : α) (m : SMap α) (k : Nat) (f : α → α) : SMap α :=
  mset d m k (f (mget d m k))

/-- Write consecutive entries from `k`. -/
def msetRange [DecidableEq α] (d : α) (m : SMap α) (k : Nat) : List α → SMap α
  | [] => m
  | v :: vs => msetRange d (mset d m k v) (k + 1) vs

/-- Read `n` consecutive entries from `k`. -/
def mgetRange (d : α) (m : SMap α) (k : Nat) : Nat → List α
  | 0 => []
  | n + 1 => mget d m k :: mgetRange d m (k + 1) n

/-- Every key at or above `lo`, and the keys strictly rise. -/
def mrising : Nat → SMap α → Bool
  | _, [] => true
  | lo, (k, _) :: m => decide (lo ≤ k) && mrising (k + 1) m

/-- The canonical form: keys strictly rise and no entry equals the default. -/
def mwf [DecidableEq α] (d : α) (m : SMap α) : Bool :=
  mrising 0 m && m.all fun e => decide (e.2 ≠ d)

/-- Apply `f` to every listed value, keeping the canonical form. -/
def mmap [DecidableEq α] (d : α) (f : Nat → α → α) : SMap α → SMap α
  | [] => []
  | (k, v) :: m =>
    let v' := f k v
    if v' = d then mmap d f m else (k, v') :: mmap d f m

/-- Keep the listed entries that satisfy `p`. -/
def mfilter (p : Nat → α → Bool) (m : SMap α) : SMap α := m.filter fun e => p e.1 e.2

/-- The listed keys that satisfy `p`, rising. -/
def mkeys (p : Nat → α → Bool) (m : SMap α) : List Nat := (m.filter fun e => p e.1 e.2).map (·.1)

/-- The lowest number below `n`, from `i`, that satisfies `p`. -/
def firstNat (p : Nat → Bool) : Nat → Nat → Option Nat
  | _, 0 => none
  | i, n + 1 => if p i then some i else firstNat p (i + 1) n

end Machine
end Sys2Proof
end

