-- ==== Sys2Proof/Machine/Num.lean ====
section
/-!
DEFINITION. Number formats and exact accumulation (spec 02): element formats, scales, block partials, the window,
the long accumulator, conversions to storage formats and block quantisation.
-/
namespace Sys2Proof.Machine

/-! ### Exact dyadic values and rounding -/

/-- The exact value m × 2^e. -/
structure Dy where
  m : Int
  e : Int
deriving DecidableEq, Repr

/-- Round n / 2^d to the nearest integer, ties to even; true when the value changed (R49's rounding). -/
def rneShift (n : Int) (d : Nat) : Int × Bool :=
  let q := n / (2 ^ d : Nat)
  let r := n - q * (2 ^ d : Nat)
  let up := 2 * r > (2 ^ d : Nat) || (2 * r == ((2 ^ d : Nat) : Int) && q % 2 == 1)
  (if up then q + 1 else q, r != 0)

/-- Round n / d to the nearest integer, ties to even; true when the value changed. -/
def rneDiv (n : Int) (d : Nat) : Int × Bool :=
  let q := n / (d : Int)
  let r := n - q * d
  let up := 2 * r > (d : Int) || (2 * r == (d : Int) && q % 2 == 1)
  (if up then q + 1 else q, r != 0)

/-- x in units of 2^g, rounded once to nearest, ties to even. -/
def Dy.units (x : Dy) (g : Int) : Int × Bool :=
  if g ≤ x.e then (x.m * (2 ^ (x.e - g).toNat : Nat), false)
  else rneShift x.m (g - x.e).toNat

/-- Exact sum. -/
def Dy.add (x y : Dy) : Dy :=
  if x.m == 0 then y else if y.m == 0 then x else
  let e := min x.e y.e
  ⟨x.m * (2 ^ (x.e - e).toNat : Nat) + y.m * (2 ^ (y.e - e).toNat : Nat), e⟩

/-- Exact product. -/
def Dy.mul (x y : Dy) : Dy := ⟨x.m * y.m, x.e + y.e⟩

/-- Exact negation. -/
def Dy.neg (x : Dy) : Dy := ⟨-x.m, x.e⟩

/-- Exact scaling by 2^k. -/
def Dy.shl (x : Dy) (k : Int) : Dy := ⟨x.m, x.e + k⟩

/-- Exact comparison x < y. -/
def Dy.lt (x y : Dy) : Bool := decide ((x.add y.neg).m < 0)

/-- Magnitude. -/
def Dy.abs (x : Dy) : Dy := ⟨x.m.natAbs, x.e⟩

/-- floor(log2 |x|) of a nonzero value. -/
def Dy.flog2 (x : Dy) : Int := (Nat.log2 x.m.natAbs : Int) + x.e

/-- Ceiling of a value, as an integer. -/
def Dy.ceil (x : Dy) : Int :=
  if 0 ≤ x.e then x.m * (2 ^ x.e.toNat : Nat) else -((-x.m) / (2 ^ (-x.e).toNat : Nat))

/-- Round a value to a binary float of `mb` mantissa bits and the given bias, as if the exponent had no upper limit
(R55, R56): the magnitude code, whose exponent field may exceed the format's. Carries run into the exponent. -/
def magCode (mb bias : Nat) (x : Dy) : Nat :=
  if x.m == 0 then 0 else
  let q := max (x.flog2 - mb) (1 - (bias : Int) - mb)
  let s := (x.abs.units q).1.toNat
  ((q + mb + bias - 1).toNat) * 2 ^ mb + s

/-! ### Element formats (R36) -/

/-- The array operand formats of R36, in code order. -/
inductive Fmt where
  | mxE4M3 | mxE5M2 | mxE3M2 | mxE2M3 | mxE2M1 | mxInt8 | fpE4M3 | fpE5M2 | int8 | int4 | bf16
deriving DecidableEq, Repr

/-- Format of a 4-bit code; 0xB to 0xF are reserved (R36). -/
def Fmt.ofCode : Nat → Option Fmt
  | 0 => some .mxE4M3 | 1 => some .mxE5M2 | 2 => some .mxE3M2 | 3 => some .mxE2M3 | 4 => some .mxE2M1
  | 5 => some .mxInt8 | 6 => some .fpE4M3 | 7 => some .fpE5M2 | 8 => some .int8 | 9 => some .int4
  | 10 => some .bf16 | _ => none

/-- The code of a format (R36). -/
def Fmt.code : Fmt → Nat
  | .mxE4M3 => 0 | .mxE5M2 => 1 | .mxE3M2 => 2 | .mxE2M3 => 3 | .mxE2M1 => 4 | .mxInt8 => 5
  | .fpE4M3 => 6 | .fpE5M2 => 7 | .int8 => 8 | .int4 => 9 | .bf16 => 10

/-- Bits of one element (R36). -/
def Fmt.bits : Fmt → Nat
  | .mxE3M2 | .mxE2M3 => 6
  | .mxE2M1 | .int4 => 4
  | .bf16 => 16
  | _ => 8

/-- An exact element value, or a special one. -/
inductive EVal where
  | nan
  | inf (neg : Bool)
  | fin (x : Dy)
deriving DecidableEq, Repr

/-- A finite binary-float element of `eb` exponent and `mb` mantissa bits. -/
def floatElem (eb mb bias : Nat) (c : Nat) : Dy :=
  let s := bitAt c (eb + mb)
  let ex := bitsAt c mb eb
  let mn := bitsAt c 0 mb
  let sig : Int := if ex == 0 then mn else mn + 2 ^ mb
  ⟨if s then -sig else sig, (max ex 1 : Nat) - (bias : Int) - mb⟩

/-- The value of an element code before its block scale (R36 and the table of special encodings). -/
def Fmt.elem (f : Fmt) (c : Nat) : EVal :=
  match f with
  | .mxE4M3 | .fpE4M3 => if c % 128 == 127 then .nan else .fin (floatElem 4 3 7 c)
  | .mxE5M2 | .fpE5M2 =>
    if c % 128 == 124 then .inf (bitAt c 7) else if c % 128 > 124 then .nan else .fin (floatElem 5 2 15 c)
  | .mxE3M2 => .fin (floatElem 3 2 3 c)
  | .mxE2M3 => .fin (floatElem 2 3 1 c)
  | .mxE2M1 => .fin (floatElem 2 1 1 c)
  | .mxInt8 => .fin ⟨sext 8 c, -6⟩
  | .int8 => .fin ⟨sext 8 c, 0⟩
  | .int4 => .fin ⟨sext 4 c, 0⟩
  | .bf16 =>
    if bitsAt c 7 8 == 255 then (if c % 128 == 0 then .inf (bitAt c 15) else .nan)
    else .fin (floatElem 8 7 127 c)

/-- A decoded block scale: significand and exponent, or NaN (R37, R38, R40). -/
inductive Scale where
  | nan
  | fin (sig : Nat) (e : Int)
deriving DecidableEq, Repr

/-- The block scale a byte stands for in a format (R37–R40). -/
def Fmt.scale (f : Fmt) (x : Nat) : Scale :=
  match f with
  | .int8 | .int4 =>
    if x % 256 ≥ 127 then .nan
    else
      let ex := bitsAt x 3 4
      .fin (if ex == 0 then x % 8 else 8 + x % 8) ((max ex 1 : Nat) - 10)
  | .bf16 => .fin 1 ((x % 256 : Nat) - 127)
  | _ => if x % 256 == 255 then .nan else .fin 1 ((x % 256 : Nat) - 127)

/-- The exponent a scale brings to the prescan's maxima; none for NaN (R45). -/
def Scale.exp? : Scale → Option Int
  | .nan => none
  | .fin _ e => some e

/-- B of the term-bounds table (R43). -/
def Fmt.boundB : Fmt → Int
  | .mxE4M3 | .fpE4M3 => 9
  | .mxE5M2 | .fpE5M2 => 16
  | .mxE3M2 => 5
  | .mxE2M3 => 3
  | .mxE2M1 => 3
  | .mxInt8 => 2
  | .int8 => 12
  | .int4 => 8
  | .bf16 => 1

/-- lsb of the term-bounds table; wide mode has none (R43). -/
def Fmt.lsb : Fmt → Option Int
  | .mxE4M3 | .fpE4M3 => some (-9)
  | .mxE5M2 | .fpE5M2 => some (-16)
  | .mxE3M2 => some (-4)
  | .mxE2M3 => some (-3)
  | .mxE2M1 => some (-1)
  | .mxInt8 => some (-6)
  | .int8 | .int4 => some 0
  | .bf16 => none

/-- The pairs a product may name (R41). -/
def Fmt.pairOk (a b : Fmt) : Bool := (a == .bf16) == (b == .bf16)

/-- The block grid exponent of a pair (R44). -/
def gridExp (a b : Fmt) : Int :=
  let w := a.boundB + b.boundB + 5 - 47
  match a.lsb, b.lsb with
  | some x, some y => max (x + y) w
  | _, _ => w

/-- Array modes of R65. -/
inductive ArrMode where
  | narrow | dense | wide
deriving DecidableEq, Repr

/-- The mode an operand pair selects (R65). -/
def arrMode (a b : Fmt) : ArrMode :=
  if a == .bf16 then .wide
  else if (a == .mxE2M1 || a == .int4) && (b == .mxE2M1 || b == .int4) then .dense else .narrow

/-- A-cycles per row per block in a mode (R65, R183's c). -/
def ArrMode.cycles : ArrMode → Nat
  | .narrow => 2 | .dense => 1 | .wide => 8

/-! ### Accumulator states (R48–R51) -/

/-- The state of an accumulator element (R51). -/
inductive AState where
  | fin (v : Int)
  | pos
  | neg
  | nan
deriving DecidableEq, Repr

/-- Reading an element by the encodings recognised (R51). -/
def AState.ofAcc (x : Acc) : AState :=
  if x = 0x80000000000000000000000000000000#128 then .nan
  else match x.getLsbD 127, x.getLsbD 126 with
    | false, true => .pos
    | true, false => .neg
    | _, _ => .fin x.toInt

/-- Writing an element by the encodings the device writes (R51). -/
def AState.toAcc : AState → Acc
  | .fin v => BitVec.ofInt 128 v
  | .pos => 0x40000000000000000000000000000000#128
  | .neg => 0xBFFFFFFFFFFFFFFFFFFFFFFFFFFFFFFF#128
  | .nan => 0x80000000000000000000000000000000#128

/-- Addition of states (R51); a finite sum outside [-2^126, 2^126) saturates (R50). True: SATURATED is set. -/
def AState.add : AState → AState → AState × Bool
  | .nan, _ => (.nan, false)
  | _, .nan => (.nan, false)
  | .pos, .neg => (.nan, false)
  | .neg, .pos => (.nan, false)
  | .pos, _ => (.pos, false)
  | _, .pos => (.pos, false)
  | .neg, _ => (.neg, false)
  | _, .neg => (.neg, false)
  | .fin a, .fin b =>
    let v := a + b
    if v < -(2 ^ 126 : Nat) then (.neg, true)
    else if (2 ^ 126 : Nat) ≤ v then (.pos, true)
    else (.fin v, false)

/-- Placing a block partial of exponent e onto an element of window w (R49); true: INEXACT. -/
def place (p e w : Int) : Int × Bool := (⟨p, e⟩ : Dy).units (w - 112)

/-- SHIFT of one element by d (R74); true: INEXACT. -/
def AState.shift (a : AState) (d : Nat) : AState × Bool :=
  match a with
  | .fin v => let (q, r) := rneShift v d; (.fin q, r)
  | s => (s, false)

/-! ### Block partials (R42–R44, R52) -/

/-- A block partial: a state in units of 2^g relative to the combined scale, its exponent, and its flags. -/
structure Partial where
  st : AState
  e : Int
  inexact : Bool
  saturated : Bool
deriving DecidableEq, Repr

/-- The sum of a block's exact products in units of 2^g, with the special states of R52. -/
def sumTerms (g : Int) (ts : List (EVal × EVal)) : AState × Bool :=
  let isNan := ts.any fun t => match t with
    | (.nan, _) | (_, .nan) => true
    | (.inf _, .fin y) => y.m == 0
    | (.fin x, .inf _) => x.m == 0
    | _ => false
  let sign (t : EVal × EVal) : Option Bool := match t with
    | (.inf a, .inf b) => some (a != b)
    | (.inf a, .fin y) => some (a != decide (y.m < 0))
    | (.fin x, .inf b) => some (decide (x.m < 0) != b)
    | _ => none
  let hasPos := ts.any fun t => sign t == some false
  let hasNeg := ts.any fun t => sign t == some true
  if isNan || (hasPos && hasNeg) then (.nan, false)
  else if hasPos then (.pos, false)
  else if hasNeg then (.neg, false)
  else
    let s := ts.foldl (fun acc t => match t with
      | (.fin x, .fin y) => acc.add (x.mul y)
      | _ => acc) (⟨0, 0⟩ : Dy)
    let (q, r) := s.units g
    (.fin q, r)

/-- An element joined with its scale's significand, relative to the block's scale exponent (R43). -/
def Fmt.term (f : Fmt) (sig : Nat) (se : Int) (c : Nat) : EVal :=
  match f.elem c with
  | .fin x => match f with
    | .bf16 => .fin (x.shl (-se))
    | _ => .fin ⟨x.m * sig, x.e⟩
  | v => v

/-- Whether R40 makes a wide-mode block NaN: an element whose max(E, 1) exceeds the block's byte. -/
def Fmt.blockNan (f : Fmt) (byte : Nat) (cs : List Nat) : Bool :=
  match f with
  | .bf16 => cs.any fun c => decide (byte % 256 < max (bitsAt c 7 8) 1)
  | _ => false

/-- The block partial of 32 element pairs and two scale bytes (R44, R52). -/
def blockPartial (fa fb : Fmt) (sa sb : Nat) (as bs : List Nat) : Partial :=
  let g := gridExp fa fb
  match fa.scale sa, fb.scale sb with
  | .fin ga ea, .fin gb eb =>
    if fa.blockNan sa as || fb.blockNan sb bs then ⟨.nan, g, false, false⟩
    else
      let (st, r) := sumTerms g ((as.map (fa.term ga ea)).zip (bs.map (fb.term gb eb)))
      ⟨st, g + ea + eb, r, st == .pos || st == .neg⟩
  | _, _ => ⟨.nan, g, false, false⟩

/-- One accumulator element with its two sticky flags, after a block partial is placed (R49, R51, R73). -/
def placeInto (set : Bool) (old : Acc) (p : Partial) (w : Int) : Acc × Bool × Bool :=
  let (st, r) := match p.st with
    | .fin v => let (q, r) := place v p.e w; (AState.fin q, r)
    | s => (s, false)
  let (sum, s) := if set then (st, false) else AState.add (AState.ofAcc old) st
  (sum.toAcc, p.inexact || r, p.saturated || s)

/-- Column or row maximum of scale exponents, 0 when every block's scale is NaN (R45). -/
def maxExp (es : List (Option Int)) : Int :=
  match es.filterMap id with
  | [] => 0
  | e :: r => r.foldl max e

/-- h of R45 for a reduction of nb blocks. -/
def windowH (nb : Nat) : Nat := if nb ≤ 16384 then 0 else if nb ≤ 32768 then 1 else 2

/-! ### Conversions (R55–R59) -/

/-- A source value of a conversion. -/
inductive Src where
  | nan
  | sat (neg : Bool)
  | fin (x : Dy)
deriving DecidableEq, Repr

/-- The exact source value of an accumulator element of window w (R48). -/
def accSrc (w : Int) (x : Acc) : Src :=
  match AState.ofAcc x with
  | .fin v => .fin ⟨v, w - 112⟩
  | .pos => .sat false
  | .neg => .sat true
  | .nan => .nan

/-- Float storage formats of ACC READ and VCVT (R119). -/
inductive SFmt where
  | fp32 | bf16 | e4m3 | e5m2
deriving DecidableEq, Repr

/-- OFMT codes of R119. -/
def SFmt.ofCode : Nat → Option SFmt
  | 0 => some .fp32 | 1 => some .bf16 | 2 => some .e4m3 | 3 => some .e5m2 | _ => none

/-- Mantissa bits, bias, largest finite code, canonical NaN, sign bit (R56's table). -/
def SFmt.params : SFmt → Nat × Nat × Nat × Nat × Nat
  | .fp32 => (23, 127, 0x7F7FFFFF, 0x7FC00000, 2 ^ 31)
  | .bf16 => (7, 127, 0x7F7F, 0x7FC0, 2 ^ 15)
  | .e4m3 => (3, 7, 0x7E, 0x7F, 2 ^ 7)
  | .e5m2 => (2, 15, 0x7B, 0x7E, 2 ^ 7)

/-- Conversion to a float storage format: the code, and whether SATURATED is set (R55–R57). A nonzero value that rounds to zero keeps
its sign (log 172). -/
def convert (f : SFmt) (v : Src) : Nat × Bool :=
  let (mb, bias, top, nan, sgn) := f.params
  match v with
  | .nan => (nan, false)
  | .sat neg => (top + (if neg then sgn else 0), true)
  | .fin x =>
    if x.m == 0 then (0, false) else
    let c := magCode mb bias x
    let s := if x.m < 0 then sgn else 0
    if top < c then (top + s, true) else (c + s, false)

/-- The result of quantising one block: its scale byte, its element codes, and SATURATED. -/
structure QBlock where
  scale : Nat
  elems : List Nat
  saturated : Bool
deriving DecidableEq, Repr

/-- Step 1 of R58: a saturated value becomes the signed largest finite FP32 value. -/
def qFinite : Src → Option Dy
  | .nan => none
  | .sat neg => some ⟨(if neg then -1 else 1) * (2 ^ 24 - 1), 104⟩
  | .fin x => some x

/-- e_max of R58. -/
def Fmt.eMax : Fmt → Int
  | .mxE4M3 | .fpE4M3 => 8
  | .mxE5M2 | .fpE5M2 => 15
  | .mxE3M2 => 4
  | .mxE2M3 => 2
  | .mxE2M1 => 2
  | _ => 0

/-- One element code of an MX format from its scaled exact value, clamped without a flag (R58 step 6). -/
def Fmt.encode (f : Fmt) (x : Dy) : Nat :=
  let fl (mb bias top sgn : Nat) : Nat :=
    if x.m == 0 then 0 else min (magCode mb bias x) top + (if x.m < 0 then sgn else 0)
  match f with
  | .mxE4M3 | .fpE4M3 => fl 3 7 0x7E 128
  | .mxE5M2 | .fpE5M2 => fl 2 15 0x7B 128
  | .mxE3M2 => fl 2 3 0x1F 32
  | .mxE2M3 => fl 3 1 0x1F 32
  | .mxE2M1 => fl 1 1 0x7 8
  | .bf16 => fl 7 127 0x7F7F 32768
  | .mxInt8 => ofInt 8 (max (-127) (min 127 (x.units (-6)).1))
  | .int8 => ofInt 8 (max (-127) (min 127 (x.units 0).1))
  | .int4 => ofInt 4 (max (-7) (min 7 (x.units 0).1))

/-- The largest magnitude of a list of exact values. -/
def maxMag (xs : List Dy) : Dy := xs.foldl (fun a x => if a.lt x.abs then x.abs else a) ⟨0, 0⟩

/-- Quantisation of a block to an MX format (R58). -/
def quantMX (f : Fmt) (vs : List Src) : QBlock :=
  let sat := vs.any fun v => match v with | .sat _ => true | _ => false
  if vs.any (· == .nan) then ⟨0xFF, vs.map fun _ => 0, sat⟩
  else
    let xs := vs.filterMap qFinite
    let m := maxMag xs
    if m.m == 0 then ⟨0, vs.map fun _ => 0, sat⟩
    else
      let x := max (-127) (min 127 (m.flog2 - f.eMax))
      ⟨(x + 127).toNat, xs.map fun v => f.encode (v.shl (-x)), sat⟩

/-- The smallest E4M3 code from `c` on, at most 0x7E, whose value times qmax is at or above m (R59 step 3). -/
def scaleSearch (qmax : Int) (m : Dy) : Nat → Nat → Option Nat
  | _, 0 => none
  | c, n + 1 =>
    if ((floatElem 4 3 7 c).mul ⟨qmax, 0⟩).lt m then scaleSearch qmax m (c + 1) n else some c

/-- Quantisation of a block to INT8 or INT4 with an E4M3 scale (R59). -/
def quantInt (qmax : Int) (bits : Nat) (vs : List Src) : QBlock :=
  let sat := vs.any fun v => match v with | .sat _ => true | _ => false
  if vs.any (· == .nan) then ⟨0x7F, vs.map fun _ => 0, sat⟩
  else
    let xs := vs.filterMap qFinite
    let m := maxMag xs
    if m.m == 0 then ⟨0, vs.map fun _ => 0, sat⟩
    else
      let (c, above) := match scaleSearch qmax m 1 126 with
        | some c => (c, false)
        | none => (0x7E, true)
      let s := floatElem 4 3 7 c
      -- v / (s.m × 2^s.e), rounded once to an integer
      let el (v : Dy) : Nat :=
        let k := v.e - s.e
        let q := if 0 ≤ k then (rneDiv (v.m * (2 ^ k.toNat : Nat)) s.m.toNat).1
          else (rneDiv v.m (s.m.toNat * 2 ^ (-k).toNat)).1
        ofInt bits (max (-qmax) (min qmax q))
      ⟨c, xs.map el, sat || above⟩

/-- Quantisation to any block-scaled storage format of R171 or VQUANT. -/
def quantise (f : Fmt) (vs : List Src) : QBlock :=
  match f with
  | .int8 => quantInt 127 8 vs
  | .int4 => quantInt 7 4 vs
  | f => quantMX f vs

/-- The exact block exponent byte of 32 BF16 codes (R40). -/
def bf16Exp (cs : List Nat) : Nat := cs.foldl (fun a c => max a (max (bitsAt c 7 8) 1)) 1

/-- The value of a block-scaled element, decoded exactly (R202). -/
def Fmt.value (f : Fmt) (scale c : Nat) : EVal :=
  match f, f.scale scale with
  | .bf16, _ => f.elem c
  | _, .nan => .nan
  | _, .fin sig e => match f.elem c with
    | .fin x => .fin ⟨x.m * sig, x.e + e⟩
    | v => v

end Sys2Proof.Machine
end

