-- ==== Sys2Proof/Machine/NibTypes.lean ====
section
/-!
DEFINITION. The state of one nib (spec 03–07): states, script slots, handles, tallies, tags, stores, registers,
the running script's counters and holds.
-/
namespace Sys2Proof.Machine

/-- Nib states (R103), in code order. -/
inductive NibSt where
  | disabled | fenced | idle | loading | armed | running | faulted
deriving DecidableEq, Repr

/-- Code of a nib state (R103). -/
def NibSt.code : NibSt → Nat
  | .disabled => 0 | .fenced => 1 | .idle => 2 | .loading => 3 | .armed => 4 | .running => 5 | .faulted => 6

/-- Script slot states (NIB.SLOT.SLOT_STATE, R106). -/
inductive SlotSt where
  | empty | loading | armed
deriving DecidableEq, Repr

/-- Code of SLOT_STATE. -/
def SlotSt.code : SlotSt → Nat
  | .empty => 0 | .loading => 1 | .armed => 2

/-- What a nib reports of a load (R502). -/
inductive LoadRep where
  | none | ready | gaps | digestBad
deriving DecidableEq, Repr

/-- A script slot descriptor (R106) with the load's arrival bitmap and expected digest (R501, R502). -/
structure SlotDesc where
  start : Nat := 0
  length : Nat := 0
  segBase : Nat := 0
  segSize : Nat := 0
  st : SlotSt := .empty
  cl : Nat := 0
  bitmap : Nat := 0
  segs : Nat := 0
  digest : List Byte := []
  report : LoadRep := .none
  holdOn : List Nat := []           -- normalisation sites whose hold form the loader enabled (R220)
  foldOn : List Nat := []           -- and whose fold form it enabled
  lastSeg : Nat := 0
deriving DecidableEq, Repr

/-- A handle entry (R106). -/
structure Handle where
  offset : Nat := 0
  length : Nat := 0
  valid : Bool := false
  scriptWrite : Bool := false
  asyncWrite : Bool := false
  asyncRead : Bool := false
deriving DecidableEq, Repr

/-- A tally: the visible COUNT, the increments that fell in the current A-cycle, the rows that landed in it and count in
the next (R87, R90), and WAITING (R106). -/
structure Tally where
  count : Nat := 0
  fresh : Nat := 0
  inc : Nat := 0
  waiting : Bool := false
deriving DecidableEq, Repr

/-- A tile slot tag (R72). -/
structure Tag where
  rowExp : SMap Int := []
  colExp : SMap Int := []
  wconst : Nat := 0
  inexact : SMap Bool := []
  saturated : SMap Bool := []
  zero : Bool := true
  owner : Nat := 0
deriving DecidableEq, Repr

/-- A weight set in an array: its format, 16 scale bytes, and 16 columns of 32 element codes (R64, R116). -/
structure WSet where
  fmt : Fmt
  scales : List Nat
  cols : List (List Nat)
deriving DecidableEq, Repr

/-- A shape register (R160). -/
structure Shape where
  m : Nat := 0
  n : Nat := 0
  k : Nat := 0
  nb : Nat := 0
  ascale : Nat := 0
  bscale : Nat := 0
  aux0 : Nat := 0
  aux1 : Nat := 0
deriving DecidableEq, Repr

/-- Field `f` of a shape register, by the field numbers of R160. -/
def Shape.field (s : Shape) : Nat → Nat
  | 0 => s.m | 1 => s.n | 2 => s.k | 3 => s.nb | 4 => s.ascale | 5 => s.bscale | 6 => s.aux0 | _ => s.aux1

/-- A running loop (R127, R135): its level, first body bundle, body length, planned and run-time counts, iteration. -/
structure LoopFrame where
  level : Nat
  start : Nat
  len : Nat
  count : Nat
  run : Nat
  iter : Nat
deriving DecidableEq, Repr

/-- What holds a nib's next bundle (R128, R88, R141, R144). -/
inductive Hold where
  | none
  | idle (upto : Nat)                                -- the next bundle issues in this A-cycle
  | wait (tally e limit t : Nat) (consume : Bool)    -- a WAIT issued in A-cycle t is pending
  | barrier (s limit : Nat) (release : Option Nat)   -- a barrier SYNC issued in A-cycle s; when it is released
  | ended                                            -- END has issued
deriving DecidableEq, Repr

/-- The phase a nib is in (R129). -/
structure PhaseSt where
  elastic : Bool := false
  start : Nat := 0
  len : Nat := 0
  closed : Bool := true
  kvq : List Nat := []              -- the H1 of each KVQ whose macro has issued since the last SYNC (R269)
deriving DecidableEq, Repr

/-- An attention partial's row once it has seen a visible key: r + h of R240, and its value ceilings (R239). -/
structure PRow where
  r : Int := 0
  v : List Int := []
deriving DecidableEq, Repr

/-- NIB.FAULT_ADDR's fields (R106). -/
structure FaultAddr where
  bank : Nat := 0
  row : Nat := 0
  tally : Nat := 0
  handle : Nat := 0
deriving DecidableEq, Repr

/-- A scheduled-port write that lands in a later A-cycle (R80, R149), with the row's flags (R53). -/
structure PendWrite where
  due : Nat
  row : Nat
  data : Row
  fl : Nat := 0
  mask : Nat := 0xFFFFFFFF                -- bytes the write brings; a scale byte joins its row (log 43)
  err : BitVec 288 := 0                   -- a scheduled-plane flit's error pattern (R151, R152)
  flit : Bool := false                    -- it comes from the scheduled plane
deriving DecidableEq, Repr

/-- Who asks for a bank's asynchronous port (R78): the mesh, reads out of the nib, the mover's gathers, the scrubber. -/
inductive PortUser where
  | mesh | out | gather | scrub
deriving DecidableEq, Repr

/-- Place of a port user in the round-robin order (R79, log 169). -/
def PortUser.turn : PortUser → Nat
  | .mesh => 0 | .out => 1 | .gather => 2 | .scrub => 3

/-- A row that waits for its bank's grant (R79, R87). -/
structure AsyncRow where
  row : Nat
  data : Row
  tally : Nat
  fl : Nat := 0
  by_ : PortUser := .mesh
  sent : Option (Nat × Nat) := none       -- the nib whose mover sent it and the target's handle (R159)
deriving DecidableEq, Repr

/-- A route entry (R114). -/
structure RouteEntry where
  nib : Nat := 0
  slot : Nat := 0
  handle : Nat := 0
  tally : Nat := 0
  async : Bool := false
deriving DecidableEq, Repr

/-- MATMUL's fields (R170), head and extension words. -/
structure Mat where
  ah : Nat := 0
  ash : Nat := 0
  bh : Nat := 0
  cmh : Nat := 0
  ch : Nat := 0
  csh : Nat := 0
  sreg : Nat := 0
  fa : Fmt := .mxE4M3
  fb : Fmt := .mxE4M3
  ofmt : Nat := 0
  tm : Nat := 16
  tn : Nat := 16
  tkb : Nat := 1
  arrays : Nat := 1
  base : Nat := 0
  korder : Bool := false
  slots : Nat := 1
  mp : Nat := 16
  np : Nat := 16
  kpb : Nat := 1
  m0 : Nat := 0                     -- in rows
  n0 : Nat := 0                     -- in columns
  pdh : Nat := 0
  edh : Nat := 0
  pro : Bool := false
  epi : Bool := false
  tg : Bool := false
  gtally : Nat := 0
  gspan : Nat := 1
  gcount : Nat := 0
  hmode : Nat := 0
  hroute : Nat := 0
  kmode : Nat := 0
  kroute : Nat := 0                 -- KROUTE, or RHANDLE
  src : Nat := 0                    -- SRC, or NSRC − 1
  k0b : Nat := 0
  knb : Nat := 1
deriving DecidableEq, Repr

/-- Where a MATMUL's sequencing is (R175, R183, R185): waiting for its gathers, in its prologue, at a visit's gate, at a visit's
start, or waiting for its last rows to land. -/
inductive MatPh where
  | gather | pro | gate | ready | drain
deriving DecidableEq, Repr

/-- A MATMUL's sequencing. -/
structure MatRun where
  mat : Mat
  order : List (Nat × Nat)          -- the tile grid in visiting order: (column, row)
  ph : MatPh := .ready
  v : Nat := 0                      -- the next visit
  vstart : Nat := 0                 -- the A-cycle it starts in, or is ready in; a prologue's first A-cycle
  row : Nat := 0                    -- a prologue's next row
  last : Nat := 0                   -- A-cycle in which its last row lands
deriving DecidableEq, Repr

/-- One visit (R173–R175): its tile (column, row), its buffer, its tile's position among the live tiles, its chunk, the A-cycle
it starts in and that of its first streamed row. -/
structure Visit where
  mat : Mat
  v : Nat
  x : Nat
  y : Nat
  u : Nat
  live : Nat
  ch : Nat
  vstart : Nat
  pstart : Nat
deriving DecidableEq, Repr

/-- A tile's readout (R175 step 3): the tile, its buffer, its position among the live tiles, the next slot row, the visit's end
from which its A-cycles count, the sender it combines (R193), and the row's values and flags so far. -/
structure ReadRun where
  mat : Mat
  x : Nat
  y : Nat
  u : Nat
  live : Nat
  base : Nat
  q : Nat := 0
  src : Nat := 0
  vals : List Src := []
  fl : Nat := 0
deriving DecidableEq, Repr

/-- A GATHER's fields (R102, R124): source and target handle, index list and its first index, tally, rows a group, groups. -/
structure Gath where
  src : Nat
  dst : Nat
  list : Nat
  tally : Nat
  group : Nat
  count : Nat
  index : Nat
deriving DecidableEq, Repr

/-- A stage entry of a prologue or epilogue (R204). -/
structure FuseStage where
  op : Nat
  bf16 : Bool
  h1 : Nat
  h2 : Nat
  sub : Nat
  param : Nat
  imm0 : Nat
  imm1 : Nat
  h3 : Nat
deriving DecidableEq, Repr

/-- What a row of output is written as, and through which epilogue (R168, R171, R200). -/
structure OutPlan where
  ofmt : Nat
  ch : Nat
  csh : Nat
  np : Nat
  epi : Bool
  edh : Nat
  sreg : Nat                        -- the macro's shape register; 8 for ATTEND, whose rows are token rows (R53)
  m0 : Nat                          -- token row of the macro's row 0
  n0 : Nat                          -- column of the product of the macro's column 0
  held : Bool                       -- FINISH: stage 0 is a held row, not a product
  sth : Nat := 0                    -- FINISH's row statistics (R195)
deriving DecidableEq, Repr

/-- An output row between its readout and its epilogue (R200): stage 0's values and the row's flags. -/
structure OutRow where
  plan : OutPlan
  m : Nat                           -- row, counted from the macro's first
  col : Nat                         -- column of the first value, counted from the macro's first
  live : Nat                        -- columns of the macro below N
  vals : List Src
  fl : Nat
  land : Nat
deriving DecidableEq, Repr

/-- FINISH's fields (R195). -/
structure Fin where
  hh : Nat := 0
  sth : Nat := 0
  ch : Nat := 0
  csh : Nat := 0
  sreg : Nat := 0
  ofmt : Nat := 0
  edh : Nat := 0
  epi : Bool := false
  mp : Nat := 16
  np : Nat := 16
deriving DecidableEq, Repr

/-- ATTEND's fields (R196). -/
structure Att where
  lh : Nat := 0
  adh : Nat := 0
  base : Nat := 0
  slots : Nat := 1
  arrays : Nat := 0
  sreg : Nat := 0
  lmax : Nat := 1
  tg : Bool := false
  gtally : Nat := 0
  gspan : Nat := 1
deriving DecidableEq, Repr

/-- A result on its way to its place (R107, R153). -/
inductive Landing where
  /-- lanes `lo` on of register `vd`, the low `bits` bits of each, with their flags -/
  | vreg (vd lo bits : Nat) (l : List Lane) (fl : Nat × Nat)
  /-- an array takes its shadow set (R67) -/
  | array (a : Nat) (ws : WSet)
  /-- a slot's window (R72) -/
  | window (slot : Nat) (fa fb : Fmt) (nb : Nat) (ra cb : List Int)
  | clear (slot : Nat)
  | shift (slot row d : Nat)
  | combine (slot row : Nat) (vs : List Acc) (fl : Nat)
  | place (slot row arr : Nat) (set : Bool) (ps : List Partial) (fl : Nat)
deriving DecidableEq, Repr

/-- Work a nib has issued that goes on in later A-cycles. Each acts next in the A-cycle `due`. -/
inductive Act where
  /-- a fault whose A-cycle has not come (R84, R154) -/
  | fault (due code unit : Nat) (addr : FaultAddr)
  /-- a fault of the bed whose A-cycle has not come (R84, R154) -/
  | bedFault (due code unit : Nat) (addr : FaultAddr)
  /-- a scrub's write-back of a corrected row (R85) -/
  | scrub (due row : Nat) (data : Row)
  /-- a result that lands at the end of its due A-cycle, and is usable from the next (R153) -/
  | result (due : Nat) (l : Landing)
  /-- FRONT: rows read so far into the shadow registers, scale row first, and the A-cycle in which the array takes them (R67,
  R69, R153) -/
  | front (due arr : Nat) (fmt : Fmt) (mode : ArrMode) (row : Nat) (got : List Row) (land : Nat)
  /-- PASS: the next streamed row, the scale row in use, and a wide block's first row (R117, R153) -/
  | pass (due arr : Nat) (fmt : Fmt) (mode : ArrMode) (ws : WSet) (row0 n0 sh rows slot : Nat) (set : Bool) (m : Nat) (sc : Row)
      (half : List Row)
  /-- PRESCAN: the next pair of blocks, and the row maxima so far (R118, R153) -/
  | prescan (due slot : Nat) (fa fb : Fmt) (ash aidx nb pair : Nat) (ra : List (Option Int)) (cb : List Int)
  /-- SEND_SCHED or SEND_ASYNC: the next flit, and an asynchronous packet's rows so far (R147, R153) -/
  | send (due : Nat) (r : RouteEntry) (row0 rows tindex flit : Nat) (got : List Row) (fl : Nat)
  /-- READ_RAW_SEND: the next slot row (R120, R153) -/
  | raw (due : Nat) (r : RouteEntry) (slot first count tindex k : Nat)
  /-- TRANSPOSE: the next row in, and the rows so far (R101, R153) -/
  | transpose (due bits src dst : Nat) (got : List Row) (fl : Nat)
  /-- GATHER: the next row of the next group, and the index row in use (R102) -/
  | gather (due : Nat) (x : Gath) (g j : Nat) (idx : Option Row)
  /-- a gathered row, read and on its way to the asynchronous port -/
  | gput (due row : Nat) (data : Row) (tally fl : Nat)
  /-- a MATMUL's sequencing -/
  | mat (due : Nat) (r : MatRun)
  /-- the prescan of a visit's tile (R175 step 1): reads done, column maxima, row maxima so far -/
  | scan (due : Nat) (r : Visit) (j : Nat) (cm : List (List Int)) (ra : List (Option Int))
  /-- a visit's fronts (R175 step 2): the next block -/
  | fronts (due : Nat) (r : Visit) (blk : Nat)
  /-- a visit's passes (R175 step 2): the next block and row, the scale row in use, and a wide block's first row -/
  | stream (due : Nat) (r : Visit) (blk row : Nat) (sc : Row) (half : List Row)
  /-- a tile's readout: its next slot row -/
  | readout (due : Nat) (r : ReadRun)
  /-- a tile's combines of one sender: its next slot row (R193) -/
  | comb (due : Nat) (r : ReadRun)
  /-- a tile whose combine waits for its gate tally (R193) -/
  | combGate (due : Nat) (r : ReadRun) (tally : Nat)
  | outRow (due : Nat) (r : OutRow)
  /-- FINISH: its next row (R195) -/
  | fin (due : Nat) (f : Fin) (x row last : Nat)
  /-- ATTEND: the next entry, whether its gate has opened, and the A-cycle it is ready in (R196, R197) -/
  | attend (due : Nat) (a : Att) (v : Nat) (started : Bool)
  /-- a SPAN entry's next reference tile (R239) -/
  | span (due : Nat) (a : Att) (v j : Nat)
deriving DecidableEq, Repr

/-- Whether work is a scrub's write-back: it belongs to no step (R85, R104). -/
def Act.scrubs : Act → Bool
  | .scrub .. => true
  | _ => false

/-- One nib (R64, R106). Handles are keyed 64·slot + handle, accumulator elements 256·slot + 16·row + column,
attention rows 512·(first slot) + row. -/
structure Nib where
  st : NibSt := .idle               -- before bring-up step 5 no nib answers (R490): see State.nibOn
  activeSlot : Nat := 0
  faultCode : Nat := 0
  faultUnit : Nat := 0
  faultBundle : Nat := 0
  faultCycle : Nat := 0
  faultAddr : FaultAddr := {}
  errCorr : Nat := 0
  errUncorr : Nat := 0
  asyncDrop : Nat := 0
  slots : SMap SlotDesc := []
  handles : SMap Handle := []
  tallies : SMap Tally := []
  tags : SMap Tag := []
  acc : SMap Acc := []
  accUpset : SMap (BitVec 288) := []      -- per codeword of two elements, keyed element/2
  pad : SMap Row := []
  padUpset : SMap (BitVec 288) := []
  script : SMap Row := []
  scriptUpset : SMap (BitVec 288) := []
  vregs : SMap (List Lane) := []
  vfl : SMap (Nat × Nat) := []            -- per register, the lanes with INEXACT and with SATURATED (R53)
  padFl : SMap Nat := []                  -- per scratchpad row, its flags: bit 0 INEXACT, bit 1 SATURATED (R53)
  rowFl : SMap Nat := []                  -- the step's flags of row m of shape register r's matrices, keyed 2^24·r + m (R53)
  arrays : SMap (Option WSet) := []
  shapes : SMap Shape := []
  loops : List LoopFrame := []            -- innermost first
  pc : Nat := 0
  issuedM : Bool := false
  issuedV : Bool := false
  issuedX : Bool := false
  issuedC : Bool := false
  hold : Hold := .none
  phase : PhaseSt := {}
  acts : List Act := []                   -- work under way, oldest first
  kvqDone : SMap Nat := []                -- by H1, the phases of the step that a SYNC has closed after a KVQ that writes it (R269)
  stopAt : Option Nat := none             -- the bundle after which a macro of an elastic phase holds the script (R159)
  prow : SMap (Option PRow) := []
  wq : List PendWrite := []
  abuf : List AsyncRow := []
  scrubPtr : SMap Nat := []
  forcedAt : SMap (Option Nat) := []      -- per bank, the A-cycle of its last forced scrub grant (R85)
  portAt : SMap (Option Nat) := []        -- per bank, the A-cycle of the asynchronous port's last access (R78)
  portTurn : SMap Nat := []               -- per bank, whose turn it was then (R79)
  rawFree : Nat := 0                      -- the A-cycle from which a macro's next raw row finds its router's entry free
  rawLand : Nat := 0                      -- the A-cycle in which the last of them lands (R159)
  uncorrFaults : Nat := 0                 -- own-store uncorrectable faults in the epoch (R505)
  loneBarrier : Nat := 0                  -- barrier expiries with this nib alone silent (R505)
  signalled : Bool := false               -- has signalled the bed barrier (R141)
  resetTo : Nat := 0                      -- a nib reset runs up to this A-cycle (R105)
deriving DecidableEq, Repr

/-- A packet of rows on the asynchronous plane (R96, R101). -/
structure AsyncPkt where
  bed : Nat                               -- bed it enters
  nib : Nat                               -- physical index of the target
  slot : Nat
  handle : Option Nat                     -- none: a window address
  index : Nat                             -- row index in the handle, or the scratchpad row for a window address
  tally : Nat
  rows : List Row
  fl : Nat := 0                           -- flags the rows carry (R53)
  reach : Nat := 0                        -- the first A-cycle it can be at its target's router (R18)
  err : BitVec 288 := 0                   -- its error pattern, in each codeword (R152)
deriving DecidableEq, Repr

/-- The unit an asynchronous packet comes from (R19, R25). -/
inductive MUnit where
  | nib (p : Nat) | dma (c : Nat) | port (n : Nat) | sampler (k : Nat) | scribe (k : Nat) | quill | sessions | prefixes | pcie
deriving DecidableEq, Repr

/-- The router a unit sends from: its own, or where it attaches at the edge (R19), numbered as nibs are (R17). -/
def MUnit.router : MUnit → Nat
  | .nib p => p
  | .dma c =>
    if c < 16 then 40 * (2 * c + 1)
    else if c < 32 then 40 * (2 * (c - 16) + 1) + 39
    else if c < 48 then 40 * 31 + 2 * (c - 32) + 4
    else 2 * (c - 48) + 4
  | .port n => if n < 12 then 40 * 31 + 3 * n + 2 else 3 * (n - 12) + 2
  | .sampler k => 40 * (8 * k + 4) + 39
  | .scribe k => if k < 16 then 40 * (2 * k) else 40 * (2 * (k - 16)) + 39
  | .quill => 40 * 16
  | .sessions => 40 * 2 + 39
  | .prefixes => 40 * 29 + 39
  | .pcie => 20

/-- How rows come to a nib: a packet already on the mesh, one a perimeter unit brings, or one a DMA channel reads for the running step:
`n` rows from row `row` of the image of a page of sequence `seq`'s captured list, sent as `pkt` names (R253, R276). -/
inductive Arrival where
  | inflight (k : Nat)
  | ext (from_ : MUnit) (pkt : AsyncPkt)
  | page (c b seq layer page row n : Nat) (pkt : AsyncPkt)
deriving DecidableEq, Repr

end Sys2Proof.Machine
end

