-- ==== Sys2Proof/Machine/HostTypes.lean ====
section
/-!
DEFINITION. The host side of a bed (spec 09, 11, 12): packets and what a fetch brings, queues, the hold area,
model packages and plans, loads, requests and steps.
-/
namespace Sys2Proof.Machine

/-- A fetched packet's identity, kept until its records are queued (R378, R381): the bed, the queue, the host's tag,
QUIET, the opcode, the session it names, and a number that rises with every fetch. -/
structure PktRef where
  bed : Nat := 0
  q : Nat := 0
  tag : Nat := 0
  quiet : Bool := false
  op : Nat := 0
  session : Nat := 0
  id : Nat := 0
deriving DecidableEq, Repr

/-- A script image of a package (R199, R501, R502): the logical nibs that take it, its bundles, the slot's segment
and handles, the SHAKE256 digest the load carries, and the rows the loader places in the segment. -/
structure Image where
  nibs : List Nat := []
  bundles : List Row := []
  segBase : Nat := 0
  segSize : Nat := 0
  handles : List (Nat × Handle) := []
  digest : List Byte := []
  pad : List (Nat × Row) := []      -- descriptors, weights and column maxima, by row of the segment (R167, R204, R226)
deriving DecidableEq, Repr

/-- A slot's shape plan (R162, R249, R251, R306): the maxima of M, N, K, AUX0 and AUX1 of each shape register, the
registers that hold token rows, the longest context, the bucket table, the cost table, the BSCALE of each register's weight
sets (R163) and the shape block's constant fields. -/
structure ShapePlan where
  maxima : List (List Nat) := []
  rowRegs : List Nat := []
  ctx : Nat := 0
  buckets : List Nat := []
  fixed : Nat := 0
  page : Nat := 0
  bscale : List (Nat × Nat) := []
  loops : List (Nat × Nat × Nat × Nat) := []   -- its LOOPs with FROM_SHAPE: register, field, LOG2DIV, COUNT (R135)
  base : List (List Nat) := []      -- the shape block's constant fields: 8 lists M N K NB ASCALE BSCALE AUX0 AUX1
deriving DecidableEq, Repr

/-- A plan of a package: a compiled variant for one bed digest (R508), with one entry per script slot it fills. -/
structure Variant where
  bedDigest : List Byte := []
  cl : Nat := 0
  slots : List (Nat × List Image × ShapePlan) := []
deriving DecidableEq, Repr

/-- A model package as the Iadric toolchain writes it, decoded: the spec gives its contents, not its byte format
(R370, R508, R263, R281). -/
structure Package where
  modelDigest : List Byte := []
  layers : Nat := 1
  hkv : Nat := 1
  dcode : Nat := 1
  kv4 : Bool := false
  vocab : Nat := 1
  maxLen : Nat := 1
  variants : List Variant := []
  fixedFold : List Nat := []        -- normalisation sites marked fixed-fold (R221)
  script : Bool := false            -- a script image for one slot (SCRIPT_LOAD)
deriving DecidableEq, Repr

/-- A packet that passed the checks of R366, or is about to: the header fields of R365, the inline payload, the
indirect data, and the timebase value of the fetch (R310). -/
structure Pkt where
  ref : PktRef := {}
  fence : Bool := false
  cl : Nat := 0
  plen : Nat := 0
  session : Nat := 0
  daddr : Nat := 0
  dbytes : Nat := 0
  dspace : Nat := 0
  a0 : Nat := 0
  a1 : Nat := 0
  a2 : Nat := 0
  a3 : Nat := 0
  payload : List Byte := []
  data : List Byte := []
  pkg : Option Package := none   -- the package at DADDR, decoded
  time : Nat := 0
  ring : List (List Byte) := []     -- headers in host memory of the ring a QUEUE_DELETE names
deriving DecidableEq, Repr

/-- A submission queue and its completion queue (R356, R357, R359, R402). -/
structure Queue where
  sqBase : Nat := 0
  sqSlots : Nat := 64
  sqHbm : Bool := false
  weight : Nat := 1
  head : Nat := 0
  tail : Nat := 0
  cqBase : Nat := 0
  cqSize : Nat := 64
  cqHbm : Bool := false
  vector : Nat := 0
  cqHead : Nat := 0              -- first record the host has not freed
  cqTail : Nat := 0              -- next record the device writes
  phase : Bool := true           -- PHASE of the current pass
  stopped : Bool := false        -- a header slot could not be read (R388)
  deleting : Option PktRef := none
  discarded : Nat := 0           -- unfetched packets a delete discarded (R370)
  gone : Bool := false           -- removed while it keeps its place for records of fetched packets
  count : Nat := 0               -- records since the last message (R402)
  since : Option Nat := none     -- timebase value of the first unannounced record
  unsent : Bool := false         -- a message is due but the function may send none (R389, R403)
  taken : Option Pkt := none     -- the packet the checks have passed, not yet acted on
  fenced : Bool := false         -- a FENCE packet at the head waits for the queue's earlier packets (R381)
  hostWait : Bool := false       -- the packet at the head waits for host memory that D3hot shuts (R389)
deriving DecidableEq, Repr

/-- A record in the hold area (R360). -/
structure HeldRec where
  q : Nat
  body : Rec
  quiet : Bool
deriving DecidableEq, Repr

/-- A model loaded in a bed under a handle: its facts and the slots armed for it with their plans. -/
structure Model where
  pkg : Package := {}
  slots : List (Nat × ShapePlan) := []
  cl : Nat := 0
deriving DecidableEq, Repr

/-- A load in progress (R501–R504). -/
structure Load where
  ref : Option PktRef               -- none: a reload the firmware starts (R508)
  fn : Nat := 0
  handle : Nat := 0
  model : Model := {}
  images : List (Nat × Image) := [] -- (slot, image)
  first : Nat := 0                  -- timebase value when the first segment was sent
  lastSent : Nat := 0               -- timebase value when the last segment of the round was sent
  rounds : Nat := 0
  digest : List Byte := []          -- BED_DIGEST the load started against
  reply : Nat := 0
  replyLen : Nat := 0
  replySpace : Nat := 0
  ready : Bool := false             -- every nib has reported READY; arms at the bed's next seal
deriving DecidableEq, Repr

/-- What a fetch brings besides the ring: the host's memory is outside the package, so its contents come with the
command. `none` is a poisoned or failed completion (R388). -/
structure FetchIn where
  header : Option (List Byte) := none
  payload : Option (List Byte) := some []
  data : Option (List Byte) := some []
  replyOk : Bool := true
  ring : List (List Byte) := []     -- headers of the unfetched packets of the ring a QUEUE_DELETE names
  pkg : Option Package := none
deriving DecidableEq, Repr

/-- Where a page writer finds records (R268, R269): a nib's H1 and H2 of one KVQ stage, the step's token row of its
row 0, its rows, its first key or value column of the projection and its columns. -/
structure RecordSrc where
  nib : Nat
  slot : Nat := 0
  h1 : Nat
  h2 : Nat
  value : Bool := false
  m0 : Nat := 0
  rows : Nat := 16
  col0 : Nat := 0
  cols : Nat := 32
deriving DecidableEq, Repr

/-- A page writer's program (R269): its record sources, and where it writes its release row and on which tally. -/
structure WriterProg where
  srcs : List RecordSrc := []
  release : List (Nat × Nat × Nat × Nat × Nat) := []   -- (nib, slot, handle, index, tally)
deriving DecidableEq, Repr

/-- Sampling parameters of a request (R318), with its bias entries. -/
structure Sampling where
  seed : Nat := 0
  temp : Nat := 0
  topp : Nat := 0x3F800000
  minp : Nat := 0
  topk : Nat := 0
  bias : List (Nat × Nat) := []
deriving DecidableEq, Repr

/-- An export target block (R323), decoded. -/
structure Target where
  kind : Nat := 0
  eweid : Bool := false
  keep : Bool := false
  port : Nat := 0
  firstPage : Nat := 0
  remote : Nat := 0
  peer : Nat := 0
  udpPort : Nat := 0
  destIp : List Byte := []
  destMac : List Byte := []
  hostAddr : Nat := 0
  nslots : Nat := 0
deriving DecidableEq, Repr

/-- Kinds of request in flight (R297, R343, R348). -/
inductive ReqKind where
  | prefill | admission | decode | kvImport
deriving DecidableEq, Repr

/-- A request in flight (R297, R304–R316). Its session entry holds what R295 places there. -/
structure Req where
  ref : PktRef := {}
  kind : ReqKind := .prefill
  index : Nat := 0                  -- session INDEX
  order : Nat := 0                  -- order of admission (R309)
  tokens : List Nat := []
  new : Nat := 0                    -- new tokens asked for
  matched : Nat := 0                -- tokens the prefix index matched
  done : Nat := 0                   -- tokens whose computation a seal has committed
  charged : Nat := 0
  gen : Nat := 0                    -- DECODE: tokens written
  stop : Nat := 0xFFFFFFFF
  bulk : Bool := false
  retr : Bool := false
  stepped : Bool := false
  cost : Nat := 0
  pfx : Nat := 0
  segs : List Nat := []
  sampling : Sampling := {}
  target : Option Target := none
  stream : Option Nat := none
  chunked : Bool := false
  streamed : Bool := false
  prefetch : Bool := false          -- waits for its prefetch swap (R289)
  prefetchFailed : Bool := false
  frames : Nat := 0                 -- HBM frames reserved at stage 9
  inexact : Bool := false
  saturated : Bool := false
  outAddr : Nat := 0
  outSpace : Nat := 0
  lost : Bool := false              -- a token's write was dropped (R425)
  salt : Nat := 0
  closing : Option PktRef := none   -- a SESSION_CLOSE that waits for it (R299)
  savedHash : List Byte := []       -- LAST_HASH, LAST_ENTRY and the tail flags as of ADMIT_C
  savedEntry : Nat := 0x1FFFFF
  savedTail : List Nat := []
  savedInexact : Bool := false
  savedSaturated : Bool := false
  cancels : List PktRef := []       -- CANCELs that wait for it (R377)
  closeAfter : Bool := false        -- its session closes when it ends, as a shipped stream's end asks (R334)
deriving DecidableEq, Repr

/-- One sequence of a step (R248, R275, R315). -/
structure Seq where
  index : Nat := 0
  row0 : Nat := 0
  new : Nat := 0
  pos0 : Nat := 0
  retr : Bool := false
  bucket : Nat := 0
  pfx : Nat := 0                    -- length of its bidirectional prefix (R248)
  segs : List Nat := []             -- STARTs of its segments, ascending
  gen : Nat := 0                    -- captured generation
  addr : Nat := 0                   -- address of the list it was captured from
  list : List Byte := []            -- the captured copy
  cap : Nat := 0                    -- its capture area in the bed's arena (R275, R392)
  changed : Bool := false           -- the walk-end check found the live list changed (R276)
  layers : List Nat := []           -- layers whose page writer has finished
  taken : SMap Nat := []            -- its page writers so far that read handle h of nib p, keyed 64·p + h (R269)
  last : Bool := false              -- the request's final step
  token : Option (Option Nat) := none  -- the sampler's answer; some none is no candidate
  tokenAt : Nat := 0                -- A-cycle in which its sampler job ends (R317)
  inexact : List Nat := []          -- its new tokens whose rows carry the flag
  saturated : List Nat := []
deriving DecidableEq, Repr

/-- A step descriptor (R32, R375) and, once current, the running step. -/
structure Step where
  ref : Option PktRef := none       -- an expert STEP
  slot : Nat := 0
  handle : Nat := 0                 -- model handle
  bulk : Bool := false
  nrows : Nat := 0
  buckets : List Nat := []
  shapes : List Shape := []
  lists : List TileList := []
  seqs : List Seq := []
  at_ : Nat := 0                    -- A-cycle in which its descriptor was published (R33)
  lr : Nat := 0                     -- retrieval length in force when it was published (R420)
  start : Nat := 0                  -- A-cycle of the start
  startT : Nat := 0                 -- timebase value of the start
  doneAt : Option Nat := none       -- A-cycle in which the barrier reports completion, once every nib has ended (R144)
deriving DecidableEq, Repr

/-- Bed states (R398). -/
inductive BedSt where
  | absent | creating | ready | faulted | resetting | destroying
deriving DecidableEq, Repr

/-- Codes of the bed states (R398). -/
def BedSt.code : BedSt → Nat
  | .absent => 0 | .creating => 1 | .ready => 2 | .faulted => 3 | .resetting => 4 | .destroying => 5

/-- A tenant's record (R301). -/
structure Tenant where
  level : Int := 0
  last : Nat := 0
  rate : Nat := 0
  burst : Nat := 0
  held : Nat := 0
  valid : Bool := false
  unlimited : Bool := false
  salt : Nat := 0
deriving DecidableEq, Repr

/-- Message moderation of a completion queue (BED.CQ_MOD q, R402). -/
structure CqMod where
  count : Nat := 0
  time : Nat := 0
deriving DecidableEq, Repr

/-- A bed (R394–R414). Its staged registers are in the live register map. -/
structure Bed where
  st : BedSt := .absent
  faultCode : Nat := 0
  faultUnit : Nat := 0
  faultCycle : Nat := 0
  faultNib : Nat := 0
  faultBundle : Nat := 0
  x0 : Nat := 0
  y0 : Nat := 0
  w : Nat := 1
  h : Nat := 1
  fsize : Nat := 0
  ch : Nat := 256                   -- chunk length CH (R290)
  pw : Nat := 1                     -- prefetch window PW
  arenaBase : Nat := 0
  arenaSize : Nat := 0
  arena : List (Nat × Nat) := []    -- pieces of the arena in use: (address, bytes)
  win : Nat := 0
  intrEn : Bool := false
  sq0Base : Nat := 0
  cq0Base : Nat := 0
  q0cfg : Nat := 0x01000606
  cqMod : SMap CqMod := []
  queues : SMap (Option Queue) := []
  fetched : List PktRef := []         -- fetched packets that have not completed (R381)
  exporting : List PktRef := []       -- completed requests whose export record is due (R345)
  held : List HeldRec := []
  reserve : Nat := 0                -- hold-area records reserved at fetch (R361)
  stuck : Nat := 0                  -- the reserve a packet could not get, 0 where none waits for one (R361)
  fetchTurn : Nat × Nat := (0, 0)   -- the queue fetched from last, and its packets in a row (R382)
  models : SMap (Option Model) := []
  package : Option Package := none  -- package of the last successful MODEL_LOAD (R508)
  pkgHandle : Nat := 0
  armedDigest : List Byte := []
  loads : List Load := []
  tenants : SMap Tenant := []
  reqs : List Req := []
  next : Option Step := none
  step : Option Step := none
  sealed : Option Nat := none       -- A-cycle of its last seal (R32)
  interactive : Nat := 0            -- interactive steps built in a row while bulk work waited (R308)
  streams : Nat := 0                -- the stream counter (R322)
  orders : Nat := 0
  resetEnd : Option Nat := none     -- A-cycle in which a bed reset ends
  resetFlr : Bool := false          -- its queues go when it ends
  asked : Nat := 0                  -- a reset that waits for the seal of this A-cycle: 1 kept queues, 2 FLR, 3 destruction (R414)
  destroy : Option PktRef := none
  paused : Bool := false            -- paused by a handover (R535)
  afterFence : Bool := false        -- a nib was fenced since the last reset (R508)
deriving DecidableEq, Repr

end Sys2Proof.Machine
end

