-- ==== Sys2Proof/Machine/KvTypes.lean ====
section
/-!
DEFINITION. The key–value cache's tables (spec 08, 09): session entries, frame tables, the prefix index, and the
generations of page lists that still have readers.
-/
namespace Sys2Proof.Machine

/-- Session states (R296). -/
inductive SesSt where
  | free | idle | queued | running | closing
deriving DecidableEq, Repr

/-- Codes of the session states (R296). -/
def SesSt.code : SesSt → Nat
  | .free => 0 | .idle => 1 | .queued => 2 | .running => 3 | .closing => 4

/-- A session entry (R295), field by field. -/
structure Session where
  inc : Nat := 0                    -- INCARNATION of the session number
  st : SesSt := .free
  bed : Nat := 0
  tenant : Nat := 0
  model : Nat := 0
  noPrefix : Bool := false
  maxLen : Nat := 0
  c : Nat := 0
  listAddr : Nat := 0
  listGen : Nat := 0
  lastToken : Nat := 0xFFFFFFFF
  lastHash : List Byte := []        -- empty: none
  lastEntry : Nat := 0x1FFFFF
  tailInexact : Bool := false
  tailSaturated : Bool := false
  lastSeal : Nat := 0
  lastActive : Nat := 0
  idleLimit : Nat := 0
  reqTag : Nat := 0
  cancelSeen : Bool := false
  cancelAt : Nat := 0               -- A-cycle in which CANCEL_SEEN landed
  keepOnLate : Bool := false
  streamed : Bool := false
  mirror : Bool := false
  needsPrefill : Bool := false
  warm : Bool := false
  warmC : Nat := 0                  -- of a mirrored session: the length this device has committed (R516)
  deadline : Nat := 0
  held : Nat := 0
  admitC : Nat := 0
  priorC : Nat := 0
  chain : List Nat := []            -- prefix entries the session holds references on, block 0 first
  tail : List Nat := []             -- tokens of the incomplete last block, for its hash (R281)
  closeRef : Option PktRef := none  -- the SESSION_CLOSE under way (R299)
  eweid : Bool := false             -- admitted with Eweid-format export (R349)
  layers : Nat := 1                 -- L and FPP of its list, as the list's header has them (R273)
  fpp : Nat := 1
deriving DecidableEq, Repr

/-- Frame states (R272). -/
inductive FrameSt where
  | free | reserved | sealed | shared | copying | draining
deriving DecidableEq, Repr

/-- A frame table entry (R271). -/
structure Frame where
  addr : Nat := 0                   -- device address bits [47:16]
  size : Nat := 0
  st : FrameSt := .free
  bed : Nat := 0
  owner : Nat := 0
  pos : Nat := 0
deriving DecidableEq, Repr

/-- States of a prefix index slot (R283). -/
inductive PfxSt where
  | empty | valid | tombstone
deriving DecidableEq, Repr

/-- A prefix index entry (R283). -/
structure PfxEntry where
  hash : List Byte := []
  parent : Nat := 0x1FFFFF
  block : Nat := 0
  bed : Nat := 0
  st : PfxSt := .empty
  pinned : Bool := false
  inexact : Bool := false
  saturated : Bool := false
  refs : Nat := 0
  children : Nat := 0
  blist : List Nat := []            -- L·FPP entries in page-list entry form
  lastUse : Nat := 0
deriving DecidableEq, Repr

/-- A generation of a session's page list that is not current but still has readers (R277). -/
structure OldGen where
  index : Nat
  num : Nat                         -- session number it belonged to
  bed : Nat
  gen : Nat
  addr : Nat
  bytes : Nat
  drops : List (Nat × Nat)          -- (tier, frame) it named last, now DRAINING
  refs : List Nat                   -- prefix entries whose references drain with it
deriving DecidableEq, Repr

/-- A copy a firmware swap waits for: a spill or a prefetch of one page (R288, R289, R440). -/
structure PageCopy where
  index : Nat
  page : Nat
  toLp : Bool
  moves : List (Nat × Nat)          -- (entry index, target frame)
deriving DecidableEq, Repr

end Sys2Proof.Machine
end

