-- ==== Sys2Proof/Machine/LinkTypes.lean ====
section
/-!
DEFINITION. Links, shipping streams and the twin protocol (spec 10, 14, 17).
-/
namespace Sys2Proof.Machine

/-- Port states (LINK.STATE.STATE). -/
inductive PortSt where
  | down | training | up | retraining | failed
deriving DecidableEq, Repr

/-- Codes of the port states. -/
def PortSt.code : PortSt → Nat
  | .down => 0 | .training => 1 | .up => 2 | .retraining => 3 | .failed => 4

/-- LINK.STATE.CAUSE. -/
inductive PortCause where
  | none | noSignal | lanes | version | role | peerRestart | replayLimit
deriving DecidableEq, Repr

/-- Codes of the causes. -/
def PortCause.code : PortCause → Nat
  | .none => 0 | .noSignal => 1 | .lanes => 2 | .version => 3 | .role => 4 | .peerRestart => 5 | .replayLimit => 6

/-- A DATA frame as the sender keeps it (R449, R456): everything but the fields refreshed at each sending. -/
structure TxFrame where
  bed : Nat := 0                    -- the bed whose traffic it is (R406)
  seq : Nat := 0
  vc : Nat := 0
  som : Bool := false
  eom : Bool := false
  body : List Byte := []
deriving DecidableEq, Repr

/-- One virtual channel's counters and buffers at a port (R451–R453, R468). -/
structure Vc where
  credits : Nat := 0                -- frames the sender may still send
  crSeen : Nat := 0                 -- last CR value accepted from the peer
  crGiven : Nat := 0                -- running count of credits returned
  txq : List TxFrame := []          -- frames of messages waiting to be sent, numbered when they leave
  sending : Option Nat := none      -- the bed a message of which has left in part (R452)
  rxPart : List Byte := []          -- body bytes of the message being received
  rxFrames : Nat := 0               -- frames of that message, in the receive buffer
  rxOpen : Bool := false            -- a frame with SOM has come and its EOM has not
  rxq : List (Nat × List Byte) := []  -- whole messages in the buffer, with the frames each holds
deriving DecidableEq, Repr

/-- The peer's NEGOTIATE body (R458). -/
structure Nego where
  node : Nat := 0
  cl : Nat := 0
  clmin : Nat := 0
  role : Nat := 0
  lanes : Nat := 0
  epoch : Nat := 0
deriving DecidableEq, Repr

/-- A lane's sending side (R448). -/
structure PortLane where
  data : Nat := 0                   -- codewords of data since its last alignment codeword
  aligns : Nat := 0                 -- alignment codewords sent, modulo 2^32
deriving DecidableEq, Repr

/-- A link port (R446–R471). Its staged LINK registers are in the live register map. -/
structure Port where
  st : PortSt := .down
  cause : PortCause := .none
  active : Nat := 0                 -- mask of active lanes
  stream : Nat := 0                 -- codewords of the port's stream sent (R448)
  lanes : SMap PortLane := []           -- the lanes' alignment codewords (R448)
  working : Nat := 0                -- lanes that trained in the training under way
  level : Nat := 0
  peer : Nat := 0
  peerRole : Nat := 0
  errCorr : Nat := 0
  errUncorr : Nat := 0
  replay : Nat := 0
  rxDrop : Nat := 0
  txSeq : Nat := 0
  rxSeq : Nat := 0                  -- next SEQ expected
  replayBuf : List TxFrame := []    -- unacknowledged frames, oldest first
  progress : Nat := 0               -- timebase value of the last ACKSEQ progress, send or replay
  fruitless : Nat := 0              -- replays in a row without progress
  gap : Option Nat := none          -- timebase value of the last NAK sent for the gap that stands
  vc0 : Vc := {}
  vc1 : Vc := {}
  vc2 : Vc := {}
  turn : Bool := false              -- VC1's turn between VC0 and VC1 (R452)
  bedTurn : Nat × Nat := (0, 0)     -- the bed whose frame left last on VC0 or VC1, and its frames in its turn (R406)
  bedOver : SMap Nat := []          -- frames each bed has sent beyond its turns (R406)
  trainStart : Nat := 0
  trainLimit : Nat := 0             -- limit of the training or retraining under way, in T-ticks (R462, R465)
  wasUp : Bool := false             -- the training under way is a retraining of a port that was UP
  nego : Option Nego := none        -- the peer's body, once received
  negoAt : Nat := 0                 -- timebase value of the last NEGOTIATE sent
  peerEpoch : Option Nat := none    -- EPOCH held of the peer
  corrMs : Nat := 0                 -- millisecond of timebase in which corrections are being counted
  corrCount : Nat := 0
  everFailed : Bool := false        -- FAILED since it was last UP (R465)
  offer : Option (Nat × Nat) := none   -- a level switch the peer or the port named: (switch SEQ, level)
  ethRx : List (List Byte × List Byte) := []   -- accepted datagrams: (source address, UDP payload)
deriving DecidableEq, Repr

/-- How a stream travels (R336, R337, R355). -/
inductive Transport where
  | ruxel (port : Nat) | eth (port : Nat) | host
deriving DecidableEq, Repr

/-- What a sender message is, so that it can be built again (R332, R337). -/
inductive ActKind where
  | open_ | page (layer pg off len : Nat) (last : Bool) | layerDone (layer count : Nat)
  | commit (c token status flags layers : Nat) | abort (status admitC : Nat) | close
  | eweid (layer pg64 off len : Nat) (last : Bool)
deriving DecidableEq, Repr

/-- A sent, unacknowledged message of an Ethernet stream (R337). -/
structure SentMsg where
  seq : Nat
  batch : Nat
  kind : ActKind
  resends : Nat := 0
deriving DecidableEq, Repr

/-- One batch of a stream (R325, R328). -/
structure Batch where
  num : Nat := 0
  gen : Nat := 0                    -- list generation it reads through (R329)
  list : List Byte := []
  cap : Option (Nat × List Byte × Nat) := none  -- batch 0 of a request: its step's captured generation, from which page on
  items : List (Nat × Nat) := []    -- eligible (layer, page) items not yet sent, ascending
  sent : List (Nat × Nat) := []     -- pages sent per layer so far
  doneLayers : List Nat := []       -- layers whose LAYER_DONE has been sent
  openLayers : List Nat := []       -- layers whose page writer may still add items
  start : Nat := 0                  -- first position its step computes (R351)
  closed : Bool := false              -- its COMMIT or ABORT has been sent
  settle : Option ActKind := none   -- COMMIT or ABORT once the seal has fixed it
  stamp : Nat := 0                  -- timebase value of the seal, for Eweid pages
  c : Nat := 0                      -- committed length an Eweid page is cut at
deriving DecidableEq, Repr

/-- A stream this device sends (R322–R330, R337, R345). -/
structure TxStream where
  num : Nat := 0
  bed : Nat := 0
  index : Nat := 0                  -- session INDEX
  session : Nat := 0                -- session number on this device
  ref : Option PktRef := none       -- the packet whose export record ends it; none for twin mirroring
  target : Target := {}
  via : Transport := .host
  level : Nat := 0
  acked : Bool := false             -- OPEN_ACK has come
  seq : Nat := 0
  lowest : Nat := 0                 -- lowest SEQ not acknowledged
  unacked : List SentMsg := []
  nextBatch : Nat := 0
  batches : List Batch := []        -- unsettled batches, oldest first
  endAfter : Bool := false          -- the last batch has been opened; CLOSE follows its settlement
  closeSent : Bool := false
  pages : Nat := 0
  resent : Nat := 0
  lastC : Nat := 0
  progress : Nat := 0               -- timebase value of the last ACK progress or resend
  downSince : Option Nat := none
  failure : Option (Nat × Nat) := none   -- (status, DETAIL) the export record will carry
  udpPort : Nat := 0
  udpSrc : Nat := 0                 -- source UDP port: KVX.CONFIG.UDP_PORT at its OPEN (R338, R339)
  retryLimit : Nat := 8
  ackTimeout : Nat := 200
  holdLimit : Nat := 1000
  prod : Nat := 0                   -- Eweid host ring: pages written
  cons : Nat := 0                   -- slots returned
  fullSince : Option Nat := none
  warm : Bool := false              -- twin mirroring (R516)
  streamed : Bool := false          -- of a streamed request (R334)
  c0 : Nat := 0                     -- committed length when it opened
  finished : Bool := false
deriving DecidableEq, Repr

/-- A provisional batch of a received stream (R341): its chunks, as (layer, page, offset, bytes), the LAYER_DONE messages that have come,
and a COMMIT body that waits for the rest. -/
structure RxBatch where
  num : Nat := 0
  chunks : List (Nat × Nat × Nat × List Byte) := []
  layerDone : Nat := 0
  commit : Option (List Byte) := none
deriving DecidableEq, Repr

/-- A gap in a received stream's SEQ (R337): the first number missing, how many are, since when, and when NACK last named it. -/
structure SeqGap where
  first : Nat := 0
  count : Nat := 0
  since : Nat := 0
  nacked : Option Nat := none
deriving DecidableEq, Repr

/-- A stream this device receives (R340–R344). -/
structure RxStream where
  num : Nat := 0
  bed : Nat := 0
  index : Nat := 0
  via : Transport := .host
  src : List Byte := []             -- sender's MAC and IPv6 address, on Ethernet
  level : Nat := 0
  next : Nat := 0                   -- lowest SEQ not received
  ahead : List (Nat × List Byte) := []  -- messages beyond a gap
  maxSeen : Nat := 0
  batches : List RxBatch := []      -- provisional batches
  discarded : Bool := false         -- R342 discarded its batches
  lastMsg : Nat := 0
  unackedSince : Option Nat := none
  unackedCount : Nat := 0
  gaps : List SeqGap := []          -- gaps that stand, ascending
  frames : Nat := 0                 -- frames reserved for the stream
  mirror : Bool := false            -- pages of the twin's session (R516)
  hold : Nat := 1000                -- KVX.CONFIG.HOLD_LIMIT and UDP_PORT in force at its OPEN (R339)
  udp : Nat := 0xC0A8
deriving DecidableEq, Repr

/-- A session prepared by KV_IMPORT (R343, R344). -/
structure Import where
  index : Nat
  bed : Nat
  ref : PktRef
  transport : Nat
  port : Nat
  node : Nat
  ip : List Byte
  taken : Nat
  stream : Option Nat := none
deriving DecidableEq, Repr

/-- Twin states (TWIN.STATE.STATE). -/
inductive TwinSt where
  | alone | pairing | paired | degraded | suspect | solo | displaced
deriving DecidableEq, Repr

/-- Codes of the twin states. -/
def TwinSt.code : TwinSt → Nat
  | .alone => 0 | .pairing => 1 | .paired => 2 | .degraded => 3 | .suspect => 4 | .solo => 5 | .displaced => 6

/-- A delta record (R514). -/
inductive Delta where
  | session (index : Nat) (e : Session)
  | charge (bed tenant tokens : Nat)
  | held (bed tenant : Nat) (change : Int)
  | tenant (bed tenant : Nat) (t : Tenant)
  | pin (bed : Nat) (hashes : List (List Byte)) (pinned : Bool)
  | insert (bed : Nat) (hash : List Byte) (block : Nat)
deriving DecidableEq, Repr

/-- The HELLO message (R511, R512). -/
structure Hello where
  node : Nat := 0
  side : Bool := false
  cl : Nat := 0
  clmin : Nat := 0
  epoch : Nat := 0
  digests : List (List Byte) := []  -- model digest of each of the 32 beds; empty where the bed is not paired
  beds : Nat := 0
deriving DecidableEq, Repr

/-- What a twin message is (R511). -/
inductive TwinMsg where
  | hello (h : Hello) | beat (count update : Nat) | delta (recs : List (Nat × Delta)) | deltaAck (n : Nat)
  | log (bytes : List Byte) | syncBegin | syncEnd | taken
deriving DecidableEq, Repr

/-- The twin block (R510–R524). -/
structure Twin where
  st : TwinSt := .alone
  cause : Nat := 0
  refused : Bool := false
  level : Nat := 0
  peerUpdate : Nat := 0
  late : Nat := 0
  beat : Nat := 0
  peerBeat : Nat := 0
  beatAt : Nat := 0                 -- timebase value of the last BEAT sent
  linkAt : Nat := 0                 -- restart of the twin-link miss timer
  hostAt : Nat := 0                 -- restart of the host-path miss timer
  linkMiss : Nat := 0
  hostMiss : Nat := 0
  linkBeating : Bool := false
  hostBeating : Bool := false
  graceTo : Nat := 0                -- no miss counts up to this timebase value (R537)
  nextDelta : Nat := 0
  queue : List (Nat × Delta) := []  -- deltas not yet acknowledged, oldest first
  overflow : Bool := false
  applied : Nat := 0                -- delta numbers applied in order
  peerBeds : Nat := 0
  peerDigests : List (List Byte) := []
  hellod : Bool := false
  syncing : Bool := false           -- between the peer's SYNC_BEGIN and SYNC_END
  syncIn : Bool := false            -- the peer's SYNC_END has come
  syncOut : Bool := false           -- our SYNC_END has been acknowledged
  syncAt : Nat := 0                 -- delta number our copy ends at
  log : SMap (List Byte) := []
  logHead : Nat := 0
  peerLog : SMap (List Byte) := []
  peerHead : Nat := 0
  written : Nat := 0
  adopt : List Nat := []            -- beds whose adoption waits for their next seal (R519)
  hints : List (Nat × List Byte × Nat) := []
  stale : List Nat := []            -- mirror entries the copy under way has not named yet
  peerHeld : SMap Int := []         -- HELD tokens of the twin's requests, by 4096·bed + tenant (R519)
deriving DecidableEq, Repr

/-- Which hold limit passes (R342, R344, R355). -/
inductive HoldObj where
  | batch (stream : Nat)            -- a provisional batch, or silence of an open import
  | noOpen (index : Nat)            -- no OPEN for the import of this session
  | ring (stream : Nat)             -- a full Eweid host ring
deriving DecidableEq, Repr

end Sys2Proof.Machine
end

