-- ==== Sys2Proof/Machine/SysTypes.lean ====
section
/-!
DEFINITION. The device as a whole (spec 13, 15, 16, 18, 19, 20): pins, bring-up, clocks, temperatures, flash and
update state, PCI Express functions, staging, memory channels, DMA channels, samplers, scribes and the test port;
and what leaves the package.
-/
namespace Sys2Proof.Machine

/-- What leaves the package. The device's outputs are kept as a list, newest last (DESIGN CHOICE, log 3). -/
inductive Out where
  | hostWrite (fn addr : Nat) (bytes : List Byte)       -- a write to host memory (records, replies, pages)
  | msix (fn vector : Nat)                              -- an MSI-X message (R401, R402)
  | readReply (fn : Nat) (bytes : List Byte)            -- the answer to a register or BAR4 read
  | unsupported (fn : Nat)                              -- Unsupported Request (R389, R579)
  | completerAbort (fn : Nat)                           -- Completer Abort (R387, R392)
  | aer (fn : Nat)                                      -- an error logged through AER
  | frame (port : Nat) (bytes : List Byte)              -- a Ruxel frame's 256 data bytes (R449)
  | codeword (port lane : Nat) (bytes : List Byte)      -- 36 bytes of a lane (R448)
  | ethFrame (port : Nat) (bytes : List Byte)           -- an Ethernet frame with one UDP datagram (R337, R354, R469)
  | twinMsg (port : Nat) (m : TwinMsg)                  -- a twin protocol message (R511)
  | levelOffer (port cl clmin seq : Nat)                -- a VC2 message that offers a level range (R460)
  | sideband (bytes : List Byte)                        -- a sideband read's bytes (R563)
  | sbNak                                               -- the sideband does not acknowledge
  | ibi                                                 -- an I3C in-band interrupt (R562)
  | tdo (b : Option Bool)                               -- TDO after a TCK edge; none is high impedance (R567)
deriving DecidableEq, Repr

/-- Pins and straps (R552, R555, R558, R566, R568). -/
structure Pins where
  pwrgdIo : Bool := true
  pwrgdMem : Bool := true
  pwrgdCore : Bool := true
  perst : Bool := false             -- PERST# is asserted
  refclk : Bool := true
  sbMode : Bool := false            -- I3C
  sbAddr : Nat := 0
  twinPres : Bool := false          -- a twin is seated (TWIN_PRES# low)
  thermtrip : Bool := false         -- THERMTRIP# is asserted
deriving DecidableEq, Repr

/-- BOOT.STATUS.STATE. -/
inductive BootSt where
  | idle | busy | failed
deriving DecidableEq, Repr

/-- Codes of BOOT.STATUS.STATE. -/
def BootSt.code : BootSt → Nat
  | .idle => 0 | .busy => 1 | .failed => 2

/-- Bring-up (R486–R495). -/
structure Boot where
  up : Bool := true                 -- step 0 is complete: the bring-up window answers
  step : Nat := 0                   -- BOOT.STEP
  done : Nat := 0
  st : BootSt := .idle
  refused : Bool := false
  cause : Nat := 0
  code : Nat := 0
  detail : Nat := 0
  started : Nat := 0                -- REFCLK time of the step's start, in 1/48 of a period
  elapsed : Nat := 0                -- its length once ended, in the same unit
  linkSel : Nat := 0xFFFFFF
  retried : Bool := false           -- step 6 has used its retry
  nine : Bool := false              -- step 9 has been started
  fuses : Bool := false             -- step 2 has completed
  meshUp : Bool := false            -- step 5 has completed
  memUp : Bool := false             -- step 6 has completed
  beds : Bool := false              -- step 9 has completed: READY
  mailbox : Bool := false           -- the ROM exposes the recovery mailbox
  fallback : Bool := false          -- a reset ended a trial; the UPDATE event is due at step 9 (R540)
  computeEnd : Option Nat := none   -- A-cycle in which a compute reset ends
  epoch : Nat := 0                  -- floor plan epoch (R500)
  qmbCause : Nat := 0
  qmbStart : Nat := 0               -- timebase value at which the quill started
  drawnEpoch : Nat := 0             -- EPOCH drawn at this bring-up (R458)
deriving DecidableEq, Repr

/-- Clocks (R31, R472–R481). -/
structure Clk where
  lock : Bool := false
  lost : Bool := false
  div : Nat := 4
  cur : Nat := 4                    -- length of the current A-cycle in root-PLL cycles (R480)
  pend : Nat := 0
  seen : Option Nat := none         -- A-cycle in which DIV_REQ last changed (R560)
  source : Nat := 0
  changes : Nat := 0
deriving DecidableEq, Repr

/-- Temperatures, power and throttle requests (R559–R568). -/
structure Therm where
  die : Nat := 0                    -- MAX, 16 bits, signed eighths of a degree
  field : Nat := 0
  hbm : List Nat := [0, 0, 0, 0]
  watts : Nat := 0
  amps : Nat := 0
  divReq : Nat := 4
  events : Nat := 0
  alertMask : Nat := 0x3F
  below : Option Nat := none        -- timebase value since which every requesting condition has been clear
  failedSensors : List Nat := []    -- sensor numbers left out of the maximum
  stuck : Bool := false             -- every sensor of a field has failed: DIV_REQ stays at 6
  hotStacks : Nat := 0              -- stacks whose refresh rate is doubled
deriving DecidableEq, Repr

/-- A stored licence record or debug token (R542, R543): bytes 0–63. -/
structure Licence where
  bytes : List Byte
deriving DecidableEq, Repr

/-- The manifest bytes of the image the device leaves the factory with that the model reads: MAGIC, FORMAT, CL 3 (log 65). -/
def factoryImage : SMap Byte := [(0, 0xD1), (1, 0xB0), (2, 1), (3, 3)]

/-- The flash (R528, R529) and the fuses: what survives power-off. -/
structure Flash where
  active : Nat := 0                 -- 0 slot A, 1 slot B
  trial : Option Nat := none
  seq : Nat := 0                    -- boot-record sequence number
  life : Nat := 0                   -- operating hours
  licences : List Licence := []
  cert : List Byte := []            -- device certificate
  slotA : SMap Byte := factoryImage
  slotB : SMap Byte := factoryImage
  staging : SMap Byte := []
  coverage : List (Nat × Nat) := [] -- covered ranges of the staging slot: (first, beyond), rising, apart
  store : SMap (Option Word) := []  -- the settings store's stageable registers
  oldStore : Option (SMap (Option Word)) := none  -- the copy kept unchanged until confirmation (R538)
  storeVersion : Nat := 3           -- version of the copy in use
  oldVersion : Nat := 3             -- version of the copy kept
  nibMarks : List Nat := []         -- retirement marks of nibs (R500, R509)
  serial : Nat := 0
  part : Nat := 0x1200
  check : Bool := true
  stepping : Nat := 0
  fields : Nat := 0
  defects : List Nat := []          -- nibs marked defective at manufacture
  svn : Nat := 0
deriving DecidableEq, Repr

/-- Update states (R531). -/
inductive UpdSt where
  | empty | writing | verified | copying | handover | window
deriving DecidableEq, Repr

/-- Codes of the update states (R531). -/
def UpdSt.code : UpdSt → Nat
  | .empty => 0 | .writing => 1 | .verified => 2 | .copying => 3 | .handover => 4 | .window => 5

/-- Update, security and recovery state (R531–R546). -/
structure Sec where
  upd : UpdSt := .empty
  running : Nat := 0                -- slot running: 0 A, 1 B
  selftest : Bool := false
  debug : Bool := false
  cl : Nat := 0                     -- level of the running firmware; 0 before bring-up step 4
  lastCode : Nat := 0
  attempts : Nat := 0
  licIn : Nat := 0
  activate : Option PktRef := none  -- the UPDATE_ACTIVATE under way
  windowSecs : Nat := 300
  windowStart : Nat := 0
  back : Option Nat := none         -- a handback under way, with its cause (R540)
  firstPause : Option Nat := none   -- timebase value of the first bed's pause
  retryAt : Option Nat := none      -- timebase value of the abandonment
  pausing : Bool := false           -- H has passed and intake is stopped
  recCmd : Nat := 0
  recSt : Nat := 0
  recCode : Nat := 0
  recDetail : Nat := 0
  recVerified : Bool := false
  recOffset : Nat := 0
  recLength : Nat := 0
  recBuf : SMap Byte := []
  lifeEight : Nat := 0              -- SEC.LIFE at the last bring-up step 8 (R544)
  lifeAt : Nat := 0                 -- timebase value of the last whole hour
deriving DecidableEq, Repr

/-- A vector of a function's MSI-X table (R390, R402); its reset is PCI Express's (PRESUMED, log 201). -/
structure Msix where
  addr : Nat := 0
  data : Nat := 0
  masked : Bool := true
deriving DecidableEq, Repr

/-- Where a register access goes (R386, R390): an offset of BAR0 or of BAR2, or one of the configuration registers that options of R386
name: MSI-X control, and the sizes of BAR4 and of VF BAR4 (log 201). -/
inductive RegPlace where
  | bar0 (off : Nat)
  | bar2 (off : Nat)
  | msixControl
  | barSize
  | vfBarSize
deriving DecidableEq, Repr

/-- A PCI Express function (R386–R392, R402, R485). -/
structure Fn where
  d3 : Bool := false
  latch : Option Nat := none
  barGiB : Nat := 1                 -- BAR4 size of the PF in GiB
  msixOn : Bool := false            -- MSI-X Enable
  fnMask : Bool := false            -- Function Mask
  vecs : SMap Msix := []            -- the MSI-X table
  pendingVec : List Nat := []       -- pending bits
  owed : List (Nat × List Byte) := []   -- replies to host memory that wait for D0 (R389)
deriving DecidableEq, Repr

/-- PCI Express (R578). -/
structure Pcie where
  speed : Nat := 0
  width : Nat := 0
  flit : Bool := false
  badAccess : Nat := 0
  numVfs : Nat := 0
  vfBarGiB : Nat := 1               -- BAR4 size of every VF in GiB
  fns : SMap Fn := []
deriving DecidableEq, Repr

/-- Staging (R415–R422, R574). -/
structure Stage where
  checked : Bool := false
  pending : Bool := false
  mode : Nat := 0
  bed : Nat := 0
  at_ : Nat := 0
  commits : Nat := 0
  ref : Option PktRef := none
deriving DecidableEq, Repr

/-- What the running C-cycle has changed of what software clears or reads (R12, R576). -/
structure Marks where
  counts : SMap Nat := []                 -- counts of the RC fields at its start, by BAR0 offset
  events : Nat := 0                       -- bits of THERM.EVENTS set in it
  boot : Bool := false                    -- BOOT.STATUS.REFUSED set in it
  twin : Bool := false                    -- TWIN.STATE.REFUSED set in it
  cfg : Option (SMap Word) := none        -- the staged registers before a commit in it
deriving DecidableEq, Repr

/-- Channel states (R437). -/
inductive ChSt where
  | active | retiring | retired | retraining
deriving DecidableEq, Repr

/-- Codes of the channel states (R437). -/
def ChSt.code : ChSt → Nat
  | .active => 0 | .retiring => 1 | .retired => 2 | .retraining => 3

/-- A memory channel (R423, R437, R445, R493). -/
structure Chan where
  st : ChSt := .active
  cause : Nat := 0
  rdMargin : Nat := 0
  wrMargin : Nat := 0
  vref : Nat := 0
  result : Nat := 0
  errCorr : Nat := 0
  errUncorr : Nat := 0
  corrSec : Nat := 0                -- second of timebase in which corrections are being counted
  corrCount : Nat := 0
  epochUncorr : Nat := 0            -- uncorrectable codewords in the current epoch
  dead : Bool := false              -- has stopped working altogether (R441)
  scrubPtr : Nat := 0               -- next codeword the patrol reads
deriving DecidableEq, Repr

/-- What a DMA channel's program does (R404, R477). -/
inductive DmaJob where
  | copy (index page : Nat)         -- a spill, prefetch or migration copy
  | ship (stream : Nat)
  | feed (nib : Nat)                -- key and value sets towards a nib
  | writer (layer : Nat)
deriving DecidableEq, Repr

/-- A DMA channel (R578). -/
structure Dma where
  job : Option DmaJob := none
  bed : Nat := 0                    -- the bed its running program serves
  moved : Nat := 0                  -- timebase value of its last codeword
  abandon : Nat := 0
  bytes : Nat := 0
deriving DecidableEq, Repr

/-- A sampler (R578). -/
structure Samp where
  retired : Bool := false
  job : Option (Nat × Nat) := none  -- the running job: its bed, and the A-cycle in which it ends (R317)
  jobs : Nat := 0
deriving DecidableEq, Repr

/-- States of an IEEE 1149.1 TAP controller (R567). -/
inductive TapSt where
  | reset | idle | selDr | capDr | shDr | ex1Dr | pauDr | ex2Dr | updDr
  | selIr | capIr | shIr | ex1Ir | pauIr | ex2Ir | updIr
deriving DecidableEq, Repr

/-- The test port (R567). -/
structure Tap where
  st : TapSt := .reset
  ir : List Bool := []              -- the instruction in force; empty is the one the reset state selects
  irShift : List Bool := []
  bypass : Bool := false
  dr : List Bool := []
deriving DecidableEq, Repr

/-- The memory system outside the channels: requests for retraining (R442) and HBM.SYS (R445). -/
structure MemSys where
  retrainQ : List (Bool × Nat × Bool) := []   -- (LPDDR, channel, migrate) waiting
  hbmNow : Option (Nat × Nat) := none         -- pseudo-channel retraining and when it stopped
  lpNow : Option (Nat × Nat) := none
  repaired : Nat := 0
  lastHbm : Nat := 127              -- channel of the last frame created (R430)
  lastLp : Nat := 31
deriving DecidableEq, Repr

/-- What the ROM finds of a firmware slot at bring-up step 4 (R489, R529). -/
inductive ImageCheck where
  | ok | badSignature | badDecrypt
deriving DecidableEq, Repr

/-- One channel's training (R493, R494): margins in 1/64 UI, the reference code, and whether it answered. -/
structure TrainResult where
  rd : Nat := 0
  wr : Nat := 0
  vref : Nat := 0
  answered : Bool := true
deriving DecidableEq, Repr

/-- What the sensors report (R559, R568): die and stacks in signed eighths of a degree, 10 ms averages of power. -/
structure Readings where
  die : Int := 0
  field : Nat := 0
  hbm : List Int := [0, 0, 0, 0]
  watts : Nat := 0
  amps : Nat := 0
deriving DecidableEq, Repr

end Sys2Proof.Machine
end

