-- ==== Sys2Proof/Syntax.lean ====
section
/-!
DEFINITION. The commands and events of the AGP-1200: one constructor per row of spec/opcode_table.json, in its order.
A packet command names the bed and the queue that hold it; a nib operation names the nib by its physical index, and its
fields are those of the slot word at the nib's current bundle.
-/
namespace Sys2Proof

open Sys2Proof.Machine

/-- A command or event: one row of the operation table, named in its docstring with the rule the table cites. -/
inductive Instr where
  /-- NOP (R370). -/
  | nop (bed q : Nat)
  /-- QUEUE_CREATE (R370). -/
  | queueCreate (bed q : Nat)
  /-- QUEUE_DELETE (R370). -/
  | queueDelete (bed q : Nat)
  /-- MODEL_LOAD (R370). -/
  | modelLoad (bed q : Nat)
  /-- SCRIPT_LOAD (R370). -/
  | scriptLoad (bed q : Nat)
  /-- SESSION_OPEN (R294). -/
  | sessionOpen (bed q : Nat)
  /-- SESSION_CLOSE (R299). -/
  | sessionClose (bed q : Nat)
  /-- PREFILL (R304). -/
  | prefill (bed q : Nat)
  /-- ADMIT (R373). -/
  | admitCmd (bed q : Nat)
  /-- STEP (R376). -/
  | stepCmd (bed q : Nat)
  /-- DECODE (R374). -/
  | decode (bed q : Nat)
  /-- CANCEL (R377). -/
  | cancel (bed q : Nat)
  /-- KV_EXPORT (R348). -/
  | kvExport (bed q : Nat)
  /-- KV_IMPORT (R343). -/
  | kvImport (bed q : Nat)
  /-- LIST_SWAP (R279). -/
  | listSwap (bed q : Nat)
  /-- PREFIX_PIN (R286). -/
  | prefixPin (bed q : Nat)
  /-- STAGE_WRITE (R416). -/
  | stageWrite (bed q : Nat)
  /-- STAGE_CHECK (R417). -/
  | stageCheck (bed q : Nat)
  /-- STAGE_COMMIT (R419). -/
  | stageCommit (bed q : Nat)
  /-- BED_CREATE (R396). -/
  | bedCreate (bed q : Nat)
  /-- BED_DESTROY (R397). -/
  | bedDestroy (bed q : Nat)
  /-- TENANT_SET (R301). -/
  | tenantSet (bed q : Nat)
  /-- UPDATE_WRITE (R532). -/
  | updateWrite (bed q : Nat)
  /-- UPDATE_VERIFY (R533). -/
  | updateVerify (bed q : Nat)
  /-- UPDATE_ACTIVATE (R534). -/
  | updateActivate (bed q : Nat)
  /-- UPDATE_CONFIRM (R539). -/
  | updateConfirm (bed q : Nat)
  /-- LICENCE_INSTALL (R543). -/
  | licenceInstall (bed q : Nat)
  /-- ATTEST (R548). -/
  | attest (bed q : Nat)
  /-- FLOOR_PLAN_READ (R496). -/
  | floorPlanRead (bed q : Nat)
  /-- SQ_TAIL (R364). -/
  | sqTail (fn q : Nat) (v : Word)
  /-- CQ_HEAD (R359). -/
  | cqHead (fn q : Nat) (v : Word)
  /-- EXPORT_DB (R355). -/
  | exportDb (fn : Nat) (v : Word)
  /-- PACKET_FETCH (R366). -/
  | packetFetch (bed q : Nat) (inp : FetchIn)
  /-- HOLD_RECORD_WRITE (R360). -/
  | holdRecordWrite (bed q : Nat)
  /-- MODERATION_TIMER (R402). -/
  | moderationTimer (bed q : Nat)
  /-- BED_RESET (R410). -/
  | bedReset (fn bed : Nat)
  /-- INTR_EN (R403). -/
  | intrEn (fn bed : Nat) (en : Bool)
  /-- Q0_ENABLE (R400). -/
  | q0Enable (fn bed : Nat) (v : Word)
  /-- Q0_DISABLE (R400). -/
  | q0Disable (fn bed : Nat) (v : Word)
  /-- REGISTER_WRITE (R569). -/
  | registerWrite (fn : Nat) (place : RegPlace) (len : Nat) (v : Word)
  /-- RC_FIELD_READ (R12). -/
  | rcFieldRead (fn : Nat) (place : RegPlace) (len : Nat)
  /-- TIME_NOW_LOW_READ (R485). -/
  | timeNowLowRead (fn : Nat)
  /-- BAR4_READ (R392). -/
  | bar4Read (fn off len : Nat)
  /-- BAR4_WRITE (R392). -/
  | bar4Write (fn off : Nat) (bytes : List Byte) (poisoned : Bool)
  /-- UNSERVED_MEMORY_REQUEST (R579). -/
  | unservedMemoryRequest (fn bar off len : Nat) (write : Bool)
  /-- VF_FLR (R384). -/
  | vfFlr (n : Nat)
  /-- PF_FLR (R409). -/
  | pfFlr
  /-- D3HOT_ENTRY (R389). -/
  | d3hotEntry (fn : Nat)
  /-- D0_RETURN (R389). -/
  | d0Return (fn : Nat)
  /-- COLD_RESET (R409). -/
  | coldReset (power : Bool)
  /-- PERST_RELEASE (R489). -/
  | perstRelease (speed width : Nat) (flit : Bool)
  /-- POWER_GOOD_LOSS (R556). -/
  | powerGoodLoss (io mem core : Bool)
  /-- BRING_UP_STEP_1 (R489). -/
  | bringUpStep1 (locked : Bool)
  /-- BRING_UP_STEP_2 (R489). -/
  | bringUpStep2
  /-- BRING_UP_STEP_3 (R489). -/
  | bringUpStep3 (nibs : List Nat) (perimeter : Bool)
  /-- BRING_UP_STEP_4 (R489). -/
  | bringUpStep4 (a b : ImageCheck) (scribes : List Nat)
  /-- BRING_UP_STEP_5 (R490). -/
  | bringUpStep5 (nibs routers samplers : List Nat)
  /-- BRING_UP_STEP_6 (R493). -/
  | bringUpStep6 (hbm lp : List TrainResult)
  /-- BRING_UP_STEP_7 (R462). -/
  | bringUpStep7 (ports : List (Nat × Nat × Option Nego))
  /-- BRING_UP_STEP_8 (R489). -/
  | bringUpStep8
  /-- BRING_UP_STEP_9 (R489). -/
  | bringUpStep9
  /-- BOOT_STEP_TIMEOUT (R488). -/
  | bootStepTimeout
  /-- COMPUTE_RESET (R495). -/
  | computeReset (fn : Nat)
  /-- BOOT_WARM_RESET (R495). -/
  | bootWarmReset (fn : Nat)
  /-- FENCE_NOW (R506). -/
  | fenceNow (fn p : Nat)
  /-- CLEAR_RETIREMENT_MARK (R509). -/
  | clearRetirementMark (fn p : Nat)
  /-- HBM_RETRAIN_WAIT (R443). -/
  | hbmRetrainWait (fn : Nat) (lp : Bool) (ch : Nat)
  /-- HBM_RETRAIN_MIGRATE (R443). -/
  | hbmRetrainMigrate (fn : Nat) (lp : Bool) (ch : Nat)
  /-- MEMORY_RETRAIN_END (R443). -/
  | memoryRetrainEnd (lp : Bool) (r : TrainResult)
  /-- PHY_CALIBRATION_DRIFT (R442). -/
  | phyCalibrationDrift (lp : Bool) (ch : Nat)
  /-- MEMORY_SCRUB (R436). -/
  | memoryScrub (lp : Bool) (ch : Nat)
  /-- FRAME_COPY_COMPLETE (R288). -/
  | frameCopyComplete (index page : Nat)
  /-- SPILL (R287). -/
  | kvSpill (bed : Nat)
  /-- LINK_RETRAIN (R464). -/
  | linkRetrain (fn port : Nat)
  /-- LANE_ALIGNMENT_LOSS (R464). -/
  | laneAlignmentLoss (port lane : Nat)
  /-- RETRAIN_COMPLETE (R461). -/
  | retrainComplete (port lanes : Nat)
  /-- LINK_TRAINING_TIMEOUT (R465). -/
  | linkTrainingTimeout (port : Nat)
  /-- IDLE_FRAME (R449). -/
  | idleFrame (port : Nat) (raw : List Byte)
  /-- DATA_FRAME (R456). -/
  | dataFrame (port : Nat) (raw : List Byte)
  /-- NEGOTIATE (R459). -/
  | negotiate (port : Nat) (raw : List Byte)
  /-- NEGOTIATE_REPEAT (R458). -/
  | negotiateRepeat (port : Nat)
  /-- REPLAY_TIMER (R456). -/
  | replayTimer (port : Nat)
  /-- NAK_REPEAT_TIMER (R456). -/
  | nakRepeatTimer (port : Nat)
  /-- REMOTE_WRITE (R455). -/
  | remoteWrite (port : Nat)
  /-- LEVEL_CHANGE (R460). -/
  | levelChange (port cl clmin seq : Nat)
  /-- ETHERNET_FRAME (R470). -/
  | ethernetFrame (port : Nat) (raw : List Byte)
  /-- SHIPPER_SEND (R325). -/
  | shipperSend (stream : Nat)
  /-- OPEN (R340). -/
  | actOpen (port : Nat)
  /-- OPEN_ACK (R335). -/
  | openAck (port : Nat)
  /-- PAGE (R341). -/
  | actPage (port : Nat)
  /-- LAYER_DONE (R341). -/
  | layerDone (port : Nat)
  /-- COMMIT (R341). -/
  | actCommit (port : Nat)
  /-- ABORT (R341). -/
  | actAbort (port : Nat)
  /-- ACK (R337). -/
  | actAck (port : Nat)
  /-- NACK (R337). -/
  | actNack (port : Nat)
  /-- CLOSE (R344). -/
  | actClose (port : Nat)
  /-- REFUSE (R345). -/
  | actRefuse (port : Nat)
  /-- ACK_DELAY_TIMER (R337). -/
  | ackDelayTimer (port stream : Nat)
  /-- NACK_GAP_TIMER (R337). -/
  | nackGapTimer (port stream : Nat)
  /-- ACK_TIMEOUT (R337). -/
  | ackTimeout (stream : Nat)
  /-- EXPORT_LINK_WAIT_EXPIRY (R338). -/
  | exportLinkWaitExpiry (stream : Nat)
  /-- HOLD_LIMIT (R342). -/
  | holdLimit (obj : HoldObj)
  /-- HELLO (R512). -/
  | twinHello (port : Nat) (h : Hello)
  /-- BEAT (R518). -/
  | twinBeat (port count upd : Nat)
  /-- DELTA (R514). -/
  | twinDelta (port : Nat) (recs : List (Nat × Delta))
  /-- DELTA_ACK (R514). -/
  | twinDeltaAck (port n : Nat)
  /-- LOG (R523). -/
  | twinLog (port : Nat) (entry : List Byte)
  /-- SYNC_BEGIN (R521). -/
  | twinSyncBegin (port : Nat)
  /-- SYNC_END (R521). -/
  | twinSyncEnd (port : Nat)
  /-- TAKEN (R521). -/
  | twinTaken (port : Nat)
  /-- TWIN_BEAT_TICK (R517). -/
  | twinBeatTick
  /-- PEER_BEAT (R517). -/
  | peerBeat (fn : Nat) (v : Word)
  /-- BEAT_MISS (R518). -/
  | beatMiss (host : Bool)
  /-- TAKEOVER (R519). -/
  | takeover (fn : Nat)
  /-- ATTACH (R521). -/
  | attach (fn : Nat)
  /-- DETACH (R521). -/
  | detach (fn : Nat)
  /-- STEP_DESCRIPTOR_PUBLISH (R32). -/
  | stepDescriptorPublish (bed : Nat) (lists : List TileList)
  /-- STEP_START (R130). -/
  | stepStart (bed : Nat)
  /-- SEAL (R483). -/
  | stepSeal (bed : Nat)
  /-- PAGE_WRITER (R269). -/
  | pageWriter (bed seq layer : Nat) (prog : WriterProg)
  /-- SAMPLER_JOB (R320). -/
  | samplerJob (k bed seq : Nat) (logits : List Lane)
  /-- STEP_WATCHDOG (R478). -/
  | stepWatchdog (bed : Nat)
  /-- DMA_PROGRESS_TIMEOUT (R477). -/
  | dmaProgressTimeout (c : Nat)
  /-- DEADLINE_EXPIRY (R373). -/
  | deadlineExpiry (index : Nat)
  /-- SESSION_IDLE_EXPIRY (R298). -/
  | sessionIdleExpiry (index : Nat)
  /-- STAGE_COMMIT_TIME (R420). -/
  | stageCommitTime
  /-- FRONT (R67). -/
  | front (p : Nat)
  /-- PASS (R117). -/
  | nibPass (p : Nat)
  /-- PRESCAN (R118). -/
  | prescan (p : Nat)
  /-- CLEAR (R73). -/
  | accClear (p : Nat)
  /-- SHIFT (R74). -/
  | accShift (p : Nat)
  /-- READ (R119). -/
  | accRead (p : Nat)
  /-- COMBINE (R75). -/
  | accCombine (p : Nat)
  /-- VLOAD (R121). -/
  | vload (p : Nat)
  /-- VSTORE (R121). -/
  | vstore (p : Nat)
  /-- VOP (R122). -/
  | vop (p : Nat)
  /-- VCVT (R119). -/
  | vcvt (p : Nat)
  /-- VQUANT (R123). -/
  | vquant (p : Nat)
  /-- VRED (R99). -/
  | vred (p : Nat)
  /-- VSFU (R100). -/
  | vsfu (p : Nat)
  /-- SEND_SCHED (R147). -/
  | sendSched (p : Nat)
  /-- SEND_ASYNC (R101). -/
  | sendAsync (p : Nat)
  /-- READ_RAW_SEND (R120). -/
  | readRawSend (p : Nat)
  /-- TRANSPOSE (R101). -/
  | transpose (p : Nat)
  /-- GATHER (R102). -/
  | gather (p : Nat)
  /-- WAIT (R88). -/
  | nibWait (p : Nat)
  /-- WAIT_COMPLETE (R89). -/
  | waitComplete (p : Nat)
  /-- WAIT_TIMEOUT (R88). -/
  | waitTimeout (p : Nat)
  /-- TALLY_CLEAR (R90). -/
  | tallyClear (p : Nat)
  /-- LOOP (R127). -/
  | nibLoop (p : Nat)
  /-- PHASE (R131). -/
  | nibPhase (p : Nat)
  /-- SYNC (R140). -/
  | nibSync (p : Nat)
  /-- BARRIER_RELEASE (R141). -/
  | barrierRelease (bed : Nat)
  /-- BARRIER_TIMEOUT (R142). -/
  | barrierTimeout (p : Nat)
  /-- ELASTIC_PHASE_TIMEOUT (R138). -/
  | elasticPhaseTimeout (p : Nat)
  /-- END (R144). -/
  | endStep (p : Nat)
  /-- IDLE (R128). -/
  | nibIdle (p : Nat)
  /-- MATMUL (R175). -/
  | matmul (p : Nat)
  /-- FINISH (R195). -/
  | macFinish (p : Nat)
  /-- ATTEND (R196). -/
  | attend (p : Nat)
  /-- MACRO_EXT (R157). -/
  | macroExt (p : Nat)
  /-- GATED_VISIT_START (R185). -/
  | gatedVisitStart (p : Nat)
  /-- SPAN (R244). -/
  | attSpan (p : Nat)
  /-- MERGE_LOCAL (R245). -/
  | mergeLocal (p : Nat)
  /-- MERGE_IN (R246). -/
  | mergeIn (p : Nat)
  /-- ATTEND_SEND (R245). -/
  | attendSend (p : Nat)
  /-- ATTEND_FINISH (R247). -/
  | attendFinish (p : Nat)
  /-- ASYNC_WRITE_ARRIVAL (R96). -/
  | asyncWriteArrival (a : Arrival)
  /-- SCRATCHPAD_SCRUB (R85). -/
  | scratchpadScrub (p bank : Nat)
  /-- SCRUB_FORCED_GRANT (R85). -/
  | scrubForcedGrant (p bank : Nat)
  /-- LOAD_SEGMENT (R501). -/
  | loadSegment (p slot seg : Nat) (rows : List Row) (bad : Bool)
  /-- LOAD_GAP_TIMER (R502). -/
  | loadGapTimer (p slot : Nat)
  /-- LOAD_TIMEOUT (R504). -/
  | loadTimeout (bed handle : Nat)
  /-- HANDOVER (R535). -/
  | handover
  /-- HANDOVER_PAUSE_TIMEOUT (R535). -/
  | handoverPauseTimeout
  /-- HANDOVER_RETRY (R535). -/
  | handoverRetry
  /-- SELFTEST (R539). -/
  | selfTest (ok : Bool)
  /-- SELFTEST_TIMEOUT (R540). -/
  | selftestTimeout
  /-- HEALTH_WINDOW_EXPIRY (R540). -/
  | healthWindowExpiry
  /-- LIFE_HOUR_TICK (R544). -/
  | lifeHourTick
  /-- REC_WRITE (R541). -/
  | recWrite
  /-- REC_VERIFY (R541). -/
  | recVerify
  /-- REC_INSTALL (R541). -/
  | recInstall
  /-- THROTTLE_REQUEST (R560). -/
  | throttleRequest (r : Readings)
  /-- DIV_REQ_FALL (R560). -/
  | divReqFall (r : Readings)
  /-- THERMTRIP (R561). -/
  | thermtrip (r : Readings)
  /-- HBM_HOT (R568). -/
  | hbmHot (r : Readings)
  /-- SENSOR_FAILURE (R560). -/
  | sensorFailure (sensor : Nat)
  /-- PLL_LOSS (R474). -/
  | pllLoss
  /-- TWIN_PRES (R566). -/
  | twinPres (present : Bool)
  /-- IDENT (R563). -/
  | sbIdent
  /-- STATUS (R563). -/
  | sbStatus
  /-- TEMP (R563). -/
  | sbTemp
  /-- HBM_TEMP (R563). -/
  | sbHbmTemp
  /-- POWER (R563). -/
  | sbPower
  /-- EVENTS_CLEAR (R565). -/
  | eventsClear (v : Nat) (pec : Bool)
  /-- WARM_RESET (R564). -/
  | sbWarmReset (v : Nat) (pec : Bool)
  /-- POWER_GOOD_ASSERTION (R556). -/
  | powerGoodAssertion (sbMode : Bool) (sbAddr : Nat)
  /-- PCIE_LINK_RETRAINING (R578). -/
  | pcieLinkRetraining (speed width : Nat) (flit : Bool)
  /-- VF_ENABLE (R578). -/
  | vfEnable (num : Nat)
  /-- SCRIBE_RETIREMENT (R500). -/
  | scribeRetirement (s : Nat)
  /-- SAMPLER_RETIREMENT (R500). -/
  | samplerRetirement (k : Nat)
  /-- JTAG_TCK (R567). -/
  | jtagTck (tms tdi trst : Bool)
deriving DecidableEq, Repr

end Sys2Proof
end

