-- ==== Sys2Proof/Decode.lean ====
section
/-!
DEFINITION. Words of the operation table. spec/opcode_table.json gives no row any bits (every row's list of fields is
empty): no word spells a command, and the answer is none for every word. The 256-bit bundles of the nibs have their own
decoder in Machine/Bundle.lean.
-/
namespace Sys2Proof

/-- The command a word of `nbits` bits spells: the table gives no row an encoding. -/
def decodeTableWord (nbits w : Nat) : Option Instr :=
  match nbits, w with
  | _, _ => none

end Sys2Proof
end

