-- ==== Sys2Proof/Config.lean ====
section
/-!
DEFINITION. What an implementation fixes and the spec leaves open: opaque constants without a body, so nothing can be
proved about their values (log 5). Each is applied to the operands it depends on, or to a counter of State.
-/
namespace Sys2Proof.Config

/-- The device's random source (R281, R458): the `n`-th draw. -/
opaque random : Nat → Nat

/-- Whether a Falcon-1024 signature verifies under a key: 0 firmware, 1 licence (R530, R542). -/
opaque falconVerify : Nat → List Byte → List Byte → Bool

/-- The identity key's Falcon-1024 signature over a message (R548); the scheme draws its own salt. -/
opaque falconSign : Nat → List Byte → List Byte

/-- Whether an AES-256-GCM tag verifies: key, nonce, additional data, ciphertext, tag (R530). -/
opaque gcmOk : Nat → List Byte → List Byte → List Byte → List Byte → Bool

/-- The SHAKE256 digest of the ROM, and of the quill, scribe and PHY plaintext of a bundle, given as its nonzero bytes by
offset (R548, kinds 1–4). -/
opaque componentDigest : Nat → List (Nat × Byte) → List Byte

/-- The digest of the settings-store copy in use, by its version and its registers (R548, kind 8): its byte form is not
given. -/
opaque storeDigest : Nat → List (Nat × Option (BitVec 64)) → List Byte

/-- The byte form of the loader's report (R184, R199), which is not given: of its entries, one a macro. -/
opaque loaderReport : List (List Nat) → List Byte

/-- The length of a compute reset in A-cycles, beyond the bed resets it holds (R495 bounds it at 50 ms). -/
opaque computeResetCycles : Nat → Nat

/-- The temperature sensors of a reticle field (R560): their number and numbering are not given. -/
opaque fieldSensors : Nat → List Nat

/-- Bits of the test port's instruction register (R567). -/
opaque jtagBits : Nat

/-- What TDO shifts out of a register the spec does not describe (R567). -/
opaque jtagOut : Nat → Bool

/-- The tile lists the attention planner makes for the expert STEP of a fetched packet, by its number, which supplies none
(R253, R375): the choice of tiles is firmware's. -/
opaque plannerLists : Nat → List TileList

/-- A free value of `w` bits: the `n`-th draw of whatever the spec leaves open. -/
opaque freeValue : (w : Nat) → Nat → BitVec w

end Sys2Proof.Config
end

