-- ==== Sys2Proof/Machine/Digest.lean ====
section
/-!
DEFINITION. SHAKE256 (FIPS 202), which R274, R281, R496, R499, R502, R530 and R548 name, and the CRC-32C of R331.
-/
namespace Sys2Proof.Machine

/-- Rotate left by n. -/
def rotl64 (x : Word) (n : Nat) : Word := x.rotateLeft (n % 64)

/-- A value times x, modulo x^8 + x^6 + x^5 + x^4 + 1, from which the round constants' bits come. -/
def rcStep (r : Nat) : Nat := if r < 128 then 2 * r else (2 * r) ^^^ 0x171

/-- A round's constant, its bits at places 0, 1, 3, 7, 15, 31 and 63, and where the next round's bits start. -/
def rcNext (r : Nat) : Nat × Nat :=
  (List.range 7).foldl (fun (x : Nat × Nat) j => (if bitAt x.2 0 then x.1 + 2 ^ (2 ^ j - 1) else x.1, rcStep x.2)) (0, r)

/-- Mix the columns (θ): lane l of a row takes the parities of columns l − 1 and, rotated, l + 1. -/
def keccakColumns (a : List Word) : List Word :=
  let par := (List.range 5).map fun x => (List.range 5).foldl (fun w y => w ^^^ a.getD (x + 5 * y) 0) 0
  let mix := List.zipWith (fun l r => l ^^^ rotl64 r 1) (par.rotateRight 1) (par.rotateLeft 1)
  a.zipIdx.map fun w => w.1 ^^^ mix.getD (w.2 % 5) 0

/-- Turn and move the lanes (ρ, π): from place (1, 0), the lane of each place goes to place (y, 2x + 3y), turned by 1, 3, 6, … -/
def keccakWalk : Nat → Nat → Nat → Nat → Word → List Word → List Word
  | 0, _, _, _, _, a => a
  | n + 1, t, x, y, w, a =>
    let k := y + 5 * ((2 * x + 3 * y) % 5)
    keccakWalk n (t + 1) y ((2 * x + 3 * y) % 5) (a.getD k 0) (a.set k (rotl64 w (t * (t + 1) / 2)))

/-- Combine each row with its neighbours (χ). -/
def keccakRows : Nat → List Word → List Word
  | 0, _ => []
  | n + 1, a =>
    let r := a.take 5
    List.zipWith (· ^^^ ·) r (List.zipWith (fun u v => v &&& ~~~u) (r.rotateLeft 1) (r.rotateLeft 2)) ++ keccakRows n (a.drop 5)

/-- The last `n` rounds of Keccak-f[1600], lane (x, y) at place x + 5y; `r` is where their constants' bits start. -/
def keccakRounds : Nat → Nat → List Word → List Word
  | 0, _, a => a
  | n + 1, r, a =>
    let m := keccakColumns a
    let c := rcNext r
    keccakRounds n c.2 ((keccakRows 5 (keccakWalk 24 1 1 0 (m.getD 1 0) m)).modify 0 (· ^^^ BitVec.ofNat 64 c.1))

/-- Keccak-f[1600]: 24 rounds. -/
def keccakF (a : List Word) : List Word := keccakRounds 24 1 a

/-- Cut a byte string into lanes of 8 bytes. -/
def lanesOf : Nat → List Byte → List Word
  | 0, _ => []
  | n + 1, bs => BitVec.ofNat 64 (leNat (bs.take 8)) :: lanesOf n (bs.drop 8)

/-- Absorb one 136-byte block. -/
def kAbsorb (a : List Word) (blk : List Byte) : List Word :=
  keccakF (a.zipWith (· ^^^ ·) (lanesOf 17 blk ++ List.replicate 8 0))

/-- Absorb a whole padded message, block by block; `fuel` bounds the blocks. -/
def kAbsorbAll : Nat → List Word → List Byte → List Word
  | 0, a, _ => a
  | fuel + 1, a, bs => if bs.isEmpty then a else kAbsorbAll fuel (kAbsorb a (bs.take 136)) (bs.drop 136)

/-- SHAKE256 padding: suffix 1111, then pad10*1. -/
def kPad (n : Nat) : List Byte :=
  let k := 136 - n % 136
  if k == 1 then [0x9F#8] else (0x1F#8 :: List.replicate (k - 2) 0) ++ [0x80#8]

/-- The first `n` bytes (n ≤ 136) of SHAKE256 of a byte string. -/
def shake256 (n : Nat) (bs : List Byte) : List Byte :=
  let m := bs ++ kPad bs.length
  ((kAbsorbAll (m.length / 136 + 1) (List.replicate 25 0) m).flatMap fun l => leBytes 8 l.toNat).take n

/-- One byte of CRC-32C, reflected polynomial 0x82F63B78. -/
def crcByte (c : Lane) (b : Byte) : Lane :=
  (List.range 8).foldl (fun c _ => if c.getLsbD 0 then (c >>> 1) ^^^ 0x82F63B78#32 else c >>> 1)
    (c ^^^ b.setWidth 32)

/-- CRC-32C (Castagnoli) of a byte string (R331, R354). -/
def crc32c (bs : List Byte) : Lane := ~~~ (bs.foldl crcByte 0xFFFFFFFF#32)

end Sys2Proof.Machine
end

