-- ==== Sys2Proof/Machine/House.lean ====
section
/-!
DEFINITION. The house code (R432, R433): systematic Reed–Solomon over GF(2^8), 32 data bytes and 4 check bytes.
-/
namespace Sys2Proof.Machine

/-- Multiplication by α = 0x02 modulo 0x11D (R432). -/
def gfX (a : Byte) : Byte := if a.msb then (a <<< 1) ^^^ 0x1D#8 else a <<< 1

/-- Product in GF(2^8), over the low `n` bits of b. -/
def gfMulAux (a b : Byte) : Nat → Byte
  | 0 => 0
  | n + 1 => (gfX (gfMulAux a (b >>> 1) n)) ^^^ (if b.getLsbD 0 then a else 0)

/-- Product in GF(2^8) (R432). -/
def gfMul (a b : Byte) : Byte := gfMulAux a b 8

/-- α^n. -/
def gfPow : Nat → Byte
  | 0 => 1
  | n + 1 => gfX (gfPow n)

/-- The product of the first n squares of a's chain of squares: a^(2 + 4 + … + 2^n). -/
def gfSquares (a : Byte) : Nat → Byte
  | 0 => 1
  | n + 1 => gfMul (gfMul a a) (gfSquares (gfMul a a) n)

/-- Inverse: a^254 = a^2 · a^4 · … · a^128. -/
def gfInv (a : Byte) : Byte := gfSquares a 7

/-- One step of the division by g(x) = x^4 + 0F·x^3 + 36·x^2 + 78·x + 40 (R432): the remainder, highest first. -/
def houseStep (r : Byte × Byte × Byte × Byte) (d : Byte) : Byte × Byte × Byte × Byte :=
  let f := d ^^^ r.1
  (r.2.1 ^^^ gfMul f 0x0F#8, r.2.2.1 ^^^ gfMul f 0x36#8, r.2.2.2 ^^^ gfMul f 0x78#8, gfMul f 0x40#8)

/-- The check bytes 32–35 of 32 data bytes (R432). -/
def houseCheck (data : List Byte) : List Byte :=
  let r := data.foldl houseStep (0, 0, 0, 0)
  [r.1, r.2.1, r.2.2.1, r.2.2.2]

/-- The 36-byte codeword of 32 data bytes (R432). -/
def houseEncode (data : List Byte) : List Byte := data ++ houseCheck data

/-- Syndrome j: the codeword polynomial at α^j, byte 0 the coefficient of x^35 (R432, R433). -/
def houseSyn (cw : List Byte) (j : Nat) : Byte :=
  cw.foldl (fun s c => gfMul s (gfPow j) ^^^ c) 0

/-- What the decoder does with a codeword (R433). -/
inductive HouseOut where
  | clean
  | corrected (cw : List Byte)
  | uncorrectable
deriving DecidableEq, Repr

/-- Replace byte i by its exclusive or with e. -/
def xorAt (cw : List Byte) (i : Nat) (e : Byte) : List Byte :=
  cw.modify i (· ^^^ e)

/-- The correction of one byte that makes the four syndromes zero, at the lowest position from i. -/
def houseOne (s0 s1 s2 s3 : Byte) : Nat → Nat → Option (Nat × Byte)
  | _, 0 => none
  | i, n + 1 =>
    let x := gfPow (35 - i)
    if s1 = gfMul s0 x ∧ s2 = gfMul s1 x ∧ s3 = gfMul s2 x then some (i, s0)
    else houseOne s0 s1 s2 s3 (i + 1) n

/-- The correction of bytes i and j, if one makes the syndromes zero. -/
def housePair (s0 s1 s2 s3 : Byte) (i j : Nat) : Option (Byte × Byte) :=
  let x := gfPow (35 - i)
  let y := gfPow (35 - j)
  let ey := gfMul (gfMul s0 x ^^^ s1) (gfInv (x ^^^ y))
  let ex := s0 ^^^ ey
  let x2 := gfMul x x
  let y2 := gfMul y y
  if gfMul ex x2 ^^^ gfMul ey y2 = s2 ∧ gfMul ex (gfMul x2 x) ^^^ gfMul ey (gfMul y2 y) = s3
  then some (ex, ey) else none

/-- Every pair of positions i < j below 36, in order. -/
def housePairs : List (Nat × Nat) :=
  (List.range 36).flatMap fun i => ((List.range 36).filter (i < ·)).map fun j => (i, j)

/-- Decode a 36-byte codeword (R433). -/
def houseDecode (cw : List Byte) : HouseOut :=
  let s0 := houseSyn cw 0
  let s1 := houseSyn cw 1
  let s2 := houseSyn cw 2
  let s3 := houseSyn cw 3
  if s0 = 0 ∧ s1 = 0 ∧ s2 = 0 ∧ s3 = 0 then .clean
  else match houseOne s0 s1 s2 s3 0 36 with
    | some (i, e) => .corrected (xorAt cw i e)
    | none =>
      match housePairs.findSome? fun p => (housePair s0 s1 s2 s3 p.1 p.2).map fun e => (p, e) with
      | some ((i, j), (ei, ej)) => .corrected (xorAt (xorAt cw i ei) j ej)
      | none => .uncorrectable

/-- The outcome of reading stored data whose codeword carries an error pattern `up` (288 bits, byte i in bits
[8i+7:8i]): the data read, or nothing when it cannot be corrected, and whether a correction was counted. -/
def houseRead (data : List Byte) (up : BitVec 288) : Option (List Byte) × Bool :=
  if up = 0 then (some data, false)
  else
    let cw := (houseEncode data).zipWith (· ^^^ ·) (leBytes 36 up.toNat)
    match houseDecode cw with
    | .clean => (some (cw.take 32), false)
    | .corrected c => (some (c.take 32), true)
    | .uncorrectable => (none, false)

end Sys2Proof.Machine
end

