-- ==== Sys2Proof/Machine/State.lean ====
section
/-!
DEFINITION. The state of the device: everything the spec gives it, as plain data, and the queue of waiting commands.
Large arrays are sparse maps in canonical form (Machine/Map.lean); device memory is a list of cells (R28, R493).
-/
namespace Sys2Proof.Machine

/-- Why a run would stop. The device never stops on a command: what the spec rejects, ignores or faults on is the
command's effect on the state (R4), so no meaning raises a fault and there is none to name. -/
inductive Fault where
deriving DecidableEq, Repr

/-- Why a command has no answer. -/
inductive Refusal where
  /-- Raised by Dispatch.lean for a row without a meaning; safe, because the run stops. -/
  | notModelled (mnemonic : String)
deriving DecidableEq, Repr

/-- The device. -/
structure State where
  /-- commands that wait, first in, first out -/
  pending : List Instr := []
  /-- what has left the package, oldest first -/
  out : List Out := []
  /-- A-cycles since the root PLL locked -/
  acyc : Nat := 0
  /-- root-PLL cycles since it locked: 48 to a T-tick (R31, R473) -/
  root : Nat := 0
  /-- REFCLK time since power, in 1/48 of a period (R488) -/
  ref : Nat := 0
  /-- draws made so far of values the spec leaves open (the model's own field) -/
  draws : Nat := 0
  /-- number of the next fetched packet (the model's own field) -/
  ids : Nat := 0
  pins : Pins := {}
  boot : Boot := {}
  clk : Clk := {}
  therm : Therm := {}
  flash : Flash := {}
  sec : Sec := {}
  pcie : Pcie := {}
  tap : Tap := {}
  /-- live values of the stageable registers, by BAR0 offset (R575); unlisted: the reset value -/
  cfg : SMap Word := []
  /-- the staging shadow bank (R415); unlisted: the live value -/
  shadow : SMap (Option Word) := []
  stage : Stage := {}
  /-- what the running C-cycle has set, added and committed (R12, R576) -/
  mark : Marks := {}
  /-- device memory, both tiers (R28, R424); unlisted: 0 (R493) -/
  mem : List Host.Cell := []
  /-- bytes in error of stored codewords, by address of the codeword -/
  memUpset : SMap (BitVec 288) := []
  /-- channels: HBM3E 0–127, LPDDR5X 128–159 -/
  chans : SMap Chan := []
  msys : MemSys := {}
  dma : SMap Dma := []
  samp : SMap Samp := []
  /-- the bed the samplers served last, and its jobs in a row (R407) -/
  sampTurn : Nat × Nat := (0, 0)
  /-- retired scribes -/
  scribesOut : List Nat := []
  fenceDrop : Nat := 0
  meshCorr : Nat := 0
  meshUncorr : Nat := 0
  /-- packets of rows under way on the asynchronous plane (R24) -/
  mesh : List (MUnit × AsyncPkt) := []
  nibs : SMap Nib := []
  beds : SMap Bed := []
  /-- timebase value of each bed's last seal (R485) -/
  lastSeal : SMap Nat := []
  sessions : SMap Session := []
  /-- the HBM and LPDDR frame tables (R271) -/
  frames : SMap (Option Frame) := []
  lpFrames : SMap (Option Frame) := []
  pfx : SMap PfxEntry := []
  oldGens : List OldGen := []
  copies : List PageCopy := []
  ports : SMap Port := []
  tx : List TxStream := []
  rx : List RxStream := []
  imports : List Import := []
  twin : Twin := {}
deriving DecidableEq, Repr

/-- Device memory's canonical form: addresses rise, no listed byte is 0. -/
abbrev Memory.wf (m : List Host.Cell) : Bool := mwf (0 : Byte) m

/-- The device right after a cold reset, with power good and PERST# released: bring-up step 0 is complete (R489) and
nothing else has run. PCIE.LINK is what step 0 left, x16 at 64 GT/s in FLIT mode (log 6). -/
def State.reset : State :=
  { pcie := { speed := 6, width := 16, flit := true } }

end Sys2Proof.Machine
end

