-- ==== Sys2Proof/Machine/Ops.lean ====
section
/-!
DEFINITION. Named operations over the state: one accessor and one update per part, time, and the live values of the
stageable registers (R569, R575).
-/
namespace Sys2Proof.Machine

/-- The timebase value (R31, R473). -/
def State.now (s : State) : Nat := s.root / 48

/-- Whether the A-, H- and C-clocks run: the root PLL is locked and no trip has stopped it (R472, R474, R561). -/
def State.runs (s : State) : Bool := s.clk.lock && !s.pins.thermtrip

/-- Whether the device has reached READY and still runs (R390, R489). -/
def State.ready (s : State) : Bool := s.boot.beds && s.runs

/-- Add to what has left the package. -/
def State.emit (s : State) (o : Out) : State := { s with out := s.out ++ [o] }

/-- Bed `b`. -/
def State.bed (s : State) (b : Nat) : Bed := mget {} s.beds b

/-- Replace bed `b`. -/
def State.setBed (s : State) (b : Nat) (v : Bed) : State := { s with beds := mset {} s.beds b v }

/-- Change bed `b`. -/
def State.updBed (s : State) (b : Nat) (f : Bed → Bed) : State := s.setBed b (f (s.bed b))

/-- Nib `p`. -/
def State.nib (s : State) (p : Nat) : Nib := mget {} s.nibs p

/-- Replace nib `p`. -/
def State.setNib (s : State) (p : Nat) (v : Nib) : State := { s with nibs := mset {} s.nibs p v }

/-- Change nib `p`. -/
def State.updNib (s : State) (p : Nat) (f : Nib → Nib) : State := s.setNib p (f (s.nib p))

/-- Port `n`. -/
def State.port (s : State) (n : Nat) : Port := mget {} s.ports n

/-- Replace port `n`. -/
def State.setPort (s : State) (n : Nat) (v : Port) : State := { s with ports := mset {} s.ports n v }

/-- Change port `n`. -/
def State.updPort (s : State) (n : Nat) (f : Port → Port) : State := s.setPort n (f (s.port n))

/-- Session entry `i`. -/
def State.ses (s : State) (i : Nat) : Session := mget {} s.sessions i

/-- Replace session entry `i`. -/
def State.setSes (s : State) (i : Nat) (v : Session) : State := { s with sessions := mset {} s.sessions i v }

/-- Change session entry `i`. -/
def State.updSes (s : State) (i : Nat) (f : Session → Session) : State := s.setSes i (f (s.ses i))

/-- Memory channel `c`: HBM3E 0–127, LPDDR5X 128–159. -/
def State.chan (s : State) (c : Nat) : Chan := mget {} s.chans c

/-- Change memory channel `c`. -/
def State.updChan (s : State) (c : Nat) (f : Chan → Chan) : State := { s with chans := mupd {} s.chans c f }

/-- DMA channel `c`. -/
def State.dmaCh (s : State) (c : Nat) : Dma := mget {} s.dma c

/-- Change DMA channel `c`. -/
def State.updDma (s : State) (c : Nat) (f : Dma → Dma) : State := { s with dma := mupd {} s.dma c f }

/-- Function `f`. -/
def State.fn (s : State) (f : Nat) : Fn := mget {} s.pcie.fns f

/-- Change function `f`. -/
def State.updFn (s : State) (f : Nat) (g : Fn → Fn) : State :=
  { s with pcie := { s.pcie with fns := mupd {} s.pcie.fns f g } }

/-- Frame `n` of a tier's table; none where the table has no such entry. -/
def State.frame (s : State) (lp : Bool) (n : Nat) : Option Frame :=
  if lp then mget none s.lpFrames n else mget none s.frames n

/-- Write a frame table entry. -/
def State.setFrame (s : State) (lp : Bool) (n : Nat) (v : Option Frame) : State :=
  if lp then { s with lpFrames := mset none s.lpFrames n v } else { s with frames := mset none s.frames n v }

/-- Change an existing frame table entry. -/
def State.updFrame (s : State) (lp : Bool) (n : Nat) (f : Frame → Frame) : State :=
  match s.frame lp n with
  | some v => s.setFrame lp n (some (f v))
  | none => s

/-- Prefix index slot `n`. -/
def State.pfxAt (s : State) (n : Nat) : PfxEntry := mget {} s.pfx n

/-- Change a prefix index slot. -/
def State.updPfx (s : State) (n : Nat) (f : PfxEntry → PfxEntry) : State := { s with pfx := mupd {} s.pfx n f }

/-- The next draw of the device's random source, and the state that has made it. -/
def State.random (s : State) : Nat × State := (Config.random s.draws, { s with draws := s.draws + 1 })

/-- A free value of `w` bits, and the state that has drawn it. -/
def State.free (s : State) (w : Nat) : BitVec w × State :=
  (Config.freeValue w s.draws, { s with draws := s.draws + 1 })

/-- Apply an update for every element of a list, in order. -/
def forAll {α β : Type} (l : List α) (f : β → α → β) (b : β) : β := l.foldl f b

/-! ### Register addresses (R399, R471, R570) -/

/-- PF BAR0 offset of register `r` of bed `b`'s block. -/
def bedReg (b r : Nat) : Nat := 0x0208000 + 0x4000 * b + r
/-- PF BAR0 offset of register `r` of port `n`'s block. -/
def linkReg (n r : Nat) : Nat := 0x0800000 + 0x10000 * n + r
/-- KVX.CONFIG, word 0. -/
def kvxReg0 : Nat := 0x0C50000
/-- KVX.CONFIG, word 1. -/
def kvxReg1 : Nat := 0x0C50008
/-- TIME.LIMITS. -/
def limitsReg : Nat := 0x0300010
/-- TIME.THROTTLE. -/
def throttleReg : Nat := 0x0300018
/-- HBM.CTRL or LP.CTRL. -/
def ctrlReg (lp : Bool) : Nat := if lp then 0x0603000 else 0x0403000
/-- HBM.RETIRE0 or LP.RETIRE0. -/
def retire0Reg (lp : Bool) : Nat := if lp then 0x0603008 else 0x0403008
/-- HBM.RETIRE1. -/
def retire1Reg : Nat := 0x0403010
/-- SEC.LICENCE_EN. -/
def licenceReg : Nat := 0x0100010
/-- TWIN.CFG. -/
def twinCfgReg : Nat := 0x0C70008
/-- LINK.NODE. -/
def nodeReg : Nat := linkReg 0 0x100

/-- The reset value of a stageable register's word (R30, R338, R399, R445, R471, R485). -/
def regReset (off : Nat) : Word :=
  if off = kvxReg0 then BitVec.ofNat 64 (pack [(16, 0xC0A8), (4, 8), (12, 0), (16, 200), (16, 1000)])
  else if off = limitsReg then BitVec.ofNat 64 (pack [(16, 250), (16, 2000)])
  else if off = ctrlReg false ∨ off = ctrlReg true then BitVec.ofNat 64 (pack [(8, 4), (16, 1024), (1, 1), (7, 0), (8, 8)])
  else if 0x0800000 ≤ off ∧ off < 0x0980000 ∧ off % 0x10000 = 8 then
    BitVec.ofNat 64 (pack [(2, b2n ((off - 0x0800000) / 0x10000 ≥ 22)), (4, 15), (2, 0), (14, 9216), (2, 0), (8, 0), (16, 4096)])
  else if 0x0208000 ≤ off ∧ off < 0x0288000 ∧ (off - 0x0208000) % 0x4000 = 0x30 then 0x101010
  else if 0x0208000 ≤ off ∧ off < 0x0288000 ∧ (off - 0x0208000) % 0x4000 = 0x40 then
    BitVec.ofNat 64 (pack [(8, 0), (8, 8), (16, 512), (8, 16), (8, 32)])
  else 0

/-- The live value of a stageable register. -/
def State.cfgAt (s : State) (off : Nat) : Nat := (mget (regReset off) s.cfg off).toNat

/-- The shadow bank's value of a stageable register (R415): what has been staged, else the live value (log 30). -/
def State.shadowAt (s : State) (off : Nat) : Nat :=
  match mget none s.shadow off with
  | some v => v.toNat
  | none => s.cfgAt off

/-- Install a live value. -/
def State.setCfg (s : State) (off : Nat) (v : Word) : State := { s with cfg := mset (regReset off) s.cfg off v }

/-- The DMA channels bed `b` owns, as a mask (BED.DMA). -/
def State.dmaMask (s : State) (b : Nat) : Nat := s.cfgAt (bedReg b 0x18)
/-- The ports bed `b` owns, as a mask (BED.PORTS). -/
def State.portMask (s : State) (b : Nat) : Nat := s.cfgAt (bedReg b 0x20)
/-- BED.POLICY.KEEP_SESSIONS. -/
def State.keepSessions (s : State) (b : Nat) : Bool := bitAt (s.cfgAt (bedReg b 0x40)) 1
/-- BED.POLICY.EXPERT. -/
def State.expert (s : State) (b : Nat) : Bool := bitAt (s.cfgAt (bedReg b 0x40)) 0
/-- LR, in tokens (R258). -/
def State.retrievalLen (s : State) (b : Nat) : Nat := 256 * bitsAt (s.cfgAt (bedReg b 0x40)) 16 16
/-- BED.QUOTA. -/
def State.quota (s : State) (b : Nat) : Nat := bitsAt (s.cfgAt (bedReg b 0x48)) 0 18
/-- LINK.CFG.ROLE of a port: 0 Ruxel, 1 twin, 2 Ethernet, 3 off. -/
def State.role (s : State) (n : Nat) : Nat := bitsAt (s.cfgAt (linkReg n 8)) 0 2
/-- LINK.CFG.LANES. -/
def State.lanesAllowed (s : State) (n : Nat) : Nat := bitsAt (s.cfgAt (linkReg n 8)) 2 4
/-- Whether licensed feature `f` is in force (R2, R545): 0 EXPORT_ETH, 1 DECODE, 2 BEDS_32, 3 LONG_RETRIEVAL,
4 EWEID_EXPORT. -/
def State.licensed (s : State) (f : Nat) : Bool := bitAt (s.cfgAt licenceReg) f
/-- KVX.CONFIG.EWEID_ENABLE. -/
def State.eweidOn (s : State) : Bool := bitAt (s.cfgAt kvxReg1) 0
/-- KVX.CONFIG.HOLD_LIMIT, in T-ticks. -/
def State.holdLimit (s : State) : Nat := 100000 * bitsAt (s.cfgAt kvxReg0) 48 16
/-- TWIN.CFG.BEDS. -/
def State.twinBeds (s : State) : Nat := bitsAt (s.cfgAt twinCfgReg) 0 32
/-- TWIN.CFG.SIDE. -/
def State.twinSide (s : State) : Bool := bitAt (s.cfgAt twinCfgReg) 32
/-- TWIN.CFG.WARM. -/
def State.twinWarm (s : State) : Bool := bitAt (s.cfgAt twinCfgReg) 33

/-! ### Beds and nibs (R14, R15, R393, R394, R498) -/

/-- The 32 bed numbers. -/
def bedNums : List Nat := List.range 32

/-- Whether a bed exists (R398). -/
def State.bedExists (s : State) (b : Nat) : Bool := (s.bed b).st != .absent

/-- Whether nib `p` lies in bed `b`'s rectangle (R393, R394). -/
def inRect (bd : Bed) (p : Nat) : Bool :=
  let x := p % 40
  let y := p / 40
  decide (4 * bd.x0 ≤ x) && decide (x < 4 * (bd.x0 + bd.w)) && decide (4 * bd.y0 ≤ y) && decide (y < 4 * (bd.y0 + bd.h))

/-- The bed that holds nib `p`. -/
def State.bedOf (s : State) (p : Nat) : Option Nat :=
  bedNums.find? fun b => s.bedExists b && inRect (s.bed b) p

/-- Whether nib `p` is neither DISABLED nor FENCED (R103, R490). -/
def State.nibOn (s : State) (p : Nat) : Bool :=
  s.boot.meshUp && (match (s.nib p).st with | .disabled => false | .fenced => false | _ => true)

/-- The physical indices of a bed's rectangle in floor-plan order (R498). -/
def rectNibs (bd : Bed) : List Nat :=
  (List.range (4 * bd.h)).flatMap fun j => (List.range (4 * bd.w)).map fun i => 40 * (4 * bd.y0 + j) + 4 * bd.x0 + i

/-- A bed's logical nibs, in order, as physical indices (R15, R498). -/
def State.bedNibs (s : State) (b : Nat) : List Nat := (rectNibs (s.bed b)).filter s.nibOn

/-- The logical number of nib `p` in bed `b`. -/
def State.logical (s : State) (b p : Nat) : Nat := ((s.bedNibs b).takeWhile (· != p)).length

/-- The physical index of logical nib `n` of bed `b`. -/
def State.physical (s : State) (b n : Nat) : Option Nat := (s.bedNibs b)[n]?

/-- Stitch boundaries through a bed's interior (R393, R498). -/
def stitches (bd : Bed) : Nat :=
  b2n (decide (bd.x0 ≤ 4) && decide (5 ≤ bd.x0 + bd.w - 1)) + b2n (decide (bd.y0 ≤ 3) && decide (4 ≤ bd.y0 + bd.h - 1))

/-- The barrier latency D (R498). -/
def barrierD (bd : Bed) : Nat := 6 + bd.w + bd.h + 3 * stitches bd

/-- Whether the function serving bed `b` can be reached: the PF always, a VF while it is enabled (R390, R394). -/
def State.fnOn (s : State) (f : Nat) : Bool := f == 0 || decide (f ≤ s.pcie.numVfs)

/-- A function's effective D3hot (R389). -/
def State.inD3 (s : State) (f : Nat) : Bool := (s.fn f).d3 || (s.fn 0).d3

/-- Beds that own a port. -/
def State.portBeds (s : State) (n : Nat) : List Nat := bedNums.filter fun b => s.bedExists b && bitAt (s.portMask b) n

/-- Whether a bed's traffic may pass a port (R406, R455): the bed owns it, or no bed does and the bed has a weight in its
group. -/
def State.bedMayUse (s : State) (b n : Nat) : Bool :=
  s.bedExists b && (bitAt (s.portMask b) n || ((s.portBeds n).isEmpty && s.role n == 0 &&
    bitsAt (s.cfgAt (bedReg b 0x38)) (8 * (n / 3)) 8 != 0))

end Sys2Proof.Machine
end

