-- ==== Sys2Proof/Machine/Bundle.lean ====
section
/-!
DEFINITION. Bundles, row addresses, headers and routes (R108–R126), macro words (R156–R170, R195, R196), tile-list entries
and descriptors (R197, R204, R226): what the bits of a script mean.
-/
namespace Sys2Proof.Machine

/-! ### Bundles and slots -/

/-- Slot `k` of a bundle: 0 MATRIX, 1 VECTOR, 2 MOVE, 3 CONTROL (R108). -/
def slotWord (b : Row) (k : Nat) : Nat := bitsAt b.toNat (64 * k) 64

/-- A slot word's opcode (R108). -/
def slotOp (w : Nat) : Nat := w / 2 ^ 58

/-- Field [hi:lo] of a slot word. -/
def fld (w hi lo : Nat) : Nat := bitsAt w lo (hi + 1 - lo)

/-- A script-store bundle as it is read: corrected, or nothing (R83, R154); true when a correction was made. -/
def Nib.bundleAt (n : Nib) (a : Nat) : Option Row × Bool :=
  let a := a % 8192
  let up := mget 0 n.scriptUpset a
  let b := mget 0 n.script a
  if up = 0 then (some b, false)
  else
    let (r, c) := houseRead (rowBytes b) up
    (r.map rowOf, c)

/-- The running slot's descriptor (R97). -/
def Nib.slotD (n : Nib) : SlotDesc := mget {} n.slots n.activeSlot

/-- ROUTE_BUNDLES of the running script's header (R113). -/
def Nib.routeBundles (n : Nib) : Nat :=
  match (n.bundleAt n.slotD.start).1 with
  | some b => bitsAt b.toNat 0 5
  | none => 0

/-- The script-store address of executable bundle `k` of the running script (R113). -/
def Nib.bundleAddr (n : Nib) (k : Nat) : Nat := n.slotD.start + 1 + n.routeBundles + k

/-- The bundle the running script is at. -/
def Nib.bundle (n : Nib) : Option Row × Bool := n.bundleAt (n.bundleAddr n.pc)

/-- A slot of executable bundle `k`; 0 where the bundle cannot be read. -/
def Nib.slotAt (n : Nib) (k slot : Nat) : Nat :=
  match (n.bundleAt (n.bundleAddr k)).1 with
  | some b => slotWord b slot
  | none => 0

/-- Route `r` of the running script (R114). -/
def Nib.route (n : Nib) (r : Nat) : RouteEntry :=
  match (n.bundleAt (n.slotD.start + 1 + r / 4)).1 with
  | some b =>
    let w := slotWord b (r % 4)
    { nib := bitsAt w 0 11, slot := bitsAt w 11 3, handle := bitsAt w 14 6, tally := bitsAt w 20 6, async := bitAt w 26 }
  | none => {}

/-! ### Loop counters and row addresses (R111, R112) -/

/-- Loop counter L(i): 0 for L(0) and outside the loop. -/
def Nib.counter (n : Nib) (i : Nat) : Nat :=
  match n.loops.find? fun f => f.level == i with
  | some f => f.iter
  | none => 0

/-- A resolved row address: handle and index. -/
structure RAddr where
  handle : Nat
  index : Nat
deriving DecidableEq, Repr

/-- A full row address RA. -/
def Nib.ra (n : Nib) (w : Nat) : RAddr :=
  ⟨bitsAt w 0 6, (bitsAt w 6 16 + sext 8 (bitsAt w 24 8) * n.counter (bitsAt w 22 2)).toNat⟩

/-- A short row address RA24 of an instruction of `rows` rows. -/
def Nib.ra24 (n : Nib) (w rows : Nat) : RAddr :=
  ⟨bitsAt w 0 6, bitsAt w 6 16 + rows * n.counter (bitsAt w 22 2)⟩

/-- Handle `h` of slot `s` (R94). -/
def Nib.handle (n : Nib) (s h : Nat) : Handle := mget {} n.handles (64 * s + h)

/-- The scratchpad row of index `i` of handle `h` of slot `s` (R95). -/
def Nib.rowIn (n : Nib) (s h i : Nat) : Nat :=
  ((mget {} n.slots s).segBase * 128 + (n.handle s h).offset + i) % 65536

/-- The scratchpad row of index `i` of handle `h` of the running slot (R95). -/
def Nib.hrow (n : Nib) (h i : Nat) : Nat := n.rowIn n.activeSlot h i

/-- Rows of handle `h` of the running slot. -/
def Nib.hlen (n : Nib) (h : Nat) : Nat := (n.handle n.activeSlot h).length

/-! ### Macro words -/

/-- The fields of extension word `k` of the macro whose head is the current bundle (R157). -/
def Nib.extWord (n : Nib) (k : Nat) : Nat := bitsAt (n.slotAt (n.pc + k) 0) 0 55

/-- Decode a MATMUL at the current bundle (R170); none for a reserved format. -/
def Nib.matmul (n : Nib) (h : Nat) : Option Mat :=
  match Fmt.ofCode (fld h 18 15), Fmt.ofCode (fld h 14 11) with
  | some fa, some fb =>
    let w1 := n.extWord 1
    let w2 := n.extWord 2
    let w3 := n.extWord 3
    let w4 := n.extWord 4
    some {
      ah := fld h 57 52, ash := fld h 51 46, bh := fld h 45 40, cmh := fld h 39 34, ch := fld h 33 28, csh := fld h 27 22
      sreg := fld h 21 19, fa := fa, fb := fb, ofmt := fld h 10 7
      tm := 16 * 2 ^ fld w1 54 52, tn := 16 * 2 ^ fld w1 51 50, tkb := fld w1 49 43 + 1, arrays := fld w1 42 35
      base := fld w1 34 29, korder := bitAt w1 28, slots := fld w1 27 22 + 1, mp := 16 * (fld w1 21 11 + 1)
      np := 16 * (fld w1 10 3 + 1)
      kpb := fld w2 54 39 + 1, m0 := 16 * fld w2 38 26, n0 := 16 * fld w2 25 14, pdh := fld w2 13 8, edh := fld w2 7 2
      pro := bitAt w2 1, epi := bitAt w2 0
      tg := bitAt w3 54, gtally := fld w3 53 48, gspan := fld w3 47 42 + 1, gcount := fld w3 41 25, hmode := fld w3 24 23
      hroute := fld w3 22 17, kmode := fld w3 16 15, kroute := fld w3 14 9, src := fld w3 8 6
      k0b := fld w4 54 39, knb := fld w4 38 23 + 1 }
  | _, _ => none

/-- Decode a FINISH (R195). -/
def finOf (h : Nat) : Fin :=
  { hh := fld h 57 52, sth := fld h 51 46, ch := fld h 45 40, csh := fld h 39 34, sreg := fld h 33 31, ofmt := fld h 30 27
    edh := fld h 26 21, epi := bitAt h 20, mp := 16 * (fld h 19 9 + 1), np := 16 * (fld h 8 1 + 1) }

/-- Decode an ATTEND at the current bundle (R196). -/
def Nib.attendOf (n : Nib) (h : Nat) : Att :=
  let w := n.extWord 1
  { lh := fld h 57 52, adh := fld h 51 46, base := fld h 45 40, slots := fld h 39 34 + 1, arrays := fld h 33 26
    sreg := fld h 25 23, lmax := fld h 22 12 + 1, tg := bitAt w 54, gtally := fld w 53 48, gspan := fld w 47 42 + 1 }

/-- A tile-list entry (R197, R236). -/
structure TileEnt where
  q0 : Nat
  qrows : Nat
  k0 : Nat
  klen : Nat
  head : Nat
  slot : Nat
  gcount : Nat
  mask : Nat
  seg : Bool
  op : Nat
  first : Bool
  last : Bool
  tm : Nat
deriving DecidableEq, Repr

/-- Decode a tile-list entry. -/
def tileEnt (w : Nat) : TileEnt :=
  { q0 := bitsAt w 0 20, qrows := bitsAt w 20 9 + 1, k0 := bitsAt w 29 20, klen := bitsAt w 49 12 + 1, head := bitsAt w 61 8
    slot := bitsAt w 69 6, gcount := bitsAt w 75 17, mask := bitsAt w 92 2, seg := bitAt w 94, op := bitsAt w 97 3
    first := bitAt w 100, last := bitAt w 101, tm := bitsAt w 102 3 }

/-- Decode a stage entry (R204). -/
def stageOf (w : Nat) : FuseStage :=
  { op := bitsAt w 0 8, bf16 := bitAt w 8, h1 := bitsAt w 9 6, h2 := bitsAt w 15 6, sub := bitsAt w 21 3
    param := bitsAt w 24 8, imm0 := bitsAt w 32 32, imm1 := bitsAt w 64 32, h3 := bitsAt w 96 6 }

/-- The attention descriptor (R226). -/
structure AttDesc where
  scale : Lane
  d : Nat
  g : Nat
  kv4 : Bool
  qfmt : Nat
  span : Nat
  win : Nat
  qh : Nat
  qsh : Nat
  kh : Nat
  vh : Nat
  rih : Nat
  rh : Nat
  rroute : Nat
  oh : Nat
  osh : Nat
  ofmt : Nat
  edh : Nat
  epi : Bool
  npo : Nat
deriving DecidableEq, Repr

/-- Decode an attention descriptor from its two rows. -/
def attDesc (w : Nat) : AttDesc :=
  { scale := BitVec.ofNat 32 (bitsAt w 0 32), d := 64 * 2 ^ bitsAt w 32 2, g := bitsAt w 34 6 + 1, kv4 := bitAt w 40
    qfmt := bitsAt w 41 4, span := 1024 * 2 ^ bitsAt w 45 2, win := bitsAt w 47 20, qh := bitsAt w 67 6
    qsh := bitsAt w 73 6, kh := bitsAt w 79 6, vh := bitsAt w 85 6, rih := bitsAt w 91 6, rh := bitsAt w 97 6
    rroute := bitsAt w 103 6, oh := bitsAt w 109 6, osh := bitsAt w 115 6, ofmt := bitsAt w 121 4
    edh := bitsAt w 125 6, epi := bitAt w 131, npo := 16 * (bitsAt w 132 10 + 1) }

end Sys2Proof.Machine
end

