-- ==== Sys2Proof/Machine/Images.lean ====
section
/-!
DEFINITION. The tables the device keeps in HBM as a read of device memory shows them (R271, R283, R295, R301, R392, R429): the records'
layouts, and their places, which the spec leaves open (log 190).
-/
namespace Sys2Proof.Machine

/-- Session number (R293). -/
def sesNum (i inc : Nat) : Nat := i + 2 ^ 18 * inc

/-- The 256 bytes of session entry `i` (R295). -/
def Session.image (i : Nat) (e : Session) : List Byte :=
  leBytes 256 (pack [(32, sesNum i e.inc), (3, e.st.code), (5, e.bed), (12, e.tenant), (8, e.model), (1, b2n e.noPrefix), (3, 0),
    (21, e.maxLen), (21, e.c), (22, 0), (48, e.listAddr), (16, 0), (32, e.listGen), (32, e.lastToken), (128, leNat e.lastHash),
    (21, e.lastEntry), (1, b2n e.tailInexact), (1, b2n e.tailSaturated), (41, 0), (64, e.lastSeal), (64, e.lastActive),
    (32, e.idleLimit), (16, e.reqTag), (1, b2n e.cancelSeen), (1, b2n e.keepOnLate), (1, b2n e.streamed), (1, b2n e.mirror),
    (1, b2n e.needsPrefill), (1, b2n e.warm), (10, 0), (64, e.deadline), (32, e.held), (32, e.admitC), (32, e.priorC), (1248, 0)])

/-- The 64 bytes of a tenant's record (R301), LEVEL in two's complement. -/
def Tenant.image (t : Tenant) : List Byte :=
  leBytes 64 (pack [(64, (t.level % 2 ^ 64).toNat), (64, t.last), (32, t.rate), (32, t.burst), (32, t.held), (1, b2n t.valid),
    (1, b2n t.unlimited), (30, 0), (128, t.salt), (128, 0)])

/-- STATE of a frame-table entry (R272). -/
def FrameSt.code : FrameSt → Nat
  | .free => 0 | .reserved => 1 | .sealed => 2 | .shared => 3 | .copying => 4 | .draining => 5

/-- The 16 bytes of a frame-table entry (R271). -/
def Frame.image (f : Frame) : List Byte :=
  leBytes 16 (pack [(32, f.addr), (2, f.size), (3, f.st.code), (5, f.bed), (22, 0), (32, f.owner), (24, f.pos), (8, 0)])

/-- STATE of a prefix index entry (R283). -/
def PfxSt.code : PfxSt → Nat
  | .empty => 0 | .valid => 1 | .tombstone => 2

/-- The 64 bytes of prefix index entry `n` (R283); the place of its frame list is a free value (log 190). -/
def PfxEntry.image (n : Nat) (e : PfxEntry) : List Byte :=
  leBytes 64 (pack [(128, leNat e.hash), (21, e.parent), (12, e.block), (5, e.bed), (2, e.st.code), (1, b2n e.pinned), (1, b2n e.inexact),
    (1, b2n e.saturated), (21, 0), (24, e.refs), (16, e.children), (24, 0),
    (48, if e.st = .valid then (Config.freeValue 48 n).toNat else 0), (16, 0), (64, e.lastUse), (128, 0)])

/-- The 32 bytes at offset `o` of a copy of the system area, where a table lies there (R429; log 190): the prefix index, the session
table, then the two frame tables. -/
def State.tableAt (s : State) (o : Nat) : Option (List Byte) :=
  let frames (m : SMap (Option Frame)) (k : Nat) : List Byte :=
    let one (n : Nat) : List Byte := match mget none m n with | some f => f.image | none => List.replicate 16 0
    one (k / 16) ++ one (k / 16 + 1)
  if o < 0x8000000 then some (slice (PfxEntry.image (o / 64) (mget {} s.pfx (o / 64))) (o % 64) 32)
  else if o < 0x8000000 + 256 * 200000 then
    let k := o - 0x8000000
    some (slice (Session.image (k / 256) (mget {} s.sessions (k / 256))) (k % 256) 32)
  else if 0xC000000 ≤ o ∧ o < 0xE000000 then some (frames s.frames (o - 0xC000000))
  else if 0xE000000 ≤ o ∧ o < 0x10000000 then some (frames s.lpFrames (o - 0xE000000))
  else none

/-- Where a bed's tenant table begins: 4,096 records of 64 bytes at the top of its arena (R301, R392; log 190). -/
def Bed.tenantBase (bd : Bed) : Nat := bd.arenaBase + bd.arenaSize - 0x40000

/-- The 32 bytes at device address `a`, where a tenant table lies there. -/
def State.tenantAt (s : State) (a : Nat) : Option (List Byte) :=
  (s.beds.find? fun e => e.2.arenaSize != 0 && decide (e.2.tenantBase ≤ a) && decide (a < e.2.tenantBase + 0x40000)).map fun e =>
    let k := a - e.2.tenantBase
    slice (mget {} e.2.tenants (k / 64)).image (k % 64) 32

end Sys2Proof.Machine
end

