-- ==== Sys2Proof/Machine/Record.lean ====
section
/-!
DEFINITION. The fault log, completion and event records, the hold area and interrupt messages (R359–R362, R378, R379,
R401–R403, R523), and device memory with the house code (R28, R29, R387, R392, R423–R435).
-/
namespace Sys2Proof.Machine

/-! ### Device memory -/

/-- Where a device address lies (R28, R424). -/
inductive Place where
  | chan (c : Nat)                  -- a memory channel
  | pad (p row : Nat)               -- a scratchpad row of a nib
  | bad                             -- reserved, register space, or a reserved half of a window
deriving DecidableEq, Repr

/-- The stack of an HBM3E pseudo-channel (R21). -/
def hbmStack (q : Nat) : Nat := q / 32

/-- The device of an LPDDR5X channel, and which of its four channels it is (R21). -/
def lpDevice (m : Nat) : Nat × Nat := (m / 4, m % 4)

/-- The place of a device address (R28, R424). -/
def placeOf (a : Nat) : Place :=
  if a < 0x006000000000 then .chan (a / 0xC0000000)
  else if 0x008000000000 ≤ a ∧ a < 0x010000000000 then .chan (128 + (a - 0x008000000000) / 0x400000000)
  else if 0x010000000000 ≤ a ∧ a < 0x010140000000 then
    let o := (a - 0x010000000000) % 0x400000
    if o < 0x200000 then .pad ((a - 0x010000000000) / 0x400000) (o / 32) else .bad
  else .bad

/-- Whether an access may name the address: R29 and, for a retired channel, R424. -/
def State.addrOk (s : State) (a : Nat) : Bool :=
  match placeOf a with
  | .chan c => (s.chan c).st != .retired
  | .pad p _ => s.nibOn p
  | .bad => false

/-- Whether every byte of a range may be named. Ranges are judged by their codewords (R425). -/
def State.rangeOk (s : State) (a n : Nat) : Bool :=
  (List.range (cdiv (a % 32 + n) 32)).all fun i => s.addrOk (a / 32 * 32 + 32 * i)

/-- The pseudo-channels over which a copy of the system area is striped (R429): those in service since the last start, of
stacks 0 and 1 for copy A, of stacks 2 and 3 for copy B. -/
def State.copyChans (s : State) (b : Bool) : List Nat :=
  (List.range 128).filter fun q => hbmStack q / 2 == b2n b && (s.chan q).st != .retired

/-- The offset in its copy of the system area of address `a` (R429); none outside the area. -/
def State.sysOffset (s : State) (a : Nat) : Option Nat :=
  match placeOf a with
  | .chan c =>
    let o := a % 0xC0000000
    if 128 ≤ c ∨ 0x1000000 ≤ o ∨ (s.chan c).st = .retired then none
    else
      let own := s.copyChans (decide (64 ≤ c))
      some ((o / 4096 * own.length + (own.takeWhile (· != c)).length) * 4096 + o % 4096)
  | _ => none

/-- The 32 bytes a channel holds at address `a`: of a table the device keeps there, or what was written (R295, R301, R429). -/
def State.stored (s : State) (a : Nat) : List Byte :=
  match (s.sysOffset a).bind s.tableAt with
  | some bs => bs
  | none => match s.tenantAt a with
    | some bs => bs
    | none => mgetRange 0 s.mem a 32

/-- The data of the codeword at address `a` (a multiple of 32) and what the decoder finds (R433, R441): nothing when it
is uncorrectable, and whether a correction is counted. -/
def State.codeword (s : State) (a : Nat) : Option (List Byte) × Bool :=
  match placeOf a with
  | .pad p r => houseRead (rowBytes (mget 0 (s.nib p).pad r)) (mget 0 (s.nib p).padUpset r)
  | .chan c =>
    if (s.chan c).dead then (none, false) else houseRead (s.stored a) (mget 0 s.memUpset a)
  | .bad => (none, false)

/-- Where the other copy of the system area holds the byte at `a` (R429); none outside the area, or where that copy is
shorter. -/
def State.sysTwin (s : State) (a : Nat) : Option Nat :=
  match s.sysOffset a with
  | some k =>
    let other := s.copyChans (decide (a / 0xC0000000 < 64))
    let u := k / 4096
    match other[u % other.length]? with
    | some q => if u / other.length < 4096 then some (0xC0000000 * q + u / other.length * 4096 + k % 4096) else none
    | none => none
  | none => none

/-- Whether every unit of a copy of the system area is readable (HBM.SYS, R441, R445). -/
def State.copyWhole (s : State) (b : Bool) : Bool :=
  (s.copyChans b).all fun c => !(s.chan c).dead && s.memUpset.all fun e =>
    decide (e.1 < 0xC0000000 * c) || decide (0xC0000000 * c + 0x1000000 ≤ e.1) || (s.codeword e.1).1.isSome

/-- The retraining under way in a tier: its channel and when it stopped. -/
def MemSys.now (m : MemSys) (lp : Bool) : Option (Nat × Nat) := if lp then m.lpNow else m.hbmNow

/-- Set the retraining under way in a tier. -/
def MemSys.setNow (m : MemSys) (lp : Bool) (v : Option (Nat × Nat)) : MemSys :=
  if lp then { m with lpNow := v } else { m with hbmNow := v }

/-- Whether private frames lie in a channel (R440). -/
def State.privateIn (s : State) (c : Nat) : Bool :=
  (if c < 128 then s.frames else s.lpFrames).any fun e => match e.2 with
    | some f => (f.st == .reserved || f.st == .sealed || f.st == .copying) && placeOf (65536 * f.addr) == .chan c
    | none => false

/-- Start the next retraining of a tier (R442, R443): one at a time, the lowest waiting channel first, one to be emptied
only once it is empty. Requests for a channel no longer in service go. -/
def State.retrainNext (s : State) (lp : Bool) : State :=
  let base := if lp then 128 else 0
  let q := s.msys.retrainQ.filter fun r => match (s.chan (r.2.1 + if r.1 then 128 else 0)).st with
    | .active => true | .retraining => true | _ => false
  let s := { s with msys := { s.msys with retrainQ := q } }
  if (s.msys.now lp).isSome then s
  else
    let ready := q.filter fun r => r.1 == lp && !(r.2.2 && s.privateIn (base + r.2.1))
    match ready.foldl (fun (m : Option (Bool × Nat × Bool)) r => match m with
      | none => some r
      | some x => if r.2.1 < x.2.1 then some r else some x) none with
    | none => s
    | some r =>
      let s := s.updChan (base + r.2.1) fun ch => { ch with st := .retraining }
      { s with msys := { s.msys with retrainQ := s.msys.retrainQ.erase r }.setNow lp (some (r.2.1, s.now)) }

/-- Queue a retraining of a channel, which must be ACTIVE, and start it if none runs (R442, R445). -/
def State.queueRetrain (s : State) (lp : Bool) (ch : Nat) (migrate : Bool) : State :=
  if (s.chan (ch + if lp then 128 else 0)).st != .active || decide ((if lp then 32 else 128) ≤ ch) then s
  else { s with msys := { s.msys with retrainQ := s.msys.retrainQ ++ [(lp, ch, migrate)] } }.retrainNext lp

/-- Count a correction in the place it happened (R434): a channel's ERR_CORR, also for the rate that starts its retraining
(R442), or NIB.ERR_CORR. -/
def State.countCorr (s : State) (a : Nat) : State :=
  match placeOf a with
  | .pad p _ => s.updNib p fun n => { n with errCorr := n.errCorr + 1 }
  | .chan c =>
    let sec := s.now / 100000000
    let lp := decide (128 ≤ c)
    let s := s.updChan c fun ch => { ch with
      errCorr := ch.errCorr + 1
      corrSec := sec
      corrCount := if ch.corrSec = sec then ch.corrCount + 1 else 1 }
    let lim := bitsAt (s.cfgAt (ctrlReg lp)) 8 16
    if lim != 0 && (s.chan c).corrCount == lim then s.queueRetrain lp (if lp then c - 128 else c) false else s
  | .bad => s

/-- Store a codeword's data in one place; its upset goes with the old contents. A dead channel drops it (R441). -/
def State.putOne (s : State) (a : Nat) (bs : List Byte) : State :=
  match placeOf a with
  | .pad p r => s.updNib p fun n => { n with pad := mset 0 n.pad r (rowOf bs), padUpset := merase n.padUpset r, padFl := merase n.padFl r }
  | .chan c =>
    if (s.chan c).dead then s else { s with mem := msetRange 0 s.mem a bs, memUpset := merase s.memUpset a }
  | .bad => s

/-- Store a whole codeword's data; a write to the system area goes to both copies (R429). -/
def State.putCw (s : State) (a : Nat) (bs : List Byte) : State :=
  match s.sysTwin a with
  | none => s.putOne a bs
  | some b => (s.putOne a bs).putOne b bs

/-- Rewrite a 4 KiB unit of one copy of the system area from the other, from codeword `k` (R429). -/
def State.rewriteUnit (s : State) (a b : Nat) : Nat → State
  | 0 => s
  | n + 1 =>
    let s := s.rewriteUnit a b n
    match (s.codeword (b + 32 * n)).1 with
    | some d => s.putOne (a + 32 * n) d
    | none => s

/-- Count an uncorrectable codeword of a channel, also for the limit that marks it (R438, R445). -/
def State.countUncorr (s : State) (a : Nat) : State :=
  match placeOf a with
  | .chan c => s.updChan c fun ch => { ch with errUncorr := ch.errUncorr + 1, epochUncorr := ch.epochUncorr + 1 }
  | _ => s

/-- A codeword of the system area that one copy cannot give, served from the other, and the unit rewritten (R429, R434); a
channel that has stopped drops the rewriting (R441). -/
def State.fromTwin (s : State) (a : Nat) : Option (List Byte) × State :=
  match s.sysTwin a with
  | none => (none, s)
  | some b =>
    match s.codeword b with
    | (none, _) => (none, s)
    | (some bs, c) =>
      let s := if c then s.countCorr b else s
      let s := s.countUncorr a
      let dead := match placeOf a with | .chan q => (s.chan q).dead | _ => false
      (some bs, if dead then s
        else { s.rewriteUnit (a / 4096 * 4096) (b / 4096 * 4096) 128 with
          msys := { s.msys with repaired := s.msys.repaired + 1 } })

/-- The place a read of the codeword at `a` is served from first: in the system area copy A's (R429). -/
def State.firstPlace (s : State) (a : Nat) : Nat :=
  if decide (0xC0000000 * 64 ≤ a) && decide (a < 0xC0000000 * 128) then (s.sysTwin a).getD a else a

/-- What a read of the codeword at `a` is served with, corrections counted (R429, R433, R434). -/
def State.served (s : State) (x : Nat) : Option (List Byte) × State :=
  let a := s.firstPlace x
  match s.codeword a with
  | (none, _) => s.fromTwin a
  | (some bs, c) => (some bs, if c then s.countCorr a else s)

/-- Read the codewords from `a` (a multiple of 32): the bytes, or the address of the first uncorrectable one. -/
def State.readCws (s : State) (a : Nat) : Nat → (Except Nat (List Byte)) × State
  | 0 => (.ok [], s)
  | n + 1 =>
    match s.served a with
    | (none, s) => (.error a, s)
    | (some bs, s) =>
      match s.readCws (a + 32) n with
      | (.ok rest, s) => (.ok (bs ++ rest), s)
      | (.error e, s) => (.error e, s)

/-- Read `n` bytes of device memory from `a` (R425): the bytes, or the first uncorrectable codeword's address. -/
def State.readDev (s : State) (a n : Nat) : (Except Nat (List Byte)) × State :=
  match s.readCws (a / 32 * 32) (cdiv (a % 32 + n) 32) with
  | (.ok bs, s) => (.ok ((bs.drop (a % 32)).take n), s)
  | (.error e, s) => (.error e, s)

/-- Write the part of `bs` that falls in the codeword at `cw` when the bytes start at `a`: whole, or as a read, a merge
and a write (R425). Answers whether the codeword's write was dropped. -/
def State.writeCw (s : State) (cw a : Nat) (bs : List Byte) : State × Bool :=
  let lo := max cw a
  let hi := min (cw + 32) (a + bs.length)
  let part := (bs.drop (lo - a)).take (hi - lo)
  if lo = cw ∧ hi = cw + 32 then (s.putCw cw part, false)
  else
    match s.served cw with
    | (none, s) => (s, true)
    | (some old, s) =>
      (s.putCw cw (old.take (lo - cw) ++ part ++ old.drop (hi - cw)), false)

/-- Write codewords from `cw`; answers the addresses of those dropped. -/
def State.writeCws (s : State) (cw a : Nat) (bs : List Byte) : Nat → State × List Nat
  | 0 => (s, [])
  | n + 1 =>
    let (s, d) := s.writeCw cw a bs
    let (s, ds) := s.writeCws (cw + 32) a bs n
    (s, if d then cw :: ds else ds)

/-- Write bytes of device memory from `a` (R425); answers the codewords whose write was dropped. -/
def State.writeDev (s : State) (a : Nat) (bs : List Byte) : State × List Nat :=
  s.writeCws (a / 32 * 32) a bs (cdiv (a % 32 + bs.length) 32)

/-! ### The fault log (R523) -/

/-- One fault-log entry's bytes (R523). -/
def logBytes (time code kind bed unit where_ epoch aux : Nat) : List Byte :=
  leBytes 32 (pack [(64, time), (8, code), (8, kind), (8, bed), (8, unit), (32, where_), (32, epoch), (32, aux)])

/-- The lowest twin-role port that is UP (R511). -/
def State.twinPort (s : State) : Option Nat :=
  (List.range 24).find? fun n => s.role n == 1 && (s.port n).st == .up

/-- Send a twin protocol message on the port of R511; while none is UP it waits at a port that retrains (R464). -/
def State.sendTwin (s : State) (m : TwinMsg) : State :=
  match s.twinPort.orElse fun _ => (List.range 24).find? fun n => s.role n == 1 && (s.port n).st == .retraining with
  | some n => s.emit (.twinMsg n m)
  | none => s

/-- Append to the own log, and send the entry to the twin of a formed pair (R523). -/
def State.logEntry (s : State) (code kind bed unit where_ aux : Nat) : State :=
  let e := logBytes s.now code kind bed unit where_ s.boot.epoch aux
  let t := s.twin
  let s := { s with twin := { t with
    log := mset [] t.log t.logHead e
    logHead := (t.logHead + 1) % 1024
    written := satAdd 32 t.written 1 } }
  if t.hellod && t.st != .alone && t.st != .solo && t.st != .displaced then s.sendTwin (.log e) else s

/-! ### Records, the hold area and messages -/

/-- Send an MSI-X message: none while MSI-X is not enabled; a masked vector sets its pending bit (R402; log 201). -/
def State.message (s : State) (f v : Nat) : State :=
  let x := s.fn f
  if !x.msixOn then s
  else if x.fnMask || (mget {} x.vecs v).masked then
    s.updFn f fun x => { x with pendingVec := if x.pendingVec.contains v then x.pendingVec else x.pendingVec ++ [v] }
  else s.emit (.msix f v)

/-- Messages whose vectors are no longer masked go out (R402). -/
def State.sendPending (s : State) (f : Nat) : State :=
  let vs := (s.fn f).pendingVec
  vs.foldl (fun s v => s.message f v) (s.updFn f fun x => { x with pendingVec := [] })

/-- Whether the device may write to the host memory of function `f` and send it messages now (R389, R394). -/
def State.hostOpen (s : State) (f : Nat) : Bool := s.fnOn f && !s.inD3 f

/-- Whether a record for queue `q` of bed `b` can be written now: the queue exists, records are enabled, the ring has a
free place, and a ring in host memory can be reached (R359, R360, R389, R403). -/
def State.canWrite (s : State) (b q : Nat) : Bool :=
  let bd := s.bed b
  match mget none bd.queues q with
  | none => false
  | some u => bd.intrEn && (u.cqTail + 1) % u.cqSize != u.cqHead && (u.cqHbm || s.hostOpen b) && !(q == 0 && u.gone)

/-- Change queue `q` of bed `b`. -/
def State.updQueue (s : State) (b q : Nat) (f : Queue → Queue) : State :=
  s.updBed b fun bd => match mget none bd.queues q with
    | some u => { bd with queues := mset none bd.queues q (some (f u)) }
    | none => bd

/-- The queue's message, at once; both moderation counts restart (R402). In D3hot it is owed until D0, while INTR_EN is 0 until it is 1
(R389, R403). -/
def State.queueMessage (s : State) (b q : Nat) : State :=
  match mget none (s.bed b).queues q with
  | none => s
  | some u =>
    if s.hostOpen b && (s.bed b).intrEn then (s.updQueue b q fun u => { u with count := 0, since := none, unsent := false }).message b u.vector
    else s.updQueue b q fun u => { u with count := 0, since := none, unsent := true }

/-- What a function's return to D0, or its INTR_EN, lets go (R389, R402, R403): replies to host memory that waited, then the messages
its written records call for. -/
def State.sendOwed (s : State) (b : Nat) : State :=
  let s := if s.hostOpen b then
      ((s.fn b).owed.foldl (fun s w => s.emit (.hostWrite b w.1 w.2)) s).updFn b fun x => { x with owed := [] }
    else s
  (mkeys (fun _ q => match q with | some u => u.unsent | none => false) (s.bed b).queues).foldl
    (fun s q => s.queueMessage b q) s

/-- What a written record asks of the interrupt (R402): an event, or a status that fails, its message at once; a QUIET record
nothing (log 12). -/
def State.moderate (s : State) (b q : Nat) (r : Rec) (quiet : Bool) : State :=
  let m := mget {} (s.bed b).cqMod q
  match mget none (s.bed b).queues q with
  | none => s
  | some u =>
    if r.event || (r.status != 0 && r.status != 0x40) then s.queueMessage b q
    else if quiet then s
    else if m.count ≤ 1 || decide (m.count ≤ u.count + 1) then s.queueMessage b q
    else s.updQueue b q fun u => { u with count := u.count + 1, since := some (u.since.getD s.now) }

/-- Write a record into its ring, with the pass's PHASE (R359), then see to its message. -/
def State.writeRecord (s : State) (b q : Nat) (r : Rec) (quiet : Bool) : State :=
  match mget none (s.bed b).queues q with
  | none => s
  | some u =>
    let bs := r.bytes u.phase
    let a := u.cqBase + 32 * u.cqTail
    let s := if u.cqHbm then (s.writeDev a bs).1 else s.emit (.hostWrite b a bs)
    let s := s.updQueue b q fun u => { u with
      cqTail := (u.cqTail + 1) % u.cqSize
      phase := if (u.cqTail + 1) % u.cqSize = 0 then !u.phase else u.phase }
    s.moderate b q r quiet

/-- Queue a record: written at once where it can be and none waits before it, else held (R360, R383). -/
def State.queueRecord (s : State) (b q : Nat) (r : Rec) (quiet : Bool) : State :=
  if s.canWrite b q && (s.bed b).held.all (fun h => h.q != q) then s.writeRecord b q r quiet
  else s.updBed b fun bd => { bd with held := bd.held ++ [⟨q, r, quiet⟩] }

/-- The TIME field of a record (R353, R378). -/
def State.stamp (s : State) : Nat := s.now / 100 % 2 ^ 32

/-- Where event records of one DETAIL merge (R362): the waiting record of the same function takes the newer STATUS and
result fields. -/
def mergeEvent (r : Rec) : List HeldRec → Option (List HeldRec)
  | [] => none
  | h :: hs =>
    if h.body.event && h.body.detail == r.detail && r.detail != 3 then
      some ({ h with body := { h.body with
        status := r.status, r0 := r.r0, r1 := r.r1, r2 := r.r2, r3 := r.r3, merged := min 31 (h.body.merged + 1) } } :: hs)
    else (mergeEvent r hs).map (h :: ·)

/-- Queue an event record for completion queue 0 of function `f` (R362, R379). A VF whose bed is ABSENT has no hold area,
and gets none (log 13); the PF has its queues and hold area whether bed 0 exists or not (log 26). -/
def State.queueEvent (s : State) (f : Nat) (r : Rec) : State :=
  if f != 0 && !s.bedExists f then s
  else match mergeEvent r (s.bed f).held with
    | some h => s.updBed f fun bd => { bd with held := h }
    | none => s.queueRecord f 0 r false

/-- An event: its record's fields (R379) and what the fault log says of it (R523). -/
structure Ev where
  kind : EvKind
  status : Nat := 0
  r0 : Nat := 0
  r1 : Nat := 0
  r2 : Nat := 0
  r3 : Nat := 0
  session : Nat := 0
  bed : Nat := 0xFF
  unit : Nat := 0
  where_ : Nat := 0
  aux : Nat := 0
deriving DecidableEq, Repr

/-- Raise an event on functions (R379): one fault-log entry for the event where R523 logs its kind (log 14), and one
record for each function. -/
def State.event (s : State) (fns : List Nat) (e : Ev) : State :=
  let s := if e.kind = .sessionExpired ∨ e.kind = .asyncDrop ∨ e.kind = .doorbell then s
    else s.logEntry e.status e.kind.code e.bed e.unit e.where_ e.aux
  let r : Rec := {
    tag := 0xFFFF, event := true, status := e.status, detail := e.kind.code, session := e.session,
    r0 := e.r0, r1 := e.r1, r2 := e.r2, r3 := e.r3, time := s.stamp }
  fns.eraseDups.foldl (fun s f => s.queueEvent f r) s

/-- Every function that is there: the PF and the enabled VFs (R379, R390). -/
def State.allFns (s : State) : List Nat := (List.range 32).filter s.fnOn

/-- Queue a packet's record: its identity, the head of its queue, the session its packet names unless the record has one, its
TIME (R378). -/
def State.complete (s : State) (p : PktRef) (r : Rec) : State :=
  let head := match mget none (s.bed p.bed).queues p.q with
    | some u => u.head
    | none => 0
  s.queueRecord p.bed p.q { r with
    tag := p.tag, sq := p.q, sqHead := head, session := if r.session = 0 then p.session else r.session, time := s.stamp } p.quiet

/-- Records a packet can still produce when it is fetched (R361). -/
def reserveOf (op : Nat) : Nat :=
  if op = 0x30 ∨ op = 0x31 ∨ op = 0x33 ∨ op = 0x50 then 2 else 1

/-- A packet's last record has been queued: what is left of its reserve and its place go (R361, R381). -/
def State.closeRaw (s : State) (p : PktRef) : State :=
  s.updBed p.bed fun bd => { bd with
    fetched := bd.fetched.filter (fun x => x.id != p.id)
    exporting := bd.exporting.filter (fun x => x.id != p.id)
    reserve := bd.reserve - if bd.exporting.any (fun x => x.id == p.id) then 1 else reserveOf p.op }

/-- A request has completed with its own record, while its export record is still due (R345, R361, R381). -/
def State.halfClose (s : State) (p : PktRef) : State :=
  s.updBed p.bed fun bd => { bd with
    fetched := bd.fetched.filter (fun x => x.id != p.id), exporting := bd.exporting ++ [p], reserve := bd.reserve - 1 }

/-- A deleted queue goes once every fetched packet has completed and its records are written (R364, R370). -/
def State.settleDelete (s : State) (b q : Nat) : State :=
  let bd := s.bed b
  match mget none bd.queues q with
  | none => s
  | some u => match u.deleting with
    | none => s
    | some p =>
      if (bd.fetched ++ bd.exporting).any (fun x => x.q == q) || bd.held.any (fun h => h.q == q) then s
      else
        let s := s.updBed b fun bd => { bd with queues := mset none bd.queues q none, cqMod := mset {} bd.cqMod q {} }
        (s.complete p { r0 := u.discarded }).closeRaw p

/-- A packet is closed; a deletion of its queue may then be complete. -/
def State.closePkt (s : State) (p : PktRef) : State := (s.closeRaw p).settleDelete p.bed p.q

/-- Complete a packet with its one record. -/
def State.finish (s : State) (p : PktRef) (r : Rec) : State := (s.complete p r).closePkt p

/-- Reject a packet: status, the failing check or stage in DETAIL (R366, R378). -/
def State.reject (s : State) (p : PktRef) (st : Status) (detail : Nat := 0) (r0 : Nat := 0) (r2 : Nat := 0) : State :=
  s.finish p { status := st.code, detail := detail, r0 := r0, r2 := r2 }

/-- A memory event (R379, R439): on the PF and on the beds named. -/
def State.memoryEvent (s : State) (st : Status) (c : Nat) (beds : List Nat) : State :=
  s.event (0 :: beds) { kind := .memory, status := st.code, r0 := c, where_ := c }

/-- Beds with frames in a channel (R379): their frames' addresses lie in it. -/
def State.bedsInChan (s : State) (c : Nat) : List Nat :=
  let of (m : SMap (Option Frame)) := m.filterMap fun e => match e.2 with
    | some f => if placeOf (65536 * f.addr) = .chan c then some f.bed else none
    | none => none
  (of s.frames ++ of s.lpFrames).eraseDups

/-- An uncorrectable row of nib `p`'s scratchpad was found: its count, and the event. No channel number names a scratchpad:
RESULT0 is open (log 49). -/
def State.padUncorr (s : State) (p : Nat) : State :=
  let s := s.updNib p fun n => { n with errUncorr := n.errUncorr + 1 }
  let (r0, s) := s.free 32
  s.event (0 :: (s.bedOf p).toList) { kind := .memory, status := Status.uncorrectable.code, r0 := r0.toNat, where_ := p }

/-- An uncorrectable codeword at `a` was found: the counts of its place and the event of R379 (R436, R438, R445). -/
def State.uncorrEvent (s : State) (a : Nat) : State :=
  match placeOf a with
  | .chan c =>
    let s := s.countUncorr a
    s.memoryEvent .uncorrectable c (s.bedsInChan c)
  | .pad p _ => s.padUncorr p
  | .bad => s

/-- Events for the codewords a write dropped (R425). -/
def State.dropEvents (s : State) (ds : List Nat) : State := ds.foldl State.uncorrEvent s

end Sys2Proof.Machine
end

