-- ==== Sys2Proof/Machine/Faults.lean ====
section
/-!
DEFINITION. The floor plan epoch (R500), and the bed's fault as it is seen outside the nibs (R104, R379).
-/
namespace Sys2Proof.Machine

/-- Raise the floor plan epoch by 1 with its FLOOR_PLAN event on every function (R500). Counts kept per epoch restart
(R438, R505). Before step 9 there is no epoch to raise. -/
def State.raiseEpoch (s : State) (status r1 where_ : Nat) : State :=
  if !s.boot.beds then s
  else
    let s := { s with
      boot := { s.boot with epoch := s.boot.epoch + 1 }
      nibs := mmap {} (fun _ n => { n with uncorrFaults := 0, loneBarrier := 0 }) s.nibs
      chans := mmap {} (fun _ c => { c with epochUncorr := 0 }) s.chans }
    s.event s.allFns {
      kind := .floorPlan, status := status, r0 := s.boot.epoch, r1 := r1, where_ := where_,
      bed := if r1 < 32 then r1 else 0xFF }

/-- The BED_FAULTED event (R379): fault code, fault A-cycle, logical nib and bundle. -/
def State.bedFaulted (s : State) (b code unit cycle nib bundle p : Nat) : State :=
  s.event [b, 0] {
    kind := .bedFaulted, status := code, r2 := cycle % 2 ^ 32, r3 := nib % 2048 + 65536 * (bundle % 8192),
    bed := b, unit := unit, where_ := p, aux := cycle % 2 ^ 32 }

/-- Stop every running nib of a bed with BED_FAULT (R104): they are seen stopped in the fault's A-cycle (log 15). Their
other fault fields keep what they held (log 175). Rows already in their arrival buffers, a GATHER's own among them, still land and
count; scheduled writes and work under way are dropped (DESIGN CHOICE, log 212). -/
def State.stopNibs (s : State) (b : Nat) : State :=
  (s.bedNibs b).foldl (fun s p => s.updNib p fun n =>
    if n.st = .running then { n with st := .faulted, faultCode := Status.bedFault.code, hold := .none, acts := n.acts.filter Act.scrubs, wq := [] } else n) s

/-- A-cycles of the bed's running step so far (R154). -/
def State.stepCycle (s : State) (b : Nat) : Nat :=
  match (s.bed b).step with
  | some st => s.acyc - st.start
  | none => 0

end Sys2Proof.Machine
end

