-- ==== Sys2Proof/Machine/LinkOps.lean ====
section
/-!
DEFINITION. What ports do (R331, R449–R457, R464, R466, R468): frames, credits, reliable delivery, and the messages of ACT
and their encoding.
-/
namespace Sys2Proof.Machine

/-- Virtual channel `v` of a port. -/
def Port.vc (p : Port) (v : Nat) : Vc := match v with | 0 => p.vc0 | 1 => p.vc1 | _ => p.vc2

/-- Replace virtual channel `v`. -/
def Port.setVc (p : Port) (v : Nat) (x : Vc) : Port :=
  match v with | 0 => { p with vc0 := x } | 1 => { p with vc1 := x } | _ => { p with vc2 := x }

/-- A peer's receive buffer for a virtual channel, in frames (R451). -/
def vcBuffer (v : Nat) : Nat := if v = 2 then 64 else 512

/-- A frame's 16 header bytes (R449). ACKSEQ is the last DATA frame received in order. -/
def frameHead (p : Port) (type : Nat) (nak som eom : Bool) (vc seq len : Nat) : List Byte :=
  leBytes 16 (pack [(4, type), (1, b2n nak), (1, b2n som), (1, b2n eom), (2, vc), (12, seq), (12, (p.rxSeq + 4095) % 4096),
    (8, len), (16, p.vc0.crGiven), (16, p.vc1.crGiven), (16, p.vc2.crGiven), (8, p.level)])

/-- An alignment codeword (R448; the places of its fields: log 192). -/
def alignWord (n lane count : Nat) : List Byte :=
  houseEncode (leBytes 1 n ++ leBytes 1 lane ++ leBytes 4 count ++ List.replicate 26 0)

/-- The lanes a port sends on (R448): the active ones, or in training those that trained, ascending. -/
def Port.sendLanes (p : Port) : List Nat := (List.range 4).filter (bitAt (if p.st = .up then p.active else p.working))

/-- A codeword of the stream goes on its lane; the lane's sixteenth is followed by its alignment codeword (R448). -/
def State.sendCodeword (s : State) (n : Nat) (data : List Byte) : State :=
  let p := s.port n
  let ls := p.sendLanes
  match ls[p.stream % ls.length]? with
  | none => s
  | some l =>
    let x := mget {} p.lanes l
    let due := x.data + 1 == 16
    let y : PortLane := if due then { data := 0, aligns := (x.aligns + 1) % 2 ^ 32 } else { x with data := x.data + 1 }
    let s := s.updPort n fun p => { p with stream := p.stream + 1, lanes := mset {} p.lanes l y }
    let s := s.emit (.codeword n l (houseEncode data))
    if due then s.emit (.codeword n l (alignWord n l x.aligns)) else s

/-- A frame leaves: 8 consecutive codewords of the port's stream (R448, R449). -/
def State.sendFrame (s : State) (n : Nat) (bytes : List Byte) : State :=
  (List.range 8).foldl (fun s i => s.sendCodeword n (slice bytes (32 * i) 32)) (s.emit (.frame n bytes))

/-- Send a DATA frame. -/
def State.sendData (s : State) (n : Nat) (f : TxFrame) : State :=
  let p := s.port n
  s.sendFrame n (frameHead p 1 false f.som f.eom f.vc f.seq (f.body.length - 1) ++ slice f.body 0 240)

/-- Send an IDLE frame that carries news: a NAK (R449, R456). IDLE frames without news are not listed (log 24). -/
def State.sendIdle (s : State) (n : Nat) (nak : Bool) : State :=
  s.sendFrame n (frameHead (s.port n) 0 nak false false 0 0 0 ++ List.replicate 240 0)

/-- The virtual channel whose frame takes the next slot (R452): VC2 first, else VC0 and VC1 in turn. -/
def Port.nextVc (p : Port) : Option Nat :=
  let can (v : Nat) : Bool := !(p.vc v).txq.isEmpty && (p.vc v).credits != 0
  if 1024 ≤ p.replayBuf.length then none
  else if can 2 then some 2
  else match can 0, can 1 with
    | true, true => some (if p.turn then 1 else 0)
    | true, false => some 0
    | false, true => some 1
    | _, _ => none

/-- A bed's weight on a port: its group's byte of BED.LGW (R406); a bed that owns the port has it alone. -/
def State.linkWeight (s : State) (b n : Nat) : Nat := bitsAt (s.cfgAt (bedReg b 0x38)) (8 * (n / 3)) 8

/-- The turn passes on (R406; log 194): of the beds `us`, in turn order with their weights, the first whose frames beyond its turns do not
use up its next one; a bed passed over has paid one turn of them. Answers the bed, the frames its turn has used, and what is left to pay. -/
def passTurn (owed : SMap Nat) (us : List (Nat × Nat)) : Option (Nat × Nat × SMap Nat) :=
  let due (x : Nat × Nat) : Nat := mget 0 owed x.1 / x.2
  match us with
  | [] => none
  | u :: _ =>
    let r := us.foldl (fun m x => min m (due x)) (due u)
    let early := us.takeWhile fun x => due x != r
    let paid := us.zipIdx.foldl (fun m x => mupd 0 m x.1.1 (· - x.1.2 * (r + if x.2 < early.length then 1 else 0))) owed
    (us[early.length]?).map fun x => (x.1, mget 0 paid x.1, mset 0 paid x.1 0)

/-- The bed whose frame a virtual channel sends next, and the turn with it: the one whose message is under way (R452), else by weighted
round-robin over the beds with messages waiting, a bed of weight 0 where no other waits (R406; log 194). -/
def State.frameTurn (s : State) (n v : Nat) : Option (Nat × (Nat × Nat) × SMap Nat) :=
  let p := s.port n
  let x := p.vc v
  let waits (b : Nat) : Bool := x.txq.any fun f => f.bed == b
  let (b, k) := p.bedTurn
  let weighted := bedNums.any fun i => waits i && s.linkWeight i n != 0
  let w (i : Nat) : Nat := if weighted then s.linkWeight i n else 1
  match x.sending with
  | some i => some (i, if v = 2 then (p.bedTurn, p.bedOver) else if i = b then ((b, k + 1), p.bedOver) else (p.bedTurn, mupd 0 p.bedOver i (· + 1)))
  | none =>
    if v = 2 then ((bedNums.map fun i => (b + i) % 32).find? waits).map fun i => (i, p.bedTurn, p.bedOver)
    else if waits b && decide (k < w b) then some (b, (b, k + 1), p.bedOver)
    else
      let us := (bedNums.map fun i => (b + 1 + i) % 32).filter fun i => waits i && w i != 0
      (passTurn (mupd 0 p.bedOver b (· + (k - s.linkWeight b n))) (us.map fun i => (i, w i))).map fun y => (y.1, (y.1, y.2.1 + 1), y.2.2)

/-- The bed whose frame a virtual channel sends next. -/
def State.frameBed (s : State) (n v : Nat) : Option Nat := (s.frameTurn n v).map (·.1)

/-- The first frame of a bed, and the frames without it. -/
def takeFrame (b : Nat) : List TxFrame → Option (TxFrame × List TxFrame)
  | [] => none
  | f :: fs => if f.bed = b then some (f, fs) else (takeFrame b fs).map fun x => (x.1, f :: x.2)

/-- Send what credits and the replay buffer allow (R406, R452, R453, R456). -/
def State.pump (s : State) (n : Nat) : Nat → State
  | 0 => s
  | fuel + 1 =>
    let p := s.port n
    if p.st ≠ .up then s
    else match p.nextVc with
    | none => s
    | some v =>
      match (s.frameTurn n v).bind fun t => (takeFrame t.1 (p.vc v).txq).map fun x => (x, t.2) with
      | none => s
      | some ((f, fs), turn) =>
        let f := { f with vc := v, seq := p.txSeq }
        let p := p.setVc v { p.vc v with
          txq := fs, credits := (p.vc v).credits - 1, sending := if f.eom then none else some f.bed }
        let p := { p with
          bedTurn := turn.1, bedOver := turn.2, txSeq := (p.txSeq + 1) % 4096, replayBuf := p.replayBuf ++ [f], turn := if v = 2 then p.turn else v == 0
          progress := if p.replayBuf.isEmpty then s.now else p.progress }
        ((s.setPort n p).sendData n f).pump n fuel

/-- Frames waiting at a port. -/
def Port.backlog (p : Port) : Nat := p.vc0.txq.length + p.vc1.txq.length + p.vc2.txq.length

/-- Send all that may be sent. -/
def State.pumpAll (s : State) (n : Nat) : State := s.pump n (s.port n).backlog

/-- Cut a message into frame bodies of 240 bytes (R449, R452). -/
def framesOf (v b : Nat) (first : Bool) : Nat → List Byte → List TxFrame
  | 0, _ => []
  | fuel + 1, bs =>
    if bs.length ≤ 240 then [{ bed := b, vc := v, som := first, eom := true, body := bs }]
    else { bed := b, vc := v, som := first, eom := false, body := bs.take 240 } :: framesOf v b false fuel (bs.drop 240)

/-- Queue a bed's message on a virtual channel and send what may be sent. -/
def State.sendMessage (s : State) (n v b : Nat) (bs : List Byte) : State :=
  (s.updPort n fun p => p.setVc v { p.vc v with txq := (p.vc v).txq ++ framesOf v b true (bs.length / 240 + 1) bs }).pumpAll n

/-- Replay every unacknowledged frame, in order (R456); progress in ACKSEQ ends a row of replays (R457). -/
def State.replay (s : State) (n : Nat) : State :=
  let p := s.port n
  let s := p.replayBuf.foldl (fun s f => s.sendData n f) s
  s.updPort n fun p => { p with
    replay := p.replay + p.replayBuf.length, progress := s.now, fruitless := p.fruitless + 1 }

/-- Streams over a port that goes down start to wait for it (R338). -/
def State.streamsDown (s : State) (n : Nat) : State :=
  { s with tx := s.tx.map fun t =>
    if t.via = .ruxel n ∨ t.via = .eth n then { t with downSince := some (t.downSince.getD s.now) } else t }

/-- A port that is UP stops and retrains (R464). -/
def State.startRetrain (s : State) (n : Nat) (cause : PortCause) : State :=
  (s.updPort n fun p => { p with
    st := .retraining, cause := cause, trainStart := s.now, trainLimit := 1000000, wasUp := true, nego := none
    working := 0, negoAt := s.now, fruitless := 0 }).streamsDown n

/-- Training of a port from scratch, with its limit in T-ticks (R446, R462, R465). -/
def State.startTraining (s : State) (n limit : Nat) : State :=
  (s.updPort n fun p => { p with
    st := .training, cause := .none, trainStart := s.now, trainLimit := limit, wasUp := false, nego := none
    working := 0, negoAt := s.now, fruitless := 0 }).streamsDown n

/-- Take an acknowledgement: frames up to ACKSEQ leave the replay buffer; progress restarts the timer (R456). -/
def Port.applyAck (p : Port) (ack now : Nat) : Port :=
  let k := (p.replayBuf.takeWhile fun f => decide ((ack + 4096 - f.seq) % 4096 < 1024)).length
  if k = 0 then p else { p with replayBuf := p.replayBuf.drop k, progress := now, fruitless := 0 }

/-- Take the credits a frame's CR field returns on a virtual channel (R453, R468). -/
def Port.applyCr (p : Port) (v cr : Nat) : Port :=
  let x := p.vc v
  p.setVc v { x with credits := x.credits + (cr + 65536 - x.crSeen) % 65536, crSeen := cr }

/-- Return the credits of `k` frames that leave a receive buffer (R453). -/
def Port.giveCr (p : Port) (v k : Nat) : Port :=
  p.setVc v { p.vc v with crGiven := ((p.vc v).crGiven + k) % 65536 }

/-- Take the oldest whole message of a virtual channel out of the receive buffer. -/
def State.takeRx (s : State) (n v : Nat) : Option (List Byte × State) :=
  match ((s.port n).vc v).rxq with
  | [] => none
  | (k, bs) :: r =>
    some (bs, s.updPort n fun p => (p.setVc v { p.vc v with rxq := r }).giveCr v k)

/-- Decode the 8 codewords of a received frame (R449, R450): the data bytes, or none, and the corrections counted. -/
def decodeFrame : Nat → List Byte → Option (List Byte) × Nat
  | 0, _ => (some [], 0)
  | n + 1, bs =>
    let cw := slice bs 0 36
    let (rest, c) := decodeFrame n (bs.drop 36)
    match houseDecode cw, rest with
    | .clean, some r => (some (cw.take 32 ++ r), c)
    | .corrected w, some r => (some (w.take 32 ++ r), c + 1)
    | .corrected _, none => (none, c + 1)
    | _, _ => (none, c)

/-- Count corrections at a port, and retrain it when a millisecond's count reaches CORR_RETRAIN (R450, R464). -/
def State.portCorr (s : State) (n k : Nat) : State :=
  if k = 0 then s
  else
    let ms := s.now / 100000
    let lim := bitsAt (s.cfgAt (linkReg n 8)) 32 16
    let s := s.updPort n fun p => { p with
      errCorr := p.errCorr + k, corrMs := ms, corrCount := (if p.corrMs = ms then p.corrCount else 0) + k }
    if lim ≠ 0 ∧ lim ≤ (s.port n).corrCount ∧ (s.port n).st = .up then s.startRetrain n .none else s

/-- A received frame's fields (R449). -/
structure RxFrame where
  type : Nat
  nak : Bool
  som : Bool
  eom : Bool
  vc : Nat
  seq : Nat
  ack : Nat
  len : Nat
  cr0 : Nat
  cr1 : Nat
  cr2 : Nat
  cl : Nat
  ok : Bool                         -- no reserved field, type or channel
  body : List Byte
deriving DecidableEq, Repr

/-- Read a frame's header (R449, R450). -/
def parseFrame (bs : List Byte) : RxFrame :=
  let w := leField bs 0 16
  let t := bitsAt w 0 4
  let vc := bitsAt w 7 2
  { type := t, nak := bitAt w 4, som := bitAt w 5, eom := bitAt w 6, vc := vc, seq := bitsAt w 9 12, ack := bitsAt w 21 12
    len := bitsAt w 33 8 + 1, cr0 := bitsAt w 41 16, cr1 := bitsAt w 57 16, cr2 := bitsAt w 73 16, cl := bitsAt w 89 8
    ok := bitsAt w 97 31 == 0 && decide (t ≤ 2) && !(t == 1 && (vc == 3 || decide (240 < bitsAt w 33 8 + 1)))
    body := bs.drop 16 }

/-- Receive a frame of type `t` at a port (R450): the frame, once decoded and its counters taken; none where it is
discarded, where its corrections make the port retrain (R467), or where it is no frame of that type (log 9). -/
def State.receive (s : State) (n t : Nat) (raw : List Byte) : Option RxFrame × State :=
  if s.role n > 1 then (none, s)
  else
    let (d, c) := decodeFrame 8 raw
    let s1 := s.portCorr n c
    match d with
    | none => (none, s1.updPort n fun p => { p with errUncorr := p.errUncorr + 1 })
    | some bs =>
      let f := parseFrame bs
      if !f.ok then (none, s1.updPort n fun p => { p with errUncorr := p.errUncorr + 1 })
      else if f.type ≠ t then (none, s)
      else if (s1.port n).st ≠ (s.port n).st then (none, s1)
      else (some f, s1)

/-- A replay is due: of the frames outstanding (R456), or a retraining after eight without progress (R457). -/
def State.replayDue (s : State) (n : Nat) : State :=
  let p := s.port n
  if p.replayBuf.isEmpty then s else if 8 ≤ p.fruitless then s.startRetrain n .replayLimit else s.replay n

/-- Apply what every accepted frame carries: ACKSEQ, then the credits, then a NAK's replay (R453, R456, R467). -/
def State.frameNews (s : State) (n : Nat) (f : RxFrame) : State :=
  let s := s.updPort n fun p => (((p.applyAck f.ack s.now).applyCr 0 f.cr0).applyCr 1 f.cr1).applyCr 2 f.cr2
  let s := if f.nak then s.replayDue n else s
  s.pumpAll n

/-! ### ACT messages (R331, R332) -/

/-- An ACT message: its header with CHECK, then the payload (R331). -/
def actMessage (type cl stream seq session layer page batch off flags : Nat) (payload : List Byte) : List Byte :=
  let h := leBytes 28 (pack [(16, 0xAC70), (8, type), (8, cl), (32, stream), (32, seq), (32, session), (16, layer), (12, page),
    (4, 0), (16, batch), (24, off), (14, payload.length), (2, 0), (8, flags)])
  h ++ leBytes 4 (crc32c (h ++ payload)).toNat ++ List.replicate 32 0 ++ payload

/-- An Eweid datagram (R354). -/
def eweidMessage (type seq tag layer pg64 off flags stamp : Nat) (payload : List Byte) : List Byte :=
  let h := leBytes 28 (pack [(16, 0xE31D), (8, type), (8, 0), (32, seq), (32, tag), (16, layer), (9, pg64), (7, 0), (24, off),
    (14, payload.length), (2, 0), (8, flags), (16, 0), (32, stamp)])
  h ++ leBytes 4 (crc32c (h ++ payload)).toNat ++ payload

/-! ### Ethernet frames (R337, R469) -/

/-- One byte of IEEE 802.3's CRC-32, reflected polynomial 0xEDB88320. -/
def fcsByte (c : Lane) (b : Byte) : Lane :=
  (List.range 8).foldl (fun c _ => if c.getLsbD 0 then (c >>> 1) ^^^ 0xEDB88320#32 else c >>> 1) (c ^^^ b.setWidth 32)

/-- The frame check sequence of a frame. -/
def fcs (bs : List Byte) : Nat := (~~~ (bs.foldl fcsByte 0xFFFFFFFF#32)).toNat

/-- Sum of 16-bit words in network order, an odd last byte padded with 0. -/
def wordSum : Nat → List Byte → Nat
  | 0, _ => 0
  | n + 1, bs => if bs.isEmpty then 0 else beNat (slice bs 0 2) + wordSum n (bs.drop 2)

/-- The Ethernet frame that carries a datagram from a port's staged addresses (R337, R469): UDP with its checksum on IPv6, hop limit
64, the port's traffic class, flow label STREAM [19:0], then the frame check sequence. -/
def State.ethFrame (s : State) (n stream : Nat) (mac ip : List Byte) (src dst : Nat) (bs : List Byte) : List Byte :=
  let len := 8 + bs.length
  let me := leBytes 8 (s.cfgAt (linkReg n 0x48)) ++ leBytes 8 (s.cfgAt (linkReg n 0x50))
  let udp (sum : Nat) : List Byte := beBytes 2 src ++ beBytes 2 dst ++ beBytes 2 len ++ beBytes 2 sum ++ bs
  let sum := wordSum 16 (me ++ ip) + len + 17 + wordSum len (udp 0)
  let b := slice mac 0 6 ++ leBytes 6 (s.cfgAt (linkReg n 0x40)) ++ [0x86, 0xDD] ++
    beBytes 4 (2 ^ 28 * 6 + 2 ^ 20 * bitsAt (s.cfgAt (linkReg n 8)) 24 8 + stream % 2 ^ 20) ++ beBytes 2 len ++ [0x11, 64] ++
    me ++ slice ip 0 16 ++ udp (65535 - sum % 65535)
  b ++ leBytes 4 (fcs b)

/-- Hand a bed's message to its transport (R336, R337): VC0 of a port, or a UDP datagram to an address. -/
def State.sendVia (s : State) (b : Nat) (via : Transport) (stream : Nat) (mac ip : List Byte) (src dst : Nat) (bs : List Byte) :
    State :=
  match via with
  | .ruxel n => s.sendMessage n 0 b bs
  | .eth n => s.emit (.ethFrame n (s.ethFrame n stream mac ip src dst bs))
  | .host => s

/-- A receiver's message on a stream: SEQ 0 (R331, R332). -/
def State.sendBack (s : State) (r : RxStream) (session type : Nat) (payload : List Byte) : State :=
  s.sendVia r.bed r.via r.num (slice r.src 0 6) (slice r.src 6 16) r.udp r.udp
    (actMessage type r.level r.num 0 session 0 0 0 0 0 payload)

end Sys2Proof.Machine
end

