-- ==== Sys2Proof/Machine/Tenants.lean ====
section
/-!
DEFINITION. Token budgets (R301–R303): the normative arithmetic over a tenant's record and a session's HELD.
-/
namespace Sys2Proof.Machine

/-- Refill the bucket up to a timebase value (R302). -/
def refill (t : Tenant) (now : Nat) : Tenant :=
  if t.last < now then
    { t with level := min (t.level + (t.rate * (now - t.last) : Nat)) ((t.burst * 100000000 : Nat) : Int), last := now }
  else t

/-- Whether `n` more tokens may be reserved, and the record and HELD after (R302). -/
def admitCheck (t : Tenant) (n now : Nat) : Option (Tenant × Nat) :=
  if t.unlimited then some (t, 0)
  else if t.burst < n then none
  else
    let t := refill t now
    if t.level - (t.held * 100000000 : Nat) < ((n * 100000000 : Nat) : Int) then none
    else some ({ t with held := t.held + n }, n)

/-- What the bucket's refill leaves behind when the check of R302 fails: the record as refilled. -/
def admitRefused (t : Tenant) (n now : Nat) : Tenant :=
  if t.unlimited || decide (t.burst < n) then t else refill t now

/-- Charge a seal's tokens to LEVEL (R302, R303). -/
def chargeLevel (t : Tenant) (computed now : Nat) : Tenant :=
  if t.unlimited then t
  else
    let t := refill t now
    { t with level := t.level - (computed * 100000000 : Nat) }

/-- Tenant `n` of bed `b`. -/
def State.tenant (s : State) (b n : Nat) : Tenant := mget {} (s.bed b).tenants n

/-- Change a tenant's record. -/
def State.updTenant (s : State) (b n : Nat) (f : Tenant → Tenant) : State :=
  s.updBed b fun bd => { bd with tenants := mupd {} bd.tenants n f }

/-- The digest of a bed's armed model, as HELLO carries it (R510, R511); empty where none is armed. -/
def armedDigestOf (bd : Bed) : List Byte :=
  match bd.models.find? (fun e => match e.2 with | some m => !m.slots.isEmpty | none => false) with
  | some (_, some m) => m.pkg.modelDigest
  | _ => []

/-- Whether bed `b` is paired (R510): set in TWIN.CFG.BEDS on both devices, with one model digest. -/
def State.pairedBed (s : State) (b : Nat) : Bool :=
  let d := armedDigestOf (s.bed b)
  bitAt s.twinBeds b && s.twin.hellod && bitAt s.twin.peerBeds b && !d.isEmpty && d == s.twin.peerDigests.getD b []

/-- Whether deltas of bed `b` go to the twin: the bed is paired, and the pair stands or forms (R510, R514). -/
def State.mirrors (s : State) (b : Nat) : Bool :=
  s.pairedBed b && match s.twin.st with
    | .paired => true | .degraded => true | .suspect => true | .pairing => true | _ => false

/-- Queue a delta record for the twin and send it while the link carries it (R514, R518): past 65,536 waiting records
the queue is dropped and a full copy is owed. -/
def State.delta (s : State) (b : Nat) (d : Delta) : State :=
  if !s.mirrors b then s
  else if s.twin.queue.length ≥ 65536 then { s with twin := { s.twin with queue := [], overflow := true, cause := 3 } }
  else
    let n := s.twin.nextDelta
    let s := { s with twin := { s.twin with nextDelta := n + 1, queue := s.twin.queue ++ [(n, d)] } }
    if s.twin.st = .paired then s.sendTwin (.delta [(n, d)]) else s

/-- Release up to `n` of a session's HELD tokens (R302). -/
def State.releaseHeld (s : State) (i n : Nat) : State :=
  let e := s.ses i
  let k := min n e.held
  if k = 0 then s
  else
    let s := s.updTenant e.bed e.tenant fun t => { t with held := t.held - k }
    let s := s.updSes i fun e => { e with held := e.held - k }
    s.delta e.bed (.held e.bed e.tenant (-(k : Int)))

/-- Charge a session's tenant at a seal (R302, R303): LEVEL by what the step computed, HELD by what it holds for it. -/
def State.charge (s : State) (i computed : Nat) : State :=
  let e := s.ses i
  let s := s.updTenant e.bed e.tenant fun t => chargeLevel t computed s.now
  let s := s.delta e.bed (.charge e.bed e.tenant computed)
  s.releaseHeld i computed

end Sys2Proof.Machine
end

