-- ==== Sys2Proof/Machine/Pages.lean ====
section
/-!
DEFINITION. Regions, page lists and frames (R261–R280, R287–R292): sizes, list headers and entries, the checks of a
swap, publication, and the draining of generations.
-/
namespace Sys2Proof.Machine

/-- FRAME in bytes for an FSIZE code (R271). -/
def frameBytes (fsize : Nat) : Nat := 65536 * 2 ^ fsize

/-- Head dimension of a DCODE (R199, R251): 64, 128 or 256. -/
def headDim (dcode : Nat) : Nat := 64 * 2 ^ dcode

/-- Key rows of a head block (R263). -/
def keyRows (d : Nat) (kv4 : Bool) : Nat := if kv4 then 9 * d / 2 else 17 * d / 2
/-- Value rows of a head block (R263). -/
def valueRows (d : Nat) (kv4 : Bool) : Nat := if kv4 then 17 * d / 4 else 33 * d / 4
/-- HB: rows of a head block (R263). -/
def headRows (d : Nat) (kv4 : Bool) : Nat := keyRows d kv4 + valueRows d kv4 + (d / 32 + 1)
/-- PB: bytes of a page image (R263). -/
def pageBytes (m : Package) : Nat := 32 * (1 + m.hkv * headRows (headDim m.dcode) m.kv4)
/-- FPP (R263). -/
def fppOf (m : Package) (fsize : Nat) : Nat := cdiv (pageBytes m) (frameBytes fsize)
/-- NPM (R262). -/
def npmOf (maxLen : Nat) : Nat := cdiv maxLen 256

/-- A model's working set in frames (R290). -/
def workingSet (bd : Bed) (m : Package) : Nat := fppOf m bd.fsize * m.layers * (2 * (bd.ch / 256 + 1) + bd.pw)

/-- The model loaded under a handle: one that has armed slots. A reset disarms a model (R411), which is then no longer
loaded (R290), but the sessions kept still name it. -/
def Bed.loaded (bd : Bed) (h : Nat) : Option Model := (mget none bd.models h).filter fun m => !m.slots.isEmpty

/-- Whether a model is armed in the bed (BED.STATE.ARMED). -/
def Bed.armed (bd : Bed) : Bool := bd.models.any fun e => match e.2 with | some m => !m.slots.isEmpty | none => false

/-- The bed's working-set reserve: the largest among its loaded models (R290). -/
def wsReserve (bd : Bed) : Nat :=
  bd.models.foldl (fun a e => match e.2 with
    | some m => if m.slots.isEmpty then a else max a (workingSet bd m.pkg)
    | none => a) 0

/-- The package of a session's model. -/
def State.pkgOf (s : State) (i : Nat) : Package :=
  match mget none (s.bed (s.ses i).bed).models (s.ses i).model with
  | some m => m.pkg
  | none => {}

/-! ### Page-list entries (R273) -/

/-- FRAME. -/
def entFrame (e : Nat) : Nat := e % 2 ^ 24
/-- TIER: in LPDDR5X. -/
def entLp (e : Nat) : Bool := bitAt e 24
/-- PRESENT. -/
def entHere (e : Nat) : Bool := bitAt e 25
/-- PINNED. -/
def entPinned (e : Nat) : Bool := bitAt e 26
/-- An entry that names a frame. -/
def mkEnt (lp : Bool) (frame : Nat) : Nat := frame % 2 ^ 24 + 2 ^ 24 * b2n lp + 2 ^ 25

/-- The geometry of a session's list: L, NPM, FPP, FSIZE. -/
structure Geo where
  layers : Nat
  npm : Nat
  fpp : Nat
  fsize : Nat
deriving DecidableEq, Repr

/-- NENT (R273). -/
def Geo.nent (g : Geo) : Nat := g.layers * g.npm * g.fpp

/-- The geometry of session `i`'s list (R262, R263). -/
def State.geo (s : State) (i : Nat) : Geo :=
  let e := s.ses i
  ⟨e.layers, npmOf e.maxLen, e.fpp, (s.bed e.bed).fsize⟩

/-- Entry index E of unit f of page p of layer l (R262). -/
def Geo.unit (g : Geo) (l p f : Nat) : Nat := (l * g.npm + p) * g.fpp + f

/-- The entries of page `p` in every layer, ascending. -/
def Geo.pageUnits (g : Geo) (p : Nat) : List Nat :=
  (List.range g.layers).flatMap fun l => (List.range g.fpp).map fun f => g.unit l p f

/-- The session number of entry `i`. -/
def State.sesNumber (s : State) (i : Nat) : Nat := sesNum i (s.ses i).inc

/-- The 4·NENT entry bytes. -/
def entBytes (es : List Nat) : List Byte := es.flatMap (leBytes 4)

/-- The entries in bytes. -/
def bytesEnts : Nat → List Byte → List Nat
  | 0, _ => []
  | n + 1, bs => leNat (bs.take 4) :: bytesEnts n (bs.drop 4)

/-- Header bytes 0–15 (R273). -/
def listHead (g : Geo) (gen session : Nat) : List Byte :=
  leBytes 16 (pack [(32, gen), (32, session), (24, g.nent), (8, g.layers - 1), (13, g.npm), (6, g.fpp - 1), (2, g.fsize)])

/-- The digest of R274. -/
def listDigest (head16 ents : List Byte) : List Byte := shake256 8 (head16 ++ ents)

/-- A whole page list as it lies in memory (R273, R274). -/
def listBytes (g : Geo) (gen session : Nat) (es : List Nat) : List Byte :=
  let h := listHead g gen session
  let b := entBytes es
  h ++ listDigest h b ++ List.replicate 40 0 ++ b

/-- The list at an address as the memory holds it, corrected; none where a codeword is uncorrectable. -/
def State.listAt (s : State) (g : Geo) (a : Nat) : Option (List Byte) :=
  match (s.readDev a (64 + 4 * g.nent)).1 with
  | .ok bs => some bs
  | .error _ => none

/-- The entries of session `i`'s current list. -/
def State.entries (s : State) (i : Nat) : List Nat :=
  let g := s.geo i
  match s.listAt g (s.ses i).listAddr with
  | some bs => bytesEnts g.nent (bs.drop 64)
  | none => List.replicate g.nent 0

/-- The device reads session `i`'s current list: corrections are counted, and an uncorrectable codeword raises its event (R379, R433,
R434). -/
def State.readList (s : State) (i : Nat) : State :=
  match s.readDev (s.ses i).listAddr (64 + 4 * (s.geo i).nent) with
  | (.ok _, s) => s
  | (.error a, s) => s.uncorrEvent a

/-- Bytes filled up to whole codewords, as the device writes a list: no codeword of it is merged (R425; log 200). -/
def wholeCws (bs : List Byte) : List Byte := bs ++ List.replicate (roundUp bs.length 32 - bs.length) 0

/-! ### The arena (R392, R431) -/

/-- The capture areas of a bed's steps (R275, R392): address and bytes. -/
def capAreas (bd : Bed) : List (Nat × Nat) :=
  let of (o : Option Step) : List (Nat × Nat) := match o with
    | some t => t.seqs.filterMap fun q => if q.cap = 0 then none else some (q.cap, roundUp q.list.length 32)
    | none => []
  of bd.step ++ of bd.next

/-- The parts of the system area that a bed's arena runs across, where it spans pseudo-channels: nothing of the arena lies there (R431;
log 28). -/
def sysPieces (bd : Bed) : List (Nat × Nat) :=
  let q0 := bd.arenaBase / 0xC0000000
  (List.range ((bd.arenaBase + bd.arenaSize - 1) / 0xC0000000 - q0)).map fun k => (0xC0000000 * (q0 + 1 + k), 0x1000000)

/-- The pieces of a bed's arena in use: page lists, capture areas and the tenant table. -/
def arenaUse (bd : Bed) : List (Nat × Nat) := bd.arena ++ capAreas bd ++ sysPieces bd ++ [(bd.tenantBase, 0x40000)]

/-- The highest free place of `n` bytes in the arena, aligned to 64 bytes (log 17): the area below each piece in use, or
the top. -/
def arenaPlace (bd : Bed) (n : Nat) : Option Nat :=
  let top := bd.arenaBase + bd.arenaSize
  let ends := top :: ((arenaUse bd).map (·.1))
  let fits := ends.filterMap fun e =>
    if e < bd.arenaBase + n then none
    else
      let a := (e - n) / 64 * 64
      if decide (bd.arenaBase ≤ a) && (arenaUse bd).all (fun x => decide (x.1 + x.2 ≤ a) || decide (a + n ≤ x.1)) then some a
      else none
  fits.foldl (fun m a => some (match m with | some x => max x a | none => a)) none

/-- Take a place in the arena. -/
def State.arenaTake (s : State) (b n : Nat) : Option (Nat × State) :=
  (arenaPlace (s.bed b) n).map fun a => (a, s.updBed b fun bd => { bd with arena := (a, n) :: bd.arena })

/-- Give a place of the arena back. -/
def State.arenaFree (s : State) (b a : Nat) : State :=
  s.updBed b fun bd => { bd with arena := bd.arena.filter fun x => x.1 != a }

/-! ### Frames (R271, R272, R287) -/

/-- A bed's FREE frames in a tier, ascending (R430). -/
def State.freeFrames (s : State) (b : Nat) (lp : Bool) : List Nat :=
  (if lp then s.lpFrames else s.frames).filterMap fun e => match e.2 with
    | some f => if f.bed = b ∧ f.st = .free then some e.1 else none
    | none => none

/-- Frames a bed's streamed requests hold of the working set. -/
def wsUsed (bd : Bed) : Nat := sumNat (bd.reqs.map fun r => if r.streamed then r.frames else 0)

/-- F: free HBM frames outside the working-set reserve (R287, R290). -/
def State.freeOutside (s : State) (b : Nat) : Nat :=
  let bd := s.bed b
  (s.freeFrames b false).length - (wsReserve bd - wsUsed bd)

/-- Whether a batch of stream `t` still reads generation `gen` (R277, R329): the one its step captured until the batch is over; the one
current when its stream opened until every message read through it, of a page below the step's own, has been acknowledged. -/
def TxStream.reads (t : TxStream) (gen : Nat) (b : Batch) : Bool :=
  match b.cap with
  | none => b.gen == gen
  | some c => c.1 == gen || (b.gen == gen && (b.items.any (fun i => decide (i.2 < c.2.2)) || t.unacked.any fun m =>
      m.batch == b.num && match m.kind with | .page _ p _ _ _ => decide (p < c.2.2) | _ => false))

/-- Readers of an old generation (R277): the steps that captured it, until their walk-end checks, and the streams reading
it. -/
def State.genReaders (s : State) (g : OldGen) : Nat :=
  let bd := s.bed g.bed
  let inStep (o : Option Step) : Nat := match o with
    | some t => (t.seqs.filter fun q => q.index == g.index && q.gen == g.gen && decide (q.layers.length < (s.ses q.index).layers)).length
    | none => 0
  inStep bd.step + inStep bd.next +
    sumNat (s.tx.map fun t => if t.session = g.num then (t.batches.filter (t.reads g.gen)).length else 0)

/-- Release one reference on a prefix entry (R286). -/
def State.pfxUnref (s : State) (n : Nat) : State := s.updPfx n fun e => { e with refs := e.refs - 1 }

/-- Free one drained generation: its arena space, its DRAINING frames, the references its shared frames held (R277). -/
def State.freeGen (s : State) (g : OldGen) : State :=
  let s := s.arenaFree g.bed g.addr
  let s := g.drops.foldl (fun s d => s.updFrame (d.1 == 1) d.2 fun f =>
    if f.st = .draining then { f with st := .free, owner := 0, pos := 0 } else f) s
  g.refs.foldl State.pfxUnref s

/-- When no generation older than the current one has a reader left, free them all (R277). -/
def State.drain (s : State) (num : Nat) : State :=
  let mine := s.oldGens.filter fun g => g.num == num
  if mine.all (fun g => s.genReaders g == 0) then
    mine.foldl State.freeGen { s with oldGens := s.oldGens.filter fun g => g.num != num }
  else s

/-- Whether a unit's frame is a SHARED frame of prefix entry `n`. -/
def State.sharedBy (s : State) (e n : Nat) : Bool :=
  entHere e && match s.frame (entLp e) (entFrame e) with
    | some f => f.st == .shared && f.owner == n
    | none => false

/-- Chain entries of session `i` that its list's entries still name (R286). -/
def State.chainKept (s : State) (i : Nat) (es : List Nat) : List Nat :=
  let g := s.geo i
  (s.ses i).chain.filter fun n => s.sharedBy (es.getD (g.unit 0 (s.pfxAt n).block 0) 0) n

/-- The private frames a session owns (R271), as (tier, frame): what its list, unless a host has overwritten it, names. -/
def State.ownFrames (s : State) (num : Nat) : List (Nat × Nat) :=
  let mine (_ : Nat) (o : Option Frame) : Bool := match o with
    | some f => f.owner == num && (f.st == .reserved || f.st == .sealed)
    | none => false
  (mkeys mine s.frames).map (fun n => (0, n)) ++ (mkeys mine s.lpFrames).map fun n => (1, n)

/-- Publish a new generation of session `i`'s list (R273, R277–R279): fresh arena area, GEN + 1, the digest; FREE frames
it names become RESERVED for the unit, COPYING ones SEALED; private frames it drops go DRAINING until the old
generations have no reader. False where the arena has no room: nothing changes. -/
def State.publish (s : State) (i : Nat) (es : List Nat) : Option State :=
  let e := s.ses i
  let g := s.geo i
  match s.arenaTake e.bed (64 + 4 * g.nent) with
  | none => none
  | some (a, s) =>
    let gen := (e.listGen + 1) % 2 ^ 32
    let s := (s.writeDev a (wholeCws (listBytes g gen (s.sesNumber i) es))).1
    let s := (es.zipIdx).foldl (fun s x =>
      if entHere x.1 then s.updFrame (entLp x.1) (entFrame x.1) fun f =>
        match f.st with
        | .free => { f with st := .reserved, owner := sesNum i e.inc, pos := x.2 }
        | .copying => { f with st := .sealed, owner := sesNum i e.inc, pos := x.2 }
        | _ => f
      else s) s
    let now := es.filterMap fun x => if entHere x then some (b2n (entLp x), entFrame x) else none
    let drops := (s.ownFrames (sesNum i e.inc)).filter fun x => !now.contains x
    let s := drops.foldl (fun s d => s.updFrame (d.1 == 1) d.2 fun f => { f with st := .draining }) s
    let kept := s.chainKept i es
    let og : OldGen := {
         index := i, num := sesNum i e.inc, bed := e.bed, gen := e.listGen, addr := e.listAddr, bytes := 64 + 4 * g.nent, drops := drops,
         refs := e.chain.filter fun n => !kept.contains n }
    let s := { s with oldGens := s.oldGens ++ [og] }
    let s := s.updSes i fun e => { e with listAddr := a, listGen := gen, chain := kept }
    some (s.drain (sesNum i e.inc))

/-- Retire session `i`'s whole list, as a swap to an empty list would (R277, R299): its private frames go DRAINING, and they,
the list's area and its references go when the old generations have no reader. -/
def State.dropList (s : State) (i : Nat) : State :=
  let e := s.ses i
  let drops := s.ownFrames (sesNum i e.inc)
  let s := drops.foldl (fun s d => s.updFrame (d.1 == 1) d.2 fun f => { f with st := .draining }) s
  let og : OldGen := {
    index := i, num := sesNum i e.inc, bed := e.bed, gen := e.listGen, addr := e.listAddr, bytes := 64 + 4 * (s.geo i).nent
    drops := drops, refs := e.chain }
  ({ s with oldGens := s.oldGens ++ [og] }).drain (sesNum i e.inc)

/-- Pages a step of the session is writing or will write: units of an admitted, unsealed step (R279). -/
def State.writtenPages (s : State) (i : Nat) : List Nat :=
  let bd := s.bed (s.ses i).bed
  let f (o : Option Step) : List Nat := match o with
    | some t => (t.seqs.filter (fun q => q.index == i && q.new != 0)).flatMap fun q =>
        (List.range ((q.pos0 + q.new - 1) / 256 + 1 - q.pos0 / 256)).map (· + q.pos0 / 256)
    | none => []
  f bd.step ++ f bd.next

/-- Whether entry `x` at index `k` of a new list fails the checks of R279, for session `i`. -/
def State.badEntry (s : State) (i : Nat) (old : List Nat) (written : List Nat) (es : List Nat) (k : Nat) : Bool :=
  let x := es.getD k 0
  let g := s.geo i
  let num := s.sesNumber i
  let p := k / g.fpp % g.npm
  let l := k / g.fpp / g.npm
  (written.contains p && x != old.getD k 0) ||
  (entHere x &&
    (((es.take k).any fun y => entHere y && entLp y == entLp x && entFrame y == entFrame x) ||
     match s.frame (entLp x) (entFrame x) with
     | none => true
     | some f =>
       f.bed != (s.ses i).bed ||
       match f.st with
       | .free => false
       | .draining => true
       | .shared =>
         f.pos != l * g.fpp + k % g.fpp || (s.pfxAt f.owner).block != p || !(s.ses i).chain.contains f.owner
       | _ => f.owner != num || f.pos != k))

/-- The first failing entry of a new list (R279). -/
def State.firstBad (s : State) (i : Nat) (es : List Nat) : Option Nat :=
  let old := s.entries i
  let w := s.writtenPages i
  firstNat (s.badEntry i old w es) 0 es.length

/-- The first entry of a firmware swap's list that fails the checks of R279. -/
def State.firstBadEdit (s : State) (i : Nat) (es : List Nat) : Option Nat := firstNat (s.badEntry i [] [] es) 0 es.length

/-- Whether a firmware swap's list fails them. -/
def State.editBad (s : State) (i : Nat) (es : List Nat) : Bool := (s.firstBadEdit i es).isSome

/-- A firmware swap (R278): the checks of R279, but that the step being sealed or built is the firmware's own. None where one
fails, or the arena has no room: nothing changes (log 163). -/
def State.edit (s : State) (i : Nat) (es : List Nat) : Option State := if s.editBad i es then none else (s.readList i).publish i es

/-- A firmware swap, or the list as it stands. -/
def State.swap (s : State) (i : Nat) (es : List Nat) : State := (s.edit i es).getD s

/-- Units of the pages from `lo` to `hi` − 1, in every layer. -/
def Geo.span (g : Geo) (lo hi : Nat) : List Nat := ((List.range (hi - lo)).map (· + lo)).flatMap g.pageUnits

/-- What a session's current list no longer stands for drains with the generations that may still be read (R272, R277): private
frames `drops`, and references on the prefix entries `refs`. The list itself stays current. -/
def State.shed (s : State) (i : Nat) (drops : List (Nat × Nat)) (refs : List Nat) : State :=
  if drops.isEmpty && refs.isEmpty then s
  else
    let e := s.ses i
    let s := drops.foldl (fun s d => s.updFrame (d.1 == 1) d.2 fun f => { f with st := .draining }) s
    let s := s.updSes i fun e => { e with chain := e.chain.filter fun n => !refs.contains n }
    let og : OldGen := { index := i, num := sesNum i e.inc, bed := e.bed, gen := e.listGen, addr := 0, bytes := 0, drops := drops, refs := refs }
    ({ s with oldGens := s.oldGens ++ [og] }).drain (sesNum i e.inc)

/-- Drop the units of every page that lies wholly at or above length `c` (R312–R314), by a firmware swap. What the list does not name
there, for a host has overwritten it, goes too (R275; log 163), and so do the references on blocks that reach beyond `c` (log 198). -/
def State.dropAbove (s : State) (i c : Nat) : State :=
  let g := s.geo i
  let keep := cdiv c 256
  let es := s.entries i
  let es' := es.zipIdx.map fun x => if x.2 / g.fpp % g.npm < keep then x.1 else 0
  let s := if es' = es ∨ s.editBad i es' then s else s.swap i es'
  let drops := (s.ownFrames (s.sesNumber i)).filter fun d => match s.frame (d.1 == 1) d.2 with
    | some f => decide (keep ≤ f.pos / g.fpp % g.npm)
    | none => false
  s.shed i drops ((s.ses i).chain.filter fun n => decide (c / 256 ≤ (s.pfxAt n).block))

/-- Name fresh frames of a tier in the absent units listed, ascending (R430). None where the pool runs short. -/
def fillUnits (es : List Nat) (lp : Bool) : List Nat → List Nat → Option (List Nat)
  | [], _ => some es
  | u :: us, fs =>
    if entHere (es.getD u 0) then fillUnits es lp us fs
    else match fs with
      | [] => none
      | f :: fs => fillUnits (es.set u (mkEnt lp f)) lp us fs

/-! ### Copies and DMA channels (R288, R289, R404, R422) -/

/-- Whether bed `b`'s firmware may build a program on DMA channel `c` now: it owns the idle channel, Eweid export does not
hold it, and no pending commit takes it away (R350, R404, R422). -/
def State.dmaFree (s : State) (b c : Nat) : Bool :=
  bitAt (s.dmaMask b) c && (s.dmaCh c).job.isNone && !(s.eweidOn && decide (60 ≤ c)) &&
    !(s.stage.pending && !bitAt (s.shadowAt (bedReg b 0x18)) c)

/-- Give waiting copies to idle channels of their beds, lowest first. -/
def State.assignDma (s : State) : State :=
  s.copies.foldl (fun s k =>
    let job := DmaJob.copy k.index k.page
    let b := (s.ses k.index).bed
    if s.dma.any fun e => e.2.job == some job then s
    else match (List.range 64).find? (s.dmaFree b) with
      | some c => s.updDma c fun d => { d with job := some job, bed := b, moved := s.now }
      | none => s) s

/-- Claim FREE frames of a tier as COPYING for units of session `i`, in ascending order, and plan their copies page by page
(R288, R289). None where the pool runs short. -/
def State.planCopies (s : State) (i : Nat) (toLp : Bool) (units : List Nat) : Option State :=
  let e := s.ses i
  let g := s.geo i
  let fs := s.freeFrames e.bed toLp
  if fs.length < units.length then none
  else
    let pairs := units.zip fs
    let s := pairs.foldl (fun s x => s.updFrame toLp x.2 fun f =>
      { f with st := .copying, owner := sesNum i e.inc, pos := x.1 }) s
    let of (u : Nat) : Nat := u / g.fpp % g.npm
    let new : List PageCopy := ((units.map of).eraseDups).map fun p =>
      { index := i, page := p, toLp := toLp, moves := pairs.filter fun x => of x.1 == p }
    some ({ s with copies := s.copies ++ new }).assignDma

/-- The copy of a page has ended: its channel is free, with the bytes it moved counted. -/
def State.endCopyJob (s : State) (i p bytes : Nat) : State :=
  let s := { s with dma := mmap {} (fun _ d =>
    if d.job = some (DmaJob.copy i p) then { d with job := none, bytes := satAdd 64 d.bytes bytes } else d) s.dma }
  s.assignDma

end Sys2Proof.Machine
end

