-- ==== Sys2Proof/Machine/Prefix.lean ====
section
/-!
DEFINITION. The prefix index (R281–R287): hashes, probing, lookup at admission, insertion at a seal, eviction, pins.
-/
namespace Sys2Proof.Machine

/-- The hash of a block (R281). -/
def blockHash (salt : Nat) (digest prev : List Byte) (tokens : List Nat) : List Byte :=
  shake256 16 (leBytes 16 salt ++ digest ++ (if prev.isEmpty then List.replicate 16 0 else prev) ++
    tokens.flatMap (leBytes 4))

/-- "No entry" (R283). -/
def noEntry : Nat := 0x1FFFFF

/-- The 32 slots a hash probes (R283). -/
def probeSlots (h : List Byte) : List Nat := (List.range 32).map fun j => (leNat (h.take 4) % 2 ^ 21 + j) % 2 ^ 21

/-- Whether an entry's block lies in a channel that has stopped: the engine treats it as a miss (R441). -/
def State.pfxDead (s : State) (e : PfxEntry) : Bool :=
  e.blist.any fun x => match s.frame (entLp x) (entFrame x) with
    | some f => match placeOf (65536 * f.addr) with
      | .chan c => (s.chan c).dead
      | _ => false
    | none => false

/-- The entry that holds a hash for a bed (R283). -/
def State.pfxFind (s : State) (b : Nat) (h : List Byte) : List Nat → Option Nat
  | [] => none
  | n :: ns =>
    if n = noEntry then s.pfxFind b h ns
    else
      let e := s.pfxAt n
      match e.st with
      | .empty => none
      | .tombstone => s.pfxFind b h ns
      | .valid => if e.hash == h && e.bed == b && !s.pfxDead e then some n else s.pfxFind b h ns

/-- Look a hash up. -/
def State.pfxLookup (s : State) (b : Nat) (h : List Byte) : Option Nat := s.pfxFind b h (probeSlots h)

/-- Whether an entry may be evicted (R286). -/
def evictable (e : PfxEntry) : Bool := e.st == .valid && e.refs == 0 && e.children == 0 && !e.pinned

/-- Evict an entry: TOMBSTONE, its frames FREE, its parent's CHILDREN down by 1 (R286). -/
def State.evict (s : State) (n : Nat) : State :=
  let e := s.pfxAt n
  let s := e.blist.foldl (fun s x => s.updFrame (entLp x) (entFrame x) fun f =>
    { f with st := .free, owner := 0, pos := 0 }) s
  let s := if e.parent = noEntry then s else s.updPfx e.parent fun p => { p with children := p.children - 1 }
  s.updPfx n fun _ => { st := .tombstone }

/-- The slot an insertion takes (R283). -/
def State.insertSlot (s : State) (h : List Byte) : Option Nat :=
  let ps := (probeSlots h).filter (· != noEntry)
  match ps.find? fun n => (s.pfxAt n).st != .valid with
  | some n => some n
  | none =>
    (ps.filter fun n => evictable (s.pfxAt n)).foldl (fun m n => match m with
      | none => some n
      | some k => if (s.pfxAt n).lastUse < (s.pfxAt k).lastUse then some n else some k) none

/-- Whole blocks of a token list from block index 0. -/
def blocksOf : Nat → List Nat → List (List Nat)
  | 0, _ => []
  | n + 1, ts => if ts.length < 256 then [] else ts.take 256 :: blocksOf n (ts.drop 256)

/-- The chain a prompt's blocks match, from the hash before its first block (R284): entries and the hash of the last. -/
def State.matchChain (s : State) (b salt : Nat) (digest : List Byte) : List Byte → List (List Nat) → List Nat × List Byte
  | prev, [] => ([], prev)
  | prev, blk :: bs =>
    let h := blockHash salt digest prev blk
    match s.pfxLookup b h with
    | none => ([], prev)
    | some n =>
      let (ns, last) := s.matchChain b salt digest h bs
      (n :: ns, last)

/-- Take a reference on a matched entry: REFS up, LAST_USE now (R284). -/
def State.pfxHit (s : State) (n : Nat) : State :=
  s.updPfx n fun e => { e with refs := e.refs + 1, lastUse := s.now }

/-- The entries of a list with a matched block's frames attached (R284). -/
def attachBlock (g : Geo) (es : List Nat) (e : PfxEntry) : List Nat :=
  (List.range g.layers).foldl (fun es l =>
    (List.range g.fpp).foldl (fun es f =>
      es.set (g.unit l e.block f) (e.blist.getD (l * g.fpp + f) 0)) es) es

/-- Insert block `i` of session `ses` at a seal under R283 and R285: its frames, as the captured list `es` names them, go SHARED,
the session holds the one reference, the parent's CHILDREN rises. -/
def State.pfxInsert (s : State) (ses i : Nat) (h : List Byte) (es : List Nat) (inexact saturated : Bool) : State :=
  let e := s.ses ses
  let g := s.geo ses
  let onChain := i = 0 ∨ (∃ n ∈ e.chain, (s.pfxAt n).block + 1 = i)
  if ¬ onChain ∨ (s.pfxLookup e.bed h).isSome then s
  else
    match s.insertSlot h with
    | none => s
    | some n =>
      let s := if (s.pfxAt n).st = .valid then s.evict n else s
      let units := (List.range g.layers).flatMap fun l => (List.range g.fpp).map fun f => (l, f)
      let bl := units.map fun u => es.getD (g.unit u.1 i u.2) 0
      let s := units.foldl (fun s u =>
        let x := es.getD (g.unit u.1 i u.2) 0
        s.updFrame (entLp x) (entFrame x) fun f => { f with st := .shared, owner := n, pos := u.1 * g.fpp + u.2 }) s
      let parent := (e.chain.find? fun k => (s.pfxAt k).block + 1 == i).getD noEntry
      let s := if parent = noEntry then s else s.updPfx parent fun p => { p with children := p.children + 1 }
      let s := s.updPfx n fun _ => {
        hash := h, parent := parent, block := i, bed := e.bed, st := .valid, inexact := inexact,
        saturated := saturated, refs := 1, blist := bl, lastUse := s.now }
      let s := s.updSes ses fun e => { e with chain := e.chain ++ [n], lastEntry := n }
      s.delta e.bed (.insert e.bed h i)

/-- Evict a bed's evictable entries, oldest LAST_USE first, until `F` reaches a mark (R287). -/
def State.evictTo (s : State) (b mark : Nat) : Nat → State
  | 0 => s
  | fuel + 1 =>
    if mark ≤ s.freeOutside b then s
    else
      let ns := mkeys (fun _ e => evictable e && e.bed == b) s.pfx
      match ns.foldl (fun m n => match m with
        | none => some n
        | some k => if (s.pfxAt n).lastUse < (s.pfxAt k).lastUse then some n else some k) none with
      | none => s
      | some n => (s.evict n).evictTo b mark fuel

end Sys2Proof.Machine
end

