-- ==== Sys2Proof/Machine/Ship.lean ====
section
/-!
DEFINITION. Streams this device sends, as its other parts see them (R322–R330, R345–R348): opening, batches, eligible
pages, settling, ending; and messages handed to ports.
-/
namespace Sys2Proof.Machine

/-- Change the stream of a number. -/
def State.updTx (s : State) (num : Nat) (f : TxStream → TxStream) : State :=
  { s with tx := s.tx.map fun t => if t.num = num then f t else t }

/-- The stream of a number. -/
def State.txAt (s : State) (num : Nat) : Option TxStream := s.tx.find? fun t => t.num == num

/-- Whether a bed may queue new streams on a port in a role: the bed owns it or none does, in the live settings and in those of a pending
commit (R406, R422). -/
def State.mayUse (s : State) (b role n : Nat) : Bool :=
  let ok (get : Nat → Nat) : Bool :=
    get (linkReg n 8) % 4 == role &&
      (bitAt (get (bedReg b 0x20)) n || bedNums.all fun c => !(s.bedExists c && bitAt (get (bedReg c 0x20)) n))
  ok s.cfgAt && (!s.stage.pending || ok s.shadowAt)

/-- The port a stream to a Ruxel peer takes: the lowest UP port in the Ruxel role whose peer is the node and which the
bed owns or none owns, and which no pending commit takes from it (R322, R406, R422; log 18). -/
def State.portTo (s : State) (b node : Nat) : Option Nat :=
  (List.range 24).find? fun n => (s.port n).st == .up && (s.port n).peer == node && s.mayUse b 0 n

/-- How a target's stream travels: port 24 stands for none (R322, R338; log 18). A bed queues no new stream on an Ethernet port that another
bed owns, or that a pending commit takes from it (R406, R422). -/
def State.viaOf (s : State) (b : Nat) (t : Target) : Transport :=
  match t.kind with
  | 1 => .ruxel ((s.portTo b t.peer).getD 24)
  | 2 => .eth (if s.mayUse b 2 t.port then t.port else 24)
  | _ => .host

/-- The page image bytes cut at CHUNK (R326, R336, R337, R354). -/
def State.chunkOf (s : State) (via : Transport) : Nat :=
  match via with
  | .eth n => if bitsAt (s.cfgAt (linkReg n 8)) 8 14 ≥ 8304 then 8192 else 1024
  | _ => 8192

/-- Number of the bed's next stream (R322). -/
def streamNum (b count : Nat) : Nat := b + 32 * (count % 2 ^ 27)

/-- Whether a stream's port is UP; a host ring has none. -/
def State.viaUp (s : State) (via : Transport) : Bool :=
  match via with
  | .ruxel n => (s.port n).st == .up
  | .eth n => (s.port n).st == .up
  | .host => true

/-- Open a stream of session `i` under the values in force (R322, R339). -/
def State.openStream (s : State) (i : Nat) (t : Target) (ref : Option PktRef) (warm : Bool) (via : Transport) : Nat × State :=
  let b := (s.ses i).bed
  let num := streamNum b (s.bed b).streams
  let k0 := s.cfgAt kvxReg0
  let st : TxStream := {
    num := num, bed := b, index := i, session := s.sesNumber i, ref := ref, target := t, via := via
    level := match via with | .ruxel n => (s.port n).level | _ => s.sec.cl
    acked := t.eweid, progress := s.now, warm := warm
    c0 := (s.ses i).c, lastC := (s.ses i).c
    downSince := if s.viaUp via then none else some s.now
    udpSrc := bitsAt k0 0 16, udpPort := if t.udpPort = 0 then bitsAt k0 0 16 else t.udpPort
    retryLimit := bitsAt k0 16 4, ackTimeout := bitsAt k0 32 16, holdLimit := bitsAt k0 48 16 }
  let s := s.updBed b fun bd => { bd with streams := bd.streams + 1 }
  (num, { s with tx := s.tx ++ [st] })

/-- Eligible items of the committed pages at a stream's opening: pages from FIRST_PAGE below ⌈c / 256⌉ in every layer
(R325). -/
def committedItems (layers first c : Nat) : List (Nat × Nat) :=
  (List.range layers).flatMap fun l => ((List.range (cdiv c 256)).filter (fun p => first ≤ p)).map fun p => (l, p)

/-- Open a stream's next batch over a list (R325, R329). -/
def State.openBatch (s : State) (num gen start : Nat) (list : List Byte) (items : List (Nat × Nat)) (layers : List Nat) : State :=
  s.updTx num fun t => { t with
    nextBatch := t.nextBatch + 1
    batches := t.batches ++ [{ num := t.nextBatch, gen := gen, list := list, items := items, openLayers := layers, start := start }] }

/-- Batch 0 of a stream that carries the pages of steps: the committed pages are eligible from its opening, read through the
list that is then current (R325, R329); an Eweid stream sends none of them (R351). -/
def State.openFirst (s : State) (num i : Nat) (t : Target) : State :=
  let e := s.ses i
  let g := s.geo i
  (s.readList i).openBatch num e.listGen e.c ((s.listAt g e.listAddr).getD []) (if t.eweid then [] else committedItems g.layers t.firstPage e.c)
    (List.range g.layers)

/-- The batch of a stream for a step that captured a list (R325, R329): batch 0 where no step has taken it yet, else the
next. -/
def State.stepBatch (s : State) (num gen start : Nat) (list : List Byte) (layers : Nat) : State :=
  match (s.txAt num).bind fun t => t.batches.getLast? with
  | some b =>
    if b.num = 0 ∧ b.settle = none ∧ b.cap = none then
      s.updTx num fun t => { t with batches := t.batches.map fun x =>
        if x.num = 0 then { x with cap := some (gen, list, start / 256), start := start } else x }
    else s.openBatch num gen start list [] (List.range layers)
  | none => s.openBatch num gen start list [] (List.range layers)

/-- Put an item among a batch's, by layer then page (R325). -/
def insertItem (x : Nat × Nat) : List (Nat × Nat) → List (Nat × Nat)
  | [] => [x]
  | y :: ys =>
    if x = y then y :: ys
    else if x.1 < y.1 ∨ (x.1 = y.1 ∧ x.2 < y.2) then x :: y :: ys else y :: insertItem x ys

/-- A layer's page writer has finished: the pages it wrote become eligible in the stream's current batch (R325). -/
def State.eligible (s : State) (num layer : Nat) (pages : List Nat) : State :=
  s.updTx num fun t => { t with batches := t.batches.mapIdx fun k b =>
    if k + 1 = t.batches.length ∧ b.settle = none then
      { b with items := pages.foldl (fun l p => if t.target.firstPage ≤ p then insertItem (layer, p) l else l) b.items
               openLayers := b.openLayers.filter (· != layer) }
    else b }

/-- Eweid pages a batch sends: those of which it committed a position, from page 4·FIRST_PAGE, layer by layer (R351). -/
def eweidItems (layers first start c : Nat) : List (Nat × Nat) :=
  (List.range layers).flatMap fun l => ((List.range (cdiv c 64)).filter fun j => decide (4 * first ≤ j) && decide (start < 64 * (j + 1))).map
    fun j => (l, j)

/-- The seal, or the fault, has fixed how the current batch settles (R328). Eweid batches carry the seal's time and C, and
one that would abort sends nothing (R349, R351). -/
def State.settle (s : State) (num : Nat) (k : ActKind) (c : Nat) (last : Bool) : State :=
  s.updTx num fun t => { t with
    endAfter := t.endAfter || last
    batches := t.batches.mapIdx fun j b =>
      if j + 1 = t.batches.length ∧ b.settle = none then
        { b with settle := some k, stamp := s.now, c := c, openLayers := []
                 items := match t.target.eweid, k with
                   | true, .abort _ _ => []
                   | true, _ => eweidItems (s.ses t.index).layers t.target.firstPage b.start c
                   | false, _ => b.items }
      else b }

/-- Whether the request a packet carried is still in flight. -/
def State.inFlight (s : State) (p : PktRef) : Bool := (s.bed p.bed).reqs.any fun r => r.ref.id == p.id

/-- Rank of a stream's status: the first that applies wins (R345). -/
def exportRank (st : Nat) : Nat :=
  if st = 0x63 then 0 else if st = 0x60 then 1 else if st = 0x62 then 2 else if st = 0x42 then 3 else 4

/-- The DMA channel a stream used is idle again. -/
def State.dropShip (s : State) (num : Nat) : State :=
  { s with dma := mmap {} (fun _ d => if d.job = some (DmaJob.ship num) then { d with job := none } else d) s.dma }.assignDma

/-- A stream ends: its batches stop reading their generations, and its export record is queued if a packet waits for it
(R345); the record of a request still in flight comes first (R383), so the stream then only stops. -/
def State.endStream (s : State) (num status detail : Nat) : State :=
  match s.txAt num with
  | none => s
  | some t =>
    let (status, detail) := match t.failure with
      | some f => if exportRank f.1 < exportRank status then f else (status, detail)
      | none => (status, detail)
    let s := s.dropShip num
    if (match t.ref with | some p => s.inFlight p | none => false) then
      (s.updTx num fun t => { t with finished := true, failure := some (status, detail), batches := [] }).drain t.session
    else
      let s := { s with tx := s.tx.filter fun x => x.num != num }
      let s := s.drain t.session
      match t.ref with
      | some p => s.finish p {
          status := status, exported := true, detail := if status = 0x63 then detail else 0, session := t.session,
          r0 := t.pages, r1 := t.resent, r2 := t.lastC, r3 := t.num }
      | none => s

/-- Abort every batch whose COMMIT or ABORT has not been sent, and let the stream close (R347). What such a batch still had to send is not
sent (log 126). -/
def State.abortStream (s : State) (num status admitC : Nat) : State :=
  s.updTx num fun t => { t with
    endAfter := true
    batches := t.batches.map fun b => if b.closed then b else { b with
      settle := some (.abort status admitC), items := [], openLayers := [], stamp := s.now } }

end Sys2Proof.Machine
end

