-- ==== Sys2Proof/Machine/Requests.lean ====
section
/-!
DEFINITION. A request from admission to its end (R295–R316): finding it, rolling its session back, completing it, closing
sessions, and what a fault or a reset does to the requests of a bed.
-/
namespace Sys2Proof.Machine

/-- The request in flight for session entry `i`. -/
def State.reqOf (s : State) (i : Nat) : Option Req := (s.bed (s.ses i).bed).reqs.find? fun r => r.index == i

/-- Change the request of session entry `i`. -/
def State.updReq (s : State) (i : Nat) (f : Req → Req) : State :=
  s.updBed (s.ses i).bed fun bd => { bd with reqs := bd.reqs.map fun r => if r.index = i then f r else r }

/-- What a session delta carries of an entry (R514): SESSION to LAST_ENTRY with STATE IDLE or FREE, and IDLE_LIMIT. -/
def sesImage (e : Session) : Session :=
  { e with
    st := if e.st = .free then .free else .idle
    reqTag := 0, cancelSeen := false, cancelAt := 0, deadline := 0, held := 0, admitC := 0, priorC := 0, mirror := false
    needsPrefill := false, warm := false, warmC := 0, streamed := false, keepOnLate := false, lastSeal := 0, lastActive := 0
    closeRef := none, chain := [], tail := [] }

/-- The session delta that follows a change of an entry (R514). -/
def State.sesDelta (s : State) (i : Nat) : State := s.delta (s.ses i).bed (.session i (sesImage (s.ses i)))

/-- Roll a session back to ADMIT_C (R312–R314): units above it are released by a firmware swap, with the references on
blocks above it, and the entry's last block is that of ADMIT_C. -/
def State.rollback (s : State) (i : Nat) : State :=
  let e := s.ses i
  match s.reqOf i with
  | none => s
  | some r =>
    let s := s.dropAbove i e.admitC
    s.updSes i fun e => { e with
      c := e.admitC, lastHash := r.savedHash, lastEntry := r.savedEntry, tail := r.savedTail
      tailInexact := r.savedInexact, tailSaturated := r.savedSaturated }

/-- A session that keeps its list and C, of which its request has committed nothing yet, has the last block of that C again, not
one that admission matched (R276, R280, R312). -/
def State.keepHash (s : State) (i : Nat) : State :=
  match s.reqOf i with
  | none => s
  | some r => if (s.ses i).c = (s.ses i).admitC then s.updSes i fun e => { e with
      lastHash := r.savedHash, lastEntry := r.savedEntry, tail := r.savedTail
      tailInexact := r.savedInexact, tailSaturated := r.savedSaturated } else s

/-- Empty a session's list and free its entry (R299): its generations drain once nothing reads them (R277, R286). -/
def State.freeSession (s : State) (i : Nat) : State :=
  let e := s.ses i
  let s := s.dropList i
  let s := s.updSes i fun e => { e with st := .free, listAddr := 0, closeRef := none, chain := [], held := 0, mirror := false }
  let s := s.sesDelta i
  match e.closeRef with
  | some p => s.finish p { session := sesNum i e.inc }
  | none => s

/-- Close a session with no request in flight (R299, R347): its open streams abort, then its entry is freed. -/
def State.closeNow (s : State) (i : Nat) : State :=
  let num := s.sesNumber i
  let s := (s.tx.filter fun t => t.session == num).foldl (fun s t => s.abortStream t.num 0x47 t.lastC) s
  let s := s.updSes i fun e => { e with st := .closing }
  s.freeSession i

/-- The export record of a stream that ended while its request was in flight (R345, R383). -/
def State.lateExports (s : State) (id : Nat) : State :=
  (s.tx.filter fun t => t.finished && (match t.ref with | some p => p.id == id | none => false)).foldl
    (fun s t => match t.failure with | some (st, d) => s.endStream t.num st d | none => s) s

/-- A request ends: its own record, then the CANCELs that waited for its end, with OK unless they landed in the A-cycle
of its seal (R377, R383, R414, R484); the session goes IDLE, or on to its close (R299). A stream that carries its pages still owes its export record. -/
def State.endRequest (s : State) (i : Nat) (rec : Rec) : State :=
  match s.reqOf i with
  | none => s
  | some r =>
    let e := s.ses i
    let s := s.releaseHeld i e.held
    let s := s.updBed e.bed fun bd => { bd with reqs := bd.reqs.filter fun x => x.index != i }
    let s := s.updSes i fun e => { e with
      st := .idle, lastActive := s.now, reqTag := 0, cancelSeen := false, deadline := 0, streamed := false, keepOnLate := false }
    let s := s.complete r.ref { rec with session := sesNum i e.inc }
    let open_ := s.tx.any fun t => match t.ref with | some p => p.id == r.ref.id | none => false
    let s := if open_ then (s.halfClose r.ref).lateExports r.ref.id else s.closePkt r.ref
    let st := if rec.status = Status.cancelled.code ∨ rec.status = Status.bedReset.code ∨ (e.cancelSeen ∧ e.cancelAt < s.acyc) then
        Status.ok else .alreadyComplete
    let s := r.cancels.foldl (fun s c => s.finish c { status := st.code, session := sesNum i e.inc }) s
    match r.closing with
    | some p => (s.updSes i fun e => { e with closeRef := some p }).closeNow i
    | none => if r.closeAfter then s.closeNow i else s.sesDelta i

/-- The record of a request at any seal outcome, or when it ends between seals (R378); a DECODE of whose tokens a write was dropped
fails (R425, R434). -/
def State.reqRecord (s : State) (i : Nat) (st : Status) : Rec :=
  match s.reqOf i with
  | none => {}
  | some r => {
      status := (if r.lost ∧ (st = .ok ∨ st = .inexactInfo) then Status.uncorrectable else st).code
      inexact := r.inexact, saturated := r.saturated
      r0 := (s.ses i).lastToken, r1 := r.charged, r2 := (s.ses i).c
      r3 := match r.kind with | .decode => r.gen | _ => r.matched }

/-- The record of a request left out for its page list or its tile lists (R378): the list's generation and the failing entry. -/
def listRecord (st : Status) (k : Nat) (e : Session) (_ : Rec) : Rec := { status := st.code, r0 := e.listGen, r3 := k }

/-- The stream that carries a request's pages, if it still runs. -/
def State.reqStream (s : State) (i : Nat) : Option Nat :=
  match s.reqOf i with
  | some r => r.stream.filter fun n => match s.txAt n with | some t => !t.finished && t.failure.isNone | none => false
  | none => none

/-- The stream that mirrors a session to the twin (R516). -/
def State.warmStream (s : State) (i : Nat) : Option Nat :=
  (s.tx.find? fun t => t.warm && t.session == s.sesNumber i && !t.finished && t.failure.isNone).map (·.num)

/-- The streams that carry the pages of a session's steps; true: its request's, which ends with it. -/
def State.carriers (s : State) (i : Nat) : List (Nat × Bool) :=
  (match s.reqStream i with | some n => [(n, true)] | none => []) ++
    match s.warmStream i with | some n => [(n, false)] | none => []

/-- Settle the open batches of a session's streams (R328); `last` ends the request's own. -/
def State.settleAll (s : State) (i : Nat) (k : ActKind) (c : Nat) (last : Bool) : State :=
  (s.carriers i).foldl (fun s x => s.settle x.1 k c (last && x.2)) s

/-- Abort the batches a session's streams have open (R328, R312, R347). -/
def State.abortBatch (s : State) (i : Nat) (st : Status) : State :=
  s.settleAll i (.abort st.code (s.ses i).admitC) 0 true

/-- End a request without a seal, rolled back to ADMIT_C: cancelled while QUEUED, left out at a capture, faulted, reset
(R275, R303, R314, R411). -/
def State.dropRequest (s : State) (i : Nat) (st : Status) (rec : Session → Rec → Rec := fun _ r => r) : State :=
  let s := (s.abortBatch i st).rollback i
  let r := s.reqRecord i st
  s.endRequest i (rec (s.ses i) r)

/-- End a request whose deadline passed while it waited (R312, R373). -/
def State.missDeadline (s : State) (i : Nat) : State :=
  let e := s.ses i
  let s := s.abortBatch i .deadlineMissed
  let s := if e.keepOnLate then (s.dropAbove i e.c).keepHash i else s.rollback i
  s.endRequest i (s.reqRecord i .deadlineMissed)

/-- The request indices of a step. -/
def stepIndices (o : Option Step) : List Nat := match o with | some t => t.seqs.map (·.index) | none => []

/-- A running step stops with a fault (R104, R303, R328): each of its requests completes with the fault's code and
nothing is charged. -/
def State.failStep (s : State) (b code unit cycle nib bundle : Nat) : State :=
  let bd := s.bed b
  let idx := stepIndices bd.step
  let ref := match bd.step with | some t => t.ref | none => none
  let s := s.updBed b fun bd => { bd with step := none }
  let fr : Rec → Rec := fun r => { r with
    status := code, detail := unit, r0 := 0, r1 := 0, r2 := cycle % 2 ^ 32, r3 := nib % 2048 + 65536 * (bundle % 8192) }
  let s := idx.foldl (fun s i => s.dropRequest i .bedFault fun _ r => fr r) s
  let s := match ref with
    | some p => s.finish p (fr {})
    | none => s
  idx.foldl (fun s i => s.drain (s.sesNumber i)) s

/-- A bed faults (R104): nibs stop, the bed goes FAULTED, BED_FAULTED is raised, the step's requests complete. A fence
leaves them to the bed's reset (R506, R507). -/
def State.bedFault (s : State) (b code unit nib bundle p : Nat) (fence : Bool := false) : State :=
  let cycle := s.stepCycle b
  let s := s.stopNibs b
  let s := s.updBed b fun bd => { bd with
    st := if bd.st = .ready then .faulted else bd.st
    faultCode := code, faultUnit := unit, faultCycle := cycle, faultNib := nib, faultBundle := bundle }
  let s := s.bedFaulted b code unit cycle nib bundle p
  if fence then s else s.failStep b code unit cycle nib bundle

/-- An uncorrectable codeword that a read met (R379, R434): its MEMORY event; in the system area, where both copies then
fail, every bed faults. -/
def State.uncorrRead (s : State) (a : Nat) : State :=
  let s := s.uncorrEvent a
  if decide (a < 0x006000000000) && decide (a % 0xC0000000 < 0x1000000) then
    (bedNums.filter s.bedExists).foldl (fun s b => s.bedFault b Status.uncorrectable.code 0 0 0 0) s
  else s

/-- Fence a nib (R505, R506): FENCED, its mark stored, the bed FAULTED with NIB_RETIRED, the epoch raised. -/
def State.fence (s : State) (p : Nat) : State :=
  let was := s.bedOf p
  let lg := match was with | some b => s.logical b p | none => 0
  let bundle := (s.nib p).bundleAddr (s.nib p).pc % 8192
  let s := s.updNib p fun n => { n with st := .fenced, hold := .none }
  let s := { s with flash := { s.flash with
    nibMarks := if s.flash.nibMarks.contains p then s.flash.nibMarks else p :: s.flash.nibMarks } }
  match was with
  | some b =>
    let s := s.bedFault b Status.nibRetired.code 0 lg bundle p true
    let s := s.updBed b fun bd => { bd with afterFence := true }
    s.raiseEpoch Status.nibRetired.code b p
  | none => s.raiseEpoch 0 0xFFFFFFFF p

/-- A nib faults (R104, R154): it records code, unit, bundle and A-cycle; its bed stops with it, unless its reset has begun (R410). The
bundle is the one the script stands at in the fault's A-cycle (log 174). A WAIT or a gate ends with the script; its TALLY.WAITING stays 1
until a nib reset (DESIGN CHOICE, log 213). A second uncorrectable fault of its own stores in the epoch
fences it (R505). -/
def State.nibFault (s : State) (p code unit : Nat) (addr : FaultAddr := {}) (own : Bool := false) : State :=
  match s.bedOf p with
  | none => s
  | some b =>
    let n := s.nib p
    let bundle := n.bundleAddr n.pc % 8192
    let rec_ : Nib → Nib := fun n => { n with
      st := .faulted, faultCode := code, faultUnit := unit, faultBundle := bundle, faultCycle := s.stepCycle b
      faultAddr := addr, uncorrFaults := if own then n.uncorrFaults + 1 else n.uncorrFaults
      hold := .none, acts := n.acts.filter Act.scrubs, wq := [] }
    if own && n.uncorrFaults + 1 ≥ 2 then (s.updNib p rec_).fence p
    else if (s.bed b).resetEnd.isSome then s.updNib p rec_
    else (s.bedFault b code unit (s.logical b p) bundle p).updNib p rec_

/-- An import ends (R344): what has been committed stays, a provisional batch goes, frames beyond the committed length
return, the session goes IDLE, and KV_IMPORT completes. -/
def State.endImport (s : State) (i : Nat) (st : Status) : State :=
  let e := s.ses i
  let mine := s.rx.filter fun r => r.index == i && !r.mirror
  let s := if st = .cancelled then mine.foldl (fun s r => s.sendBack r (sesNum i e.inc) 0x0A [0x47]) s else s
  let s := { s with
    imports := s.imports.filter fun x => x.index != i
    rx := s.rx.filter fun r => !(r.index == i && !r.mirror) }
  let s := s.dropAbove i e.c
  s.endRequest i { (s.reqRecord i st) with r1 := 0, r3 := 0 }

/-- CANCEL of the request in flight for a session, by the packet that asked (R314, R377); none waits for its seal. -/
def State.cancelReq (s : State) (i : Nat) (by_ : Option PktRef) : State :=
  match s.reqOf i with
  | none => match by_ with
    | some p => s.finish p { status := Status.alreadyComplete.code, session := s.sesNumber i }
    | none => s
  | some r =>
    let s := match by_ with
      | some p => s.updReq i fun r => { r with cancels := r.cancels ++ [p] }
      | none => s
    if r.kind = .kvImport then s.endImport i .cancelled
    else if (s.ses i).st = .queued then s.dropRequest i .cancelled
    else s.updSes i fun e => if e.cancelSeen then e else { e with cancelSeen := true, cancelAt := s.acyc }

end Sys2Proof.Machine
end

