-- ==== Sys2Proof/Machine/NibOps.lean ====
section
/-!
DEFINITION. A nib's stores and ports (R71–R84): scratchpad and accumulator reads with correction, scheduled writes,
register lanes and row flags, the issue of a slot, and flits on the scheduled plane (R146–R149).
-/
namespace Sys2Proof.Machine

/-! ### Scratchpad (R76–R84) -/

/-- NIB.FAULT_ADDR of a scratchpad row (R76, R84). -/
def padAddr (row : Nat) : FaultAddr := { bank := row % 16, row := row / 16 }

/-- What a port reads of a row: the corrected row, a correction counted, nothing written back; none where it cannot be
corrected, which counts as a row found uncorrectable (R83, R106). -/
def Nib.readRow (n : Nib) (row : Nat) : Option Row × Nib :=
  let d := mget 0 n.pad row
  let up := mget 0 n.padUpset row
  if up = 0 then (some d, n)
  else match houseRead (rowBytes d) up with
    | (some bs, c) => (some (rowOf bs), if c then { n with errCorr := n.errCorr + 1 } else n)
    | (none, _) => (none, { n with errUncorr := n.errUncorr + 1 })

/-- A scheduled-port read issued in A-cycle `now`: the row, and the nib with its correction counted or its fault due when
the read completes (R80, R83, R84). -/
def Nib.padRead (n : Nib) (now row : Nat) : Row × Nib :=
  match n.readRow row with
  | (some d, n) => (d, n)
  | (none, n) =>
    (mget 0 n.pad row, { n with acts := n.acts ++ [.fault (now + 3) Status.uncorrectable.code 3 (padAddr row)] })

/-- The flags a scratchpad row carries (R53). -/
def Nib.padFlag (n : Nib) (row : Nat) : Nat := mget 0 n.padFl row

/-- Read consecutive rows in one A-cycle. -/
def Nib.padReads (n : Nib) (now row : Nat) : Nat → List Row × Nib
  | 0 => ([], n)
  | k + 1 =>
    let (r, n) := n.padRead now (row % 65536)
    let (rs, n) := n.padReads now (row + 1) k
    (r :: rs, n)

/-- OR of the flags of consecutive rows. -/
def Nib.padFlags (n : Nib) (row k : Nat) : Nat := (List.range k).foldl (fun f i => f ||| n.padFlag ((row + i) % 65536)) 0

/-- A row is written: its data with its check bytes, and its flags (R77). -/
def Nib.padWrite (n : Nib) (row : Nat) (d : Row) (fl : Nat := 0) : Nib :=
  { n with pad := mset 0 n.pad row d, padUpset := mset 0 n.padUpset row 0, padFl := mset 0 n.padFl row fl }

/-- A scheduled-port write that lands in A-cycle `due` (R80); `flit`: off the scheduled plane (R149). -/
def Nib.schedWrite (n : Nib) (due row : Nat) (d : Row) (fl : Nat := 0) (flit : Bool := false) : Nib :=
  { n with wq := n.wq ++ [{ due := due, row := row % 65536, data := d, fl := fl, flit := flit }] }

/-- Scheduled writes of consecutive rows that land together. -/
def Nib.schedWrites (n : Nib) (due row : Nat) (ds : List Row) (fl : Nat := 0) (flit : Bool := false) : Nib :=
  (ds.zipIdx).foldl (fun n x => n.schedWrite due (row + x.2) x.1 fl flit) n

/-- A write of some bytes of a row that lands in A-cycle `due`: a scale byte or a statistic joins its row (log 43). -/
def Nib.bytesWrite (n : Nib) (due row at_ : Nat) (bs : List Byte) (fl : Nat := 0) : Nib :=
  { n with wq := n.wq ++ [{
      due := due, row := row % 65536, data := BitVec.ofNat 256 (leNat bs * 256 ^ at_)
      mask := (2 ^ bs.length - 1) * 2 ^ at_, fl := fl }] }

/-- The bytes `mask` selects of `new`, the others of `old`. -/
def mixRow (mask : Nat) (old new : Row) : Row :=
  rowOf (((rowBytes old).zip (rowBytes new)).zipIdx.map fun x => if bitAt mask x.2 then x.1.2 else x.1.1)

/-- A scheduled write lands (R80). Every write is of a whole row (R77): a write of some bytes brings the row's others as a
read corrects them, and faults where it cannot (log 43). -/
def Nib.land (n : Nib) (w : PendWrite) : Nib :=
  if w.mask = 0xFFFFFFFF then n.padWrite w.row w.data w.fl
  else match n.readRow w.row with
    | (some old, n) => n.padWrite w.row (mixRow w.mask old w.data) (n.padFlag w.row ||| w.fl)
    | (none, n) => { n with acts := n.acts ++ [.fault (w.due + 1) Status.uncorrectable.code 3 (padAddr w.row)] }

/-- A row as a scheduled read delivers it. -/
def Nib.peek (n : Nib) (row : Nat) : Row := (n.readRow row).1.getD (mget 0 n.pad row)

/-- What scheduled reads of rows issued in A-cycle `now` leave in the nib (R83, R84). -/
def Nib.touch (n : Nib) (now : Nat) (rows : List Nat) : Nib := rows.foldl (fun n r => (n.padRead now r).2) n

/-- What reading route `r`'s bundle in A-cycle `now` leaves in the nib: a correction counted, or the fault of a bundle that cannot be
read (R114, R152, R154). -/
def Nib.routeRead (n : Nib) (now r : Nat) : Nib :=
  match n.bundleAt (n.slotD.start + 1 + r / 4) with
  | (some _, c) => if c then { n with errCorr := n.errCorr + 1 } else n
  | (none, _) => { n with acts := n.acts ++ [.fault now Status.uncorrectable.code 0 {}] }

/-! ### Accumulator store (R71–R73) -/

/-- Tag of slot `s`. -/
def Nib.tag (n : Nib) (s : Nat) : Tag := mget {} n.tags (s % 64)

/-- Change the tag of slot `s`. -/
def Nib.updTag (n : Nib) (s : Nat) (f : Tag → Tag) : Nib := { n with tags := mupd {} n.tags (s % 64) f }

/-- The window of element (r, c) of a slot (R72). -/
def Tag.window (t : Tag) (r c : Nat) : Int := mget 0 t.rowExp r + mget 0 t.colExp c + t.wconst

/-- Flags of a slot row: bit 0 INEXACT, bit 1 SATURATED. -/
def Tag.flags (t : Tag) (r : Nat) : Nat := b2n (mget false t.inexact r) + 2 * b2n (mget false t.saturated r)

/-- OR flags into a slot row's sticky bits (R53, R72). -/
def Tag.orFlags (t : Tag) (r fl : Nat) : Tag :=
  { t with
    inexact := if bitAt fl 0 then mset false t.inexact r true else t.inexact
    saturated := if bitAt fl 1 then mset false t.saturated r true else t.saturated }

/-- Key of element (r, 0) of a slot. -/
def accKey (s r : Nat) : Nat := 256 * (s % 64) + 16 * r

/-- The bytes of two adjacent elements (R71). -/
def pairBytes (a b : Acc) : List Byte := leBytes 16 a.toNat ++ leBytes 16 b.toNat

/-- Read one slot row, a codeword of two elements at a time, by an operation that delivers `lat` A-cycles after `now`
(R71, R152, R154). A slot with ZERO set reads as finite zero (R73). -/
def Nib.accRead (n : Nib) (now lat s r : Nat) : List Acc × Nib :=
  if (n.tag s).zero then (List.replicate 16 0, n)
  else (List.range 8).foldl (fun (x : List Acc × Nib) j =>
    let k := accKey s r + 2 * j
    let a := mget 0 x.2.acc k
    let b := mget 0 x.2.acc (k + 1)
    let up := mget 0 x.2.accUpset (k / 2)
    if up = 0 then (x.1 ++ [a, b], x.2)
    else match houseRead (pairBytes a b) up with
      | (some bs, c) =>
        (x.1 ++ [BitVec.ofNat 128 (leNat (bs.take 16)), BitVec.ofNat 128 (leNat (bs.drop 16))],
          if c then { x.2 with errCorr := x.2.errCorr + 1 } else x.2)
      | (none, _) => (x.1 ++ [a, b], { x.2 with
          acts := x.2.acts ++ [.fault (now + lat) Status.uncorrectable.code 2 {}] })) ([], n)

/-- Write one slot row. A slot that was ZERO holds zero elsewhere. -/
def Nib.accWrite (n : Nib) (s r : Nat) (vs : List Acc) : Nib :=
  let z := (n.tag s).zero
  let acc := if z then mfilter (fun k _ => k / 256 != s % 64) n.acc else n.acc
  let n := n.updTag s fun t => { t with zero := false }
  { n with
    acc := msetRange 0 acc (accKey s r) vs
    accUpset := (List.range 8).foldl (fun m j => mset 0 m ((accKey s r) / 2 + j) 0) n.accUpset }

/-- CLEAR (R73): ZERO set, the slot's flags cleared, its window kept. -/
def Nib.accClear (n : Nib) (s : Nat) : Nib := n.updTag s fun t => { t with zero := true, inexact := [], saturated := [] }

/-- Place block partials into one slot row (R49, R73) in the A-cycle before they are usable; `fl` are the flags the streamed row
carries (R53). PLACE_SET reads no element. -/
def Nib.place (n : Nib) (now s r : Nat) (set : Bool) (ps : List Partial) (fl : Nat) : Nib :=
  let (old, n) := if set then (List.replicate 16 0, n) else n.accRead now 1 s r
  let t := n.tag s
  let res := ((old.zip ps).zipIdx).map fun x => placeInto set x.1.1 x.1.2 (t.window r x.2)
  let f := res.foldl (fun f x => f ||| (b2n x.2.1 + 2 * b2n x.2.2)) fl
  (n.accWrite s r (res.map (·.1))).updTag s fun t => t.orFlags r f

/-! ### Vector registers (R98) and their flags (R53) -/

/-- The 64 lanes of a register's stored list. -/
def lanes64 (l : List Lane) : List Lane := (List.range 64).map fun i => l.getD i 0

/-- Register `v`: 64 lanes. -/
def Nib.vreg (n : Nib) (v : Nat) : List Lane := lanes64 (mget (List.replicate 64 0) n.vregs v)

/-- Lanes of a register that carry INEXACT, and that carry SATURATED. -/
def Nib.vflag (n : Nib) (v : Nat) : Nat × Nat := mget (0, 0) n.vfl v

/-- Write a register and its lane flags. -/
def Nib.setVreg (n : Nib) (v : Nat) (l : List Lane) (f : Nat × Nat) : Nib :=
  { n with vregs := mset (List.replicate 64 0) n.vregs v l, vfl := mset (0, 0) n.vfl v f }

/-- Write lanes `lo` on of a register: the low `bits` bits of each, the others kept. Whole lanes take the flags `fl`, and lanes
written in part add them. -/
def Nib.setLanes (n : Nib) (v lo bits : Nat) (l : List Lane) (fl : Nat × Nat) : Nib :=
  let old := n.vreg v
  let f := n.vflag v
  let keep := if bits = 32 then 2 ^ 64 - 1 - (2 ^ l.length - 1) * 2 ^ lo else 2 ^ 64 - 1
  let new := old.zipIdx.map fun x =>
    if lo ≤ x.2 ∧ x.2 < lo + l.length then
      BitVec.ofNat 32 (x.1.toNat / 2 ^ bits * 2 ^ bits + (l.getD (x.2 - lo) 0).toNat % 2 ^ bits)
    else x.1
  n.setVreg v new ((f.1 &&& keep) ||| fl.1, (f.2 &&& keep) ||| fl.2)

/-- OR two lane-flag pairs. -/
def orLanes (a b : Nat × Nat) : Nat × Nat := (a.1 ||| b.1, a.2 ||| b.2)

/-- Lane flags with lanes `lo` to `lo + k − 1` set by `fl`. -/
def laneFlags (lo k fl : Nat) : Nat × Nat :=
  let m := (2 ^ k - 1) * 2 ^ lo
  (if bitAt fl 0 then m else 0, if bitAt fl 1 then m else 0)

/-- The flags of lanes `lo` to `lo + k − 1`. -/
def flagsOf (f : Nat × Nat) (lo k : Nat) : Nat :=
  b2n (bitsAt f.1 lo k != 0) + 2 * b2n (bitsAt f.2 lo k != 0)

/-- Lanes of a row: 8 words. -/
def rowLanes (r : Row) : List Lane := (List.range 8).map fun i => BitVec.ofNat 32 (bitsAt r.toNat (32 * i) 32)

/-- A row of 8 lanes. -/
def lanesRow (l : List Lane) : Row := BitVec.ofNat 256 (pack (l.map fun x => (32, x.toNat)))

/-! ### Shapes -/

/-- Shape register `r`. -/
def Nib.shape (n : Nib) (r : Nat) : Shape := mget {} n.shapes r

/-! ### Issue (R108–R110, R135, R154) -/

/-- Whether slot `k` of the current bundle has issued. -/
def Nib.issued (n : Nib) : Nat → Bool
  | 0 => n.issuedM | 1 => n.issuedV | 2 => n.issuedX | _ => n.issuedC

/-- Mark slot `k` of the current bundle issued. -/
def Nib.setIssued (n : Nib) : Nat → Nib
  | 0 => { n with issuedM := true } | 1 => { n with issuedV := true }
  | 2 => { n with issuedX := true } | _ => { n with issuedC := true }

/-- Whether the current bundle is one of a shadow iteration (R135). A loop that this bundle begins does not yet hold it
(R110, R127). -/
def Nib.shadowed (n : Nib) : Bool := n.loops.any fun f => decide (f.start ≤ n.pc) && decide (f.run ≤ f.iter)

/-- A result that is usable from A-cycle `usable` on (R107, R153). -/
def Nib.result (n : Nib) (usable : Nat) (l : Landing) : Nib := { n with acts := n.acts ++ [.result (usable - 1) l] }

/-- Issue slot `k` of nib `p`'s current bundle if `sel` recognises its word: `f` is its effect, which a shadow iteration
leaves out (R135), unless it only sequences bundles (`seq`). A bundle that cannot be read faults in this A-cycle (R154). -/
def State.issue (s : State) (p k : Nat) (sel : Nat → Bool) (f : Nat → State → State) (seq : Bool := false) : State :=
  let n := s.nib p
  if !s.runs || n.st != .running || n.issued k then s
  else match n.bundle.1 with
    | none => s.nibFault p Status.uncorrectable.code 0 {} true
    | some b =>
      let w := slotWord b k
      if !sel w then s
      else
        let s := s.updNib p fun n => n.setIssued k
        if n.shadowed && !seq then s else f w s

/-- Select by opcode. -/
def byOp (op w : Nat) : Bool := slotOp w == op

/-- Select an ACC instruction by SUBOP (R118's table). -/
def byAcc (sub w : Nat) : Bool := slotOp w == 4 && fld w 47 45 == sub

/-! ### The scheduled plane (R147–R149, R18) -/

/-- Hops between two nibs. -/
def hops (p q : Nat) : Nat := ((p % 40 : Nat) - (q % 40 : Nat) : Int).natAbs + ((p / 40 : Nat) - (q / 40 : Nat) : Int).natAbs

/-- Stitch boundaries between two nibs (R18). -/
def crossings (p q : Nat) : Nat :=
  b2n (decide (p % 40 < 20) != decide (q % 40 < 20)) + b2n (decide (p / 40 < 16) != decide (q / 40 < 16))

/-- A-cycles from one router to another on either plane: one a hop, three more a stitch crossing (R18). -/
def meshTime (p q : Nat) : Nat := hops p q + 3 * crossings p q

/-- A send reads its route's bundle (R114, R152): where it cannot, the nib faults and sends nothing (R154). -/
def State.withRoute (s : State) (p r : Nat) (f : RouteEntry → State → State) : State :=
  let n := s.nib p
  match (n.bundleAt (n.slotD.start + 1 + r / 4)).1 with
  | some _ => f (n.route r) (s.setNib p (n.routeRead s.acyc r))
  | none => s.nibFault p Status.uncorrectable.code 0 {} true

/-- Rows of a flit sent from nib `p` in A-cycle `x` land at the route's target in x + 6 + H + 3S (R153), from index `i` of
its handle. A route whose logical number no nib of the bed has moves nothing. -/
def State.sendFlit (s : State) (p : Nat) (r : RouteEntry) (i x : Nat) (ds : List Row) (fl : Nat) : State :=
  match s.bedOf p with
  | none => s
  | some b => match s.physical b r.nib with
    | none => s
    | some q => s.updNib q fun n => n.schedWrites (x + 6 + meshTime p q) (n.rowIn r.slot r.handle i) ds fl true

/-- A packet of rows enters the asynchronous plane, 4 A-cycles after `x`, towards a route's target (R18, R101, R107, R114). -/
def State.sendPkt (s : State) (p : Nat) (r : RouteEntry) (i x : Nat) (ds : List Row) (fl : Nat) : State :=
  match s.bedOf p with
  | none => s
  | some b => match s.physical b r.nib with
    | none => s
    | some q => { s with mesh := s.mesh ++ [(.nib p, {
        bed := b, nib := q, slot := r.slot, handle := some r.handle, index := i, tally := r.tally, rows := ds, fl := fl
        reach := x + 4 + meshTime p q })] }

/-- Add work to a nib. -/
def State.addAct (s : State) (p : Nat) (a : Act) : State := s.updNib p fun n => { n with acts := n.acts ++ [a] }

end Sys2Proof.Machine
end

