-- ==== Sys2Proof/Machine/Planning.lean ====
section
/-!
DEFINITION. How steps are built from queued requests, and what they are estimated to cost (R249, R251, R306–R309).
-/
namespace Sys2Proof.Machine

/-- Maximum of field `f` (0 M, 1 N, 2 K, 3 AUX0, 4 AUX1) of shape register `r` in a shape plan (R162). -/
def ShapePlan.max (p : ShapePlan) (r f : Nat) : Nat := (p.maxima.getD r []).getD f 0

/-- Token rows the plan admits: the least M among the registers it assigns to token rows (R251). -/
def ShapePlan.rows (p : ShapePlan) : Nat :=
  match p.rowRegs with
  | [] => 0
  | r :: rs => rs.foldl (fun m x => min m (p.max x 0)) (p.max r 0)

/-- The largest M among a model's armed plans (R307). -/
def Model.maxRows (m : Model) : Nat := m.slots.foldl (fun a x => max a x.2.rows) 0

/-- Bucket of the plan for `n` rows: the smallest whose LEN holds them (R249). -/
def bucketFor (p : ShapePlan) (n : Nat) : Option Nat :=
  (p.buckets.zipIdx).foldl (fun m x => if n ≤ x.1 then match m with
    | some k => if x.1 < p.buckets.getD k 0 then some x.2 else m
    | none => some x.2 else m) none

/-- Rows `n` token rows of a request take in a step: its bucket's length when bulk (R249). -/
def bucketRows (p : ShapePlan) (bulk : Bool) (n : Nat) : Option Nat :=
  if bulk then (bucketFor p n).map fun k => p.buckets.getD k 0 else some n

/-- The plan a step selects: the lowest slot whose maxima, and whose buckets for a bulk request, hold the rows and the context
(log 19). -/
def Model.pick (m : Model) (bulk : Bool) (rows ctx : Nat) : Option (Nat × ShapePlan) :=
  m.slots.find? fun x => decide (ctx ≤ x.2.ctx) && match bucketRows x.2 bulk rows with
    | some n => decide (n ≤ x.2.rows)
    | none => false

/-- A request as the builder sees it: what its next step computes and from where. -/
structure Want where
  index : Nat
  handle : Nat
  bulk : Bool
  deadline : Nat
  order : Nat
  rows : Nat                        -- rows of its next step
  pos : Nat                         -- position of the first
  left : Nat                        -- tokens after that step
  chunk : Nat                       -- rows of a later step
  layers : Nat
  pfx : Nat                         -- bidirectional prefix and segments (R248)
  segs : List Nat
  retr : Bool                       -- retrieval attention (R248, R258)
  decode : Bool                     -- one token of a DECODE (R256)
deriving DecidableEq, Repr

/-- Rows of a request's next step: one for a DECODE, CH at most for a chunked or streamed request, else all (R307, R374). -/
def nextRows (bd : Bed) (r : Req) : Nat :=
  match r.kind with
  | .decode => 1
  | _ => let left := r.new - r.matched - r.done
    if r.chunked || r.streamed then min bd.ch left else left

/-- How the builder sees request `r`. -/
def State.want (s : State) (r : Req) : Want :=
  let e := s.ses r.index
  let bd := s.bed e.bed
  let n := nextRows bd r
  let pos := match r.kind with | .decode => e.c | _ => if r.done = 0 then e.admitC + r.matched else e.c
  { index := r.index, handle := e.model, bulk := r.bulk, deadline := e.deadline, order := r.order, rows := n, pos := pos
    left := (match r.kind with | .decode => r.new - r.gen | _ => r.new - r.matched - r.done) - n
    chunk := n, layers := (s.pkgOf r.index).layers, pfx := r.pfx, segs := r.segs
    retr := r.retr, decode := r.kind == .decode }

/-- Earliest absolute deadline first, then order of admission, no deadline last (R309). -/
def wantBefore (a b : Want) : Bool :=
  if a.deadline = b.deadline then a.order < b.order
  else if a.deadline = 0 then false
  else if b.deadline = 0 then true
  else a.deadline < b.deadline

/-- Insert in the builder's order. -/
def wantInsert (x : Want) : List Want → List Want
  | [] => [x]
  | y :: ys => if wantBefore x y then x :: y :: ys else y :: wantInsert x ys

/-- Sort in the builder's order. -/
def wantSort (l : List Want) : List Want := l.foldr wantInsert []

/-- Rows a request takes in a step. -/
def takenRows (p : ShapePlan) (w : Want) : Option Nat := bucketRows p w.bulk w.rows

/-- Fill a step in order: requests of another model are passed over; the first that would push a field above the plan
ends it, or NSEQ above 4,096 (R309), or its sequences that decode above 2,048, `dec` of which it holds (R256). -/
def fillStep (p : ShapePlan) (handle rows count dec : Nat) : List Want → List Want
  | [] => []
  | w :: ws =>
    if w.handle != handle then fillStep p handle rows count dec ws
    else match takenRows p w with
      | none => []
      | some n =>
        if p.rows < rows + n ∨ p.ctx < w.pos + w.rows ∨ 4096 ≤ count ∨ (w.decode ∧ 2048 ≤ dec) then []
        else w :: fillStep p handle (rows + n) (count + 1) (dec + b2n w.decode) ws

/-- Whether the next step is a bulk step (R308). -/
def bulkStep (interactive every : Nat) (ws : List Want) : Bool :=
  let i := ws.any fun w => !w.bulk
  let b := ws.any (·.bulk)
  b && (!i || (every != 0 && every ≤ interactive))

/-- The step the builder makes of waiting requests (R308, R309): its class, slot and plan, and the requests it takes. -/
def State.buildFrom (s : State) (b interactive : Nat) (ws : List Want) : Option (Bool × Nat × ShapePlan × List Want) :=
  let every := bitsAt (s.cfgAt (bedReg b 0x40)) 8 8
  let bulk := bulkStep interactive every ws
  match wantSort (ws.filter fun w => w.bulk == bulk) with
  | [] => none
  | w :: rest =>
    match mget none (s.bed b).models w.handle with
    | none => none
    | some m =>
      match m.pick w.bulk w.rows (w.pos + w.rows) with
      | none => none
      | some (slot, p) => some (bulk, slot, p, fillStep p w.handle 0 0 0 (w :: rest))

/-- Key–value pages one layer's attention reads for `rows` rows from position `pos`: those below their end (R306); where retrieval
applies, at most the 76 that each of their query blocks selects (R258; log 80). -/
def pagesSeen (lr : Nat) (retr : Bool) (pos rows : Nat) : Nat :=
  let all := cdiv (pos + rows) 256
  if retr && decide (lr < pos + rows) then min all (76 * (all - pos / 256)) else all

/-- Key–value pages a step's attention reads, in every layer (R306). -/
def pagesRead (lr : Nat) (ws : List Want) : Nat := sumNat (ws.map fun w => w.layers * pagesSeen lr w.retr w.pos w.rows)

/-- A step's cost in T-ticks at a divider (R306). -/
def stepTicks (p : ShapePlan) (pages div : Nat) : Nat := cdiv ((p.fixed + p.page * pages) * div) 48

/-- A request after its next step: its next chunk, if any is left. -/
def Want.after (w : Want) : Option Want :=
  if w.left = 0 then none
  else some { w with pos := w.pos + w.rows, rows := min w.chunk w.left, left := w.left - min w.chunk w.left }

/-- What remains to be built after a step: requests it took with more to do come back with their next chunk. -/
def afterStep (ws taken : List Want) : List Want :=
  (ws.filter fun w => taken.all fun t => t.index != w.index) ++ taken.filterMap Want.after

/-- H of R306: estimated seal time of the last step before the first that would hold request `i`, packing as R308 and R309
would. -/
def State.estimateH (s : State) (b i : Nat) (t interactive : Nat) (ws : List Want) : Nat → Nat
  | 0 => t
  | fuel + 1 =>
    match s.buildFrom b interactive ws with
    | none => t
    | some (bulk, _, p, taken) =>
      if taken.isEmpty || taken.any (fun w => w.index == i) then t
      else
        let t := t + stepTicks p (pagesRead (s.retrievalLen b) taken) s.clk.div
        s.estimateH b i t (if bulk then 0 else interactive + 1) (afterStep ws taken) fuel

/-- Cost in T-ticks of every step request `w` needs (R306). -/
def sumCost (m : Model) (lr div : Nat) (w : Want) : Nat → Nat
  | 0 => 0
  | fuel + 1 =>
    match m.pick w.bulk w.rows (w.pos + w.rows) with
    | none => 0
    | some (_, p) =>
      stepTicks p (pagesRead lr [w]) div +
        match w.after with
        | none => 0
        | some w => sumCost m lr div w fuel

/-- A descriptor's own cost estimate in T-ticks. -/
def State.stepCost (s : State) (b : Nat) (t : Step) : Nat :=
  match mget none (s.bed b).models t.handle with
  | none => 0
  | some m =>
    match m.slots.find? (fun x => x.1 == t.slot) with
    | none => 0
    | some (_, p) =>
      stepTicks p (sumNat (t.seqs.map fun q => m.pkg.layers * pagesSeen t.lr q.retr q.pos0 q.new)) s.clk.div

/-- Requests that wait for an automatic step: QUEUED, not STEPPED (R373), in no descriptor. -/
def State.waiting (s : State) (b : Nat) : List Req :=
  let bd := s.bed b
  let held := stepIndices bd.next ++ stepIndices bd.step
  bd.reqs.filter fun r => r.kind != .kvImport && !r.stepped && !held.contains r.index

/-- TIER 1 units that must be copied back before request `r` may join a step (R289): all of them at its admission unless it runs
streamed, later those of the pages it writes. -/
def State.mustFetch (s : State) (r : Req) : List Nat :=
  let w := s.want r
  let g := s.geo r.index
  let es := s.entries r.index
  let written := g.span (w.pos / 256) (cdiv (w.pos + w.rows) 256)
  (List.range g.nent).filter fun u =>
    let e := es.getD u 0
    entHere e && entLp e && ((r.prefetch && !r.streamed) || written.contains u)

/-- Copies towards HBM that a bed's waiting requests still need and nothing does yet are planned (R289). -/
def State.fetchPages (s : State) (b : Nat) : State :=
  (s.waiting b).foldl (fun s r =>
    if s.copies.any fun k => k.index == r.index && !k.toLp then s
    else
      let us := s.mustFetch r
      let s := s.updReq r.index fun r => { r with prefetch := !us.isEmpty }
      if us.isEmpty then s else (s.planCopies r.index false us).getD s) s

/-- What is left to build of the requests in the running step and in the published descriptor: their later chunks or tokens (R306). A
STEPPED request joins no automatic step (R373). -/
def State.underway (s : State) (b : Nat) : List Want :=
  let bd := s.bed b
  (bd.reqs.filter fun r => r.kind != .kvImport && !r.stepped && (stepIndices bd.next ++ stepIndices bd.step).contains r.index).filterMap
    fun r => (s.want r).after

/-- The estimated completion of request `i`, were it queued (R306). -/
def State.estimate (s : State) (b i : Nat) (r : Req) : Nat :=
  let bd := s.bed b
  let t0 := match bd.step with | some t => max s.now (t.startT + s.stepCost b t) | none => s.now
  let t1 := match bd.next with | some t => t0 + s.stepCost b t | none => t0
  let ws := (s.waiting b).map s.want ++ s.underway b
  let w := { s.want r with order := bd.orders }
  let h := s.estimateH b i t1 bd.interactive (ws ++ [w]) (sumNat (ws.map fun x => x.left + 1) + 1)
  match mget none bd.models w.handle with
  | none => h
  | some m => h + if r.kind = .admission then 100 * r.cost else sumCost m (s.retrievalLen b) s.clk.div w (r.new + 1)

end Sys2Proof.Machine
end

