-- ==== Sys2Proof/Machine/Admission.lean ====
section
/-!
DEFINITION. Admission of PREFILL, ADMIT and DECODE (R252, R304–R307, R318, R323, R324, R349, R367, R371, R373, R374) and
the stages' checks. DETAIL of a rejection is the stage (R378).
-/
namespace Sys2Proof.Machine

/-- The device's model as admission sees a request: its arguments decoded (R371). -/
structure ReqArgs where
  new : Nat
  keepOnLate : Bool
  retr : Bool
  bulk : Bool
  samp : Bool
  exported : Bool
  indirect : Bool
  deadline : Nat
  pfx : Nat
  segn : Nat
  stop : Nat
  cost : Nat
  stepped : Bool
deriving DecidableEq, Repr

/-- Decode the request arguments (R371). -/
def reqArgs (k : Pkt) : ReqArgs :=
  { new := bitsAt k.a0 0 21, keepOnLate := bitAt k.a0 21, retr := bitAt k.a0 22, bulk := bitAt k.a0 23
    samp := bitAt k.a0 24, exported := bitAt k.a0 25, indirect := bitAt k.a0 26, deadline := bitsAt k.a0 32 32
    pfx := bitsAt k.a1 0 20, segn := bitsAt k.a1 20 12, stop := bitsAt k.a1 32 32, cost := bitsAt k.a2 0 32
    stepped := bitAt k.a2 32 }

/-- Offsets of the sections of a request's payload (R369): sampling, target, segments, tokens, and the end. -/
def sections (op : Nat) (payload : List Byte) (a : ReqArgs) : Nat × Nat × Nat × Nat × Nat :=
  let o1 := if a.samp then roundUp (64 + 8 * bitsAt (leField payload 20 4) 11 7) 64 else 0
  let o2 := o1 + if a.exported then 64 else 0
  let o3 := o2 + roundUp (4 * a.segn) 64
  let o4 := o3 + if a.indirect || op = 0x33 then 0 else roundUp (4 * a.new) 64
  (0, o1, o2, o3, o4)

/-- The sampling block and its bias entries (R318). -/
def sampling (bs : List Byte) : Sampling :=
  let w := leField bs 20 4
  let n := bitsAt w 11 7
  { seed := leField bs 0 8, temp := leField bs 8 4, topp := leField bs 12 4, minp := leField bs 16 4
    topk := bitsAt w 0 11
    bias := (List.range n).map fun i => (leField bs (64 + 8 * i) 4, leField bs (68 + 8 * i) 4) }

/-- The export target block (R323). -/
def target (bs : List Byte) : Target :=
  let w := leField bs 0 4
  { kind := bitsAt w 0 2, eweid := bitAt w 2, keep := bitAt w 3, port := bitsAt w 4 5, firstPage := bitsAt w 16 12
    remote := leField bs 4 4, peer := leField bs 8 2, udpPort := leField bs 10 2, destIp := slice bs 16 16
    destMac := slice bs 32 6, hostAddr := leField bs 40 8, nslots := leField bs 48 2 }

/-- Whether a section's reserved bits are 0 (check 7 of R366): sampling block, target block, segment entries. -/
def sectionsReserved (op : Nat) (payload : List Byte) (a : ReqArgs) : Bool :=
  let (_, o1, o2, _, _) := sections op payload a
  let t := slice payload o1 64
  let w := leField t 0 4
  (!a.samp || (bitsAt (leField payload 20 4) 18 14 == 0 && (slice payload 24 40).all (· == 0))) &&
  (!a.exported || (bitsAt w 9 7 == 0 && bitsAt w 28 4 == 0 && leField t 12 4 == 0 && leField t 38 2 == 0 &&
    leField t 50 14 == 0)) &&
  (List.range a.segn).all fun i => decide (leField payload (o2 + 4 * i) 4 < 2 ^ 20)

/-- An FP32 pattern is not a NaN and its value lies in [lo, hi], the bounds given as positive patterns; zero of either
sign is 0 (R318). -/
def fpIn (x lo hi : Nat) : Bool :=
  let y := if x = 0x80000000 then 0 else x
  decide (lo ≤ y) && decide (y ≤ hi)

/-- Whether the sampling block lies in its ranges (R318); token bounds need the vocabulary. -/
def samplingOk (p : Sampling) (vocab : Nat) : Bool :=
  (fpIn p.temp 0 0 || fpIn p.temp 0x3B800000 0x43800000) && fpIn p.topp 1 0x3F800000 &&
  fpIn p.minp 0 0x3F7FFFFF && decide (p.topk ≤ 1024) && decide (p.bias.length ≤ 64) &&
  p.bias.all fun b => decide (b.1 < vocab) && (b.2 == 0xFF800000 || decide (b.2 % 2 ^ 31 < 0x7F800000))

/-- Stage 1's checks of a target (R324, R349). -/
def State.targetOk (s : State) (t : Target) (npm : Nat) : Bool :=
  t.kind == 0 ||
  (!(t.kind == 3 && !t.eweid) && !(t.kind == 2 && !(decide (t.port < 24) && s.role t.port == 2)) && decide (t.firstPage < npm) &&
   !(t.kind == 3 && t.nslots == 0) && !(t.eweid && t.remote == 0) &&
   !(t.eweid && !(t.kind == 3 || (t.kind == 2 && (t.port == 16 || t.port == 17)))) && !(t.eweid && !s.eweidOn))

/-- Stage 2's checks of a target (R2, R324). -/
def State.targetLicence (s : State) (t : Target) : Bool :=
  t.kind == 0 || ((t.kind != 2 || s.licensed 0) && (!t.eweid || s.licensed 4))

/-- Strictly ascending. -/
def rising : List Nat → Bool
  | a :: b :: r => decide (a < b) && rising (b :: r)
  | _ => true

/-- A session number names a session of a bed that commands may use (R293, R513). -/
def State.sesOk (s : State) (b num : Nat) : Option Nat :=
  let i := num % 2 ^ 18
  let e := s.ses i
  if decide (i < 200000) && e.st != .free && e.inc == num / 2 ^ 18 && e.bed == b && !e.mirror then some i else none

/-- Sessions QUEUED or RUNNING on the device (R300). -/
def State.activeSessions (s : State) : Nat :=
  (s.sessions.filter fun e => e.2.st == .queued || e.2.st == .running).length

/-- Whether a SESSION_CLOSE of the session has been taken (R299). -/
def State.beingClosed (s : State) (i : Nat) : Bool :=
  (s.ses i).closeRef.isSome || (match s.reqOf i with | some r => r.closing.isSome | none => false)

/-- Undo the references and pages of a request that admission rejects (R305): the list as it was before stage 8. -/
def State.undoAdmission (s : State) (before : State) (i : Nat) (record : State → State) : State :=
  let t := (before.ses i).tenant
  let b := (before.ses i).bed
  let now := s.tenant b t
  let s := { before with draws := s.draws }
  let s := s.updTenant b t fun x => { x with level := now.level, last := now.last }
  record s

/-- The stream that mirrors a session's pages to the twin opens at an admission, where none runs (R516). -/
def State.openWarm (s : State) (i : Nat) : State :=
  if !s.twinWarm || !s.mirrors (s.ses i).bed || (s.warmStream i).isSome then s
  else match s.twinPort with
  | none => s
  | some n =>
    let t : Target := { kind := 1, keep := true, remote := s.sesNumber i }
    let (num, s) := s.openStream i t none true (.ruxel n)
    s.openFirst num i t

/-- Stages 6 to 11 for a request that has its session (R304). `r` carries the decoded request. -/
def State.admitStages (s : State) (b i : Nat) (r : Req) (deadline : Nat) (keep : Bool) : State :=
  let e := s.ses i
  let bd := s.bed b
  match mget none bd.models e.model with
  | none => s.reject r.ref .bedNotReady 3
  | some m =>
    let chunked := r.kind != .decode && decide (m.maxRows < r.new)
    let rows := if r.kind = .decode then 1 else if chunked then bd.ch else r.new
    -- stage 6; a request with a prefix attaches no block, so that whether it will run streamed stands already (R252, R291)
    let held := s.entries i
    let absent := (s.geo i).span (e.c / 256) (cdiv (e.c + r.new) 256) |>.filter fun u => !entHere (held.getD u 0)
    let streams := decide (s.freeOutside b < absent.length + (held.filter fun x => entHere x && entLp x).length)
    let firstEnd := e.c + (if chunked || streams then min bd.ch r.new else r.new)
    if (m.pick r.bulk rows (e.c + r.new)).isNone then s.reject r.ref .shapeAbovePlan 6
    else if e.c < r.pfx ∧ (0 < e.c ∨ firstEnd < r.pfx) then s.reject r.ref .capacity 6
    else
      -- stage 7
      let n := r.new
      match admitCheck (s.tenant b e.tenant) n s.now with
      | none => (s.updTenant b e.tenant fun t => admitRefused t n s.now).reject r.ref .budget 7
      | some (t, held) =>
        let s1 := s.updTenant b e.tenant fun _ => t
        let s1 := (s1.updSes i fun e => { e with held := held }).delta b (.held b e.tenant held)
        -- stage 8
        let eweid := match r.target with | some t => t.eweid | none => false
        let look := r.kind != .decode && !e.noPrefix && !eweid && r.pfx == 0 && r.segs.isEmpty && e.c % 256 == 0
        let lr := s.retrievalLen b
        let whole := (r.new - 1) / 256
        let whole := if r.retr then min whole ((lr - e.c) / 256) else whole
        let (ns, last) := if look then
            s1.matchChain b t.salt m.pkg.modelDigest e.lastHash (blocksOf whole r.tokens)
          else ([], e.lastHash)
        let g := s1.geo i
        let s2 := ns.foldl State.pfxHit s1
        let es := ns.foldl (fun es k => attachBlock g es (s2.pfxAt k)) (s2.entries i)
        let matched := 256 * ns.length
        let s2 := s2.releaseHeld i matched
        let s2 := s2.updSes i fun e => { e with chain := e.chain ++ ns }
        let r := { r with
          matched := matched, chunked := chunked
          inexact := ns.any (fun k => (s2.pfxAt k).inexact), saturated := ns.any (fun k => (s2.pfxAt k).saturated)
          savedHash := e.lastHash, savedEntry := e.lastEntry, savedTail := e.tail, savedInexact := e.tailInexact, savedSaturated := e.tailSaturated }
        let s2 := s2.updSes i fun e => { e with lastHash := last, lastEntry := ns.getLast?.getD e.lastEntry }
        -- stage 9
        let need := (g.span (e.c / 256) (cdiv (e.c + r.new) 256)).filter fun u => !entHere (es.getD u 0)
        let lpUnits := ((es.zipIdx).filter fun x => entHere x.1 && entLp x.1).map (·.2)
        let free := s2.freeOutside b
        let resident := decide (need.length + lpUnits.length ≤ free)
        let ships := (match r.target with | some t => t.kind != 0 && !t.keep | none => false)
        let total := if ships then 0 else need.length
        if !resident && decide ((s2.freeFrames b true).length + free < total) then s2.undoAdmission s i fun s => s.reject r.ref .capacity 9
        else
          let es := if resident then (fillUnits es false need (s2.freeFrames b false)).getD es else es
          let s3 := if es = s2.entries i then some s2 else s2.edit i es
          match s3 with
          | none =>
            match s2.firstBadEdit i es with
            | some n => s2.undoAdmission s i fun s => s.finish r.ref (listRecord .listInvalid n (s.ses i) {})
            | none => s2.undoAdmission s i fun s => s.reject r.ref .capacity 9
          | some s3 =>
            -- pages that a streamed request writes are fetched too (R289)
            let pre := if resident then lpUnits else lpUnits.filter (g.span (e.c / 256) (cdiv (e.c + r.new) 256)).contains
            let r := { r with
              streamed := !resident, prefetch := !pre.isEmpty, frames := if resident then need.length else 0 }
            -- stage 10
            let s4 := s3.updSes i fun e => { e with admitC := e.c, deadline := deadline }
            let est := if deadline = 0 then 0 else s4.estimate b i r
            if deadline != 0 && decide (deadline < est) then s3.undoAdmission s i fun s => s.reject r.ref .deadlineInfeasible 10
            else
              -- stage 11
              let s5 := s4.updSes i fun e => { e with
                st := .queued, reqTag := r.ref.tag, cancelSeen := false, keepOnLate := keep, streamed := r.streamed
                noPrefix := e.noPrefix || eweid || r.pfx != 0 || !r.segs.isEmpty, eweid := e.eweid || eweid }
              let s5 := s5.updBed b fun bd => { bd with
                reqs := bd.reqs ++ [{ r with order := bd.orders }], orders := bd.orders + 1 }
              let s5 := if r.prefetch then (s5.planCopies i false pre).getD s5 else s5
              let s6 := match r.target with
                | some t =>
                  if t.kind = 0 then s5
                  else
                    let (num, s6) := s5.openStream i t (some r.ref) false (s5.viaOf b t)
                    let s6 := s6.updTx num fun t => { t with streamed := r.streamed }
                    (s6.openFirst num i t).updReq i fun r => { r with stream := some num }
                | none => s5
              s6.openWarm i

/-- Admission of a request (R304): stages 1 to 5, then the rest. -/
def State.admission (s : State) (b : Nat) (k : Pkt) (kind : ReqKind) : State :=
  let a := reqArgs k
  let op := k.ref.op
  let bd := s.bed b
  let ref := k.ref
  if bd.st != .ready || !bd.armed || (s.twin.st == .displaced && s.pairedBed b) then s.reject ref .bedNotReady
  else
    let (_, o1, o2, o3, _) := sections op k.payload a
    let sam := if a.samp then sampling k.payload else {}
    let tgt := if a.exported then some (target (slice k.payload o1 64)) else none
    let segs := (List.range a.segn).map fun i => leField k.payload (o2 + 4 * i) 4 % 2 ^ 20
    let tokens : List Nat := if kind = .decode then [] else
      (List.range a.new).map fun i => if a.indirect then leField k.data (4 * i) 4 else leField k.payload (o3 + 4 * i) 4
    let known := s.sesOk b k.session
    let vocab := match known with | some i => (s.pkgOf i).vocab | none => 2 ^ 32
    let npm := match known with | some i => npmOf (s.ses i).maxLen | none => 2 ^ 12
    -- stage 1
    if !samplingOk sam vocab || !(match tgt with | some t => s.targetOk t npm | none => true) || !rising segs then
      s.reject ref .badParameter 1
    -- stage 2
    else if (kind == .decode && !s.licensed 1) || (a.retr && !s.licensed 3) ||
        (match tgt with | some t => !s.targetLicence t | none => false) then s.reject ref .licenceRequired 2
    -- stage 3
    else match known with
      | none => s.reject ref .sessionUnknown 3
      | some i =>
        let e := s.ses i
        let m := mget none bd.models e.model
        if (match m with | some m => m.slots.isEmpty | none => true) then s.reject ref .bedNotReady 3
        else if e.needsPrefill && (kind == .decode || e.c != 0) then s.reject ref .twinResumed 3 0 e.priorC
        else if tokens.any (fun t => decide (vocab ≤ t)) || (kind == .decode && e.lastToken == 0xFFFFFFFF) then
          s.reject ref .badParameter 3
        -- stage 4
        else if e.st != .idle || s.beingClosed i || (s.imports.any fun x => x.index == i) then s.reject ref .sessionBusy 4
        else if 4096 ≤ s.activeSessions then s.reject ref .capacity 4
        -- stage 5
        else if decide (e.maxLen < e.c + a.new) || a.new == 0 ||
            (match tgt with | some t => t.eweid && decide (32768 < e.maxLen) | none => false) then
          s.reject ref .lengthAboveMax 5
        else
          let deadline := if a.deadline = 0 then 0 else k.time + 100 * a.deadline
          s.admitStages b i {
            ref := ref, kind := kind, index := i, tokens := tokens, new := a.new, stop := a.stop, bulk := a.bulk
            retr := a.retr, stepped := a.stepped && kind == .admission, cost := a.cost, pfx := a.pfx, segs := segs
            sampling := sam, target := tgt, outAddr := k.daddr, outSpace := k.dspace
            salt := (s.tenant b e.tenant).salt } deadline a.keepOnLate

end Sys2Proof.Machine
end

