-- ==== Sys2Proof/Machine/StepForm.lean ====
section
/-!
DEFINITION. The form of an expert STEP's descriptor: its length table, generations, shapes and tile lists (R10, R197, R236, R248, R249,
R375).
-/
namespace Sys2Proof.Machine

/-- The parts of a step descriptor's data (R375). -/
structure StepData where
  slot : Nat
  lists : Bool
  lt : List Byte
  gens : List Nat
  tl : List Byte
  shapes : List Shape
  reserved : Bool
deriving DecidableEq, Repr

/-- Decode a shape register (R160). -/
def shapeOf (bs : List Byte) : Shape :=
  let w := leField bs 0 32
  { m := bitsAt w 0 24, n := bitsAt w 24 24, k := bitsAt w 48 24, nb := bitsAt w 72 24, ascale := bitsAt w 96 8
    bscale := bitsAt w 120 8, aux0 := bitsAt w 144 24, aux1 := bitsAt w 168 24 }

/-- A length table's sequences and rows (R248). -/
structure LenTab where
  nseq : Nat
  bulk : Bool
  buckets : Nat
  nrows : Nat
  nsegs : Nat
deriving DecidableEq, Repr

/-- Header of a length table (R248); bucket entries stand in a bulk step's alone. -/
def lenTab (lt : List Byte) : LenTab :=
  let h := leField lt 0 8
  { nseq := bitsAt h 0 12 + 1, bulk := bitAt h 12, buckets := if bitAt h 12 then bitsAt h 13 3 + 1 else 0, nrows := bitsAt h 16 24
    nsegs := bitsAt h 40 24 }

/-- A sequence entry of a length table (R248). -/
def seqEntry (lt : List Byte) (i : Nat) : Nat := leField lt (64 + 32 * i) 32

/-- A bucket entry (R248). -/
def bucketEntry (lt : List Byte) (i : Nat) : Nat := leField lt (64 + 32 * (lenTab lt).nseq + 8 * i) 8

/-- A segment entry (R248). -/
def segEntry (lt : List Byte) (i : Nat) : Nat :=
  leField lt (64 + 32 * (lenTab lt).nseq + 8 * (lenTab lt).buckets + 4 * i) 4

/-- Bytes of a length table (R248). -/
def LenTab.bytes (l : LenTab) : Nat := 64 + 32 * l.nseq + 8 * l.buckets + 4 * l.nsegs

/-- Directory entries of the tile-list section: those before the first list (log 160). -/
def dirCount (tl : List Byte) : Nat := if tl.isEmpty then 0 else leField tl 4 4 / 16

/-- A directory entry's list offset and entries (R375). -/
def dirSpan (tl : List Byte) (i : Nat) : Nat × Nat :=
  let w := leField tl (16 * i) 16
  (bitsAt w 32 32, bitsAt w 64 12)

/-- The supplied tile lists: directory entries of 16 bytes, then the lists (R197, R375). -/
def suppliedLists (tl : List Byte) : List TileList :=
  (List.range (dirCount tl)).map fun i =>
    let w := leField tl (16 * i) 16
    let (at_, n) := dirSpan tl i
    (bitsAt w 0 11, bitsAt w 16 8, (List.range n).map fun k => BitVec.ofNat 128 (leField tl (at_ + 16 * k) 16))

/-- Whether the reserved bits of the tile-list section are 0 (R10): of its directory (R375) and of its lists' entries (R197, R236). -/
def tileReserved (tl : List Byte) : Bool :=
  ((List.range (dirCount tl)).all fun i =>
    let x := leField tl (16 * i) 16
    bitsAt x 11 5 == 0 && bitsAt x 24 8 == 0 && bitsAt x 76 52 == 0) &&
  (suppliedLists tl).all fun l => l.2.2.all fun e => bitsAt e.toNat 95 2 == 0 && bitsAt e.toNat 105 23 == 0

/-- Whether every list the directory names lies in the section. -/
def listsInside (tl : List Byte) : Bool :=
  leField tl 4 4 % 16 == 0 && (List.range (dirCount tl)).all fun i =>
    let (at_, n) := dirSpan tl i
    decide (16 * dirCount tl ≤ at_) && decide (at_ + 16 * n ≤ tl.length)

/-- Reserved fields of a length table (R248). -/
def lenTabReserved (lt : List Byte) : Bool :=
  let l := lenTab lt
  bitsAt (leField lt 0 64) 64 448 == 0 && ((List.range l.nseq).all fun i => bitsAt (seqEntry lt i) 157 99 == 0) &&
  ((List.range l.buckets).all fun i => bitsAt (bucketEntry lt i) 45 19 == 0) &&
  (List.range l.nsegs).all fun i => bitsAt (segEntry lt i) 20 12 == 0

/-- Decode a step descriptor (R375). -/
def stepData (d : List Byte) : StepData :=
  let w := leField d 0 64
  let ltb := bitsAt w 32 32
  let tlb := bitsAt w 64 32
  let lt := slice d 320 ltb
  let n := (lenTab lt).nseq
  let og := 320 + roundUp ltb 64
  let tl := slice d (og + roundUp (4 * n) 64) tlb
  { slot := bitsAt w 0 3, lists := bitAt w 3, lt := lt, gens := (List.range n).map fun i => leField d (og + 4 * i) 4
    tl := tl, shapes := (List.range 8).map fun r => shapeOf (slice d (64 + 32 * r) 32)
    reserved := bitsAt w 4 28 == 0 && bitsAt w 96 416 == 0 && lenTabReserved lt &&
      (!bitAt w 3 || tileReserved tl) &&
      (List.range 8).all fun r =>
        let x := leField d (64 + 32 * r) 32
        bitsAt x 104 16 == 0 && bitsAt x 128 16 == 0 && bitsAt x 192 64 == 0 }

/-- Whether the sections' lengths add up to the data: the table to LTBYTES, and the last section to the data's end, filled up or
not (check 5; log 160). -/
def stepLengthOk (d : List Byte) : Bool :=
  let w := leField d 0 64
  let ltb := bitsAt w 32 32
  let tlb := bitsAt w 64 32
  let l := lenTab (slice d 320 ltb)
  let ends := 320 + roundUp ltb 64 + 4 * l.nseq
  let last := if bitAt w 3 then roundUp ends 64 + tlb else ends
  ltb == l.bytes && (bitAt w 3 || tlb == 0) && decide (last ≤ d.length) && decide (d.length ≤ roundUp last 64)

/-- A sequence entry's SEGMENTS (R248). -/
def seqSegs (lt : List Byte) (e : Nat) : List Nat := (List.range (bitsAt e 117 12)).map fun j => bitsAt (segEntry lt (bitsAt e 129 24 + j)) 0 20

/-- Rows sequence entry `i` of a length table takes (R249): NEW, or its bucket's LEN. -/
def entryRows (lt : List Byte) (i : Nat) : Nat :=
  if (lenTab lt).bulk then bitsAt (bucketEntry lt (bitsAt (seqEntry lt i) 154 3)) 0 21 else bitsAt (seqEntry lt i) 56 21

/-- Whether sequence entry `i` of a length table has the form R248 and R249 give: its rows follow those of the entries before
it, its bucket is one of the table's, holds its NEW and counts it, and its segments lie in the table, strictly ascending. -/
def entryFormOk (lt : List Byte) (i : Nat) : Bool :=
  let l := lenTab lt
  let e := seqEntry lt i
  let k := bitsAt e 154 3
  let bk := bucketEntry lt k
  let segs := seqSegs lt e
  bitsAt e 32 24 == sumNat ((List.range i).map (entryRows lt)) &&
  (!l.bulk || (decide (k < l.buckets) && decide (bitsAt e 56 21 ≤ bitsAt bk 0 21) && bitsAt bk 0 21 % 16 == 0 &&
    decide (bitsAt bk 21 12 ≤ i) && decide (i < bitsAt bk 21 12 + bitsAt bk 33 12))) &&
  decide (bitsAt e 56 21 ≤ 2 ^ 20) && decide (bitsAt e 129 24 + bitsAt e 117 12 ≤ l.nsegs) && rising segs

end Sys2Proof.Machine
end

