-- ==== Sys2Proof/Machine/Fetch.lean ====
section
/-!
DEFINITION. Fetching a packet and its checks (R356–R358, R361, R365–R368, R372, R388), and the queue operations packets
and registers share (R364, R370, R400).
-/
namespace Sys2Proof.Machine

/-- The assigned opcodes (R370). -/
def assigned (op : Nat) : Bool :=
  [0x01, 0x02, 0x03, 0x10, 0x11, 0x20, 0x21, 0x30, 0x31, 0x32, 0x33, 0x38, 0x50, 0x51, 0x52, 0x53, 0x60, 0x61, 0x62,
   0x70, 0x71, 0x72, 0x80, 0x81, 0x82, 0x83, 0x90, 0xA0, 0xB0].contains op

/-- Requests (R367). -/
def isRequest (op : Nat) : Bool := [0x30, 0x31, 0x32, 0x33].contains op

/-- PF-only opcodes (R370). -/
def pfOnly (op : Nat) : Bool :=
  [0x60, 0x61, 0x62, 0x70, 0x71, 0x80, 0x81, 0x82, 0x83, 0x90].contains op

/-- Expert opcodes (R370). -/
def expertOp (op : Nat) : Bool := [0x11, 0x30, 0x32].contains op

/-- Read `n` slots of a submission ring from slot `i`, wrapping (R357): HBM rings from device memory. -/
def State.ringRead (s : State) (u : Queue) (i : Nat) : Nat → (Except Nat (List Byte)) × State
  | 0 => (.ok [], s)
  | n + 1 =>
    match s.readDev (u.sqBase + 64 * (i % u.sqSlots)) 64 with
    | (.error e, s) => (.error e, s)
    | (.ok bs, s) =>
      match s.ringRead u (i + 1) n with
      | (.ok r, s) => (.ok (bs ++ r), s)
      | (.error e, s) => (.error e, s)

/-- The header bits reserved for every opcode (check 1). -/
def headerReserved (h : List Byte) : Bool :=
  let w := leNat (h.take 64)
  bitsAt w 18 6 == 0 && bitsAt w 48 16 == 0 && bitsAt w 76 20 == 0 && bitsAt w 225 31 == 0

/-- Argument bits an opcode uses, as masks of ARG0–ARG3, and whether it uses SESSION (R365, R370, R371). -/
def argMasks (op : Nat) : List Nat × Bool :=
  let f := 2 ^ 64 - 1
  match op with
  | 0x02 => ([f, 0x7FFFFFFF, f, 0xFFFFFFF], false)
  | 0x03 => ([0x3F, 0, 0, 0], false)
  | 0x10 => ([0xFF, f, 0xFFFFFFFF, 0], false)
  | 0x11 => ([0x7FF, f, 0xFFFFFFFF, 0], false)
  | 0x20 => ([2 ^ 41 - 1, 0xFFFFFFFF, 0, 0], false)
  | 0x21 => ([0, 0, 0, 0], true)
  | 0x30 => ([f - 0xF8000000, 0xFFFFFFFF, 0x1FFFFFFFF, 0], true)
  | 0x31 => ([f - 0xF8000000, 0xFFFFFFFF, 0, 0], true)
  | 0x33 => ([f - 0xF8000000, f, 0, 0], true)
  | 0x38 => ([0xFFFF, 0, 0, 0], true)
  | 0x50 => ([0, 0, 0, 0], true)
  | 0x51 => ([0xFFFF007F, f, f, 0], true)
  | 0x52 => ([0xFFFFFFFF, 0, 0, 0], true)
  | 0x53 => ([0x1FFFFF, 0, 0, 0], false)
  | 0x62 => ([0x1F3, f, 0, 0], false)
  | 0x70 => ([0x1F, 0, 0, 0], false)
  | 0x71 => ([0x1F, 0, 0, 0], false)
  | 0x72 => ([0x1FFFFF, f, f, f], false)
  | 0x80 => ([0xFFFFFFFF, 0, 0, 0], false)
  | 0x82 => ([0xFFF, 0, 0, 0], false)
  | 0xA0 => ([f, f, f, f], false)
  | 0xB0 => ([1, 0, 0, 0], false)
  | _ => ([0, 0, 0, 0], false)

/-- The header's fields (R365). A packet concerns a session where its opcode acts on one. -/
def parseHeader (b q id now : Nat) (h : List Byte) : Pkt :=
  let w := leNat (h.take 64)
  { ref := {
      bed := b, q := q, tag := bitsAt w 32 16, quiet := bitAt w 17, op := bitsAt w 0 16, id := id
      session := if (argMasks (bitsAt w 0 16)).2 then bitsAt w 96 32 else 0 }
    fence := bitAt w 16, cl := bitsAt w 24 8, plen := bitsAt w 64 12, session := bitsAt w 96 32, daddr := bitsAt w 128 64
    dbytes := bitsAt w 192 32, dspace := bitsAt w 224 1, a0 := bitsAt w 256 64, a1 := bitsAt w 320 64
    a2 := bitsAt w 384 64, a3 := bitsAt w 448 64, time := now }

/-- Whether PLEN and DBYTES are as the opcode requires, with DADDR and DSPACE 0 whenever DBYTES is 0 (check 5, R368); `pay` and `data`
say what could be read, and a length that stands in what could not is not judged (check 6, R388). A reply buffer too small fails with
its size known (R368). -/
def lengthOk (k : Pkt) (pay data : Bool) : Bool :=
  let a := reqArgs k
  let blind := a.samp && !pay
  let p0 := k.plen == 0
  let d0 := k.dbytes == 0
  (!d0 || (k.daddr == 0 && k.dspace == 0)) &&
  match k.ref.op with
  | 0x10 => p0 && !d0
  | 0x11 => p0 && !d0
  | 0x30 | 0x31 =>
    let (_, _, _, _, o4) := sections k.ref.op k.payload a
    (blind || k.plen == o4 / 64) && (if a.indirect then k.dbytes == 4 * a.new else d0)
  | 0x32 => p0 && !d0 && (!data || stepLengthOk k.data)
  | 0x33 =>
    let (_, _, _, _, o4) := sections k.ref.op k.payload a
    (blind || k.plen == o4 / 64) && k.dbytes == 4 * a.new
  | 0x50 => k.plen == 1 && d0
  | 0x52 => (decide (1 ≤ k.plen) && d0 && (!pay || k.plen == cdiv (64 + 4 * (leField k.payload 8 3)) 64)) ||
            (p0 && decide (64 ≤ k.dbytes) && (!data || k.dbytes == 64 + 4 * (leField k.data 8 3)))
  | 0x53 => decide (1 ≤ k.plen) && k.plen % 16 == 0 && d0
  | 0x60 => decide (1 ≤ k.plen) && d0
  | 0x70 => k.plen == 1 && d0
  | 0x80 => p0 && decide (1 ≤ k.dbytes) && decide (k.dbytes ≤ 65536)
  | 0x90 => k.plen == 21 && d0
  | 0xA0 | 0xB0 => p0
  | _ => p0 && d0

/-- Whether an opcode's data is a reply buffer rather than indirect data (R370). -/
def isReply (op : Nat) : Bool := op == 0xA0 || op == 0xB0 || op == 0x33

/-- Whether reserved payload fields are 0 (check 7), for the payloads whose layout the spec gives. -/
def payloadReserved (k : Pkt) : Bool :=
  let p := k.payload
  let len := p.length
  match k.ref.op with
  | 0x30 | 0x31 | 0x33 =>
    let a := reqArgs k
    let (_, o1, o2, o3, o4) := sections k.ref.op p a
    let endS := if a.samp then 64 + 8 * bitsAt (leField p 20 4) 11 7 else 0
    sectionsReserved k.ref.op p a && (slice p endS (o1 - endS)).all (· == 0) &&
    (slice p (o2 + 4 * a.segn) (o3 - (o2 + 4 * a.segn))).all (· == 0) &&
    (a.indirect || k.ref.op == 0x33 || (slice p (o3 + 4 * a.new) (o4 - (o3 + 4 * a.new))).all (· == 0))
  | 0x32 => (stepData k.data).reserved
  | 0x50 => sectionsReserved k.ref.op p { (reqArgs k) with samp := false, exported := true, segn := 0 }
  | 0x52 =>
    let h := if k.plen = 0 then k.data else p
    let w := leNat (slice h 0 64)
    bitsAt w 117 11 == 0 && bitsAt w 192 320 == 0 &&
    (k.plen == 0 || (slice p (64 + 4 * leField h 8 3) (len - (64 + 4 * leField h 8 3))).all (· == 0)) &&
    ((List.range (leField h 8 3)).all fun i =>
      let e := leField h (64 + 4 * i) 4
      bitsAt e 27 5 == 0)
  | 0x70 =>
    let w := leNat (p.take 64)
    bitsAt w 18 14 == 0 && bitsAt w 50 14 == 0 && bitsAt w 152 8 == 0 && bitsAt w 182 10 == 0 && bitsAt w 214 10 == 0 &&
    bitsAt w 248 8 == 0 && bitsAt w 272 48 == 0 && bitsAt w 344 40 == 0 && bitsAt w 448 64 == 0
  | _ => true

/-- Whether a bed may be named: TENANT_SET's field (R370). -/
def State.bedNameable (s : State) (b : Nat) : Bool :=
  decide (b < 32) && match (s.bed b).st with | .absent => false | .creating => false | .destroying => false | _ => true

/-- Whether a ring lies wholly within the bed's arena (R357). -/
def ringInArena (bd : Bed) (a n : Nat) : Bool := decide (bd.arenaBase ≤ a) && decide (a + n ≤ bd.arenaBase + bd.arenaSize)

/-- Ring slots coded as QUEUE_CREATE codes them (R370). -/
def ringSlots (c : Nat) : Nat := if c = 0 then 65536 else c

/-- Arguments within their layouts' ranges (check 8). The fields of R371 that must be 0 for a DECODE are fields of its layout, not
reserved ones: they fail here with BAD_PARAMETER (log 202). -/
def State.argsOk (s : State) (k : Pkt) : Bool :=
  let b := k.ref.bed
  let bd := s.bed b
  k.ref.tag != 0xFFFF && aligned k.daddr 64 &&
  match k.ref.op with
  | 0x02 =>
    let q := bitsAt k.a1 16 6
    let sq := ringSlots (bitsAt k.a1 0 16)
    let cq := ringSlots (bitsAt k.a3 0 16)
    let ok (n : Nat) : Bool := [64, 128, 256, 512, 1024, 2048, 4096, 8192, 16384, 32768, 65536].contains n
    ok sq && ok cq && decide (1 ≤ q) && decide (1 ≤ bitsAt k.a1 23 8) && aligned k.a0 4096 && aligned k.a2 4096 &&
    (b == 0 || decide (bitsAt k.a3 16 11 < 64)) &&
    (!bitAt k.a1 22 || ringInArena bd k.a0 (64 * sq)) && (!bitAt k.a3 27 || ringInArena bd k.a2 (32 * cq))
  | 0x03 => decide (1 ≤ k.a0)
  | 0x10 | 0x11 => aligned k.a1 64
  | 0x20 => decide (1 ≤ bitsAt k.a0 20 21) && decide (bitsAt k.a0 20 21 ≤ 1048576)
  | 0x30 | 0x31 =>
    let a := reqArgs k
    decide (1 ≤ a.new) && decide (a.new ≤ 1048576)
  | 0x33 =>
    let a := reqArgs k
    decide (1 ≤ a.new) && decide (a.new ≤ 65536) && !a.bulk && !a.indirect && a.pfx == 0 && a.segn == 0
  | 0x51 => (bitsAt k.a0 0 2 == 1 || bitsAt k.a0 0 2 == 2) && decide (bitsAt k.a0 2 5 < 24)
  | 0x62 => decide (bitsAt k.a0 0 2 ≤ 2)
  | 0x72 => decide (bitsAt k.a0 14 2 ≤ 2) && s.bedNameable (bitsAt k.a0 16 5)
  | 0x80 => aligned k.a0 64 && decide (k.a0 + k.dbytes ≤ 0x4000000)
  | 0x82 => k.a0 == 0 || (decide (30 ≤ k.a0) && decide (k.a0 ≤ 3600))
  | _ => true

/-- Who may issue the opcode (check 4, R372). -/
def State.levelOk (s : State) (k : Pkt) : Bool :=
  let op := k.ref.op
  let b := k.ref.bed
  (!pfOnly op || b == 0) && (!expertOp op || s.expert b) && (!(op == 0x02 || op == 0x03) || k.ref.q == 0) &&
  (!(op == 0x72 && b != 0) || (bitsAt k.a0 16 5 == b && bitsAt k.a0 14 2 != 2)) && (!(op == 0xB0 && bitAt k.a0 0) || b == 0)

/-- The first check of R366 that a packet fails, with its status. `payload`, `data` and `reply` say what could be read or
written (check 6). -/
def State.firstCheck (s : State) (h : List Byte) (k : Pkt) (payload data reply : Bool) : Option (Nat × Status) :=
  let (ms, ses) := argMasks k.ref.op
  let args := [k.a0, k.a1, k.a2, k.a3]
  let bd := s.bed k.ref.bed
  if !headerReserved h then some (1, .reservedSet)
  else if !assigned k.ref.op then some (2, .badOpcode)
  else if k.cl != s.sec.cl && k.cl + 1 != s.sec.cl then some (3, .versionUnsupported)
  else if !s.levelOk k then some (4, .levelDenied)
  else if !lengthOk k payload data then some (5, .badLength)
  else if !payload || !data || !reply then some (6, .payloadUnreadable)
  else if !payloadReserved k || !((args.zip ms).all fun x => Nat.land x.1 x.2 == x.1) || (!ses && k.session != 0) then
    some (7, .reservedSet)
  else if !s.argsOk k then some (8, .badParameter)
  else if !isRequest k.ref.op && k.ref.op != 0x38 && k.ref.op != 0x21 && k.ref.op != 0xB0 &&
      (bd.st == .faulted || bd.st == .resetting || bd.st == .destroying) then some (9, .bedNotReady)
  else none

/-- Hold-area records of a bed with quota Q, less the 64 kept for events (R360). -/
def State.holdRoom (s : State) (b : Nat) : Nat := 2 * s.quota b + 4096 - 64

/-- Records waiting that are not events. -/
def heldPlain (bd : Bed) : Nat := (bd.held.filter fun h => !h.body.event || h.body.detail == 3).length

/-- Slots between head and tail (R357). -/
def Queue.waiting (u : Queue) : Nat := (u.tail + u.sqSlots - u.head) % u.sqSlots

/-- Whether the bed may fetch from a queue now (R357, R360, R361, R381, R388, R389, R403, R535): a packet waits, none is taken
and not yet acted on, no record waits for the queue, the ring can be reached, intake runs, no FENCE packet waits at its head, and
the reserve some packet of the bed could not get fits by now; nor where its packet needs host memory that D3hot shuts. A bed keeps its
queues in every state but ABSENT and CREATING (R367); the PF's serve while bed 0 is ABSENT (log 26). -/
def State.canFetch (s : State) (b q : Nat) (u : Queue) : Bool :=
  let bd := s.bed b
  s.ready && s.boot.computeEnd.isNone && !s.sec.pausing && u.waiting != 0 && u.taken.isNone && !u.stopped && !u.gone &&
  u.deleting.isNone && bd.held.all (fun h => h.q != q) && (u.sqHbm || s.hostOpen b) && s.fnOn b &&
  (!u.fenced || bd.fetched.all fun p => p.q != q) && decide (heldPlain bd + bd.reserve + bd.stuck ≤ s.holdRoom b) &&
  (!u.hostWait || s.hostOpen b) && (b == 0 || match bd.st with | .absent => false | .creating => false | _ => true)

/-- The queue whose packet a bed's scribes take next (R382): weighted round-robin over the queues it may fetch from, a queue giving as
many packets in its turn as its weight (log 193). -/
def State.fetchQueue (s : State) (b : Nat) : Option Nat :=
  let bd := s.bed b
  let may (q : Nat) : Bool := match mget none bd.queues q with
    | some u => s.canFetch b q u
    | none => false
  let (q, n) := bd.fetchTurn
  let weight := match mget none bd.queues q with | some u => u.weight | none => 0
  if may q && decide (n < weight) then some q
  else ((List.range 64).map fun i => (q + 1 + i) % 64).find? may

/-- The turn once a packet of queue `q` has been fetched. -/
def Bed.turnOf (bd : Bed) (q : Nat) : Nat × Nat :=
  let weight := match mget none bd.queues q with | some u => u.weight | none => 0
  (q, if bd.fetchTurn.1 = q ∧ bd.fetchTurn.2 < weight then bd.fetchTurn.2 + 1 else 1)

/-- A header slot could not be read: fetching stops, the head stays, a DOORBELL event carries the tail's offset (R388). -/
def State.stopQueue (s : State) (b q : Nat) (bad : Option Nat) : State :=
  let s := s.updQueue b q fun u => { u with stopped := true }
  let s := s.event [b] { kind := .doorbell, status := Status.badQueue.code, r0 := 8 * q }
  match bad with
  | some a => s.uncorrRead a
  | none => s

/-- Check 6 for indirect data or a reply buffer at a device address (R29, R366): the data, whether a reply can be written, and
whether the data holds an uncorrectable codeword (R434). -/
def State.indirect (s : State) (k : Pkt) (inp : FetchIn) : (Option (List Byte)) × Bool × Bool × State :=
  if k.dbytes = 0 then (some [], true, false, s)
  else if k.dspace = 0 then
    if isReply k.ref.op then (some [], inp.replyOk, false, s) else (inp.data, inp.replyOk, false, s)
  else if !s.rangeOk k.daddr k.dbytes then (none, false, false, s)
  else if isReply k.ref.op then (some [], true, false, s)
  else match s.readDev k.daddr k.dbytes with
    | (.ok bs, s) => (some bs, true, false, s)
    | (.error a, s) => (none, true, true, s.uncorrRead a)

/-- SEC.STATE.LAST_CODE of an update command (R549). -/
def State.noteUpdate (s : State) (p : PktRef) (code : Nat) : State :=
  if 0x80 ≤ p.op ∧ p.op ≤ 0x83 then { s with sec := { s.sec with lastCode := code } } else s

/-- A scribe fetches the packet at the head of the queue whose turn it is (R357, R358, R361, R366, R381, R382, R388): a FENCE packet
waits for its queue's earlier packets, one whose indirect data lie in host memory for D0 (R389), and a packet whose reserve does not fit holds up every queue of the bed. -/
def State.fetch (s : State) (b q : Nat) (inp : FetchIn) : State :=
  match mget none (s.bed b).queues q with
  | none => s
  | some u =>
    if s.fetchQueue b != some q then s
    else
      let (hdr, s) : (Except (Option Nat) (List Byte)) × State :=
        if u.sqHbm then match s.ringRead u u.head 1 with
          | (.ok h, s) => (.ok h, s)
          | (.error a, s) => (.error (some a), s)
        else match inp.header with
          | some h => (.ok (slice h 0 64), s)
          | none => (.error none, s)
      match hdr with
      | .error a => s.stopQueue b q a
      | .ok h =>
        let k := parseHeader b q s.ids s.now h
        if k.fence && (s.bed b).fetched.any (fun p => p.q == q) then s.updQueue b q fun u => { u with fenced := true }
        else if k.dbytes != 0 && k.dspace == 0 && !isReply k.ref.op && !s.hostOpen b then
          s.updQueue b q fun u => { u with hostWait := true }
        else if s.holdRoom b < heldPlain (s.bed b) + (s.bed b).reserve + reserveOf k.ref.op then
          s.updBed b fun bd => { bd with stuck := reserveOf k.ref.op }
        else
          let s := { s with ids := s.ids + 1 }
          let s := s.updBed b fun bd => { bd with
            fetched := bd.fetched ++ [k.ref], reserve := bd.reserve + reserveOf k.ref.op, stuck := 0, fetchTurn := bd.turnOf q }
          let s := s.updQueue b q fun u => { u with fenced := false, hostWait := false }
          if u.waiting < 1 + k.plen ∨ u.sqSlots - 1 < 1 + k.plen then
            let s := s.updQueue b q fun u => { u with head := u.tail }
            s.finish k.ref { status := Status.badLength.code, session := 0 }
          else
            let (pay, s) : Option (List Byte) × State :=
              if u.sqHbm then match s.ringRead u (u.head + 1) k.plen with
                | (.ok p, s) => (some p, s)
                | (.error a, s) => (none, s.uncorrRead a)
              else (inp.payload.map fun p => slice p 0 (64 * k.plen), s)
            let k := { k with payload := pay.getD (List.replicate (64 * k.plen) 0) }
            let (data, reply, lost, s) := s.indirect k inp
            let reply := reply &&
              (!(k.ref.op == 0x10 || k.ref.op == 0x11) || k.dspace == 0 || s.rangeOk k.a1 (bitsAt k.a2 0 32))
            let k := { k with data := data.getD [], pkg := inp.pkg, ring := inp.ring }
            let s := s.updQueue b q fun u => { u with head := (u.head + 1 + k.plen) % u.sqSlots }
            match s.firstCheck h k pay.isSome data.isSome reply with
            | some (n, st) =>
              -- data a memory channel cannot correct fails the command itself, by no numbered check (R434; log 150)
              let r : Rec := if n = 6 ∧ lost ∧ pay.isSome ∧ reply then { status := Status.uncorrectable.code }
                else { status := st.code, detail := n }
              (s.noteUpdate k.ref r.status).finish k.ref r
            | none => s.updQueue b q fun u => { u with taken := some k }

/-- The packet of opcode `op` taken from a queue, with the queue ready for the next; none where the queue holds no such
packet, or the scribes do not run (R495, R535): the row's event has then not come about (log 9). -/
def State.take (s : State) (b q op : Nat) : Option (Pkt × State) :=
  match (if s.runs && s.boot.computeEnd.isNone && !s.sec.pausing then mget none (s.bed b).queues q else none) with
  | none => none
  | some u => match u.taken with
    | some k => if k.ref.op = op then some (k, s.updQueue b q fun u => { u with taken := none }) else none
    | none => none

/-- A packet command: the effect on the taken packet of its opcode. -/
def State.command (s : State) (b q op : Nat) (f : State → Pkt → State) : State :=
  match s.take b q op with
  | some (k, s) => f s k
  | none => s

/-- Write reply bytes into a buffer (R368): host memory of the function, once it may be written (R389), or device memory, with an
event for each codeword whose write is dropped (R425). -/
def State.reply (s : State) (f space addr : Nat) (bs : List Byte) : State :=
  if bs.isEmpty then s
  else if space = 0 then
    if s.hostOpen f then s.emit (.hostWrite f addr bs) else s.updFn f fun x => { x with owed := x.owed ++ [(addr, bs)] }
  else
    let (s, ds) := s.writeDev addr bs
    s.dropEvents ds

/-- Whether a codeword of a reply would be dropped, so that its command fails with UNCORRECTABLE (R425, R434). -/
def State.replyLost (s : State) (space addr : Nat) (bs : List Byte) : Bool :=
  space != 0 && !bs.isEmpty && !(s.writeDev addr bs).2.isEmpty

/-- Write a reply and complete with `r`, or with UNCORRECTABLE where part of it was lost (R425, R434). -/
def State.replyDone (s : State) (p : PktRef) (space addr : Nat) (bs : List Byte) (r : Rec) : State :=
  (s.reply p.bed space addr bs).finish p (if s.replyLost space addr bs then { status := Status.uncorrectable.code } else r)

/-- A DOORBELL event (R364). -/
def State.badDoorbell (s : State) (f off : Nat) : State :=
  s.event [f] { kind := .doorbell, status := Status.badQueue.code, r0 := off }

end Sys2Proof.Machine
end

