-- ==== Sys2Proof/Machine/Queues.lean ====
section
/-!
DEFINITION. Queues (R356–R364, R370, R389, R402): NOP, QUEUE_CREATE, QUEUE_DELETE, the doorbells, the fetch, held records
and moderation.
-/
namespace Sys2Proof.Machine

/-- A command's outcome: the next state (the device stops on no command, R4). -/
abbrev Out1 := Host.Outcome State Fault Refusal

/-- NOP (R370): completes in line. -/
def execNop (b q : Nat) (s : State) : Out1 := .next (s.command b q 0x01 fun s k => s.finish k.ref {})

/-- QUEUE_CREATE (R356, R357, R359, R370, R401): a queue that exists is misused. -/
def execQueueCreate (b q : Nat) (s : State) : Out1 :=
  .next (s.command b q 0x02 fun s k =>
    let n := bitsAt k.a1 16 6
    match mget none (s.bed b).queues n with
    | some _ => s.reject k.ref .badQueue
    | none =>
      let u : Queue := {
        sqBase := k.a0, sqSlots := ringSlots (bitsAt k.a1 0 16), sqHbm := bitAt k.a1 22, weight := bitsAt k.a1 23 8
        cqBase := k.a2, cqSize := ringSlots (bitsAt k.a3 0 16), cqHbm := bitAt k.a3 27, vector := bitsAt k.a3 16 11 }
      (s.updBed b fun bd => { bd with queues := mset none bd.queues n (some u) }).finish k.ref {})

/-- Packets that begin in `w` slots of a ring in HBM from slot `i`: each header gives its length (R357). -/
def State.ringPackets (s : State) (u : Queue) : Nat → Nat → Nat → Nat × State
  | _, _, 0 => (0, s)
  | i, w, fuel + 1 =>
    if w = 0 then (0, s)
    else match s.ringRead u i 1 with
      | (.error _, s) => (1, s)
      | (.ok h, s) =>
        let len := 1 + bitsAt (leNat h) 64 12
        let (n, s) := s.ringPackets u (i + len) (w - len) fuel
        (n + 1, s)

/-- The same of a ring in host memory, whose headers come with the command; one that cannot be read counts as the last. -/
def hostPackets : List (List Byte) → Nat → Nat
  | [], w => if w = 0 then 0 else 1
  | h :: hs, w => if w = 0 then 0 else 1 + hostPackets hs (w - (1 + bitsAt (leNat (slice h 0 64)) 64 12))

/-- Packets between head and tail that no scribe has fetched, counted by their headers (R357, R370; log 151). -/
def State.unfetched (s : State) (u : Queue) (ring : List (List Byte)) : Nat × State :=
  if u.sqHbm then s.ringPackets u u.head u.waiting u.waiting else (hostPackets ring u.waiting, s)

/-- QUEUE_DELETE (R364, R370): unfetched packets are discarded without records at once, the queue goes when its fetched
packets have completed and their records are written. -/
def execQueueDelete (b q : Nat) (s : State) : Out1 :=
  .next (s.command b q 0x03 fun s k =>
    let n := bitsAt k.a0 0 6
    match mget none (s.bed b).queues n with
    | none => s.reject k.ref .badQueue
    | some u =>
      if u.deleting.isSome then s.reject k.ref .badQueue
      else
        let (d, s) := s.unfetched u k.ring
        (s.updQueue b n fun u => { u with deleting := some k.ref, discarded := d, tail := u.head }).settleDelete b n)

/-- SQ_TAIL doorbell (R363, R364, R388): a tail that would fall on a slot not yet fetched past raises DOORBELL. -/
def execSqTail (f q : Nat) (v : Word) (s : State) : Out1 :=
  let t := bitsAt v.toNat 0 16
  .next (if !s.ready || !s.fnOn f || s.inD3 f then s.emit (.unsupported f)
    else match mget none (s.bed f).queues q with
    | none => s.badDoorbell f (8 * q)
    | some u =>
      if u.gone || u.deleting.isSome || u.sqSlots ≤ t || decide ((t + u.sqSlots - u.head) % u.sqSlots < u.waiting) then
        s.badDoorbell f (8 * q)
      else s.updQueue f q fun u => { u with tail := t, stopped := false })

/-- CQ_HEAD doorbell (R359, R363, R364). -/
def execCqHead (f q : Nat) (v : Word) (s : State) : Out1 :=
  let h := bitsAt v.toNat 0 16
  .next (if !s.ready || !s.fnOn f || s.inD3 f then s.emit (.unsupported f)
    else match mget none (s.bed f).queues q with
    | none => s.badDoorbell f (0x200 + 8 * q)
    | some u =>
      if u.gone || u.cqSize ≤ h || decide ((u.cqTail + u.cqSize - u.cqHead) % u.cqSize < (h + u.cqSize - u.cqHead) % u.cqSize) then
        s.badDoorbell f (0x200 + 8 * q)
      else s.updQueue f q fun u => { u with cqHead := h })

/-- EXPORT_DB doorbell (R355, R363): the stream's consumer index. -/
def execExportDb (f : Nat) (v : Word) (s : State) : Out1 :=
  let num := bitsAt v.toNat 0 32
  let c := bitsAt v.toNat 32 16
  .next (if !s.ready || !s.fnOn f || s.inD3 f then s.emit (.unsupported f)
    else match s.txAt num with
    | none => s
    | some t =>
      let n := t.target.nslots
      if t.bed ≠ f ∨ t.via ≠ .host ∨ n ≤ c then s
      else
        let back := (c + n - t.cons % n) % n
        let back := if back = 0 ∧ t.prod - t.cons = n ∧ t.fullSince.isSome then n else back
        if t.prod - t.cons < back then s
        else s.updTx num fun t => { t with cons := t.cons + back, fullSince := if back = 0 then t.fullSince else none })

/-- PACKET_FETCH (R358, R361, R366). -/
def execPacketFetch (b q : Nat) (inp : FetchIn) (s : State) : Out1 := .next (s.fetch b q inp)

/-- The first record waiting for a queue, and the others. -/
def takeHeld (q : Nat) : List HeldRec → Option (HeldRec × List HeldRec)
  | [] => none
  | h :: hs => if h.q = q then some (h, hs) else (takeHeld q hs).map fun x => (x.1, h :: x.2)

/-- HOLD_RECORD_WRITE (R360): the oldest waiting record of a queue is written, if it can be. -/
def execHoldRecordWrite (b q : Nat) (s : State) : Out1 :=
  .next (if !s.runs || !s.canWrite b q then s
    else match takeHeld q (s.bed b).held with
    | none => s
    | some (h, hs) =>
      ((s.updBed b fun bd => { bd with held := hs }).writeRecord b q h.body h.quiet).settleDelete b q)

/-- MODERATION_TIMER (R402): TIME has passed since the first unannounced record. -/
def execModerationTimer (b q : Nat) (s : State) : Out1 :=
  .next (match mget none (s.bed b).queues q with
    | none => s
    | some u => match u.since with
      | none => s
      | some t =>
        let m := mget {} (s.bed b).cqMod q
        if m.time ≠ 0 ∧ t + 100 * m.time < s.now then s.queueMessage b q else s)

end Sys2Proof.Machine
end

