-- ==== Sys2Proof/Machine/Arrays.lean ====
section
/-!
DEFINITION. Arrays (R65–R70): weight sets, FRONT, PASS and PRESCAN, and what each reads in its later A-cycles (R116–R118,
R153).
-/
namespace Sys2Proof.Machine

/-! ### Layouts (R116, R164, R265) -/

/-- Scratchpad rows of a weight set after its scale row (R116). -/
def ArrMode.setRows : ArrMode → Nat
  | .narrow => 16 | .dense => 8 | .wide => 32

/-- Rows of an element-block (R164). -/
def Fmt.blockRows (f : Fmt) : Nat := if f == .bf16 then 2 else 1

/-- Element `k` of column `c` of a weight set's rows (R65, R265; wide mode by the same placement over two rows, log 39). -/
def setElem (f : Fmt) (m : ArrMode) (rows : List Row) (c k : Nat) : Nat :=
  match m with
  | .narrow => (rowByte (rows.getD (k % 16) 0) (2 * c + k / 16)).toNat % 2 ^ f.bits
  | .dense => (rowByte (rows.getD (k % 16 / 2) 0) (16 * (k % 2) + c)).toNat / 16 ^ (k / 16) % 16
  | .wide =>
    let i := 2 * (2 * c + k / 16)
    bitsAt (rows.getD (2 * (k % 16) + i / 32) 0).toNat (8 * (i % 32)) 16

/-- The weight set of a scale row and its weight rows. -/
def weightSet (f : Fmt) (m : ArrMode) (got : List Row) : WSet :=
  let sc := got.headD 0
  let rows := got.drop 1
  { fmt := f, scales := (List.range 16).map fun c => (rowByte sc c).toNat
    cols := (List.range 16).map fun c => (List.range 32).map (setElem f m rows c) }

/-- The 32 codes of an element-block (R164). -/
def blockCodes (f : Fmt) (rows : List Row) : List Nat :=
  let w := leNat (rows.flatMap rowBytes)
  (List.range 32).map fun e => bitsAt w (f.bits * e) f.bits

/-- The block partials of one streamed row against a weight set: one per column (R65). -/
def rowPartials (fa : Fmt) (sa : Nat) (as : List Nat) (ws : WSet) : List Partial :=
  (ws.scales.zip ws.cols).map fun x => blockPartial fa ws.fmt sa x.1 as x.2

/-- The scale byte of data index `i` of a scale handle (R117, R166). -/
def Nib.scaleByte (n : Nib) (h i : Nat) : Nat := (rowByte (n.peek (n.hrow h (i / 32))) (i % 32)).toNat

/-! ### FRONT -/

/-- The streamed format of the first PASS on array `a` in bundles `lo` to `hi − 1`. -/
def Nib.passIn (n : Nib) (a lo hi : Nat) : Option Fmt :=
  (List.range (hi - lo)).findSome? fun i =>
    let w := n.slotAt (lo + i) 0
    if slotOp w == 2 && fld w 57 55 == a then Fmt.ofCode (fld w 54 51) else none

/-- The streamed format of the next PASS on array `a` from bundle `k` on, in the order in which bundles will issue: the rest of
each loop's body, its next iteration where one is left, then what follows it (R110, R127). -/
def Nib.nextPassFmt (n : Nib) (a : Nat) : Nat → List LoopFrame → Option Fmt
  | k, [] => n.passIn a k (n.slotD.length - 1 - n.routeBundles)
  | k, f :: fs =>
    (n.passIn a k (f.start + f.len)).orElse fun _ =>
      (if f.iter + 1 < f.count then n.passIn a f.start k else none).orElse fun _ => n.nextPassFmt a (f.start + f.len) fs

/-- The mode of a front's weights: the operands of the next PASS select it (R65, log 40). -/
def Nib.frontMode (n : Nib) (a : Nat) (f : Fmt) : ArrMode :=
  match n.nextPassFmt a (n.pc + 1) n.loops with
  | some fa => arrMode fa f
  | none => arrMode f f

/-- The rows a front reads in an A-cycle: one, or two in wide mode (R69). -/
def ArrMode.frontRows (m : ArrMode) : Nat := if m = .wide then 2 else 1

/-- A front's next rows (R69, R153), into the shadow registers; once all are read the set waits for the A-cycle in which it
is the array's (R67). -/
def Nib.frontStep (n : Nib) (now a : Nat) (f : Fmt) (m : ArrMode) (row : Nat) (got : List Row) (land : Nat) :
    Nib × Option Act :=
  let (rs, n) := n.padReads now (row + got.length) m.frontRows
  let got := got ++ rs
  (n, some (if m.setRows + 1 ≤ got.length then .result land (.array a (weightSet f m got))
    else .front (now + if m = .dense then 2 else 1) a f m row got land))

/-- A front issues: its scale row is read in this A-cycle (R153). -/
def Nib.startFront (n : Nib) (now a : Nat) (f : Fmt) (m : ArrMode) (row land : Nat) : Nib :=
  let (sc, n) := n.padRead now row
  { n with acts := n.acts ++ [.front (now + 1) a f m row [sc] land] }

/-- FRONT (R67–R69, R115, R116): the array has the set for a pass whose first row is read in x + 35, so that its first vector
enters in x + 38. -/
def execFront (p : Nat) (s : State) : Out1 :=
  .next (s.issue p 0 (byOp 1) fun w s =>
    match Fmt.ofCode (fld w 54 51) with
    | none => s
    | some f => s.updNib p fun n =>
      let a := n.ra (fld w 50 19)
      n.startFront s.acyc (fld w 57 55) f (n.frontMode (fld w 57 55) f) (n.hrow a.handle a.index) (s.acyc + 34))

/-! ### PASS -/

/-- A-cycles from the read of a row to its placement (R107, R153). -/
def ArrMode.latency : ArrMode → Nat
  | .narrow => 25 | .dense => 24 | .wide => 31

/-- A streamed row, read from A-cycle `x` on, is placed in every column of a slot row after the array's latency (R66, R153). -/
def Nib.placed (n : Nib) (x a : Nat) (md : ArrMode) (slot row : Nat) (set : Bool) (ps : List Partial) (fl : Nat) : Nib :=
  n.result (x + md.latency) (.place slot row a set ps fl)

/-- The next read of a pass (R66, R117, R153): a streamed row, or in wide mode each half of it in its own A-cycle; the scale row
with the first data row that needs it. -/
def Nib.passStep (n : Nib) (now a : Nat) (f : Fmt) (md : ArrMode) (ws : WSet) (row0 n0 sh rows slot : Nat) (set : Bool)
    (m : Nat) (sc : Row) (half : List Row) : Nib × Option Act :=
  let rb := f.blockRows
  let first := half.isEmpty
  let (sc, n) := if first && (m == 0 || (n0 + m) % 32 == 0) then n.padRead now (n.hrow sh ((n0 + m) / 32)) else (sc, n)
  let (r, n) := n.padRead now ((row0 + rb * m + half.length) % 65536)
  let half := half ++ [r]
  let x := if first then now else now - 1
  if half.length < rb then (n, some (.pass (now + 1) a f md ws row0 n0 sh rows slot set m sc half))
  else
    let sa := (rowByte sc ((n0 + m) % 32)).toNat
    let n := n.placed x a md (slot + m / 16) (m % 16) set (rowPartials f sa (blockCodes f half) ws)
      (n.padFlags (row0 + rb * m) rb)
    (n, if m + 1 < rows then some (.pass (x + md.cycles) a f md ws row0 n0 sh rows slot set (m + 1) sc []) else none)

/-- PASS (R66, R70, R117): row 0 is read in this A-cycle, row m in x + c·m (R153). PASS names no shape register, so a
per-tensor scale too is a byte of SHANDLE (log 177). On an array no front has filled it does nothing (log 176). -/
def execNibPass (p : Nat) (s : State) : Out1 :=
  .next (s.issue p 0 (byOp 2) fun w s =>
    match Fmt.ofCode (fld w 54 51) with
    | none => s
    | some f => s.updNib p fun n =>
      let a := fld w 57 55
      match mget none n.arrays a with
      | none => n
      | some ws =>
        let rows := fld w 20 12 + 1
        let ra := n.ra24 (fld w 50 27) (rows * f.blockRows)
        let slot := fld w 11 6
        let n := (List.range (cdiv rows 16)).foldl (fun n j => n.updTag (slot + j) fun t => { t with owner := a }) n
        let (n, act) := n.passStep s.acyc a f (arrMode f ws.fmt) ws (n.hrow ra.handle ra.index) (ra.index / f.blockRows)
          (fld w 26 21) rows slot (bitAt w 5) 0 0 []
        { n with acts := n.acts ++ act.toList })

/-! ### PRESCAN -/

/-- The larger of two optional exponents. -/
def maxOpt (a b : Option Int) : Option Int :=
  match a, b with
  | some x, some y => some (max x y)
  | some x, none => some x
  | none, y => y

/-- The exponent of a scale byte (R45). A sign bit makes an E4M3 scale's block NaN (R38), so such a byte brings none
(log 171). -/
def Fmt.scaleExp (f : Fmt) (b : Nat) : Option Int := (f.scale b).exp?

/-- cb(c) of a column-maxima row (R118). -/
def colMaxima (r : Row) : List Int := (List.range 16).map fun c => ((rowByte r c).toNat : Int) - 127

/-- Write a slot's window (R72, R45): the row maxima, the column maxima and the constant for NB blocks. -/
def Nib.setWindow (n : Nib) (slot : Nat) (fa fb : Fmt) (nb : Nat) (ra cb : List Int) : Nib :=
  n.updTag slot fun t => { t with
    rowExp := msetRange 0 [] 0 ra, colExp := msetRange 0 [] 0 cb
    wconst := (fa.boundB + fb.boundB + 5 + windowH nb).toNat }

/-- The row maxima of 16 rows after row `ri` of a scale handle, where their `nb` blocks' scales begin at data index `start`:
row r of block b has index start + 16·b + r (R45, R117, R118). -/
def scanRow (f : Fmt) (start nb ri : Nat) (row : Row) (ra : List (Option Int)) : List (Option Int) :=
  (List.range 32).foldl (fun ra k =>
    let i := 32 * ri + k
    if start ≤ i ∧ i < start + 16 * nb then ra.modify ((i - start) % 16) fun m => maxOpt m (f.scaleExp (rowByte row k).toNat)
    else ra) ra

/-- The exponents of row maxima: 0 where every scale is NaN (R45). -/
def scanned (ra : List (Option Int)) : List Int := ra.map (·.getD 0)

/-- A prescan's next two blocks of scales (R118, R153): 32 bytes in an A-cycle, a row; where AIDX lies within a row, the last
A-cycle reads the rest as well. The window is ready 7 A-cycles after the last. -/
def Nib.prescanStep (n : Nib) (now slot : Nat) (fa fb : Fmt) (ash aidx nb pair : Nat) (ra : List (Option Int))
    (cb : List Int) : Nib × Option Act :=
  let ri := aidx / 32 + pair
  let last := (aidx + 16 * nb - 1) / 32
  let (rs, n) := n.padReads now (n.hrow ash ri) (if cdiv nb 2 ≤ pair + 1 then last - ri + 1 else 1)
  let ra := rs.zipIdx.foldl (fun ra x => scanRow fa aidx nb (ri + x.2) x.1 ra) ra
  if cdiv nb 2 ≤ pair + 1 then (n.result (now + 7) (.window slot fa fb nb (scanned ra) cb), none)
  else (n, some (.prescan (now + 1) slot fa fb ash aidx nb (pair + 1) ra cb))

/-- PRESCAN (R45, R72, R118, R153): CLEAR and the column maxima in this A-cycle, the scales from the next on. A per-tensor FMT_A has no
scale rows: its scale is the shape register's ASCALE (R39, R163). -/
def execPrescan (p : Nat) (s : State) : Out1 :=
  .next (s.issue p 0 (byOp 3) fun w s =>
    match Fmt.ofCode (fld w 51 48), Fmt.ofCode (fld w 47 44) with
    | some fa, some fb => s.updNib p fun n =>
      let slot := fld w 57 52
      let sh := n.shape (fld w 2 0)
      let nb := sh.nb
      let (c, n) := n.padRead s.acyc (n.hrow (fld w 21 16) (fld w 15 3))
      let n := n.result (s.acyc + 1) (.clear slot)
      if nb = 0 then n.result (s.acyc + 7) (.window slot fa fb 0 (List.replicate 16 0) (List.replicate 16 0))
      else if fa == .fpE4M3 || fa == .fpE5M2 then
        n.result (s.acyc + cdiv nb 2 + 7) (.window slot fa fb nb (scanned (List.replicate 16 (fa.scaleExp sh.ascale))) (colMaxima c))
      else { n with acts := n.acts ++ [
        .prescan (s.acyc + 1) slot fa fb (fld w 43 38) (fld w 37 22) nb 0 (List.replicate 16 none) (colMaxima c)] }
    | _, _ => s)

end Sys2Proof.Machine
end

