-- ==== Sys2Proof/Machine/Accum.lean ====
section
/-!
DEFINITION. Accumulator-store instructions (R73–R75, R118–R120).
-/
namespace Sys2Proof.Machine

/-- A raw row's window terms (R120): ROW_EXP, COL_EXP and WCONST. -/
structure RawTerms where
  rowExp : Int
  colExp : List Int
  wconst : Nat
deriving DecidableEq, Repr

/-- The window terms of a slot row (R72). -/
def Tag.terms (t : Tag) (r : Nat) : RawTerms :=
  { rowExp := mget 0 t.rowExp r, colExp := mgetRange 0 t.colExp 0 16, wconst := t.wconst }

/-- Row 8 of a raw row (R120). -/
def RawTerms.row (t : RawTerms) : Row :=
  BitVec.ofNat 256 (pack ((10, ofInt 10 t.rowExp) :: t.colExp.map (fun c => (10, ofInt 10 c)) ++ [(8, t.wconst)]))

/-- Decode row 8 of a raw row (R120). -/
def rawTerms (r : Row) : RawTerms :=
  { rowExp := sext 10 r.toNat, colExp := (List.range 16).map fun c => sext 10 (r.toNat / 2 ^ (10 + 10 * c))
    wconst := bitsAt r.toNat 170 8 }

/-- The nine scratchpad rows of a raw slot row (R120). -/
def rawRows (vs : List Acc) (t : RawTerms) : List Row :=
  ((List.range 8).map fun j => rowOf (pairBytes (vs.getD (2 * j) 0) (vs.getD (2 * j + 1) 0))) ++ [t.row]

/-- The 16 elements of a raw slot row. -/
def rawElems (rs : List Row) : List Acc :=
  (rs.take 8).flatMap fun r => [BitVec.ofNat 128 (bitsAt r.toNat 0 128), BitVec.ofNat 128 (bitsAt r.toNat 128 128)]

/-- Rows of a raw slot row read out at `now` (READ_RAW, R73), with its flags. -/
def Nib.readRaw (n : Nib) (now s r : Nat) : List Row × Nat × Nib :=
  let (vs, n) := n.accRead now 3 s r
  (rawRows vs ((n.tag s).terms r), (n.tag s).flags r, n)

/-- Whether SHIFT d would take a slot row's ROW_EXP beyond 511 (R74). -/
def Nib.shiftTooFar (n : Nib) (s r d : Nat) : Bool := decide (511 < mget 0 (n.tag s).rowExp r + d)

/-- SHIFT d of one slot row (R74), in the A-cycle before it is usable; false when ROW_EXP would pass 511. -/
def Nib.accShift (n : Nib) (now s r d : Nat) : Nib × Bool :=
  let t := n.tag s
  let e := mget 0 t.rowExp r + d
  if n.shiftTooFar s r d then (n, false)
  else
    let n' := n.updTag s fun t => { t with rowExp := mset 0 t.rowExp r e }
    if t.zero then (n', true)
    else
      let (vs, n') := n'.accRead now 1 s r
      let res := vs.map fun v => (AState.ofAcc v).shift d
      let n' := n'.accWrite s r ((vs.zip res).map fun x => match x.2.1 with | .fin _ => x.2.1.toAcc | _ => x.1)
      (n'.updTag s fun t => t.orFlags r (b2n (res.any (·.2))), true)

/-- COMBINE 16 elements into one slot row by the addition table of R51 (R73), with the incoming row's flags, in the A-cycle
before it is usable. -/
def Nib.accAdd (n : Nib) (now s r : Nat) (vs : List Acc) (fl : Nat) : Nib :=
  let (old, n) := n.accRead now 1 s r
  let res := (old.zip vs).map fun x => AState.add (AState.ofAcc x.1) (AState.ofAcc x.2)
  let f := fl ||| (2 * b2n (res.any (·.2)))
  (n.accWrite s r (res.map (·.1.toAcc))).updTag s fun t => t.orFlags r f

/-- COMBINE of a raw row issued in A-cycle `now` (R75): it is done 3 A-cycles later (R107); false when its window differs, and
then the elements stay unchanged. -/
def Nib.combineRaw (n : Nib) (now s r : Nat) (rs : List Row) (fl : Nat) : Nib × Bool :=
  if rawTerms (rs.getD 8 0) = (n.tag s).terms r then (n.result (now + 3) (.combine s r (rawElems rs) fl), true) else (n, false)

/-- ACC CLEAR (R73): the slot is cleared in the next A-cycle. -/
def execAccClear (p : Nat) (s : State) : Out1 :=
  .next (s.issue p 0 (byAcc 0) fun w s => s.updNib p fun n => n.result (s.acyc + 1) (.clear (fld w 57 52)))

/-- ACC SHIFT (R74, R153, R154): a window beyond its range faults the nib with SATURATED_WINDOW, in the A-cycle in which the SHIFT issues;
R74 names no A-cycle (DESIGN CHOICE, log 211). -/
def execAccShift (p : Nat) (s : State) : Out1 :=
  .next (s.issue p 0 (byAcc 1) fun w s =>
    let slot := fld w 57 52
    let r := fld w 51 48
    let d := fld w 44 38
    if (s.nib p).shiftTooFar slot r d then s.nibFault p Status.saturatedWindow.code 2
    else s.updNib p fun n => n.result (s.acyc + 3) (.shift slot r d))

/-- ACC READ (R119): row ROW converted into lanes 16·Q to 16·Q + 15 of VD, with the row's flags, usable in x + 5. -/
def execAccRead (p : Nat) (s : State) : Out1 :=
  .next (s.issue p 0 (byAcc 2) fun w s =>
    match SFmt.ofCode (fld w 37 34) with
    | none => s
    | some f => s.updNib p fun n =>
      let slot := fld w 57 52
      let r := fld w 51 48
      let q := fld w 28 27
      let t := n.tag slot
      let (vs, n) := n.accRead s.acyc 5 slot r
      let out := vs.zipIdx.map fun x => convert f (accSrc (t.window r x.2) x.1)
      let sat := out.zipIdx.foldl (fun a x => if x.1.2 then a ||| 2 ^ (16 * q + x.2) else a) 0
      n.result (s.acyc + 5) (.vreg (fld w 33 29) (16 * q) 32 (out.map fun x => BitVec.ofNat 32 x.1)
        (orLanes (laneFlags (16 * q) 16 (t.flags r)) (0, sat))))

/-- ACC COMBINE (R75, R120): nine rows; windows that differ fault the nib with WINDOW_MISMATCH. -/
def execAccCombine (p : Nat) (s : State) : Out1 :=
  .next (s.issue p 0 (byAcc 3) fun w s =>
    let n := s.nib p
    let ra := n.ra24 (fld w 37 14) 9
    let row := n.hrow ra.handle ra.index
    let (rs, n) := n.padReads s.acyc row 9
    let (n, ok) := n.combineRaw s.acyc (fld w 57 52) (fld w 51 48) rs (n.padFlags row 9)
    if ok then s.setNib p n else (s.setNib p n).nibFault p Status.windowMismatch.code 2)

/-- A result takes its place (R53, R67, R72, R73, R107, R153); false where a SHIFT would take its window beyond 511 (R74). -/
def Nib.landing (n : Nib) (now : Nat) (l : Landing) : Nib × Bool :=
  match l with
  | .vreg v lo bits l fl => (n.setLanes v lo bits l fl, true)
  | .array a ws => ({ n with arrays := mset none n.arrays a (some ws) }, true)
  | .window slot fa fb nb ra cb => (n.setWindow slot fa fb nb ra cb, true)
  | .clear slot => (n.accClear slot, true)
  | .shift slot r d => n.accShift now slot r d
  | .combine slot r vs fl => (n.accAdd now slot r vs fl, true)
  | .place slot r a set ps fl => ((n.place now slot r set ps fl).updTag slot fun t => { t with owner := a }, true)

end Sys2Proof.Machine
end

