-- ==== Sys2Proof/Machine/Mover.lean ====
section
/-!
DEFINITION. The mover (R101, R102, R124, R125, R147): sends, raw sends, transposition and gathers.
-/
namespace Sys2Proof.Machine

/-- The next flit of a SEND (R147, R153): two rows, or one; an asynchronous send leaves as one packet when all its rows have
been read (R101). -/
def State.sendStep (s : State) (p : Nat) (r : RouteEntry) (row0 rows tindex flit : Nat) (got : List Row) (fl : Nat) :
    State × Option Act :=
  let k := min 2 (rows - 2 * flit)
  let n := s.nib p
  let row := row0 + 2 * flit
  let (ds, n) := n.padReads s.acyc row k
  let f := n.padFlags row k
  let s := s.setNib p n
  let more := decide (2 * (flit + 1) < rows)
  if r.async then
    let got := got ++ ds
    if more then (s, some (.send (s.acyc + 1) r row0 rows tindex (flit + 1) got (fl ||| f)))
    else (s.sendPkt p r tindex s.acyc got (fl ||| f), none)
  else
    let s := s.sendFlit p r (tindex + 2 * flit) s.acyc ds f
    (s, if more then some (.send (s.acyc + 1) r row0 rows tindex (flit + 1) [] 0) else none)

/-- SEND_SCHED and SEND_ASYNC share their fields (R124). -/
def State.startSend (s : State) (p w : Nat) (async : Bool) : State :=
  s.withRoute p (fld w 57 52) fun r s =>
    let n := s.nib p
    let rows := fld w 11 8 + 1
    let a := n.ra24 (fld w 51 28) rows
    let (s, act) := s.sendStep p { r with async := async } (n.hrow a.handle a.index) rows (fld w 27 12) 0 [] 0
    s.updNib p fun n => { n with acts := n.acts ++ act.toList }

/-- SEND_SCHED (R147, R153). -/
def execSendSched (p : Nat) (s : State) : Out1 :=
  .next (s.issue p 2 (byOp 1) fun w s => s.startSend p w false)

/-- SEND_ASYNC (R101, R134). -/
def execSendAsync (p : Nat) (s : State) : Out1 :=
  .next (s.issue p 2 (byOp 2) fun w s => s.startSend p w true)

/-- Read one slot row raw and send it from A-cycle `x` on (R120, R153): five flits on the scheduled plane, one packet on the
other. -/
def State.sendRaw (s : State) (p : Nat) (r : RouteEntry) (x slot row index : Nat) : State :=
  let (rs, fl, n) := (s.nib p).readRaw s.acyc slot row
  let s := s.setNib p n
  if r.async then s.sendPkt p r index (x + 4) rs fl
  else (List.range 5).foldl (fun s j => s.sendFlit p r (index + 2 * j) (x + j) ((rs.drop (2 * j)).take 2) fl) s

/-- The next slot row of a READ_RAW_SEND. -/
def State.rawStep (s : State) (p : Nat) (r : RouteEntry) (slot first count tindex k : Nat) : State × Option Act :=
  let q := first + k
  let s := s.sendRaw p r s.acyc (slot + q / 16) (q % 16) (tindex + 9 * k)
  (s, if k + 1 < count then some (.raw (s.acyc + 5) r slot first count tindex (k + 1)) else none)

/-- READ_RAW_SEND (R101, R120, R125, R153). -/
def execReadRawSend (p : Nat) (s : State) : Out1 :=
  .next (s.issue p 2 (byOp 3) fun w s =>
    s.withRoute p (fld w 57 52) fun r s =>
      let (s, act) := s.rawStep p r (fld w 51 46) (fld w 45 42) (fld w 41 38 + 1) (fld w 37 22) 0
      s.updNib p fun n => { n with acts := n.acts ++ act.toList })

/-- Rows with their elements of `w` bits exchanged: element i of row j is element j of row i (R101). -/
def transposed (w n : Nat) (rs : List Row) : List Row :=
  (List.range n).map fun j => BitVec.ofNat 256 (pack (rs.map fun r => (w, bitsAt r.toNat (w * j) w)))

/-- A transposition's next row in (R101, R153): one in an A-cycle. A row out needs every row in, so all land in x + n + 3
(log 42). -/
def Nib.transposeStep (n : Nib) (now bits src dst : Nat) (got : List Row) (fl : Nat) : Nib × Option Act :=
  let k := 256 / bits
  let row := (src + got.length) % 65536
  let (r, n) := n.padRead now row
  let got := got ++ [r]
  let fl := fl ||| n.padFlag row
  if got.length < k then (n, some (.transpose (now + 1) bits src dst got fl))
  else (n.schedWrites (now + 4) dst (transposed bits k got) fl, none)

/-- TRANSPOSE (R101, R124, R153). -/
def execTranspose (p : Nat) (s : State) : Out1 :=
  .next (s.issue p 2 (byOp 4) fun w s => s.updNib p fun n =>
    let bits := 4 * 2 ^ fld w 57 56
    let k := 256 / bits
    let a := n.ra24 (fld w 55 32) k
    let b := n.ra24 (fld w 31 8) k
    let (n, act) := n.transposeStep s.acyc bits (n.hrow a.handle a.index) (n.hrow b.handle b.index) [] 0
    { n with acts := n.acts ++ act.toList })

/-! ### The asynchronous port (R78–R80, R84) -/

/-- The users that wait in a bank's arrival buffer. -/
def Nib.waiters (n : Nib) (bank : Nat) : List PortUser := (n.abuf.filter fun r => r.row % 16 == bank).map (·.by_)

/-- Whose turn a bank's asynchronous port gives among `us`: the next in the round after the last it served (R79, log 169). -/
def Nib.portNext (n : Nib) (bank : Nat) (us : List PortUser) : Option PortUser :=
  ([1, 2, 3, 4].findSome? fun k => us.find? fun u => u.turn == (mget 0 n.portTurn bank + k) % 4)

/-- Whether a bank's asynchronous port has served no access in A-cycle `now` (R78). -/
def Nib.portIdle (n : Nib) (now bank : Nat) : Bool := mget none n.portAt bank != some now

/-- A user has the port in A-cycle `now`. -/
def Nib.takePort (n : Nib) (now bank : Nat) (u : PortUser) : Nib :=
  { n with portAt := mset none n.portAt bank (some now), portTurn := mset 0 n.portTurn bank u.turn }

/-- Whether a gather's read gets the port: it is idle, it is the mover's turn, and none of its own rows waits there (R79). -/
def Nib.gatherReads (n : Nib) (now bank : Nat) : Bool :=
  let us := n.waiters bank
  n.portIdle now bank && n.portNext bank (.gather :: us) == some .gather && !us.contains .gather

/-- A fault of the bed found in a nib's ports, mover or tallies (R84, R91, R95): the nib records it where it runs (R103,
R104); `own`: in its own store (R505). -/
def State.bedFaultAt (s : State) (p code unit : Nat) (addr : FaultAddr) (own : Bool := false) : State :=
  if (s.nib p).st = .running then s.nibFault p code unit addr own
  else
    let s := s.updNib p fun n => { n with faultAddr := addr }
    match s.bedOf p with
    | none => s
    | some b =>
      let n := s.nib p
      s.bedFault b code unit (s.logical b p) (n.bundleAddr n.pc % 8192) p

/-- A row an asynchronous port cannot correct (R84): its transfer delivers nothing further, and the bed faults in the A-cycle in
which the row would have left the port. -/
def lateFault (now row : Nat) : Act := .bedFault (now + 3) Status.uncorrectable.code 4 (padAddr row)

/-- The index of group `g` in its list row. -/
def gatherIdx (l : Row) (g : Nat) : Nat := bitsAt l.toNat (32 * (g % 8)) 32

/-- Whether an index of a list row, from group `g` on, names rows beyond the source handle (R95, R102). -/
def Nib.gatherBad (n : Nib) (x : Gath) (l : Row) (g : Nat) : Bool :=
  (List.range (min 8 (x.count - g))).any fun k =>
    let i := gatherIdx l (g + k)
    i != 0xFFFFFFFF && decide (n.hlen x.src < (i + 1) * x.group)

/-- A GATHER's next access (R80, R95, R102, R153): a row of its index list, whose indices are checked in that A-cycle, or a row
of a group, on its way to the target; a read that loses its port waits (R79). -/
def State.gatherStep (s : State) (p : Nat) (x : Gath) (g j : Nat) (idx : Option Row) : State × Option Act :=
  let n := s.nib p
  let now := s.acyc
  let again : Act := .gather (now + 1) x g j idx
  match idx with
  | none =>
    let row := n.hrow x.list (x.index + g / 8)
    if !n.gatherReads now (row % 16) then (s, some again)
    else match (n.takePort now (row % 16) .gather).readRow row with
      | (none, n) => (s.setNib p n, some (lateFault now row))
      | (some l, n) =>
        if n.gatherBad x l g then ((s.setNib p n).bedFaultAt p Status.indexRange.code 7 { handle := x.src }, none)
        else (s.setNib p n, some (.gather (now + 3) x g j (some l)))
  | some l =>
    let i := gatherIdx l g
    let row := n.hrow x.src (i * x.group + j)
    let dst := n.hrow x.dst (g * x.group + j)
    let next : Option Act :=
      if j + 1 < x.group then some (.gather (now + 1) x g (j + 1) (some l))
      else if g + 1 < x.count then some (.gather (now + 1) x (g + 1) 0 (if (g + 1) % 8 = 0 then none else some l))
      else none
    if i = 0xFFFFFFFF then
      (s.setNib p { n with acts := n.acts ++ [.gput (now + 3) dst 0 x.tally 0] }, next)
    else if !n.gatherReads now (row % 16) then (s, some again)
    else match (n.takePort now (row % 16) .gather).readRow row with
      | (none, n) => (s.setNib p n, some (lateFault now row))
      | (some d, n) =>
        (s.setNib p { n with acts := n.acts ++ [.gput (now + 3) dst d x.tally (n.padFlag row)] }, next)

/-- Rows a bank's arrival buffer holds (R79). -/
def Nib.waiting (n : Nib) (bank : Nat) : Nat := (n.waiters bank).length

/-- A gathered row reaches its target's arrival buffer, where it waits for its grant and then counts (R79, R102); a full buffer
makes it wait. -/
def Nib.gputStep (n : Nib) (now row : Nat) (d : Row) (tally fl : Nat) : Nib × Option Act :=
  if n.waiting (row % 16) < 8 then
    ({ n with abuf := n.abuf ++ [{ row := row, data := d, tally := tally, fl := fl, by_ := .gather }] }, none)
  else (n, some (.gput (now + 1) row d tally fl))

/-- GATHER (R95, R102, R124, R125, R134): elastic; its first index row is read in this A-cycle. -/
def execGather (p : Nat) (s : State) : Out1 :=
  .next (s.issue p 2 (byOp 5) fun w s =>
    let count := fld w 9 0 + 1
    let a := (s.nib p).ra24 (fld w 45 22) (cdiv count 8)
    s.addAct p (.gather s.acyc { src := fld w 57 52, dst := fld w 51 46, list := a.handle, tally := fld w 21 16
                                 group := fld w 15 10 + 1, count := count, index := a.index } 0 0 none))

end Sys2Proof.Machine
end

