-- ==== Sys2Proof/Machine/Async.lean ====
section
/-!
DEFINITION. A nib's asynchronous port (R25, R79, R85, R87, R96): arrivals, drops, grants, and scrubbing.
-/
namespace Sys2Proof.Machine

/-- Whether rows lie within a handle that accepts asynchronous writes (R96). -/
def handleTakes (h : Handle) (i k : Nat) : Bool := h.valid && h.asyncWrite && decide (i + k ≤ h.length)

/-- The first scratchpad row of a packet that R96 accepts; none where it is dropped. -/
def Nib.accepts (n : Nib) (k : AsyncPkt) : Option Nat :=
  let live (s : Nat) : Bool := (mget {} n.slots s).st != .empty
  let len := k.rows.length
  match k.handle with
  | some h =>
    if live k.slot && handleTakes (n.handle k.slot h) k.index len then some (n.rowIn k.slot h k.index) else none
  | none =>
    -- a window address: the rows must fall within one handle of some slot
    if (List.range 8).any fun s => live s && (List.range 64).any fun h =>
        let hd := n.handle s h
        let base := (mget {} n.slots s).segBase * 128 + hd.offset
        hd.valid && hd.asyncWrite && decide (base ≤ k.index) && decide (k.index + len ≤ base + hd.length)
    then some k.index else none

/-- Whether a unit may send into bed `b` (R25): its nibs, the DMA channels it owns, the ports its traffic may pass (R406,
R455), and the units every bed shares. -/
def State.unitOk (s : State) (u : MUnit) (b : Nat) : Bool :=
  match u with
  | .nib p => s.bedOf p == some b
  | .dma c => (s.dmaCh c).job.isSome && (s.dmaCh c).bed == b || bitAt (s.dmaMask b) c
  | .port n => s.bedMayUse b n
  | _ => true

/-- A packet the fence router drops (R25, R379). -/
def State.dropFence (s : State) : State :=
  let s := { s with fenceDrop := s.fenceDrop + 1 }
  s.event [0] { kind := .fenceDrop, r0 := min 0xFFFFFFFF s.fenceDrop }

/-- A packet nib `p` drops (R96, R379); during a nib reset without an event (R105). -/
def State.dropAsync (s : State) (p : Nat) : State :=
  let quiet := decide (s.acyc < (s.nib p).resetTo)
  let s := s.updNib p fun n => { n with asyncDrop := n.asyncDrop + 1 }
  match s.bedOf p with
  | none => s
  | some b => if quiet then s else s.event [b] { kind := .asyncDrop, r3 := s.logical b p, bed := b, where_ := p }

/-- The rows of a packet as its target's router corrects them (R152), and whether any was; none where it cannot. -/
def AsyncPkt.corrected (k : AsyncPkt) : Option (List Row × Bool) :=
  if k.err = 0 then some (k.rows, false)
  else
    let rs := k.rows.map fun r => houseRead (rowBytes r) k.err
    if rs.all (·.1.isSome) then some (rs.filterMap fun r => r.1.map rowOf, rs.any (·.2)) else none

/-- A packet whose rows cannot be corrected (R84, R154): the transfer delivers nothing further, and the bed faults. -/
def State.lostPacket (s : State) (k : AsyncPkt) : State :=
  { s with meshUncorr := s.meshUncorr + 1 }.bedFaultAt k.nib Status.uncorrectable.code 4 {}

/-- Rows of a packet reach their nib (R25, R79, R96, R105): dropped at the fence or by the nib, or into the arrival buffers of
their banks; nothing moves while a bank's buffer has no room. -/
def State.arrive (s : State) (u : MUnit) (k : AsyncPkt) : State × Bool :=
  let p := k.nib
  let n := s.nib p
  match s.bedOf p with
  | none => (s.dropAsync p, true)
  | some b =>
    if !s.unitOk u b then (s.dropFence, true)
    else if decide (s.acyc < n.resetTo) || !s.nibOn p then (s.dropAsync p, true)
    else match n.accepts k, k.corrected with
      | none, _ => (s.dropAsync p, true)
      | _, none => (s.lostPacket k, true)
      | some row, some (rs, fixed) =>
        let fits := (List.range 16).all fun bank =>
          let new := (rs.zipIdx.filter fun x => (row + x.2) % 16 == bank).length
          new == 0 || decide (n.waiting bank + new ≤ 8)
        if !fits then (s, false)
        else
          -- the pattern strikes each of its rows' codewords (log 93)
          let s := if fixed then { s with meshCorr := s.meshCorr + rs.length } else s
          (s.setNib p { n with abuf := n.abuf ++ rs.zipIdx.map fun x =>
            { row := (row + x.2) % 65536, data := x.1, tally := k.tally, fl := k.fl
              sent := match u, k.handle with | .nib q, some_h => some_h.map fun h => (q, h) | _, _ => none } }, true)

/-! ### Scrubbing (R85) -/

/-- A bank scrubs its next row (R85): a corrected row is written back in the following A-cycle. -/
def State.scrubRow (s : State) (p bank : Nat) : State :=
  let n := (s.nib p).takePort s.acyc bank .scrub
  let i := mget 0 n.scrubPtr bank
  let row := 16 * i + bank
  let d := mget 0 n.pad row
  let up := mget 0 n.padUpset row
  let n := { n with scrubPtr := mset 0 n.scrubPtr bank ((i + 1) % 4096) }
  if up = 0 then s.setNib p n
  else match houseRead (rowBytes d) up with
    | (some bs, true) =>
      s.setNib p { n with errCorr := n.errCorr + 1, acts := n.acts ++ [.scrub (s.acyc + 1) row (rowOf bs)] }
    | (some _, false) => s.setNib p n
    | (none, _) => (s.setNib p n).padUncorr p

/-- The row a GATHER under way reads in A-cycle `now`, if it reads one (R78, R102). -/
def Nib.gatherRow (n : Nib) (now : Nat) : Act → Option Nat
  | .gather due x g j idx =>
    if now < due then none
    else match idx with
      | none => some (n.hrow x.list (x.index + g / 8))
      | some l => if gatherIdx l g = 0xFFFFFFFF then none else some (n.hrow x.src (gatherIdx l g * x.group + j))
  | _ => none

/-- SCRATCHPAD_SCRUB (R78, R85): an asynchronous port that is idle in this A-cycle, with no gather's read due at it, scrubs one row. -/
def execScratchpadScrub (p bank : Nat) (s : State) : Out1 :=
  .next (let n := s.nib p
    if s.runs && s.nibOn p && decide (bank < 16) && n.waiting bank == 0 && n.portIdle s.acyc bank &&
        !(n.acts.any fun a => match n.gatherRow s.acyc a with | some r => r % 16 == bank | none => false) then s.scrubRow p bank
    else s)

/-- SCRUB_FORCED_GRANT (R85): once every 4,096 A-cycles the scrub takes the port, and a waiting row waits one A-cycle. -/
def execScrubForcedGrant (p bank : Nat) (s : State) : Out1 :=
  .next (let n := s.nib p
    let due := match mget none n.forcedAt bank with | none => true | some x => decide (x + 4096 ≤ s.acyc)
    if s.runs && s.nibOn p && decide (bank < 16) && due && n.portIdle s.acyc bank then
      (s.updNib p fun n => { n with forcedAt := mset none n.forcedAt bank (some s.acyc) }).scrubRow p bank
    else s)

/-! ### Grants -/

/-- A bank's asynchronous port serves a waiting row (R79, R80, R87): it lands, and is counted for the next A-cycle. -/
def Nib.grant (n : Nib) (now bank : Nat) : Nib :=
  if !n.portIdle now bank then n
  else match n.portNext bank (n.waiters bank) with
    | none => n
    | some u => match n.abuf.find? fun r => r.row % 16 == bank && r.by_ == u with
      | none => n
      | some r =>
        let n := n.takePort now bank u
        let n := { n with abuf := n.abuf.erase r, tallies := mupd {} n.tallies r.tally fun t => { t with inc := t.inc + 1 } }
        n.padWrite r.row r.data r.fl

/-- The asynchronous ports' grants of an A-cycle. -/
def Nib.grants (n : Nib) (now : Nat) : Nib := (List.range 16).foldl (fun n bank => n.grant now bank) n

end Sys2Proof.Machine
end

