-- ==== Sys2Proof/Machine/Control.lean ====
section
/-!
DEFINITION. The CONTROL slot (R86–R91, R126–R144): waits, loops, phases, sync points, the bed barrier and END, and how a nib
goes from one bundle to the next.
-/
namespace Sys2Proof.Machine

/-- Tally `t` of a nib. -/
def Nib.tally (n : Nib) (t : Nat) : Tally := mget {} n.tallies t

/-- Change a tally. -/
def Nib.updTally (n : Nib) (t : Nat) (f : Tally → Tally) : Nib := { n with tallies := mupd {} n.tallies t f }

/-- Whether a tally's visible COUNT has reached `e` (R88, R185). -/
def Nib.met (n : Nib) (t e : Nat) : Bool := decide (e ≤ (n.tally t).count)

/-- COUNT drops by `e` (R89, R185). -/
def Nib.consume (n : Nib) (t e : Nat) : Nib := n.updTally t fun x => { x with count := x.count - e }

/-! ### From bundle to bundle (R110, R127, R128) -/

/-- The bundle after `pc`, and the loops that still run: a back-edge while iterations are left. -/
def nextBundle (pc : Nat) : List LoopFrame → Nat × List LoopFrame
  | [] => (pc + 1, [])
  | f :: fs =>
    if pc + 1 = f.start + f.len then
      if f.iter + 1 < f.count then (f.start, { f with iter := f.iter + 1 } :: fs) else nextBundle pc fs
    else (pc + 1, f :: fs)

/-- Go to the next bundle. -/
def Nib.advance (n : Nib) : Nib :=
  let (pc, loops) := nextBundle n.pc n.loops
  { n with pc := pc, loops := loops, hold := .none, issuedM := false, issuedV := false, issuedX := false, issuedC := false }

/-- The current bundle's fetch is over: a correction it needed is counted (R152). -/
def Nib.fetched (n : Nib) : Nib := if n.bundle.2 then { n with errCorr := n.errCorr + 1 } else n

/-- Whether every slot of the current bundle has issued or is NOP (R108, R110). -/
def Nib.bundleDone (n : Nib) : Bool :=
  (List.range 4).all fun k => n.issued k || slotOp (n.slotAt n.pc k) == 0

/-- Whether a slot of the current bundle has issued: the bundle has been fetched. -/
def Nib.issuedAny (n : Nib) : Bool := (List.range 4).any n.issued

/-- Whether the bundle's successor may issue in A-cycle `x` (R128, R141, R159). -/
def Nib.mayAdvance (n : Nib) (x : Nat) : Bool :=
  (match n.hold with
    | .none => true
    | .idle u => decide (u ≤ x)
    | .barrier _ _ (some r) => decide (r ≤ x)
    | _ => false) && n.stopAt != some n.pc

/-! ### Tallies -/

/-- Whether a sync point begins at bundle `k`: WAITs, then SYNC (R129). -/
def Nib.syncFrom (n : Nib) : Nat → Nat → Bool
  | _, 0 => false
  | k, fuel + 1 =>
    let op := slotOp (n.slotAt k 3)
    op == 5 || (op == 1 && n.syncFrom (k + 1) fuel)

/-- Whether the current bundle begins a sync point. -/
def Nib.syncBegins (n : Nib) : Bool := n.syncFrom n.pc n.slotD.length

/-- The closing sync point of the phase has begun (R131, R138). -/
def Nib.closePhase (n : Nib) : Nib := { n with phase := { n.phase with closed := true } }

/-- WAIT (R88): pending until its tally's COUNT is met. -/
def execNibWait (p : Nat) (s : State) : Out1 :=
  .next (s.issue p 3 (byOp 1) fun w s => s.updNib p fun n =>
    let t := fld w 57 52
    let n := if n.syncBegins then n.closePhase else n
    { n.updTally t (fun x => { x with waiting := true }) with
      hold := .wait t (fld w 51 28) (fld w 27 4 + 1) s.acyc (bitAt w 3) })

/-- WAIT_COMPLETE (R88, R89): the pending WAIT's count is met; the next bundle issues in the following A-cycle. -/
def execWaitComplete (p : Nat) (s : State) : Out1 :=
  .next (let n := s.nib p
    match n.hold with
    | .wait t e _ _ c =>
      if s.runs ∧ n.st = .running ∧ n.met t e then
        s.updNib p fun n =>
          let n := n.updTally t fun x => { x with waiting := false }
          { (if c then n.consume t e else n) with hold := .none }
      else s
    | _ => s)

/-- WAIT_TIMEOUT (R88, R476): the bed faults in A-cycle t + L + 1 where the count is still unmet. -/
def execWaitTimeout (p : Nat) (s : State) : Out1 :=
  .next (let n := s.nib p
    match n.hold with
    | .wait t e l x _ =>
      if s.runs ∧ n.st = .running ∧ ¬ n.met t e ∧ x + l + 1 ≤ s.acyc then
        s.nibFault p Status.tallyTimeout.code 8 { tally := t }
      else s
    | _ => s)

/-- TALLY_CLEAR (R90): COUNT keeps only the rows whose increment falls in this A-cycle. -/
def execTallyClear (p : Nat) (s : State) : Out1 :=
  .next (s.issue p 3 (byOp 2) fun w s => s.updNib p fun n =>
    n.updTally (fld w 57 52) fun x => { x with count := x.fresh })

/-! ### Sequencing -/

/-- LOOP (R127, R135): its body follows; iterations at or above the run-time count are shadows. -/
def execNibLoop (p : Nat) (s : State) : Out1 :=
  .next (s.issue p 3 (byOp 3) (fun w s => s.updNib p fun n =>
    let count := fld w 42 27 + 1
    let run := if bitAt w 26 then cdiv ((n.shape (fld w 25 23)).field (fld w 22 20)) (2 ^ fld w 19 16) else count
    { n with loops :=
      { level := fld w 57 56, start := n.pc + 1, len := fld w 55 43, count := count, run := run, iter := 0 } :: n.loops }) true)

/-- IDLE N (R128): the next bundle issues N + 1 A-cycles after this one. -/
def execNibIdle (p : Nat) (s : State) : Out1 :=
  .next (s.issue p 3 (byOp 7) (fun w s => s.updNib p fun n => { n with hold := .idle (s.acyc + fld w 57 34 + 2) }) true)

/-- PHASE (R129, R131, R138). -/
def execNibPhase (p : Nat) (s : State) : Out1 :=
  .next (s.issue p 3 (byOp 4) fun w s => s.updNib p fun n =>
    { n with phase := { n.phase with elastic := bitAt w 57, start := s.acyc, len := fld w 56 33 + 1, closed := false } })

/-- Whether the current bundle is in an elastic phase: its own PHASE opens the phase for all four slots, which issue together
(R110, R131). -/
def Nib.inElastic (n : Nib) : Bool :=
  let w := n.slotAt n.pc 3
  if slotOp w == 4 then bitAt w 57 else n.phase.elastic

/-- The KVQs issued since the last SYNC are done: their phase is closed (R269). -/
def Nib.kvqClose (n : Nib) : Nib :=
  { n with
    kvqDone := n.phase.kvq.eraseDups.foldl (fun m h => mupd 0 m h (· + 1)) n.kvqDone
    phase := { n.phase with kvq := [] } }

/-- SYNC (R140, R141): with BARRIER, the nib signals the bed barrier and waits for its release. -/
def execNibSync (p : Nat) (s : State) : Out1 :=
  .next (s.issue p 3 (byOp 5) fun w s => s.updNib p fun n =>
    let n := n.closePhase.kvqClose
    if bitAt w 57 then { n with signalled := true, hold := .barrier s.acyc (fld w 56 33 + 1) none } else n)

/-- The A-cycle in which a nib's pending barrier SYNC issued. -/
def Nib.barrierAt (n : Nib) : Nat := match n.hold with | .barrier s _ _ => s | _ => 0

/-- BARRIER_RELEASE (R141): every nib has signalled, the last in A-cycle a; every next bundle issues in a + D. -/
def execBarrierRelease (b : Nat) (s : State) : Out1 :=
  .next (let ps := s.bedNibs b
    if s.runs && !ps.isEmpty && ps.all (fun p => (s.nib p).signalled && (s.nib p).st == .running) then
      let a := ps.foldl (fun a p => max a (s.nib p).barrierAt) 0
      ps.foldl (fun s p => s.updNib p fun n => { n with
        signalled := false
        hold := match n.hold with | .barrier x l _ => .barrier x l (some (a + barrierD (s.bed b))) | h => h }) s
    else s)

/-- The only nib of a bed that has not signalled, if there is one (R505). -/
def State.loneSilent (s : State) (b : Nat) : Option Nat :=
  match (s.bedNibs b).filter fun p => !(s.nib p).signalled with
  | [q] => some q
  | _ => none

/-- BARRIER_TIMEOUT (R142, R505): the nib faults in s + LIMIT + 1 unless its release falls there; a nib that alone is
silent at a second expiry in the epoch is fenced. -/
def execBarrierTimeout (p : Nat) (s : State) : Out1 :=
  .next (let n := s.nib p
    match n.hold, s.bedOf p with
    | .barrier x l r, some b =>
      let due := x + l + 1
      let late := match r with | none => true | some r => decide (due < r)
      if s.runs && n.st == .running && late && decide (due ≤ s.acyc) then
        match s.loneSilent b with
        | some q =>
          let k := (s.nib q).loneBarrier + 1
          let s := s.updNib q fun n => { n with loneBarrier := k }
          if 2 ≤ k then
            let cyc := s.stepCycle b
            (s.updNib p fun n => { n with
              st := .faulted, faultCode := Status.tallyTimeout.code, faultUnit := 8
              faultBundle := n.bundleAddr n.pc % 8192, faultCycle := cyc, hold := .none
              acts := n.acts.filter Act.scrubs, wq := [] }).fence q
          else s.nibFault p Status.tallyTimeout.code 8
        | none => s.nibFault p Status.tallyTimeout.code 8
      else s
    | _, _ => s)

/-- Whether an elastic phase has overrun in A-cycle `x` (R138): from t + LENGTH + 1 on, but in that A-cycle the sync point may
still begin, and then the phase completes. -/
def Nib.phaseOver (n : Nib) (x : Nat) : Bool :=
  let due := n.phase.start + n.phase.len + 1
  n.phase.elastic && !n.phase.closed && (decide (due < x) || (due == x && !n.syncBegins))

/-- ELASTIC_PHASE_TIMEOUT (R138): the closing sync point has not begun by t + LENGTH. -/
def execElasticPhaseTimeout (p : Nat) (s : State) : Out1 :=
  .next (let n := s.nib p
    if s.runs ∧ n.st = .running ∧ n.phaseOver s.acyc then s.nibFault p Status.tallyTimeout.code 9 else s)

/-- END (R144): the last bundle; once every nib has ended, the barrier reports completion D A-cycles later. -/
def execEndStep (p : Nat) (s : State) : Out1 :=
  .next (s.issue p 3 (byOp 6) fun _ s =>
    let s := s.updNib p fun n => { n.fetched with hold := .ended }
    match s.bedOf p with
    | none => s
    | some b =>
      if (s.bedNibs b).all fun q => (s.nib q).hold == .ended then
        s.updBed b fun bd => { bd with step := bd.step.map fun t => { t with doneAt := some (s.acyc + barrierD bd) } }
      else s)

/-- MACRO_EXT (R157): its bundle issues as any other and its MATRIX slot acts as NOP. -/
def execMacroExt (p : Nat) (s : State) : Out1 := .next (s.issue p 0 (byOp 0x3F) fun _ s => s)

end Sys2Proof.Machine
end

