-- ==== Sys2Proof/Machine/Fp.lean ====
section
/-!
DEFINITION. FP32 arithmetic of the vector unit (R60), the special functions (R61), the fixed reduction trees (R99),
and the normative activation formulas (R207).
-/
namespace Sys2Proof.Machine

/-- A decoded FP32 value, with signed zeros. -/
inductive FVal where
  | nan
  | inf (neg : Bool)
  | fin (neg : Bool) (x : Dy)
deriving DecidableEq, Repr

/-- Decode FP32 bits. -/
def FVal.ofBits (c : Lane) : FVal :=
  let n := c.toNat
  if bitsAt n 23 8 == 255 then (if bitsAt n 0 23 == 0 then .inf (bitAt n 31) else .nan)
  else .fin (bitAt n 31) (floatElem 8 23 127 n)

/-- The canonical NaN (R60). -/
def fNaN : Lane := 0x7FC00000#32

/-- Signed infinity. -/
def fInf (neg : Bool) : Lane := if neg then 0xFF800000#32 else 0x7F800000#32

/-- Signed zero. -/
def fZero (neg : Bool) : Lane := if neg then 0x80000000#32 else 0#32

/-- Round a nonzero exact value to FP32, nearest ties to even, overflow to infinity (R60). -/
def fRound (x : Dy) : Lane :=
  let neg := decide (x.m < 0)
  let c := magCode 23 127 x
  if 0x7F800000 ≤ c then fInf neg else BitVec.ofNat 32 (c + if neg then 2 ^ 31 else 0)

/-- Round an exact value, with the sign a zero result takes. -/
def fRoundZ (zneg : Bool) (x : Dy) : Lane := if x.m == 0 then fZero zneg else fRound x

/-- a × b + c rounded once (R60). -/
def fma (a b c : Lane) : Lane :=
  match FVal.ofBits a, FVal.ofBits b, FVal.ofBits c with
  | .nan, _, _ | _, .nan, _ | _, _, .nan => fNaN
  | .inf _, .fin _ ⟨0, _⟩, _ | .fin _ ⟨0, _⟩, .inf _, _ => fNaN
  | .inf s, .inf t, .inf u | .inf s, .fin t _, .inf u | .fin s _, .inf t, .inf u =>
    if (s != t) == u then fInf u else fNaN
  | .inf s, .inf t, _ | .inf s, .fin t _, _ | .fin s _, .inf t, _ => fInf (s != t)
  | _, _, .inf u => fInf u
  | .fin s x, .fin t y, .fin u z =>
    let p := x.mul y
    -- an exact zero sum is +0 unless both terms are negative zeros
    fRoundZ (p.m == 0 && z.m == 0 && (s != t) && u) (p.add z)

/-- a + b (R60). -/
def fadd (a b : Lane) : Lane :=
  match FVal.ofBits a, FVal.ofBits b with
  | .nan, _ | _, .nan => fNaN
  | .inf s, .inf t => if s == t then fInf s else fNaN
  | .inf s, _ | _, .inf s => fInf s
  | .fin s x, .fin t y => fRoundZ (x.m == 0 && y.m == 0 && s && t) (x.add y)

/-- -a. -/
def fneg (a : Lane) : Lane := if a.toNat % 2 ^ 31 > 0x7F800000 then fNaN else a ^^^ 0x80000000#32

/-- a − b (R60). -/
def fsub (a b : Lane) : Lane := fadd a (fneg b)

/-- a × b (R60). -/
def fmul (a b : Lane) : Lane :=
  match FVal.ofBits a, FVal.ofBits b with
  | .nan, _ | _, .nan => fNaN
  | .inf _, .fin _ ⟨0, _⟩ | .fin _ ⟨0, _⟩, .inf _ => fNaN
  | .inf s, .inf t | .inf s, .fin t _ | .fin s _, .inf t => fInf (s != t)
  | .fin s x, .fin t y => fRoundZ (s != t) (x.mul y)

/-- a < b as values; false with a NaN; −0 equals +0. -/
def flt (a b : Lane) : Bool :=
  match FVal.ofBits a, FVal.ofBits b with
  | .nan, _ | _, .nan => false
  | .inf s, .inf t => s && !t
  | .inf s, .fin _ _ => s
  | .fin _ _, .inf t => !t
  | .fin _ x, .fin _ y => x.lt y

/-- a = b as values. -/
def feq (a b : Lane) : Bool :=
  match FVal.ofBits a, FVal.ofBits b with
  | .nan, _ | _, .nan => false
  | .inf s, .inf t => s == t
  | .fin _ x, .fin _ y => (x.add y.neg).m == 0
  | _, _ => false

/-- a ≤ b as values. -/
def fle (a b : Lane) : Bool := flt a b || feq a b

/-- Minimum; NaN if either input is NaN (R60). Of two zeros of different sign it gives −0 (DEDUCED, log 20). -/
def fmin (a b : Lane) : Lane :=
  match FVal.ofBits a, FVal.ofBits b with
  | .nan, _ | _, .nan => fNaN
  | _, _ => if flt a b then a else if flt b a then b else if bitAt a.toNat 31 then a else b

/-- Maximum; NaN if either input is NaN (R60); max(−0, +0) is +0 (R207). -/
def fmax (a b : Lane) : Lane :=
  match FVal.ofBits a, FVal.ofBits b with
  | .nan, _ | _, .nan => fNaN
  | _, _ => if flt a b then b else if flt b a then a else if bitAt a.toNat 31 then b else a

/-- A conversion source of FP32 bits (R56). -/
def fSrc (a : Lane) : Src :=
  match FVal.ofBits a with
  | .nan => .nan
  | .inf s => .sat s
  | .fin _ x => .fin x

/-- FP32 from a natural number, rounded once. -/
def fOfNat (n : Nat) : Lane := fRoundZ false ⟨n, 0⟩

/-- The exact value of a decoded element as FP32: exact inside the FP32 range, else a signed infinity (R202). -/
def fOfEVal : EVal → Lane
  | .nan => fNaN
  | .inf s => fInf s
  | .fin x => fRoundZ false x

/-- Widen BF16 bits to FP32. -/
def fOfBf16 (c : Nat) : Lane :=
  let r := BitVec.ofNat 32 (c % 2 ^ 16 * 2 ^ 16)
  if r.toNat % 2 ^ 31 > 0x7F800000 then fNaN else r

/-! ### Special functions (R61)

Each irrational result is computed as an integer in units of 2^-240 by a series, with a sticky low bit, and rounded
once. No FP32 operand's result lies so near a rounding boundary that 200 correct bits would not decide it
(DEDUCED, log 21). -/

/-- Fraction bits of the fixed-point series. -/
def sfuBits : Nat := 240

/-- One in fixed point. -/
def sfuOne : Int := (2 ^ sfuBits : Nat)

/-- Fixed-point product, floored. -/
def sfuMul (a b : Int) : Int := a * b / sfuOne

/-- Sum of x^k / k! from term `t` number `k`, for `fuel` terms. -/
def expSeries (x : Int) : Nat → Nat → Int → Int
  | 0, _, _ => 0
  | fuel + 1, k, t => t + expSeries x fuel (k + 1) (sfuMul t x / ((k : Int) + 1))

/-- Sum of the odd series Σ z^(2i+1)/(2i+1): artanh z; with alternating sign when `alt`: arctan z. -/
def oddSeries (alt : Bool) (z2 : Int) : Nat → Nat → Int → Int
  | 0, _, _ => 0
  | fuel + 1, i, t => t / (2 * (i : Int) + 1) + oddSeries alt z2 fuel (i + 1) (let u := sfuMul t z2; if alt then -u else u)

/-- ln 2 in fixed point: 2·artanh(1/3). -/
def sfuLn2 : Int := 2 * oddSeries false (sfuOne / 9) 85 0 (sfuOne / 3)

/-- π in fixed point by Machin's formula. -/
def sfuPi : Int := 16 * oddSeries true (sfuOne / 25) 60 0 (sfuOne / 5) - 4 * oddSeries true (sfuOne / 57121) 20 0 (sfuOne / 239)

/-- A fixed-point irrational as an exact value with a sticky bit below. -/
def sfuDy (v : Int) (k : Int) : Dy := ⟨2 * v + 1, k - sfuBits - 1⟩

/-- exp2 (R61). -/
def fexp2 (a : Lane) : Lane :=
  match FVal.ofBits a with
  | .nan => fNaN
  | .inf s => if s then fZero false else fInf false
  | .fin _ x =>
    let i := if 0 ≤ x.e then x.m * (2 ^ x.e.toNat : Nat) else x.m / (2 ^ (-x.e).toNat : Nat)
    if 128 ≤ i then fInf false
    else if i < -151 then fZero false
    else
      let f := x.add ⟨-i, 0⟩
      if f.m == 0 then fRoundZ false ⟨1, i⟩
      else
        let ff := (f.units (-(sfuBits : Int))).1
        fRoundZ false (sfuDy (expSeries (sfuMul ff sfuLn2) 60 0 sfuOne) i)

/-- log2 (R61). -/
def flog2 (a : Lane) : Lane :=
  match FVal.ofBits a with
  | .nan => fNaN
  | .inf s => if s then fNaN else fInf false
  | .fin _ x =>
    if x.m == 0 then fInf true
    else if x.m < 0 then fNaN
    else
      let k := x.flog2
      let m := (x.shl (-k)).units (-(sfuBits : Int))  -- mantissa in [1, 2)
      if m.1 == sfuOne then fRoundZ false ⟨k, 0⟩
      else
        -- artanh((m − 1)/(m + 1)) · 2 / ln 2 after scaling the mantissa near 1
        let z := (m.1 - sfuOne) * sfuOne / (m.1 + sfuOne)
        let l := 2 * oddSeries false (sfuMul z z) 80 0 z
        let v := l * sfuOne / sfuLn2
        let s : Dy := (⟨k, 0⟩ : Dy).add ⟨v, -(sfuBits : Int)⟩
        fRoundZ false ⟨2 * s.m + 1, s.e - 1⟩

/-- 1 / x (R61). -/
def frecip (a : Lane) : Lane :=
  match FVal.ofBits a with
  | .nan => fNaN
  | .inf s => fZero s
  | .fin s x =>
    if x.m == 0 then fInf s
    else
      -- 2^64 / |m| to an integer with a sticky bit: more than 24 significant bits
      let n : Nat := 2 ^ 64
      let q := n / x.m.natAbs
      let st := if n % x.m.natAbs == 0 then 0 else 1
      let v : Int := 2 * q + st
      fRound ⟨if s then -v else v, -x.e - 65⟩

/-- Integer square root by bisection from the top bit. -/
def isqrtAux (n : Nat) : Nat → Nat → Nat
  | 0, r => r
  | b + 1, r => let t := r + 2 ^ b; if t * t ≤ n then isqrtAux n b t else isqrtAux n b r

/-- floor of the square root. -/
def isqrt (n : Nat) : Nat := isqrtAux n (Nat.log2 n / 2 + 1) 0

/-- 1 / sqrt(x) (R61). -/
def frsqrt (a : Lane) : Lane :=
  match FVal.ofBits a with
  | .nan => fNaN
  | .inf s => if s then fNaN else fZero false
  | .fin s x =>
    if x.m == 0 then fInf s
    else if s then fNaN
    else
      -- even exponent: x = m × 2^(2h); 1/sqrt = 2^-h / sqrt(m)
      let m := if x.e % 2 == 0 then x.m.natAbs else 2 * x.m.natAbs
      let h := (if x.e % 2 == 0 then x.e else x.e - 1) / 2
      let n := 2 ^ 160 / m
      let r := isqrt n
      let st := if r * r == n && 2 ^ 160 % m == 0 then 0 else 1
      fRound ⟨2 * r + st, -h - 81⟩

/-- Alternating series Σ (−1)^i x^(2i+p)/(2i+p)!: sine for p = 1, cosine for p = 0. -/
def trigSeries (x2 : Int) : Nat → Nat → Int → Int
  | 0, _, _ => 0
  | fuel + 1, k, t => t + trigSeries x2 fuel (k + 2) (-(sfuMul t x2 / (((k : Int) + 1) * ((k : Int) + 2))))

/-- sin or cos of 2π·f for a fraction of a turn f in [0, 1), as an exact value with a sticky bit; exact at multiples of
a quarter turn. -/
def trigTurn (cosine : Bool) (f : Dy) : Dy :=
  -- quarter turns: f = (q + r)/4 with r in [0, 1)
  let y := f.shl 2
  let q := if 0 ≤ y.e then y.m * (2 ^ y.e.toNat : Nat) else y.m / (2 ^ (-y.e).toNat : Nat)
  let r := y.add ⟨-q, 0⟩
  let ph := ((if cosine then q + 1 else q) % 4).toNat   -- cos(θ) = sin(θ + quarter)
  let neg := decide (2 ≤ ph)
  let useCos := ph % 2 == 1
  let v : Dy :=
    if r.m == 0 then (if useCos then ⟨1, 0⟩ else ⟨0, 0⟩)
    else
      let rf := (r.units (-(sfuBits : Int))).1
      if useCos then
        let t := sfuMul rf (sfuPi / 2)
        sfuDy (trigSeries (sfuMul t t) 40 0 sfuOne) 0
      else if r.flog2 < -64 then
        -- a small angle: sin(πr/2) = πr/2 · (1 − tiny); scaled so that no bit is lost
        ⟨2 * (r.m * (sfuPi / 2)) - 1, r.e - sfuBits - 1⟩
      else
        let t := sfuMul rf (sfuPi / 2)
        sfuDy (trigSeries (sfuMul t t) 40 1 t) 0
  if neg then v.neg else v

/-- sin(2π·x) (R61). -/
def fsin2pi (a : Lane) : Lane :=
  match FVal.ofBits a with
  | .nan => fNaN
  | .inf _ => fNaN
  | .fin s x =>
    -- odd function: reduce |x| modulo one turn, then restore the sign
    let ax := x.abs
    let i := if 0 ≤ ax.e then ax.m * (2 ^ ax.e.toNat : Nat) else ax.m / (2 ^ (-ax.e).toNat : Nat)
    let r := trigTurn false (ax.add ⟨-i, 0⟩)
    if r.m == 0 then fZero s else fRound (if s then r.neg else r)

/-- cos(2π·x) (R61). -/
def fcos2pi (a : Lane) : Lane :=
  match FVal.ofBits a with
  | .nan => fNaN
  | .inf _ => fNaN
  | .fin _ x =>
    let ax := x.abs
    let i := if 0 ≤ ax.e then ax.m * (2 ^ ax.e.toNat : Nat) else ax.m / (2 ^ (-ax.e).toNat : Nat)
    fRoundZ false (trigTurn true (ax.add ⟨-i, 0⟩))

/-! ### Reductions and activations -/

/-- One level of the fixed tree: neighbours combined pairwise (R99). -/
def pairUp (f : Lane → Lane → Lane) : List Lane → List Lane
  | a :: b :: r => f a b :: pairUp f r
  | r => r

/-- The fixed binary tree over a list whose length is a power of two (R99, R270); `fuel` levels. -/
def treeFold (f : Lane → Lane → Lane) : Nat → List Lane → Lane
  | 0, l => l.headD 0
  | fuel + 1, l => match l with
    | [] => 0
    | [x] => x
    | l => treeFold f fuel (pairUp f l)

/-- tree_sum of R99, over 64 or 256 lanes. -/
def treeSum (l : List Lane) : Lane := treeFold fadd 9 l

/-- log2(e) as FP32 (R207, R320). -/
def cLog2e : Lane := 0x3FB8AA3B#32

/-- The FP32 value nearest 0.044715 (R207). -/
def cGelu : Lane := 0x3D372713#32

/-- The FP32 value nearest 2·sqrt(2/π)·log2(e) (R207). -/
def kGelu : Lane := 0x40135761#32

/-- FP32 one. -/
def fOne : Lane := 0x3F800000#32

/-- ReLU (R207). -/
def actRelu (x : Lane) : Lane := fmax x (fZero false)

/-- Squared ReLU (R207). -/
def actSqrelu (x : Lane) : Lane := let t := fmax x (fZero false); fmul t t

/-- SiLU (R207). -/
def actSilu (x : Lane) : Lane :=
  let e := fexp2 (fmul x (fneg cLog2e))
  fmul x (frecip (fadd fOne e))

/-- GELU, tanh form (R207). -/
def actGelu (x : Lane) : Lane :=
  let u := fmul x x
  let v := fma u cGelu fOne
  let w := fmul x v
  let z := fmul w kGelu
  let e := fexp2 z
  let p := fmul x (frecip (fadd fOne e))
  fsub x p

/-- The activation an ACT stage's SUB names (R205). -/
def actFn : Nat → Option (Lane → Lane)
  | 0 => some actRelu | 1 => some actSilu | 2 => some actGelu | 3 => some actSqrelu | _ => none

end Sys2Proof.Machine
end

