-- ==== Sys2Proof/Machine/Vector.lean ====
section
/-!
DEFINITION. The vector and special-function units (R98–R100, R119, R121–R123). Operands are read when an instruction issues,
and its result is usable when the latency table says (R107, R153).
-/
namespace Sys2Proof.Machine

/-- The vector of lane results. -/
def map2 (f : Lane → Lane → Lane) (a b : List Lane) : List Lane := a.zipWith f b

/-- All ones or zero. -/
def laneBool (b : Bool) : Lane := if b then 0xFFFFFFFF#32 else 0

/-- What VOP function `fn` gives in each lane (R122); none for a reserved code. -/
def vopLanes (fn : Nat) (imm : Lane) (a b c : List Lane) : Option (List Lane) :=
  match fn with
  | 0x00 => some (map2 fadd a b)
  | 0x01 => some (map2 fsub a b)
  | 0x02 => some (map2 fmul a b)
  | 0x03 => some ((a.zip (b.zip c)).map fun x => fma x.1 x.2.1 x.2.2)
  | 0x04 => some (map2 fmin a b)
  | 0x05 => some (map2 fmax a b)
  | 0x06 => some (map2 (fun x y => laneBool (flt x y)) a b)
  | 0x07 => some (map2 (fun x y => laneBool (feq x y)) a b)
  | 0x08 => some ((a.zip (b.zip c)).map fun x => if x.2.2 = 0 then x.2.1 else x.1)
  | 0x10 => some (map2 (· + ·) a b)
  | 0x11 => some (map2 (· - ·) a b)
  | 0x12 => some (map2 (· &&& ·) a b)
  | 0x13 => some (map2 (· ||| ·) a b)
  | 0x14 => some (map2 (· ^^^ ·) a b)
  | 0x15 => some (map2 (fun x y => x <<< (y.toNat % 32)) a b)
  | 0x16 => some (map2 (fun x y => x >>> (y.toNat % 32)) a b)
  | 0x18 => some (List.replicate 64 imm)
  | 0x20 => some (a.map (fadd · imm))
  | 0x21 => some (a.map (fmul · imm))
  | _ => none

/-- The operands of VOP function `fn` that its result depends on: VA, VB, VC. -/
def vopUses (fn : Nat) : Bool × Bool × Bool :=
  if fn = 0x18 then (false, false, false)
  else if fn = 0x20 ∨ fn = 0x21 then (true, false, false)
  else (true, true, fn == 0x03 || fn == 0x08)

/-- A whole register's result, usable in A-cycle `usable`. -/
def Nib.vresult (n : Nib) (usable vd : Nat) (l : List Lane) (fl : Nat × Nat) : Nib := n.result usable (.vreg vd 0 32 l fl)

/-- VLOAD (R98, R121): eight consecutive rows into one register. -/
def execVload (p : Nat) (s : State) : Out1 :=
  .next (s.issue p 1 (byOp 1) fun w s => s.updNib p fun n =>
    let a := n.ra (fld w 52 21)
    let row := n.hrow a.handle a.index
    let (rs, n) := n.padReads s.acyc row 8
    let fl := (List.range 8).foldl (fun f i => orLanes f (laneFlags (8 * i) 8 (n.padFlag ((row + i) % 65536)))) (0, 0)
    n.vresult (s.acyc + 4) (fld w 57 53) (rs.flatMap rowLanes) fl)

/-- VSTORE (R98, R121): one register into eight consecutive rows, which land two A-cycles later (R80). -/
def execVstore (p : Nat) (s : State) : Out1 :=
  .next (s.issue p 1 (byOp 2) fun w s => s.updNib p fun n =>
    let a := n.ra (fld w 52 21)
    let v := n.vreg (fld w 57 53)
    let f := n.vflag (fld w 57 53)
    let row := n.hrow a.handle a.index
    (List.range 8).foldl (fun n i =>
      n.schedWrite (s.acyc + 2) (row + i) (lanesRow ((v.drop (8 * i)).take 8)) (flagsOf f (8 * i) 8)) n)

/-- A-cycles until a VOP's result is usable (R107, R153): four for FMA, add, subtract and multiply, two for the compare group. -/
def vopLat (fn : Nat) : Nat := if fn ≤ 3 ∨ fn = 0x20 ∨ fn = 0x21 then 4 else 2

/-- VOP (R60, R122). -/
def execVop (p : Nat) (s : State) : Out1 :=
  .next (s.issue p 1 (byOp 3) fun w s => s.updNib p fun n =>
    let (va, vb, vc) := (fld w 52 48, fld w 47 43, fld w 42 38)
    let fn := fld w 37 32
    match vopLanes fn (BitVec.ofNat 32 (fld w 31 0)) (n.vreg va) (n.vreg vb) (n.vreg vc) with
    | none => n
    | some l =>
      let (ua, ub, uc) := vopUses fn
      let f := orLanes (if ua then n.vflag va else (0, 0)) (orLanes (if ub then n.vflag vb else (0, 0))
        (if uc then n.vflag vc else (0, 0)))
      n.vresult (s.acyc + vopLat fn) (fld w 57 53) l f)

/-- VCVT (R55, R56, R119): each lane in the low bits, zero-extended. -/
def execVcvt (p : Nat) (s : State) : Out1 :=
  .next (s.issue p 1 (byOp 4) fun w s =>
    match SFmt.ofCode (fld w 47 44) with
    | none => s
    | some f => s.updNib p fun n =>
      let va := fld w 52 48
      let out := (n.vreg va).map fun x => convert f (fSrc x)
      let sat := out.zipIdx.foldl (fun a x => if x.1.2 then a ||| 2 ^ x.2 else a) 0
      n.vresult (s.acyc + 3) (fld w 57 53) (out.map fun x => BitVec.ofNat 32 x.1) (orLanes (n.vflag va) (0, sat)))

/-- The formats VQUANT and block-scaled outputs may name (R121, R171). -/
def quantFmt (c : Nat) : Option Fmt := if c ≤ 5 ∨ c = 8 ∨ c = 9 then Fmt.ofCode c else none

/-- Elements of `w` bits packed from lane 0, and zero beyond. -/
def packLanes (w : Nat) (cs : List Nat) : List Lane :=
  let x := pack (cs.map fun c => (w, c))
  (List.range 64).map fun i => BitVec.ofNat 32 (bitsAt x (32 * i) 32)

/-- VQUANT (R58, R59, R123). -/
def execVquant (p : Nat) (s : State) : Out1 :=
  .next (s.issue p 1 (byOp 5) fun w s =>
    match quantFmt (fld w 47 44) with
    | none => s
    | some f => s.updNib p fun n =>
      let va := fld w 52 48
      let vs := fld w 43 39
      let src := (n.vreg va).map fSrc
      let q0 := quantise f (src.take 32)
      let q1 := quantise f (src.drop 32)
      let fa := n.vflag va
      let f0 := flagsOf fa 0 32 ||| 2 * b2n q0.saturated
      let f1 := flagsOf fa 32 32 ||| 2 * b2n q1.saturated
      let n := n.vresult (s.acyc + 6) (fld w 57 53) (packLanes f.bits (q0.elems ++ q1.elems))
        (orLanes (laneFlags 0 f.bits f0) (laneFlags f.bits f.bits f1))
      n.result (s.acyc + 6) (.vreg vs 0 16 [BitVec.ofNat 32 (256 * q1.scale + q0.scale)] (laneFlags 0 1 (f0 ||| f1))))

/-- A lane reduction (R99): sum by the fixed tree, maximum or minimum; none for a reserved KIND. -/
def vred (kind : Nat) (l : List Lane) : Option Lane :=
  match kind with
  | 0 => some (treeSum l)
  | 1 => some (treeFold fmax 9 l)
  | 2 => some (treeFold fmin 9 l)
  | _ => none

/-- VRED (R99, R123): the result in every lane. -/
def execVred (p : Nat) (s : State) : Out1 :=
  .next (s.issue p 1 (byOp 6) fun w s => s.updNib p fun n =>
    let va := fld w 52 48
    match vred (fld w 47 46) (n.vreg va) with
    | none => n
    | some r => n.vresult (s.acyc + 8) (fld w 57 53) (List.replicate 64 r) (laneFlags 0 64 (flagsOf (n.vflag va) 0 64)))

/-- The special functions of VSFU (R61, R121). -/
def sfuFn : Nat → Option (Lane → Lane)
  | 0 => some fexp2 | 1 => some flog2 | 2 => some frecip | 3 => some frsqrt | 4 => some fsin2pi | 5 => some fcos2pi
  | _ => none

/-- A-cycles until a VSFU's result is usable: 7 for exp2, 19 for sine and cosine, 11 for the others (R153). -/
def sfuLat (fn : Nat) : Nat := if fn = 0 then 7 else if 4 ≤ fn then 19 else 11

/-- VSFU (R61, R100, R121). -/
def execVsfu (p : Nat) (s : State) : Out1 :=
  .next (s.issue p 1 (byOp 7) fun w s =>
    match sfuFn (fld w 47 45) with
    | none => s
    | some f => s.updNib p fun n =>
      let va := fld w 52 48
      n.vresult (s.acyc + sfuLat (fld w 47 45)) (fld w 57 53) ((n.vreg va).map f) (n.vflag va))

end Sys2Proof.Machine
end

