-- ==== Sys2Proof/Machine/Fusion.lean ====
section
/-!
DEFINITION. Prologues and epilogues (R200–R221): descriptors, stages, output rows and their formats, row statistics.
-/
namespace Sys2Proof.Machine

/-! ### Output layouts (R164–R168, R171) -/

/-- Rows of an output element-block (R164, R171). -/
def ofRows (c : Nat) : Nat := if c = 0xE then 4 else if c = 0xA then 2 else 1

/-- Index of row `w` of element-block `b` of row `m` in a layout of `nb` blocks a row and `rb` rows a block (R165, R168). -/
def blockIdx (rb nb m b w : Nat) : Nat := rb * (16 * nb * (m / 16) + 16 * b + m % 16) + w

/-- Data index of a block's scale (R166). -/
def scaleIdx (nb m b : Nat) : Nat := 16 * nb * (m / 16) + 16 * b + m % 16

/-- The scratchpad rows of a block of a tensor in handle `h`. -/
def Nib.blockAt (n : Nib) (rb h nb m b : Nat) : List Nat := (List.range rb).map fun w => n.hrow h (blockIdx rb nb m b w)

/-- The 32 values of element-block `b` of row `m` of a stored tensor, decoded exactly to FP32 (R202). -/
def Nib.blockVals (n : Nib) (code h hs nb m b : Nat) : List Lane :=
  let rows := (n.blockAt (ofRows code) h nb m b).map n.peek
  if code = 0xE then rows.flatMap rowLanes
  else match Fmt.ofCode code with
    | none => List.replicate 32 0
    | some f =>
      let sc := n.scaleByte hs (scaleIdx nb m b)
      (blockCodes f rows).map fun c => fOfEVal (f.value sc c)

/-- One value of a stored tensor. -/
def Nib.tensorAt (n : Nib) (code h hs nb m k : Nat) : Lane := (n.blockVals code h hs nb m (k / 32)).getD (k % 32) 0

/-- FP32 element `e` of a handle: lane e mod 8 of index ⌊e / 8⌋. -/
def Nib.fp32At (n : Nib) (h e : Nat) : Lane :=
  BitVec.ofNat 32 (bitsAt (n.peek (n.hrow h (e / 8))).toNat (32 * (e % 8)) 32)

/-- BF16 element `e` of a handle, widened. -/
def Nib.bf16At (n : Nib) (h e : Nat) : Lane := fOfBf16 (bitsAt (n.peek (n.hrow h (e / 16))).toNat (16 * (e % 16)) 16)

/-! ### Descriptors (R204) -/

/-- The 512 bits of a descriptor's first rows. -/
def Nib.descBits (n : Nib) (h rows : Nat) : Nat :=
  leNat ((List.range rows).flatMap fun i => rowBytes (n.peek (n.hrow h i)))

/-- What reading the `rows` rows of a descriptor in A-cycle `now` leaves in the nib (R83, R84). -/
def Nib.descRead (n : Nib) (now h rows : Nat) : Nib := n.touch now ((List.range rows).map fun i => n.hrow h i)

/-- The header and the stages of a descriptor (R204). -/
def Nib.descriptor (n : Nib) (h : Nat) : Nat × List FuseStage :=
  let w := n.descBits h 4
  (bitsAt w 0 128, (List.range (bitsAt w 0 3)).map fun k => stageOf (bitsAt w (128 * (k + 1)) 128))

/-- Latency and issue cost of a stage (R205). -/
def FuseStage.cost (st : FuseStage) : Nat × Nat :=
  match st.op with
  | 1 => (4, 0) | 2 | 3 => (7, 0)
  | 4 => match st.sub with | 0 => (2, 0) | 1 => (30, 1) | 2 => (46, 2) | _ => (6, 0)
  | 5 | 6 => (8, 0)
  | 7 => (16, 1)
  | 8 => (3, 0)
  | 9 => (0, 0)
  | 10 => (4 * cdiv st.imm1 64 + 24, 0)
  | 11 => (8, 2)
  | _ => (0, 0)

/-- The epilogue latency E without its last term, and Q (R183, R208). A KVQ stage's output is a KV format, whatever OFMT is. -/
def epiLatency (ofmt : Nat) (epi : Bool) (hdr : Nat) (st : List FuseStage) : Nat × Nat :=
  let kvq := match st.getLast? with | some x => x.op == 9 | none => false
  if !epi then (if ofmt = 0xE then 2 else 8, 1)
  else
    ((if ofmt = 0xE ∧ !kvq then 2 else 8) + (if bitAt hdr 3 then 3 else 0) +
      sumNat (st.zipIdx.map fun x => x.1.cost.1 + (if x.1.bf16 && decide (x.2 + 1 < st.length) then 3 else 0)),
     1 + sumNat (st.map fun x => x.cost.2))

/-! ### Stage results -/

/-- Round to a stage format (R55, R56, R200): FP32 or BF16, read back exactly; true: SATURATED. -/
def toStage (bf16 : Bool) (v : Src) : Lane × Bool :=
  let (c, s) := convert (if bf16 then .bf16 else .fp32) v
  (if bf16 then fOfBf16 c else BitVec.ofNat 32 c, s)

/-- The rotary pair's results (R233): y0, y1. -/
def rotate (a0 a1 : Lane) (pos theta : Nat) (amp : Lane) : Lane × Lane :=
  let phase := pos * theta % 2 ^ 64
  let x := fRoundZ false ⟨(phase / 2 ^ 40 : Nat), -24⟩
  let c := fcos2pi x
  let s := fsin2pi x
  (fmul (fma (fneg a1) s (fmul a0 c)) amp, fmul (fma a1 c (fmul a0 s)) amp)

/-- Row information word of a token row (R228). -/
def Nib.rowInfo (n : Nib) (h row : Nat) : Nat := bitsAt (n.peek (n.hrow h (row / 4))).toNat (64 * (row % 4)) 64

/-- The head dimension of a ROTARY stage (R205). -/
def FuseStage.headDim (st : FuseStage) : Nat := 64 * 2 ^ (st.param % 4)

/-- Column `k`'s pair in its head (R233): its frequency, whether it is the second element, and how far the two lie apart. -/
def FuseStage.pair (st : FuseStage) (k : Nat) : Nat × Bool × Nat :=
  let d := st.headDim
  let e := k % d
  if st.sub = 0 then (e / 2, e % 2 == 1, 1) else (e % (d / 2), decide (d / 2 ≤ e), d / 2)

/-- The ROTARY stage on values from column `col` (R232, R233). A head that the macro computes only in part has pairs whose other
element it does not hold: that element is a free value (log 44). -/
def Nib.rotary (n : Nib) (st : FuseStage) (token col : Nat) (x : List Lane) : List Lane :=
  let pos := bitsAt (n.rowInfo st.h2 token) 0 20
  let other (k : Nat) : Lane := if col ≤ k then x.getD (k - col) (Config.freeValue 32 k) else Config.freeValue 32 k
  x.zipIdx.map fun v =>
    let k := col + v.2
    let (i, up, step) := st.pair k
    let ent := bitsAt (n.peek (n.hrow st.h1 (i / 2))).toNat (128 * (i % 2)) 128
    let (a0, a1) := if up then (other (k - step), v.1) else (v.1, other (k + step))
    let (y0, y1) := rotate a0 a1 pos (bitsAt ent 0 64) (BitVec.ofNat 32 (bitsAt ent 64 32))
    if up then y1 else y0

/-- row_terms of R217 for row `m`, from the statistics of ROWSCALE stage `st`: μ and r. -/
def Nib.rowTerms (n : Nib) (st : FuseStage) (m : Nat) : Lane × Lane :=
  let w := st.imm1
  let ng := cdiv w 64
  let layer := bitAt st.sub 0
  let (a, b) := (List.range ng).foldl (fun (x : Lane × Lane) g =>
    let e := m * ng + g
    if layer then (fadd x.1 (n.fp32At st.h1 (2 * e)), fadd x.2 (n.fp32At st.h1 (2 * e + 1)))
    else (x.1, fadd x.2 (n.fp32At st.h1 e))) (fZero false, fZero false)
  let inv := frecip (fOfNat w)
  let t := fmul b inv
  let mu := if layer then fmul a inv else fZero false
  let t := if layer then fmax (fma (fneg mu) mu t) (fZero false) else t
  (mu, frsqrt (fadd t (BitVec.ofNat 32 st.imm0)))

/-- normalise of R217 for the value of column `k`. -/
def Nib.normalise (n : Nib) (st : FuseStage) (terms : Lane × Lane) (k : Nat) (v : Lane) : Lane :=
  let gamma := n.fp32At st.h2 k
  let beta := if bitAt st.sub 0 then n.fp32At st.h2 (8 * cdiv st.imm1 8 + k) else fZero false
  fma (fmul (fsub v terms.1) terms.2) gamma beta

/-- What a stage makes of the values of row `m` from column `col`, before rounding (R205). `nb` is the blocks a row of the
tensor operands' layout, `token` the row's token row. -/
def Nib.stage (n : Nib) (st : FuseStage) (nb m token col : Nat) (x : List Lane) : List Lane :=
  let ix := x.zipIdx
  match st.op with
  | 1 => x.map fun v => fmul v (BitVec.ofNat 32 st.imm0)
  | 2 => ix.map fun v => fmul v.1 (n.fp32At st.h1 (col + v.2))
  | 3 => ix.map fun v => fadd v.1 (if st.sub = 0 then n.fp32At st.h1 (col + v.2) else n.bf16At st.h1 (col + v.2))
  | 4 => match actFn st.sub with | some f => x.map f | none => x
  | 5 => ix.map fun v => fadd v.1 (n.tensorAt (st.param % 16) st.h1 st.h2 nb m (col + v.2))
  | 6 => ix.map fun v => fmul v.1 (n.tensorAt (st.param % 16) st.h1 st.h2 nb m (col + v.2))
  | 7 => n.rotary st token col x
  | 10 => let t := n.rowTerms st m; ix.map fun v => n.normalise st t (col + v.2) v.1
  | _ => x

/-- The rows of FP32 elements `e` to `e + k − 1` of a handle. -/
def Nib.fp32Rows (n : Nib) (h e k : Nat) : List Nat :=
  if k = 0 then [] else (List.range ((e + k - 1) / 8 - e / 8 + 1)).map fun i => n.hrow h (e / 8 + i)

/-- The scratchpad rows a stage reads for columns `col` to `col + len − 1` of row `m` (R205, R209, R219, R232). -/
def Nib.stageRows (n : Nib) (st : FuseStage) (nb m token col len : Nat) : List Nat :=
  let blocks := (List.range (cdiv (col % 32 + len) 32)).map (col / 32 + ·)
  match st.op with
  | 2 => n.fp32Rows st.h1 col len
  | 3 =>
    if st.sub = 0 then n.fp32Rows st.h1 col len
    else (List.range (cdiv (col % 16 + len) 16)).map fun i => n.hrow st.h1 (col / 16 + i)
  | 5 | 6 =>
    let c := st.param % 16
    blocks.flatMap fun b => n.blockAt (ofRows c) st.h1 nb m b ++
      if c = 0xE ∨ c = 0xA then [] else [n.hrow st.h2 (scaleIdx nb m b / 32)]
  | 7 => n.hrow st.h2 (token / 4) ::
      ((List.range len).map fun i => n.hrow st.h1 ((st.pair (col + i)).1 / 2)).eraseDups
  | 10 =>
    let ng := cdiv st.imm1 64
    (if bitAt st.sub 0 then n.fp32Rows st.h1 (2 * m * ng) (2 * ng) ++ n.fp32Rows st.h2 (8 * cdiv st.imm1 8 + col) len
      else n.fp32Rows st.h1 (m * ng) ng) ++ n.fp32Rows st.h2 col len
  | _ => []

/-- The flags of the rows a sequence of stages reads for some columns of a row: they join the row's (R53, R203). -/
def Nib.stageFlags (n : Nib) (sts : List FuseStage) (nb m token col len : Nat) : Nat :=
  sts.foldl (fun f st => (n.stageRows st nb m token col len).foldl (fun f r => f ||| n.padFlag r) f) 0

/-- The reads of a sequence of stages (R83, R84). -/
def Nib.stageReads (n : Nib) (now : Nat) (sts : List FuseStage) (nb m token col len : Nat) : Nib :=
  n.touch now (sts.flatMap fun st => n.stageRows st nb m token col len).eraseDups

/-- Run stages on values already in a stage format: what the last leaves to be rounded, and SATURATED. -/
def Nib.stages (n : Nib) (nb m token col : Nat) : List FuseStage → List Lane → List Src × Bool
  | [], x => (x.map fSrc, false)
  | [st], x => ((n.stage st nb m token col x).map fSrc, false)
  | st :: rest, x =>
    let y := (n.stage st nb m token col x).map fun v => toStage st.bf16 (fSrc v)
    let (r, f) := n.stages nb m token col rest (y.map (·.1))
    (r, f || y.any (·.2))

/-! ### Writing output rows (R168, R171, R180, R218, R268) -/

/-- An output block: its rows, its scale byte if it has one, SATURATED. -/
structure OutBlock where
  rows : List Row
  scale : Option Nat
  saturated : Bool
  codes : List Nat
deriving DecidableEq, Repr

/-- Rows of packed codes of `w` bits. -/
def packRows (w k : Nat) (cs : List Nat) : List Row :=
  let x := pack (cs.map fun c => (w, c))
  (List.range k).map fun i => BitVec.ofNat 256 (bitsAt x (256 * i) 256)

/-- Convert up to 32 values to an output format (R171); columns past `live` are zero, and a block with none live is zero with
a zero scale byte (R180). -/
def outBlock (c : Nat) (vals : List Src) (live : Nat) : OutBlock :=
  let vs := vals.zipIdx.map fun x => if x.2 < live then x.1 else .fin ⟨0, 0⟩
  if c = 0xE then
    let r := vs.map (convert .fp32)
    let cs := r.map (·.1)
    ⟨packRows 32 (cdiv vs.length 8) cs, none, r.any (·.2), cs⟩
  else if c = 0xA then
    let r := vs.map (convert .bf16)
    let cs := r.map (·.1)
    ⟨packRows 16 2 cs, some (if live = 0 then 0 else bf16Exp cs), r.any (·.2), cs⟩
  else match quantFmt c with
    | none => ⟨[], none, false, []⟩
    | some f =>
      let q := quantise f vs
      ⟨packRows f.bits 1 q.elems, some (if live = 0 then 0 else q.scale), q.saturated, q.elems⟩

/-- Write one output block of row `m` (R168): its data rows with the row's flags, its scale byte. -/
def Nib.writeBlock (n : Nib) (due h hs rb nb m b half : Nat) (o : OutBlock) (fl : Nat) : Nib :=
  let n := o.rows.zipIdx.foldl (fun n x => n.schedWrite due (n.hrow h (blockIdx rb nb m b (half + x.2))) x.1 fl) n
  match o.scale with
  | none => n
  | some s =>
    let i := scaleIdx nb m b
    n.bytesWrite due (n.hrow hs (i / 32)) (i % 32) [BitVec.ofNat 8 s] fl

/-- The value a pending or landed FP32 or BF16 output element has. -/
def Nib.outAt (n : Nib) (c h nb m k : Nat) : Lane :=
  let rb := ofRows c
  let per := 32 / rb
  let row := n.hrow h (blockIdx rb nb m (k / 32) (k % 32 / per))
  let d := match (n.wq.filter fun w => w.row == row && w.mask == 0xFFFFFFFF).getLast? with
    | some w => w.data
    | none => n.peek row
  if c = 0xE then BitVec.ofNat 32 (bitsAt d.toNat (32 * (k % 8)) 32) else fOfBf16 (bitsAt d.toNat (16 * (k % 16)) 16)

/-- ROWSTAT (R217, R218): the group sums of row `m` for the groups its columns touch, from the output as rounded, with the row's
flags (R53). -/
def Nib.rowStat (n : Nib) (due : Nat) (pl : OutPlan) (m col len : Nat) (st : FuseStage) (fl : Nat) : Nib :=
  let n0 := pl.n0
  let w := st.imm1
  let ng := cdiv w 64
  let g0 := (n0 + col) / 64
  let g1 := cdiv (n0 + col + len) 64
  (List.range (g1 - g0)).foldl (fun n i =>
    let g := g0 + i
    let vs := (List.range 64).map fun l =>
      let k := 64 * g + l
      if k < w ∧ n0 ≤ k then n.outAt pl.ofmt pl.ch (cdiv pl.np 32) m (k - n0) else fZero false
    let s := treeSum vs
    let q := treeSum (vs.map fun v => fmul v v)
    let put (n : Nib) (e : Nat) (v : Lane) : Nib :=
      n.bytesWrite due (n.hrow st.h1 (e / 8)) (4 * (e % 8)) (leBytes 4 v.toNat) fl
    let e := m * ng + g
    if st.sub = 0 then put n e q else put (put n (2 * e) s) (2 * e + 1) q) n

/-- The stages of an output row: none without an epilogue. -/
def Nib.outStages (n : Nib) (pl : OutPlan) : Nat × List FuseStage :=
  if pl.epi then
    let (hdr, sts) := n.descriptor pl.edh
    (hdr, match sts with
      | st :: r => if pl.held ∧ st.op = 10 then { st with h1 := pl.sth } :: r else sts
      | [] => [])
  else (0, [])

/-- Run an output row through its epilogue and write it so that it lands in `land` (R200, R201, R168, R268). Values are the
product's, stage 0 not yet rounded; a FINISH's held rows are no product, and its S0FMT rounds nothing (R201; DESIGN CHOICE, log 209).
What the stages read brings its flags to the columns that use it (R53, R203), and the row's
flags are kept with its token row for the seal. -/
def Nib.writeRow (n : Nib) (now : Nat) (r : OutRow) : Nib :=
  let pl := r.plan
  let nb := cdiv pl.np 32
  let len := r.vals.length
  let token := pl.m0 + r.m
  let (hdr, sts) := n.outStages pl
  let (vals, sat) :=
    if sts.isEmpty then (r.vals, false)
    else
      let s0 := r.vals.map fun v => toStage (!pl.held && bitAt hdr 3) v
      let (v, f) := n.stages nb r.m token r.col sts (s0.map (·.1))
      (v, f || s0.any (·.2))
  let last := sts.getLast?
  let kvq := match last with | some st => if st.op = 9 then some st else none | none => none
  let (c, h, hs) := match kvq with
    | some st => (if st.sub = 0 then 0 else 9, st.h1, st.h2)
    | none => (pl.ofmt, pl.ch, pl.csh)
  let rb := ofRows c
  let blocks := (List.range (cdiv len 32)).map fun i =>
    let k := r.col + 32 * i
    let o := outBlock c ((vals.drop (32 * i)).take 32) (r.live - k)
    (k, o, r.fl ||| n.stageFlags sts nb r.m token k (min 32 (len - 32 * i)) ||| 2 * b2n (sat || o.saturated))
  let n := n.stageReads now sts nb r.m token r.col len
  let n := blocks.foldl (fun n x =>
    n.writeBlock r.land h hs rb nb r.m (x.1 / 32) (if c = 0xE then x.1 % 32 / 8 else 0) x.2.1 x.2.2) n
  let fl := blocks.foldl (fun f x => f ||| x.2.2) 0
  let n := { n with rowFl := mupd 0 n.rowFl (2 ^ 24 * pl.sreg + token) (· ||| fl) }
  match last with
  | some st => if st.op = 8 then n.rowStat r.land pl r.m r.col len st fl else n
  | none => n

/-- The columns of the heads that an output row's columns lie in, as far as the macro computes them (R233): first, and the one
after the last. -/
def OutRow.heads (r : OutRow) (d : Nat) : Nat × Nat :=
  let len := r.vals.length
  (r.col / d * d, min (cdiv (r.col + len) d * d) (min r.plan.np (roundUp r.live len)))

/-- Join parts of one row of output, all as wide as the first, that cover columns from `lo` on. -/
def joinRow (lo land : Nat) (r : OutRow) (ps : List OutRow) : OutRow :=
  let len := r.vals.length
  { r with
    col := lo, land := ps.foldl (fun a x => max a x.land) land, fl := ps.foldl (fun f x => f ||| x.fl) r.fl
    vals := (List.range ps.length).flatMap fun k => match ps.find? fun x => x.col == lo + k * len with
      | some x => x.vals
      | none => [] }

/-- An output row goes through its epilogue. A ROTARY stage works on whole heads (R233): a tile's part of a head waits for the
head's other tiles (log 44). -/
def Nib.outStep (n : Nib) (now : Nat) (r : OutRow) : Nib × Option Act :=
  match (n.outStages r.plan).2.find? fun st => st.op == 7 with
  | none => (n.writeRow now r, none)
  | some st =>
    let (lo, hi) := r.heads st.headDim
    let parts := n.acts.filterMap fun a => match a with
      | .outRow _ x => if x.plan = r.plan ∧ x.m = r.m ∧ lo ≤ x.col ∧ x.col < hi then some x else none
      | _ => none
    if sumNat ((r :: parts).map fun x => x.vals.length) < hi - lo then (n, some (.outRow (now + 1) r))
    else
      let n := { n with acts := n.acts.filter fun a => match a with | .outRow _ x => !parts.contains x | _ => true }
      (n.writeRow now (joinRow lo (max r.land (now + 1)) r (r :: parts)), none)

/-! ### Prologues (R210–R215) -/

/-- The input row of a prologue (R211, R213, R214, R219, R220): K values of row `m` from its source. -/
def Nib.proInput (n : Nib) (mt : Mat) (hdr : Nat) (sts : List FuseStage) (m : Nat) : List Lane :=
  let blocks := List.range mt.kpb
  let plain : List Lane := blocks.flatMap fun b =>
    let rows := (n.blockAt mt.fa.blockRows mt.ah mt.kpb m b).map n.peek
    let sc := if mt.fa == .fpE4M3 || mt.fa == .fpE5M2 then (n.shape mt.sreg).ascale else n.scaleByte mt.ash (scaleIdx mt.kpb m b)
    (blockCodes mt.fa rows).map fun c => fOfEVal (mt.fa.value sc c)
  match sts.head? with
  | none => plain
  | some st =>
    if st.op = 10 then
      if n.slotD.foldOn.contains st.param then
        blocks.flatMap fun b => n.blockVals (if bitAt st.sub 1 then 0xA else 0xE) st.h3 0 (cdiv st.imm1 32) m b
      else plain
    else if st.op = 11 then
      -- the source holds the matrix with rows and columns exchanged
      let nb := cdiv mt.mp 32
      (List.range (32 * mt.kpb)).map fun k =>
        match st.sub with
        | 0 => n.tensorAt 0xE st.h1 0 nb k m
        | 1 => (n.blockVals 0xA st.h1 0 nb k (m / 32)).getD (m % 32) 0
        | sub =>
          let f : Fmt := if sub = 2 then .fpE4M3 else .fpE5M2
          let c := (blockCodes f ((n.blockAt 1 st.h1 nb k (m / 32)).map n.peek)).getD (m % 32) 0
          fOfEVal (f.value (n.shape mt.sreg).ascale c)
    else if st.op = 12 then
      let rb := mt.fa.blockRows
      let total := rb * mt.kpb
      let first := bitsAt hdr 15 6
      let row (i : Nat) : Row :=
        let j := i / 64
        let g := min 64 (total - 64 * j)
        n.peek (n.hrow (first + j) (g * m + (i - 64 * j)))
      let ps := cdiv total 64
      blocks.flatMap fun b =>
        let sr := n.peek (n.hrow (first + ps) (cdiv mt.kpb 32 * m + b / 32))
        (blockCodes mt.fa ((List.range rb).map fun w => row (rb * b + w))).map fun c =>
          fOfEVal (mt.fa.value (if mt.fa == .fpE4M3 || mt.fa == .fpE5M2 then (n.shape mt.sreg).ascale
            else (rowByte sr (b % 32)).toNat) c)
    else plain

/-- The rows a prologue reads for row `m`: its source's data rows, then their scales. -/
def Nib.proRows (n : Nib) (mt : Mat) (hdr : Nat) (sts : List FuseStage) (m : Nat) : List Nat :=
  let blocks := List.range mt.kpb
  let perTensor := mt.fa == .fpE4M3 || mt.fa == .fpE5M2
  let plain := (blocks.flatMap fun b => n.blockAt mt.fa.blockRows mt.ah mt.kpb m b) ++
    if perTensor then [] else (blocks.map fun b => n.hrow mt.ash (scaleIdx mt.kpb m b / 32)).eraseDups
  match sts.head? with
  | none => plain
  | some st =>
    if st.op = 10 then
      if n.slotD.foldOn.contains st.param then
        blocks.flatMap fun b => n.blockAt (if bitAt st.sub 1 then 2 else 4) st.h3 (cdiv st.imm1 32) m b
      else plain
    else if st.op = 11 then
      (List.range (32 * mt.kpb)).flatMap fun k =>
        n.blockAt (match st.sub with | 0 => 4 | 1 => 2 | _ => 1) st.h1 (cdiv mt.mp 32) k (m / 32)
    else if st.op = 12 then
      let total := mt.fa.blockRows * mt.kpb
      ((List.range total).map fun i =>
        n.hrow (bitsAt hdr 15 6 + i / 64) (min 64 (total - i / 64 * 64) * m + i % 64)) ++
      if perTensor then [] else (List.range (cdiv mt.kpb 32)).map fun i =>
        n.hrow (bitsAt hdr 15 6 + cdiv total 64) (cdiv mt.kpb 32 * m + i)
    else plain

/-- Quantise a block of a prologue's result to FMT_A (R210): its rows and scale byte. A per-tensor format is converted against
ASCALE, the scale its passes apply (R39, R56, R166; log 167). -/
def proBlock (f : Fmt) (ascale : Nat) (vs : List Src) : OutBlock :=
  let against (s : SFmt) : OutBlock :=
    let r := vs.map fun v => convert s (match v with | .fin x => .fin (x.shl (127 - (ascale : Int))) | v => v)
    ⟨packRows 8 1 (r.map (·.1)), some ascale, r.any (·.2), r.map (·.1)⟩
  match f with
  | .bf16 => outBlock 0xA vs 32
  | .fpE4M3 => against .e4m3
  | .fpE5M2 => against .e5m2
  | f => let q := quantise f vs; ⟨packRows f.bits 1 q.elems, some q.scale, q.saturated, q.elems⟩

/-- The stages a prologue computes (R220): first stages that only supply input, and a disabled ROWSCALE, pass it on. -/
def Nib.proStages (n : Nib) (sts : List FuseStage) : List FuseStage :=
  match sts with
  | st :: rest =>
    if st.op = 11 ∨ st.op = 12 ∨ (st.op = 10 ∧ ¬ n.slotD.foldOn.contains st.param) then
      if rest.isEmpty then [] else { st with op := 0, bf16 := st.bf16 && st.op != 10 } :: rest
    else sts
  | [] => []

/-- Whether a prologue only passes AHANDLE's blocks on: a disabled ROWSCALE is its one stage (R220). They are stored as they stand
and not quantised again, so that a site's hold form gives the separate form's bits (R221; DEDUCED, log 208). -/
def Nib.proPasses (n : Nib) (sts : List FuseStage) : Bool :=
  match sts with
  | [st] => st.op == 10 && !n.slotD.foldOn.contains st.param
  | _ => false

/-- Block `b` of row `m` of operand A as it is stored (R165, R166). -/
def Nib.storedBlock (n : Nib) (mt : Mat) (m b : Nat) : OutBlock :=
  let rows := (n.blockAt mt.fa.blockRows mt.ah mt.kpb m b).map n.peek
  ⟨rows, some (if mt.fa == .fpE4M3 || mt.fa == .fpE5M2 then (n.shape mt.sreg).ascale else n.scaleByte mt.ash (scaleIdx mt.kpb m b)),
    false, blockCodes mt.fa rows⟩

/-- One row of a prologue (R210), with the flags of all it reads (R53, R203); its writes land at the end of the A-cycle (R81, R212). -/
def Nib.proRow (n : Nib) (now : Nat) (mt : Mat) (m : Nat) : Nib :=
  let n0 := n
  let (hdr, sts) := n.descriptor mt.pdh
  let run := n.proStages sts
  let nb := cdiv mt.np 32
  let token := mt.m0 + m
  let len := 32 * mt.kpb
  let rows := n.proRows mt hdr sts m
  let fin := rows.foldl (fun f r => f ||| n.padFlag r) 0 ||| n.stageFlags run nb m token 0 len
  let x := n.proInput mt hdr sts m
  let (vals, sat) := n.stages nb m token 0 run x
  let n := (n.touch now rows).stageReads now run nb m token 0 len
  let ph := bitsAt hdr 3 6
  let psh := bitsAt hdr 9 6
  let sh := n.shape mt.sreg
  (List.range mt.kpb).foldl (fun n b =>
    let vs := ((vals.drop (32 * b)).take 32).zipIdx.map fun v => if 32 * b + v.2 < sh.k then v.1 else Src.fin ⟨0, 0⟩
    let o := if n0.proPasses sts then n0.storedBlock mt m b else proBlock mt.fa sh.ascale vs
    let fl := fin ||| 2 * b2n (sat || o.saturated)
    let n := if mt.k0b ≤ b ∧ b < mt.k0b + mt.knb then
        o.rows.zipIdx.foldl (fun n r =>
          n.schedWrite now (n.hrow ph (blockIdx mt.fa.blockRows mt.knb m (b - mt.k0b) r.2)) r.1 fl) n
      else n
    let i := scaleIdx mt.kpb m b
    n.bytesWrite now (n.hrow psh (i / 32)) (i % 32) (leBytes 1 (o.scale.getD 0)) fl) n

/-- A prologue's fixed part (R212): the A-cycles before its rows, and the A-cycle, from its start, in which row `i` is done. -/
def proRowAt (mt : Mat) (sts : List FuseStage) (i : Nat) : Nat :=
  12 + sumNat (sts.map fun x => x.cost.1) + (1 + sumNat (sts.map fun x => x.cost.2)) * cdiv ((i + 1) * mt.kpb) 2

/-- A prologue's fixed occupancy Op (R212): its last row's. -/
def Nib.proCycles (n : Nib) (mt : Mat) : Nat := if !mt.pro then 0 else proRowAt mt (n.descriptor mt.pdh).2 (mt.mp - 1)

end Sys2Proof.Machine
end

