-- ==== Sys2Proof/Machine/Matmul.lean ====
section
/-!
DEFINITION. MATMUL and FINISH (R156–R195): the tile grid, its visits and their A-cycles, streaming, halo and split reductions,
readout; and the gate of a visit.
-/
namespace Sys2Proof.Machine

/-! ### The plan (R172–R178, R183) -/

/-- One level of cell(n, d) (R178). -/
def hilbertAux (n : Nat) : Nat → Nat → Nat → Nat → Nat → Nat × Nat
  | 0, _, _, x, y => (x, y)
  | fuel + 1, s, t, x, y =>
    if n ≤ s then (x, y)
    else
      let rx := t / 2 % 2
      let ry := (t % 2 + rx) % 2
      let (x, y) := if ry = 0 then
          (if rx = 1 then (s - 1 - y, s - 1 - x) else (y, x))
        else (x, y)
      hilbertAux n fuel (2 * s) (t / 4) (x + s * rx) (y + s * ry)

/-- cell(n, d) of R178: (column, row). -/
def hilbert (n d : Nat) : Nat × Nat := hilbertAux n 32 1 d 0 0

/-- The smallest power of two at or above `k`. -/
def pow2At (k : Nat) : Nat := if k ≤ 1 then 1 else 2 ^ (Nat.log2 (k - 1) + 1)

/-- The visiting order of a grid of `tr` rows and `tc` columns (R178). -/
def tileOrder (tr tc : Nat) : List (Nat × Nat) :=
  let n := pow2At (max tr tc)
  ((List.range (n * n)).map (hilbert n)).filter fun c => decide (c.1 < tc) && decide (c.2 < tr)

/-- Tile rows TR. -/
def Mat.tr (m : Mat) : Nat := m.mp / m.tm
/-- Tile columns TC. -/
def Mat.tc (m : Mat) : Nat := m.np / m.tn
/-- Tiles TT. -/
def Mat.tt (m : Mat) : Nat := m.tr * m.tc
/-- Chunks KC. -/
def Mat.kc (m : Mat) : Nat := cdiv m.knb m.tkb
/-- Slots per tile S. -/
def Mat.s (m : Mat) : Nat := (m.tm / 16) * (m.tn / 16)
/-- Slot rows per tile Sr. -/
def Mat.sr (m : Mat) : Nat := m.tm * m.tn / 16
/-- The mode of its arrays. -/
def Mat.mode (m : Mat) : ArrMode := arrMode m.fa m.fb
/-- P: A-cycles per block. -/
def Mat.p (m : Mat) : Nat := max (m.mode.cycles * m.tm) 38
/-- G: the prescan's reads. -/
def Mat.g (m : Mat) : Nat := 1 + m.tm / 16 * cdiv m.kpb 2
/-- F: A-cycles before the first visit. -/
def Mat.f (m : Mat) : Nat := max 38 (m.g + 7)
/-- Blocks of chunk `c`. -/
def Mat.chunk (m : Mat) (c : Nat) : Nat := min m.tkb (m.knb - c * m.tkb)
/-- Pv of a visit of `k` blocks. -/
def Mat.pv (m : Mat) (k : Nat) : Nat := max (k * m.p) m.g
/-- The tile position and the chunk of visit `v` (R174). -/
def Mat.visit (m : Mat) (v : Nat) : Nat × Nat := if m.korder then (v % m.tt, v / m.tt) else (v / m.kc, v % m.kc)
/-- The slot demand (R176). -/
def Mat.demand (m : Mat) : Nat := if m.korder then m.tt * m.s else if m.tt > 1 then 2 * m.s else m.s
/-- The buffer number of a tile position (R176). -/
def Mat.buf (m : Mat) (pos : Nat) : Nat := if m.korder then pos else if m.tt > 1 then pos % 2 else 0
/-- The accumulator slot of row group `g` and column block `r` in buffer `u` (R172). -/
def Mat.slot (m : Mat) (u g r : Nat) : Nat := m.base + u * m.s + r * (m.tm / 16) + g

/-- Whether a MATMUL's visits are gated (R185): a split receiver's gate holds back the combine of a tile alone (R193). -/
def Mat.gated (m : Mat) : Bool := m.tg && m.kmode != 2

/-- A visit's duration (R183, R186): the last of a tile is stretched to the tile's readout. A gated split receiver's visits are
not gated themselves and last as ungated ones do (log 179). -/
def Mat.dur (m : Mat) (v : Nat) : Nat :=
  let k := m.pv (m.chunk (m.visit v).2)
  if m.gated then m.f + max k m.sr
  else if m.korder then k
  else if (m.visit v).2 + 1 = m.kc then
    let before := sumNat ((List.range (m.kc - 1)).map fun c => m.pv (m.chunk c))
    max (before + k) m.sr - before
  else k

/-- Whether a tile is live (R179). -/
def Mat.live (m : Mat) (sh : Shape) (t : Nat × Nat) : Bool :=
  decide (m.m0 + m.tm * t.2 < sh.m) && decide (m.n0 + m.tn * t.1 < sh.n)

/-- E without its last term, and Q (R183, R208). A split sender's epilogue fields are ignored (R192). -/
def Nib.matEpi (n : Nib) (m : Mat) : Nat × Nat :=
  let epi := m.epi && m.kmode != 1
  let (hdr, st) := if epi then n.descriptor m.edh else (0, [])
  epiLatency m.ofmt epi hdr st

/-- The occupancy O (R183, R208, R212). -/
def Nib.occupancy (n : Nib) (m : Mat) : Nat :=
  let (e, q) := n.matEpi m
  n.proCycles m + m.f + sumNat ((List.range (m.tt * m.kc)).map m.dur) + 30 +
    (if m.korder then m.tt else 1) * m.sr * q + e

/-- The array numbers of ARRAYS in order (R172). -/
def arrayList (mask : Nat) : List Nat := (List.range 8).filter (bitAt mask)

/-- The arrays of a MATMUL with their column blocks (R172). -/
def Mat.arrayCols (m : Mat) : List (Nat × Nat) := ((arrayList m.arrays).take (m.tn / 16)).zipIdx

/-! ### Operands -/

/-- Handles of operand A and its scales: the prologue's output where there is one (R210). -/
def Nib.aHandles (n : Nib) (m : Mat) : Nat × Nat :=
  if m.pro then let h := (n.descriptor m.pdh).1; (bitsAt h 3 6, bitsAt h 9 6) else (m.ah, m.ash)

/-- Whether a format takes its scale from the shape register (R166). -/
def perTensor (f : Fmt) : Bool := f == .fpE4M3 || f == .fpE5M2

/-- The live blocks of a reduction of `k` elements (R181). -/
def liveBlocks (k : Nat) : Nat := cdiv k 32

/-- The live blocks of a visit's chunk. -/
def Visit.blocks (r : Visit) (k : Nat) : Nat := min (r.mat.chunk r.ch) (liveBlocks k - (r.mat.k0b + r.ch * r.mat.tkb))

/-- Codes of block `b` of a reduction of `k` elements: those at or beyond K are zero (R42, R181). -/
def liveCodes (k b : Nat) (cs : List Nat) : List Nat := cs.zipIdx.map fun x => if 32 * b + x.2 < k then x.1 else 0

/-! ### Prescan (R72, R175 step 1, R181–R183) -/

/-- Forward rows of A over a halo route in the A-cycle they are read in (R188, R189). -/
def State.forward (s : State) (p : Nat) (m : Mat) (route index : Nat) (rows : List Row) (fl : Nat) : State :=
  if m.hmode = 1 ∨ m.hmode = 2 then s.sendFlit p ((s.nib p).route route) index s.acyc rows fl else s

/-- Open a tile's slots (R72, R182): CLEAR and the windows, ready for the placement of its first row. Rows beyond M have no
scales; their row maximum is 0 (log 181). -/
def Nib.openTile (n : Nib) (r : Visit) (cm : List (List Int)) (ra : List (Option Int)) : Nib :=
  let m := r.mat
  let sh := n.shape m.sreg
  let rows : List Int := (scanned ra).zipIdx.map fun x => if sh.m ≤ m.m0 + m.tm * r.y + x.2 then 0 else x.1
  (List.range (m.tm / 16)).foldl (fun n g => (List.range (m.tn / 16)).foldl (fun n c =>
    let slot := m.slot r.u g c
    let due := r.pstart + min 25 m.mode.latency
    let n := n.result due (.clear slot)
    n.result due (if sh.k = 0 then .window slot m.fa m.fb 0 (List.replicate 16 0) (List.replicate 16 0)
      else .window slot m.fa m.fb sh.nb ((rows.drop (16 * g)).take 16) (cm.getD c []))) n) n

/-- A prescan's next read (R175 step 1, R183): the tile's column maxima, then one scale row in an A-cycle, group by group of 16
rows. It takes its maxima over the live blocks (R181) and forwards each row it reads (R189). -/
def State.scanStep (s : State) (p : Nat) (r : Visit) (j : Nat) (cm : List (List Int)) (ra : List (Option Int)) :
    State × Option Act :=
  let m := r.mat
  let n := s.nib p
  let sh := n.shape m.sreg
  let nb := min m.kpb (liveBlocks sh.k)
  let per := cdiv m.kpb 2
  if j = 0 then
    let (cs, n) := n.padReads s.acyc (n.hrow m.cmh (m.tn / 16 * r.x)) (m.tn / 16)
    let cm := cs.map colMaxima
    if perTensor m.fa then
      (s.setNib p (n.openTile r cm (List.replicate m.tm (if nb = 0 then none else m.fa.scaleExp sh.ascale))), none)
    else (s.setNib p n, some (.scan (s.acyc + 1) r 1 cm (List.replicate m.tm none)))
  else
    let (_, hs) := n.aHandles m
    let g := (j - 1) / per
    let start := 16 * m.kpb * (m.tm / 16 * r.y + g)
    let ri := start / 32 + (j - 1) % per
    let (s, ra) :=
      if 32 * ri < start + 16 * nb ∧ m.m0 + m.tm * r.y + 16 * g < sh.m then
        let (row, n) := n.padRead s.acyc (n.hrow hs ri)
        ((s.setNib p n).forward p m (m.hroute + 1) ri [row] 0,
          ra.take (16 * g) ++ scanRow m.fa start nb ri row ((ra.drop (16 * g)).take 16) ++ ra.drop (16 * g + 16))
      else (s, ra)
    if j < m.tm / 16 * per then (s, some (.scan (s.acyc + 1) r (j + 1) cm ra))
    else (s.updNib p fun n => n.openTile r cm ra, none)

/-! ### Fronts and passes (R175 step 2) -/

/-- The fronts of a visit's block (R68, R167): every array's issues 38 A-cycles before the block's first vector, 35 before its
row is read (log 184). -/
def Nib.frontsStep (n : Nib) (now : Nat) (r : Visit) (blk : Nat) : Nib × Option Act :=
  let m := r.mat
  let k := r.blocks (n.shape m.sreg).k
  if k ≤ blk then (n, none)
  else
    let n := m.arrayCols.foldl (fun n a =>
      let set := (m.tn / 16 * r.x + a.2) * m.knb + (r.ch * m.tkb + blk)
      n.startFront now a.1 m.fb m.mode (n.hrow m.bh ((m.mode.setRows + 1) * set)) (now + 34)) n
    (n, if blk + 1 < k then some (.fronts (now + m.p) r (blk + 1)) else none)

/-- A pass's slots belong to their arrays (R70, R72). -/
def Nib.ownTile (n : Nib) (r : Visit) : Nib :=
  r.mat.arrayCols.foldl (fun n a => (List.range (r.mat.tm / 16)).foldl (fun n g =>
    n.updTag (r.mat.slot r.u g a.2) fun t => { t with owner := a.1 }) n) n

/-- One row of operand A, by its scale and element codes, goes through every array of the macro (R165, R172, R175 step 2);
elements of both operands at or beyond K are zero (R42, R181). -/
def Nib.streamRow (n : Nib) (x : Nat) (r : Visit) (b row sa : Nat) (cs : List Nat) (fl : Nat) : Nib :=
  let m := r.mat
  let k := (n.shape m.sreg).k
  m.arrayCols.foldl (fun n a =>
    match mget none n.arrays a.1 with
    | none => n
    | some ws => n.placed x a.1 m.mode (m.slot r.u (row / 16) a.2) (row % 16) false
        (rowPartials m.fa sa (liveCodes k b cs) { ws with cols := ws.cols.map (liveCodes k b) }) fl) n

/-- The scale byte a zero vector streams with: the format's smallest scale. -/
def Fmt.zeroScale (f : Fmt) : Nat := if f == .bf16 then 1 else 0

/-- The next read of a visit's passes (R153, R165, R175, R180, R181): row `row` of its block `blk`, in wide mode each half in its
own A-cycle; a row beyond M is a zero vector, which is neither read nor forwarded. -/
def State.streamStep (s : State) (p : Nat) (r : Visit) (blk row : Nat) (sc : Row) (half : List Row) : State × Option Act :=
  let m := r.mat
  let s := if row = 0 ∧ half.isEmpty then s.updNib p fun n => n.ownTile r else s
  let n := s.nib p
  let sh := n.shape m.sreg
  let k := r.blocks sh.k
  let b := m.k0b + r.ch * m.tkb + blk
  let x := if half.isEmpty then s.acyc else s.acyc - 1
  let next : Option Act :=
    if row + 1 < m.tm then some (.stream (x + m.mode.cycles) r blk (row + 1) sc [])
    else if blk + 1 < k then some (.stream (r.pstart + (blk + 1) * m.p) r (blk + 1) 0 0 [])
    else none
  if k ≤ blk then (s, none)
  else if sh.m ≤ m.m0 + m.tm * r.y + row then
    (s.setNib p (n.streamRow x r b row m.fa.zeroScale (List.replicate 32 0) 0), next)
  else
    let tr := m.tm * r.y + row
    let (h, hs) := n.aHandles m
    let rb := m.fa.blockRows
    let i := blockIdx rb m.knb tr (b - m.k0b) 0
    let (sc, n) := if half.isEmpty && row % 16 == 0 && !perTensor m.fa then
        n.padRead s.acyc (n.hrow hs (scaleIdx m.kpb tr b / 32)) else (sc, n)
    let (d, n) := n.padRead s.acyc (n.hrow h (i + half.length))
    let fl := n.padFlag (n.hrow h (i + half.length))
    let s := (s.setNib p n).forward p m m.hroute (i + half.length) [d] fl
    let half := half ++ [d]
    if half.length < rb then (s, some (.stream (s.acyc + 1) r blk row sc half))
    else
      let sa := if perTensor m.fa then sh.ascale else (rowByte sc (scaleIdx m.kpb tr b % 32)).toNat
      let s := s.updNib p fun n => n.streamRow x r b row sa (blockCodes m.fa half) (n.padFlags (n.hrow h i) rb)
      (s, match next with
        | some (.stream d r blk row' _ hf) => some (.stream d r blk row' sc hf)
        | a => a)

/-! ### Readout (R175 step 3, R192–R194) -/

/-- The split receiver's MATMUL that takes raw rows in a handle of a nib's slot (R192, R193). -/
def Nib.receiver (n : Nib) (slot handle : Nat) : Option Mat :=
  let n := { n with activeSlot := slot }
  (List.range n.slotD.length).findSome? fun k =>
    let w := n.slotAt k 0
    if slotOp w != 0x20 then none
    else (Nib.matmul { n with pc := k } w).bind fun m => if m.kmode = 2 ∧ m.kroute = handle then some m else none

/-- NSRC: the number of senders of the receiver (R192, R193): its own field, or what its RHANDLE's length gives where the
target's slot holds no such macro (log 45). -/
def State.nsrc (s : State) (p : Nat) (m : Mat) : Nat :=
  if m.kmode = 2 then m.src + 1
  else
    let r := (s.nib p).route m.kroute
    match s.bedOf p with
    | none => 1
    | some b => match s.physical b r.nib with
      | none => 1
      | some q => match (s.nib q).receiver r.slot r.handle with
        | some x => x.src + 1
        | none => max 1 (((s.nib q).handle r.slot r.handle).length / (18 * m.sr))

/-- A-cycles a route takes from router to router; 0 for a route that ends nowhere. -/
def State.routeTime (s : State) (p : Nat) (r : RouteEntry) : Nat :=
  match s.bedOf p with
  | none => 0
  | some b => match s.physical b r.nib with
    | none => 0
    | some q => meshTime p q

/-- The index in RHANDLE of slot row `q` of sender `src` (R192). -/
def rawIndex (sr nsrc src live q : Nat) : Nat := 9 * (q + sr * (src + nsrc * (live % 2)))

/-- Slot row `q` of a tile in readout order, row by row: its row and its column block. -/
def Mat.slotRow (m : Mat) (q : Nat) : Nat × Nat := (q / (m.tn / 16), q % (m.tn / 16))

/-- A split sender's next slot row (R192, R194): read at one in an A-cycle, it waits until the router's entry is free. -/
def State.rawOut (s : State) (p : Nat) (r : ReadRun) : State :=
  let m := r.mat
  let n := s.nib p
  let t := n.route m.kroute
  let x := max s.acyc n.rawFree
  let s := s.sendRaw p t x (m.base + r.u * m.s + r.q / 16) (r.q % 16) (rawIndex m.sr (s.nsrc p m) m.src r.live r.q)
  s.updNib p fun n => { n with
    rawFree := x + 5, rawLand := if t.async then n.rawLand else max n.rawLand (x + 10 + s.routeTime p t) }

/-- A tile's next slot row is read (R175 step 3, R183): a finished row goes to its epilogue 5 A-cycles after its last READ.
Rows beyond M are not written (R180). -/
def State.readStep (s : State) (p : Nat) (r : ReadRun) : State × Option Act :=
  let m := r.mat
  let n := s.nib p
  let (e, q) := n.matEpi m
  let next (r : ReadRun) : Option Act :=
    if r.q + 1 < m.sr then some (.readout (r.base + 25 + (if m.kmode = 1 then 1 else q) * (r.q + 1)) { r with q := r.q + 1 })
    else none
  if m.kmode = 1 then (s.rawOut p r, next r)
  else
    let (row, cb) := m.slotRow r.q
    let mm := m.tm * r.y + row
    let sh := n.shape m.sreg
    if sh.m ≤ m.m0 + mm then (s, next r)
    else
      let slot := m.slot r.u (row / 16) cb
      let t := n.tag slot
      let (vs, n) := n.accRead s.acyc 5 slot (row % 16)
      let vals := r.vals ++ vs.zipIdx.map fun v => accSrc (t.window (row % 16) v.2) v.1
      let fl := r.fl ||| t.flags (row % 16)
      if cb + 1 < m.tn / 16 then (s.setNib p n, next { r with vals := vals, fl := fl })
      else
        let due := r.base + 30 + m.tn / 16 * q * (row + 1)
        let out : OutRow := {
          plan := { ofmt := m.ofmt, ch := m.ch, csh := m.csh, np := m.np, epi := m.epi, edh := m.edh, sreg := m.sreg
                    m0 := m.m0, n0 := m.n0, held := false }
          m := mm, col := m.tn * r.x, live := sh.n - m.n0, vals := vals, fl := fl, land := due + e }
        (s.setNib p { n with acts := n.acts ++ [.outRow due out] }, next { r with vals := [], fl := 0 })

/-- A tile's next COMBINE of one sender (R193): every slot row is combined, one in an A-cycle, 3 A-cycles before its READ at the
latest; windows that differ fault the nib (R75). -/
def State.combStep (s : State) (p : Nat) (r : ReadRun) : State × Option Act :=
  let m := r.mat
  let n := s.nib p
  let (_, q) := n.matEpi m
  let (row, cb) := m.slotRow r.q
  let k := cb * (m.tm / 16) + row / 16
  let at_ := n.hrow m.kroute (rawIndex m.sr (m.src + 1) r.src r.live (16 * k + row % 16))
  let (rs, n) := n.padReads s.acyc at_ 9
  let (n, ok) := n.combineRaw s.acyc (m.base + r.u * m.s + k) (row % 16) rs (n.padFlags at_ 9)
  if !ok then ((s.setNib p n).nibFault p Status.windowMismatch.code 2, none)
  else (s.setNib p n, if r.q + 1 < m.sr then some (.comb (s.acyc + q) { r with q := r.q + 1 }) else none)

/-- A tile's readout, which counts its A-cycles from the end of the tile's visits: a split receiver's combines of every sender
first, each one A-cycle after the one before (R193). -/
def ReadRun.start (r : ReadRun) : List Act :=
  let n := r.mat.src + 1
  (if r.mat.kmode = 2 then (List.range n).map fun i => .comb (r.base + 23 - n + i) { r with src := i } else []) ++
  [.readout (r.base + 25) r]

/-! ### Sequencing (R174–R176, R183–R186) -/

/-- Skip visits of tiles that are not live from visit `v` ready in A-cycle `t` (R179, R185). -/
def skipDead (m : Mat) (sh : Shape) (order : List (Nat × Nat)) : Nat → Nat → Nat → Nat × Nat
  | 0, v, t => (v, t)
  | fuel + 1, v, t =>
    if m.tt * m.kc ≤ v ∨ m.live sh (order.getD (m.visit v).1 (0, 0)) then (v, t)
    else skipDead m sh order fuel (v + 1) (t + m.dur v)

/-- A tile's position among the live tiles (R192). -/
def MatRun.livePos (r : MatRun) (sh : Shape) (pos : Nat) : Nat := ((r.order.take pos).filter (r.mat.live sh)).length

/-- Whether tiles are read out once every visit is over: K-outermost order without gates (R183). -/
def Mat.late (m : Mat) : Bool := m.korder && !m.tg

/-- The readout of the tile at a position, from A-cycle `t` on. -/
def MatRun.readRun (r : MatRun) (sh : Shape) (pos t : Nat) : ReadRun :=
  let tile := r.order.getD pos (0, 0)
  { mat := r.mat, x := tile.1, y := tile.2, u := r.mat.buf pos, live := r.livePos sh pos, base := t }

/-- Go on to visit `v`, which starts in A-cycle `t`, or is ready in it where it is gated; after the last, the late readouts and
the macro's end (R183, R185, R186). -/
def Nib.nextVisit (n : Nib) (r : MatRun) (v t : Nat) : List Act :=
  let m := r.mat
  let sh := n.shape m.sreg
  let (e, q) := n.matEpi m
  let (v, t) := skipDead m sh r.order (m.tt * m.kc) v t
  if m.tt * m.kc ≤ v then
    (if m.late then (List.range m.tt).flatMap fun pos =>
        if m.live sh (r.order.getD pos (0, 0)) then (r.readRun sh pos (t + pos * m.sr * q)).start else []
      else []) ++
    -- the last readout's A-cycles and E, whose T is TT with KORDER 1 (R183, R186, R208)
    (let last := t + 30 + (if m.late then m.tt else 1) * m.sr + (q - 1) * m.sr * (if m.korder then m.tt else 1) + e
    [.mat last { r with ph := .drain, v := v, last := last }])
  else if m.gated then [.mat (t - 1) { r with ph := .gate, v := v, vstart := t }]
  else [.mat (t - m.f) { r with ph := .ready, v := v, vstart := t }]

/-- Whether a buffer's tile before still waits for its combine, or is read out beyond A-cycle `x`: only a gated split receiver's
can be (log 185). -/
def Nib.bufBusy (n : Nib) (m : Mat) (u x : Nat) : Bool :=
  let q := (n.matEpi m).2
  n.acts.any fun a => match a with
    | .combGate _ r _ => r.u == u
    | .readout _ r => r.u == u && decide (x < r.base + 25 + m.sr * q)
    | _ => false

/-- A visit begins: its tile is opened where it carries the first chunk, its fronts and passes follow, and after its last chunk
the tile's readout (R175); a gated split receiver's combine waits for the gate of that last visit (R193, log 180). -/
def Nib.startVisit (n : Nib) (now : Nat) (r : MatRun) : List Act :=
  let m := r.mat
  let sh := n.shape m.sreg
  let (pos, ch) := m.visit r.v
  let tile := r.order.getD pos (0, 0)
  let pstart := if m.gated then r.vstart + m.f else r.vstart
  let fin := r.vstart + m.dur r.v
  let x : Visit := { mat := m, v := r.v, x := tile.1, y := tile.2, u := m.buf pos, live := r.livePos sh pos, ch := ch
                     vstart := r.vstart, pstart := pstart }
  if ch = 0 ∧ m.kmode = 2 ∧ m.tg ∧ n.bufBusy m x.u (pstart + 24) then [.mat (now + 1) { r with vstart := r.vstart + 1 }]
  else
    (if ch = 0 then [.scan now x 0 [] []] else []) ++ [.fronts (pstart - 35) x 0, .stream pstart x 0 0 0 []] ++
    (if ch + 1 = m.kc ∧ !m.late then
      if m.kmode = 2 ∧ m.tg then [.combGate fin (r.readRun sh pos fin) (m.gtally + r.v % m.gspan)]
      else (r.readRun sh pos fin).start
    else []) ++
    n.nextVisit r (r.v + 1) fin

/-- Whether the raw rows a nib has sent over an asynchronous route have landed: none is on the mesh or waits for its grant
(R80, R159). -/
def State.rawsOver (s : State) (p : Nat) (r : RouteEntry) : Bool :=
  !(s.mesh.any fun x => x.1 == .nib p && x.2.slot == r.slot && x.2.handle == some r.handle) &&
  !(s.nibs.any fun x => x.2.abuf.any fun y => y.sent == some (p, r.handle))

/-- Whether a MATMUL's last row has landed (R159): its output rows, its raw rows sent, its combines. -/
def State.matOver (s : State) (p : Nat) (r : MatRun) : Bool :=
  let n := s.nib p
  decide (r.last ≤ s.acyc) && decide (n.rawLand ≤ s.acyc) &&
  !(n.acts.any fun a => match a with
    | .readout .. => true | .comb .. => true | .combGate .. => true | .outRow .. => true | _ => false) &&
  !(n.wq.any fun w => !w.flit && decide (s.acyc < w.due)) &&
  (r.mat.kmode != 1 || !(n.route r.mat.kroute).async || s.rawsOver p (n.route r.mat.kroute))

/-- A tally's gate is pending (R106). -/
def Nib.gateWaits (n : Nib) (t : Nat) : Nib := n.updTally t fun x => { x with waiting := true }

/-- A MATMUL's sequencing goes on in its due A-cycle. -/
def State.matStep (s : State) (p : Nat) (r : MatRun) : State × Option Act :=
  let m := r.mat
  let n := s.nib p
  let sh := n.shape m.sreg
  let put (s : State) (as : List Act) : State × Option Act := (s.updNib p fun n => { n with acts := n.acts ++ as }, none)
  match r.ph with
  | .gather =>
    let sts := (n.descriptor m.pdh).2
    let st := sts.headD (stageOf 0)
    let e := sh.m * (m.fa.blockRows * m.kpb + cdiv m.kpb 32)
    if n.met (st.imm0 % 64) e then
      (s.setNib p (n.consume (st.imm0 % 64) e),
        some (.mat (s.acyc + proRowAt m sts 0) { r with ph := .pro, vstart := s.acyc }))
    else (s, some (.mat (s.acyc + 1) r))
  | .pro =>
    let sts := (n.descriptor m.pdh).2
    let n := if m.m0 + r.row < sh.m then n.proRow s.acyc m r.row else n
    if r.row + 1 < m.mp then
      (s.setNib p n, some (.mat (r.vstart + proRowAt m sts (r.row + 1)) { r with row := r.row + 1 }))
    else put (s.setNib p n) (n.nextVisit r 0 (s.acyc + m.f))
  | .gate => (s.updNib p fun n => n.gateWaits (m.gtally + r.v % m.gspan), some (.mat (s.acyc + 1) r))
  | .ready => put s (n.startVisit s.acyc r)
  | .drain =>
    if s.matOver p r then (s.updNib p fun n => { n with stopAt := none }, none) else (s, some (.mat (s.acyc + 1) r))

/-- Whether a nib's phase is elastic: a macro then holds the bundle after its last word until it completes (R159). -/
def Nib.macroStop (n : Nib) (ext : Nat) : Option Nat := if n.inElastic then some (n.pc + ext) else none

/-- A macro whose epilogue `h` ends in a KVQ writes records in this phase (R205, R268, R269). -/
def Nib.noteKvq (n : Nib) (epi : Bool) (h : Nat) : Nib :=
  match (if epi then (n.descriptor h).2.getLast? else none) with
  | some st => if st.op = 9 then { n with phase := { n.phase with kvq := st.h1 :: n.phase.kvq } } else n
  | none => n

/-- The mover GATHERs of a prologue's first stage (R214, R215). -/
def Nib.gatherActs (n : Nib) (now : Nat) (m : Mat) (hdr : Nat) (st : FuseStage) : List Act :=
  let total := m.fa.blockRows * m.kpb
  let ps := cdiv total 64
  let first := bitsAt hdr 15 6
  let one (src dst group : Nat) : Act := .gather now {
    src := src, dst := dst, list := st.param % 64, tally := st.imm0 % 64, group := group, count := (n.shape m.sreg).m
    index := 0 } 0 0 none
  if (n.shape m.sreg).m = 0 then []
  else (List.range ps).map (fun j => one (st.h1 + j) (first + j) (min 64 (total - 64 * j))) ++
    [one st.h2 (first + ps) (cdiv m.kpb 32)]

/-- MATMUL (R156–R159, R170, R175): the sequencer reads every word and starts its walk. -/
def execMatmul (p : Nat) (s : State) : Out1 :=
  .next (s.issue p 0 (byOp 0x20) fun w s => s.updNib p fun n =>
    match n.matmul w with
    | none => n
    | some m =>
      let r : MatRun := { mat := m, order := tileOrder m.tr m.tc }
      -- the descriptors and routes its words name are read with them (R83, R84, R152)
      let n := (if m.pro then n.descRead s.acyc m.pdh 4 else n)
      let n := (if m.epi && m.kmode != 1 then n.descRead s.acyc m.edh 4 else n)
      let n := if m.kmode = 1 then n.routeRead s.acyc m.kroute else n
      let n := if m.hmode = 1 ∨ m.hmode = 2 then (n.routeRead s.acyc m.hroute).routeRead s.acyc (m.hroute + 1) else n
      let (hdr, sts) := if m.pro then n.descriptor m.pdh else (0, [])
      let gathers := match sts.head? with | some st => if st.op = 12 then some st else none | none => none
      let as : List Act := match gathers with
        | some st => n.gatherActs s.acyc m hdr st ++ [.mat (s.acyc + 1) { r with ph := .gather }]
        | none =>
          if m.pro then [.mat (s.acyc + proRowAt m sts 0) { r with ph := .pro, vstart := s.acyc }]
          else n.nextVisit r 0 (if m.gated then s.acyc + 1 else s.acyc + m.f)
      { n.noteKvq (m.epi && m.kmode != 1) m.edh with stopAt := n.macroStop 4, rawLand := 0, acts := n.acts ++ as })

/-! ### FINISH (R195, R220) -/

/-- The first stage of a FINISH where it is a ROWSCALE. -/
def finScale (sts : List FuseStage) : Option FuseStage :=
  match sts with
  | st :: _ => if st.op = 10 then some st else none
  | [] => none

/-- The next held row of a FINISH: read through its epilogue, landing as R195's occupancy has it. A disabled one is a
shadow. Its ROWSCALE reads its statistics from STHANDLE (log 183). Without a ROWSCALE no rule gives the held rows' format: they are FP32
(DESIGN CHOICE, log 214). -/
def State.finStep (s : State) (p : Nat) (f : Fin) (x row last : Nat) : State × Option Act :=
  let n := s.nib p
  if f.mp ≤ row then
    if last ≤ s.acyc then (s.updNib p fun n => { n with stopAt := none }, none) else (s, some (.fin last f x row last))
  else
    let (hdr, sts) := if f.epi then n.descriptor f.edh else (0, [])
    let (e, q) := epiLatency f.ofmt f.epi hdr sts
    let landOf (i : Nat) : Nat := x + 12 + e + cdiv ((i + 1) * f.np * q) 64
    let sh := n.shape f.sreg
    let fits := match finScale sts with | some st => n.slotD.holdOn.contains st.param | none => true
    let n := if decide (row < sh.m) && fits then
        let code := match finScale sts with | some st => if bitAt st.sub 1 then 0xA else 0xE | none => 0xE
        let nb := cdiv f.np 32
        let rows := (List.range nb).flatMap fun b => n.blockAt (ofRows code) f.hh nb row b
        let fl := rows.foldl (fun a r => a ||| n.padFlag r) 0
        let vals := (List.range nb).flatMap fun b => n.blockVals code f.hh 0 nb row b
        (n.touch s.acyc rows).writeRow s.acyc {
          plan := { ofmt := f.ofmt, ch := f.ch, csh := f.csh, np := f.np, epi := f.epi, edh := f.edh, sreg := f.sreg, m0 := 0
                    n0 := 0, held := true, sth := f.sth }
          m := row, col := 0, live := sh.n, vals := (vals.take f.np).map fSrc, fl := fl, land := landOf row }
      else n
    (s.setNib p n, some (.fin (if row + 1 < f.mp then landOf (row + 1) - e else last) f x (row + 1) last))

/-- FINISH (R195). -/
def execMacFinish (p : Nat) (s : State) : Out1 :=
  .next (s.issue p 0 (byOp 0x21) fun w s => s.updNib p fun n =>
    let f := finOf w
    let (hdr, sts) := if f.epi then n.descriptor f.edh else (0, [])
    let (e, q) := epiLatency f.ofmt f.epi hdr sts
    let last := s.acyc + cdiv (f.mp * f.np) 64 * q + 12 + e
    { (if f.epi then n.descRead s.acyc f.edh 4 else n).noteKvq f.epi f.edh with stopAt := n.macroStop 0, acts := n.acts ++ [.fin (s.acyc + 12 + cdiv (f.np * q) 64) f s.acyc 0 last] })

/-! ### Gates (R185, R193, R197) -/

/-- Replace the first piece of work that satisfies `f`. -/
def replaceAct (f : Act → Option (List Act)) : List Act → List Act
  | [] => []
  | a :: r => match f a with | some b => b ++ r | none => a :: replaceAct f r

/-- The gate a piece of work stands at: its tally, its expected count, and the A-cycle it is ready in. -/
def Nib.gateAt (n : Nib) : Act → Option (Nat × Nat × Nat)
  | .mat _ r => if r.ph = .gate then some (r.mat.gtally + r.v % r.mat.gspan, r.mat.gcount, r.vstart) else none
  | .combGate _ r t => some (t, r.mat.gcount, r.base)
  | .attend due a v started =>
    let e := tileEnt (bitsAt (n.peek (n.hrow a.lh (v / 2))).toNat (128 * (v % 2)) 128)
    if !started ∧ a.tg ∧ e.gcount ≠ 0 ∧ v < (n.shape a.sreg).aux0 then some (a.gtally + v % a.gspan, e.gcount, due) else none
  | _ => none

/-- What a gate's work becomes when the gate opens in A-cycle `c`: it starts in max(rv, c + 1) (R185). -/
def Act.opened (c : Nat) : Act → List Act
  | .mat _ r => [.mat (max r.vstart (c + 1)) { r with ph := .ready, vstart := max r.vstart (c + 1) }]
  | .combGate _ r _ => ({ r with base := max r.base (c + 1) } : ReadRun).start
  | .attend due a v _ => [.attend (max due (c + 1)) a v true]
  | a => [a]

/-- The gate a nib's macro stands at. -/
def Nib.gateOf (n : Nib) : Option (Nat × Nat × Nat) := n.acts.findSome? n.gateAt

/-- The gate of a visit, a combine or a tile-list entry has opened in A-cycle `c`. -/
def Nib.openGate (n : Nib) (c : Nat) : Nib :=
  { n with acts := replaceAct (fun a => if (n.gateAt a).isSome then some (a.opened c) else none) n.acts }

/-- GATED_VISIT_START (R185, R193, R197): from A-cycle rv − 1 on, the gate tally's COUNT is met and consumed. -/
def execGatedVisitStart (p : Nat) (s : State) : Out1 :=
  .next (let n := s.nib p
    match n.gateOf with
    | none => s
    | some (t, e, rv) =>
      if s.runs ∧ n.st = .running ∧ rv ≤ s.acyc + 1 ∧ n.met t e then
        s.updNib p fun n => (((n.openGate s.acyc).consume t e).updTally t fun x => { x with waiting := false })
      else s)

end Sys2Proof.Machine
end

