-- ==== Sys2Proof/Machine/Attention.lean ====
section
/-!
DEFINITION. ATTEND and the operations of its tile list (R196–R198, R226–R247): scores, references, probabilities, the long
accumulators, merges, raw sends and the final normalisation.
-/
namespace Sys2Proof.Machine

/-! ### Entries -/

/-- Entry `v` of a nib's tile list (R197). -/
def Nib.entryAt (n : Nib) (a : Att) (v : Nat) : TileEnt :=
  tileEnt (bitsAt (n.peek (n.hrow a.lh (v / 2))).toNat (128 * (v % 2)) 128)

/-- The attention descriptor of an ATTEND (R226). -/
def Nib.attDescOf (n : Nib) (a : Att) : AttDesc := attDesc (n.descBits a.adh 2)

/-- Rows QR of an entry's partial (R237). -/
def TileEnt.qr (e : TileEnt) : Nat := 16 * 2 ^ e.tm

/-- Slot of N for row group `q` and column block `c` (R237). -/
def nSlot (d slot qr q c : Nat) : Nat := slot + qr + q * (d / 16) + c

/-- Slot of ℓ for row group `q` (R237). -/
def lSlot (d slot qr q : Nat) : Nat := slot + qr + (d / 16) * (qr / 16) + q

/-- Slots of a partial (R237). -/
def partialSlots (d qr : Nat) : Nat := qr / 16 * (17 + d / 16)

/-- Raw slot rows of a partial: each of its slots has 16 (R245). -/
def rawCount (d qr : Nat) : Nat := 16 * partialSlots d qr

/-- Score slot of reference tile `j` of a sequence for row group `q` and column block `c`: the two sets of eight alternate
(R237). -/
def scoreSlot (slot q j c : Nat) : Nat := slot + 16 * q + 8 * (j % 2) + c

/-- Key of a partial's row in the table of references. -/
def prowKey (slot row : Nat) : Nat := 512 * slot + row

/-- Scratchpad rows of a key set and of a value set (R229, R230). -/
def keySetRows (kv4 : Bool) : Nat := if kv4 then 9 else 17
/-- Rows of a value set (R230). -/
def valSetRows (kv4 : Bool) : Nat := if kv4 then 17 else 33

/-- What entry `e` of an ATTEND names outside its slots or its handles (R198). -/
def Nib.entryBad (n : Nib) (a : Att) (ad : AttDesc) (e : TileEnt) : Bool :=
  let need := partialSlots ad.d e.qr
  let out (s : Nat) : Bool := decide (s < a.base) || decide (a.base + a.slots < s + need)
  let lastTok := (e.q0 + e.qrows - 1) / ad.g
  let top := (e.head * ad.g + ad.g) * ad.d / 32 - 1
  out e.slot || match e.op with
    | 0 =>
      decide (n.hlen ad.qsh ≤ scaleIdx (ad.npo / 32) lastTok top / 32) ||
      decide (n.hlen ad.kh < keySetRows ad.kv4 * (ad.d / 32) * cdiv e.klen 16) ||
      decide (n.hlen ad.vh < valSetRows ad.kv4 * (ad.d / 32) * cdiv e.klen 32) ||
      decide (n.hlen ad.rih ≤ lastTok / 4) ||
      decide (n.hlen ad.qh ≤ blockIdx 1 (ad.npo / 32) lastTok top 0)
    | 1 => out (e.k0 % 64)
    | 2 => decide (n.hlen ad.rh < 9 * rawCount ad.d e.qr * (e.k0 % 4096 + 1))
    | 4 =>
      -- a KVQ epilogue writes nothing to OHANDLE (R206)
      let kvq := ad.epi && ((n.descriptor ad.edh).2.getLast?.any fun st => st.op == 9)
      decide (n.hlen ad.rih ≤ lastTok / 4) ||
      (!kvq && decide (n.hlen ad.oh ≤ blockIdx (ofRows ad.ofmt) (cdiv ad.npo 32) lastTok top (ofRows ad.ofmt - 1))) ||
      (!kvq && ad.ofmt != 0xE && decide (n.hlen ad.osh ≤ scaleIdx (cdiv ad.npo 32) lastTok top / 32))
    | _ => false

/-- The entry a nib's ATTEND stands at, where it has operation `op`, is due and its gate has opened (R197). -/
def State.entry (s : State) (p op : Nat) : Option (Att × Nat × TileEnt) :=
  let n := s.nib p
  if !s.runs || n.st != .running then none
  else n.acts.findSome? fun x => match x with
    | .attend due a v started =>
      let e := n.entryAt a v
      if due ≤ s.acyc ∧ v < (n.shape a.sreg).aux0 ∧ e.op = op ∧ (started ∨ ¬ a.tg ∨ e.gcount = 0) then some (a, v, e) else none
    | _ => none

/-- An entry is done: the walk goes on to the next, whose rows land by A-cycle `due`. -/
def State.nextEntry (s : State) (p due : Nat) : State :=
  let go (x : Act) : Option (List Act) := match x with
    | .attend _ a v _ => some [.attend due a (v + 1) false]
    | _ => none
  s.updNib p fun n => { n with acts := replaceAct go n.acts }

/-- What reading the entry the walk stands at, and the descriptors it needs, leaves in the nib (R83, R84). -/
def Nib.entryRead (n : Nib) (now : Nat) (a : Att) : Nib :=
  let v := (n.acts.findSome? fun x => match x with | .attend _ _ v _ => some v | _ => none).getD 0
  n.touch now (n.hrow a.lh (v / 2) :: (List.range 2).map fun i => n.hrow a.adh i)

/-- Run an entry of operation `op`: checked again as it is reached (R198), then `f`. -/
def State.runEntry (s : State) (p op : Nat) (lat : Nat) (f : Att → AttDesc → TileEnt → State → State) : State :=
  match s.entry p op with
  | none => s
  | some (a, _, e) =>
    let n := s.nib p
    let ad := n.attDescOf a
    if n.entryBad a ad e then s.bedFaultAt p Status.indexRange.code 9 { handle := a.lh }
    else (f a ad e (s.updNib p fun n => n.entryRead s.acyc a)).nextEntry p (s.acyc + lat)

/-! ### Visibility (R234, R240) -/

/-- A row of the step: POS, LO, PFX and PAD (R228). -/
structure RowInfo where
  pos : Nat
  lo : Nat
  pfx : Nat
  pad : Bool
deriving DecidableEq, Repr

/-- Decode a row information word (R228). -/
def rowInfoOf (w : Nat) : RowInfo := { pos := bitsAt w 0 20, lo := bitsAt w 20 20, pfx := bitsAt w 40 20, pad := bitAt w 60 }

/-- Whether a mask kind admits key `k` (R234). -/
def maskOk (mask win : Nat) (ri : RowInfo) (k : Nat) : Bool :=
  match mask with
  | 0 => true
  | 1 => decide (k ≤ ri.pos)
  | 2 => decide (ri.pos < k + win) && decide (k ≤ ri.pos)
  | _ => decide (k ≤ ri.pos) || (decide (k < ri.pfx) && decide (ri.pos < ri.pfx))

/-- Whether key `k` is visible to a row (R234). -/
def visible (mask win : Nat) (seg : Bool) (ri : RowInfo) (k : Nat) : Bool :=
  !ri.pad && (!seg || decide (ri.lo ≤ k)) && maskOk mask win ri k

/-- Keys visible to a row of a sequence of `total` keys over its whole key range (R240). -/
def visibleCount (mask win : Nat) (seg : Bool) (ri : RowInfo) (total : Nat) : Nat :=
  let hi := match mask with
    | 0 => total
    | 1 => ri.pos + 1
    | 2 => ri.pos + 1
    | _ => if ri.pos < ri.pfx then max (ri.pos + 1) ri.pfx else ri.pos + 1
  let lo := max (if mask = 2 then ri.pos + 1 - win else 0) (if seg then ri.lo else 0)
  if ri.pad then 0 else hi - lo

/-- The sequence that holds token row `m` of the bed's step. -/
def State.seqOf (s : State) (p m : Nat) : Option (Nat × Seq) :=
  (s.bedOf p).bind fun b => (s.bed b).step.bind fun t =>
    (t.seqs.find? fun q => decide (q.row0 ≤ m) && decide (m < q.row0 + q.new)).map fun q => (b, q)

/-- Keys visible to token row `m` over its whole key range (R240): at most those of 76 pages where retrieval applies (R258,
R260). -/
def State.keysSeen (s : State) (p m mask win : Nat) (seg : Bool) (ri : RowInfo) : Nat :=
  match s.seqOf p m with
  | none => visibleCount mask win seg ri 0
  | some (b, q) =>
    let c := visibleCount mask win seg ri (q.pos0 + q.new)
    if q.retr && decide (s.retrievalLen b < c) then min c (76 * 256) else c

/-! ### Scores (R229, R238) -/

/-- A query row: its codes and scale bytes, by 32-dimension block, and its flags. -/
structure Query where
  blocks : List (Nat × List Nat)
  fl : Nat
deriving DecidableEq, Repr

/-- The query of head `h` in token row `m` (R227). -/
def Nib.query (n : Nib) (ad : AttDesc) (f : Fmt) (m h : Nat) : Query :=
  let nb := ad.npo / 32
  let bs := (List.range (ad.d / 32)).map (h * ad.d / 32 + ·)
  { blocks := bs.map fun b =>
      (n.scaleByte ad.qsh (scaleIdx nb m b), blockCodes f ((n.blockAt 1 ad.qh nb m b).map n.peek))
    fl := bs.foldl (fun a b => (n.blockAt 1 ad.qh nb m b).foldl (fun a r => a ||| n.padFlag r) a) 0 }

/-- Key `i` of an entry, counted from K0: scale byte and codes of each 32-dimension block (R229, R265). -/
def Nib.keyCol (n : Nib) (ad : AttDesc) (i : Nat) : List (Nat × List Nat) :=
  let k := keySetRows ad.kv4
  (List.range (ad.d / 32)).map fun b =>
    let at_ := k * (ad.d / 32 * (i / 16) + b)
    let rows := (List.range (k - 1)).map fun j => n.peek (n.hrow ad.kh (at_ + 1 + j))
    ((rowByte (n.peek (n.hrow ad.kh at_)) (i % 16)).toNat,
      (List.range 32).map fun e => setElem (if ad.kv4 then .int4 else .mxE4M3) (if ad.kv4 then .dense else .narrow) rows (i % 16) e)

/-- The exponent of a row or of a key over the head dimension (R45): its largest block scale exponent. -/
def headExp (f : Fmt) (bs : List (Nat × List Nat)) : Int := maxExp (bs.map fun b => f.scaleExp b.1)

/-- A score's window (R45, R240), with h = 0. -/
def scoreWindow (qf kf : Fmt) (q k : List (Nat × List Nat)) : Int := headExp qf q + headExp kf k + qf.boundB + kf.boundB + 5

/-- A score in its slot: its element, INEXACT and SATURATED (R238). -/
def scoreAcc (qf kf : Fmt) (q k : List (Nat × List Nat)) : Acc × Bool × Bool :=
  (q.zip k).foldl (fun (x : Acc × Bool × Bool) b =>
    let (a, i, st) := placeInto false x.1 (blockPartial qf kf b.1.1 b.2.1 b.1.2 b.2.2) (scoreWindow qf kf q k)
    (a, x.2.1 || i, x.2.2 || st)) (0, false, false)

/-- A score read out: its FP32 value scaled and clamped, INEXACT and SATURATED (R238). -/
def score (qf kf : Fmt) (scale : Lane) (q k : List (Nat × List Nat)) : Lane × Nat :=
  let (acc, ix, sat) := scoreAcc qf kf q k
  let (c, cs) := convert .fp32 (accSrc (scoreWindow qf kf q k) acc)
  let t := fmul (BitVec.ofNat 32 c) scale
  let hi := fOfNat 256
  let t' := if flt hi t then hi else if flt t (fneg hi) then fneg hi else t
  (t', b2n ix + 2 * b2n (sat || cs || t' != t))

/-! ### Value sets (R230, R231) -/

/-- Value set (32-key block `kb`, group `q`): its scale row and its weight rows. -/
def Nib.valSet (n : Nib) (ad : AttDesc) (kb q : Nat) : Row × List Row :=
  let k := valSetRows ad.kv4
  let at_ := k * (ad.d / 32 * kb + q)
  (n.peek (n.hrow ad.vh at_), (List.range (k - 1)).map fun j => n.peek (n.hrow ad.vh (at_ + 1 + j)))

/-- The code of key `k` and dimension `qq` in a value set's weight rows (R265). -/
def valElem (kv4 : Bool) (rows : List Row) (k qq : Nat) : Nat :=
  if kv4 then
    (rowByte (rows.getD (8 * (qq / 16) + k % 16 / 2) 0) (16 * (k % 2) + qq % 16)).toNat / 16 ^ (k / 16) % 16
  else (rowByte (rows.getD (16 * (qq / 16) + k % 16) 0) (2 * (qq % 16) + k / 16)).toNat

/-- The format of values. -/
def kvFmt (kv4 : Bool) : Fmt := if kv4 then .int4 else .mxE4M3

/-- e_k of a scale byte; none where it is NaN (R231). -/
def valExp (kv4 : Bool) (b : Nat) : Option Int := (kvFmt kv4).scaleExp b

/-- The block partial of 32 quantised probabilities with one dimension of a value set (R231, R235, R242): `vis` are the
keys that count, `pc` the probability codes, `px` the P operand's scale exponent; none where it is NaN. -/
def valPartial (kv4 : Bool) (vis : List Bool) (pc : List Nat) (px : Option Int) (sc : List Nat) (vc : List Nat) : Partial :=
  let f := kvFmt kv4
  let g : Int := if kv4 then -25 else -24
  let top := maxExp (sc.map (valExp kv4))
  let keys := (vis.zip (pc.zip (sc.zip vc))).filter (·.1)
  match px with
  | none => ⟨.nan, g, false, false⟩
  | some px =>
    if keys.any fun k => (valExp kv4 k.2.2.1).isNone then ⟨.nan, g, false, false⟩
    else
      let ts := keys.map fun k =>
        let v : EVal := match f.scale k.2.2.1, f.elem k.2.2.2 with
          | .fin sig e, .fin x => .fin ⟨x.m * sig, x.e + (e - top)⟩
          | _, x => x
        (Fmt.elem .mxE4M3 k.2.1, v)
      let (st, r) := sumTerms g ts
      ⟨st, g + px + top, r, st == .pos || st == .neg⟩

/-! ### SPAN (R237–R244) -/

/-- Clear the slots of a partial and forget its rows' references (R237, R239). -/
def Nib.openPartial (n : Nib) (d slot qr : Nat) : Nib :=
  let n := (List.range (partialSlots d qr)).foldl (fun n i => n.accClear (slot + i)) n
  { n with prow := mfilter (fun k _ => k / 512 != slot) n.prow }

/-- Set or raise the windows of a partial's row to `r` (with h) and ceilings `v` (R240). -/
def Nib.raiseRow (n : Nib) (now : Nat) (kv4 : Bool) (d slot qr row : Nat) (r : Int) (v : List Int) : Nib :=
  let q := row / 16
  let old := mget none n.prow (prowKey slot row)
  let set (n : Nib) (sl : Nat) (e : Int) (w : Nat) : Nib :=
    match old with
    | none => n.updTag sl fun t => { t with rowExp := mset 0 t.rowExp (row % 16) e, colExp := [], wconst := w }
    | some _ =>
      -- R240: attention itself never raises a window beyond 511
      let (n, ok) := n.accShift now sl (row % 16) (e - mget 0 (n.tag sl).rowExp (row % 16)).toNat
      if ok then n else { n with acts := n.acts ++ [.fault now Status.saturatedWindow.code 2 {}] }
  let n := (List.range (d / 16)).foldl (fun n c =>
    set n (nSlot d slot qr q c) (r - 8 + v.getD (c / 2) 0) (if kv4 then 22 else 23)) n
  let n := set n (lSlot d slot qr q) (r - 8) 23
  { n with prow := mset none n.prow (prowKey slot row) (some { r := r, v := v }) }

/-- OR flags into a partial's row: its ℓ slot carries them (R53). -/
def Nib.rowFlag (n : Nib) (d slot qr row fl : Nat) : Nib :=
  n.updTag (lSlot d slot qr (row / 16)) fun t => t.orFlags (row % 16) fl

/-- Add one block partial to an element of a slot row by placement (R49). -/
def Nib.placeAt (n : Nib) (now sl r : Nat) (cols : List (Nat × Partial)) : Nib :=
  let (old, n) := n.accRead now 1 sl r
  let t := n.tag sl
  let res := cols.map fun c => (c.1, placeInto false (old.getD c.1 0) c.2 (t.window r c.1))
  let new := res.foldl (fun (l : List Acc) x => l.set x.1 x.2.1) old
  let f := res.foldl (fun f x => f ||| (b2n x.2.2.1 + 2 * b2n x.2.2.2)) 0
  (n.accWrite sl r new).updTag sl fun t => t.orFlags r f

/-- The scores of one reference tile of a grouped row in its score slots (R237, R238, R240): keys `lo` to `hi − 1`, counted from
K0. A row group's first row opens them. -/
def Nib.scoreTile (n : Nib) (ad : AttDesc) (e : TileEnt) (own : List Nat) (q : Query) (row lo hi : Nat) : Nib :=
  let qf := (Fmt.ofCode ad.qfmt).getD .mxE4M3
  let kf := kvFmt ad.kv4
  (List.range (cdiv (hi - lo) 16)).foldl (fun n c =>
    let slot := scoreSlot e.slot (row / 16) ((e.k0 + lo) / 128) c
    let ks := ((List.range 16).map fun i => lo + 16 * c + i).filter fun i => i < hi
    let cols := ks.map (n.keyCol ad)
    let vs := cols.map (scoreAcc qf kf q.blocks)
    let n := if row % 16 = 0 then n.accClear slot else n
    let n := n.accWrite slot (row % 16) ((vs.map (·.1)) ++ List.replicate (16 - vs.length) 0)
    n.updTag slot fun t => ({ t with
      rowExp := mset 0 t.rowExp (row % 16) (headExp qf q.blocks)
      colExp := msetRange 0 t.colExp 0 (cols.map (headExp kf))
      wconst := (qf.boundB + kf.boundB + 5).toNat, owner := own.getD (c % max 1 own.length) 0 } : Tag).orFlags (row % 16)
        (b2n (vs.any fun v => v.2.1) + 2 * b2n (vs.any fun v => v.2.2))) n

/-- The scratchpad rows a reference tile of a SPAN entry reads (R227–R230): row information, queries and their scales, the key
sets and the value sets of keys `lo` to `hi − 1`. -/
def Nib.tileReads (n : Nib) (ad : AttDesc) (e : TileEnt) (lo hi : Nat) : List Nat :=
  let nb := ad.npo / 32
  let gs := ad.d / 32
  let toks := ((List.range e.qrows).map fun i => (e.q0 + i) / ad.g).eraseDups
  let qs := (List.range e.qrows).flatMap fun i =>
    let rho := e.q0 + i
    (List.range gs).flatMap fun b =>
      let k := (e.head * ad.g + rho % ad.g) * ad.d / 32 + b
      [n.hrow ad.qsh (scaleIdx nb (rho / ad.g) k / 32), n.hrow ad.qh (blockIdx 1 nb (rho / ad.g) k 0)]
  let sets (h size first count : Nat) : List Nat :=
    (List.range (size * (gs * count))).map fun i => n.hrow h (size * (gs * first) + i)
  (toks.map fun m => n.hrow ad.rih (m / 4)).eraseDups ++ qs.eraseDups ++
    sets ad.kh (keySetRows ad.kv4) (lo / 16) (cdiv (hi - lo) 16) ++ sets ad.vh (valSetRows ad.kv4) (lo / 32) (cdiv (hi - lo) 32)

/-- One reference tile of one grouped row (R239–R242): keys `lo` to `hi − 1`, counted from K0. -/
def Nib.spanTile (n : Nib) (now : Nat) (ad : AttDesc) (e : TileEnt) (ri : RowInfo) (q : Query) (h row lo hi : Nat) : Nib :=
  let qf := (Fmt.ofCode ad.qfmt).getD .mxE4M3
  let vis (i : Nat) : Bool := decide (i < e.klen) && visible e.mask ad.win e.seg ri (e.k0 + i)
  let keys := (List.range (hi - lo)).map (lo + ·)
  let seen := keys.filter vis
  if seen.isEmpty then n
  else
    let qr := e.qr
    let ts : List (Nat × Lane × Nat) := seen.map fun i =>
      let (t, f) := score qf (kvFmt ad.kv4) ad.scale q.blocks (n.keyCol ad i)
      (i, t, f)
    let fl := ts.foldl (fun a t => a ||| t.2.2) q.fl
    let ceils := ts.filterMap fun t => match FVal.ofBits t.2.1 with | .fin _ x => some x.ceil | _ => none
    let old := mget none n.prow (prowKey e.slot row)
    -- a row whose every score is NaN has no ceiling: its reference is open (log 48)
    let c : Int := match ceils with
      | [] => (match old with | some o => o.r - h | none => (Config.freeValue 8 row).toInt)
      | x :: xs => xs.foldl max x
    let r := match old with | some o => max o.r (c + h) | none => c + h
    let groups := List.range (ad.d / 32)
    let v := groups.map fun g =>
      let es := seen.filterMap fun i => valExp ad.kv4 (rowByte (n.valSet ad (i / 32) g).1 (i % 32)).toNat
      let m := match es with | [] => none | x :: xs => some (xs.foldl max x)
      match old, m with
      | some o, some m => max (o.v.getD g 0) m
      | some o, none => o.v.getD g 0
      | none, some m => m
      | none, none => 0
    let n := (n.raiseRow now ad.kv4 ad.d e.slot qr row r v).rowFlag ad.d e.slot qr row fl
    let rl := BitVec.ofNat 32 (convert .fp32 (.fin ⟨r - h, 0⟩)).1
    (List.range (cdiv (hi - lo) 32)).foldl (fun n j =>
      let kb := lo / 32 + j
      let ks := (List.range 32).map (32 * kb + ·)
      let on := ks.map fun i => vis i
      if !on.any id then n
      else
        let ps : List Lane := ks.map fun i => match ts.find? fun t => t.1 == i with
          | some t => fexp2 (fsub t.2.1 rl)
          | none => fZero false
        let qb := quantMX .mxE4M3 (ps.map fSrc)
        let px : Option Int := if qb.scale = 255 then none else some ((qb.scale : Int) - 127 + (r - h))
        let n := groups.foldl (fun n g =>
          let (sr, rows) := n.valSet ad kb g
          let sc := (List.range 32).map fun k => (rowByte sr k).toNat
          (List.range 2).foldl (fun n half =>
            n.placeAt now (nSlot ad.d e.slot qr (row / 16) (2 * g + half)) (row % 16)
              ((List.range 16).map fun c =>
                (c, valPartial ad.kv4 on qb.elems px sc ((List.range 32).map fun k => valElem ad.kv4 rows k (16 * half + c))))) n) n
        -- ℓ: the sum of the quantised probabilities against ones of scale 2^0
        let one := blockPartial .mxE4M3 .mxE4M3 (if qb.scale = 255 then 255 else 127) 127 qb.elems (List.replicate 32 0x38)
        let one := { one with e := one.e + px.getD 0 }
        n.placeAt now (lSlot ad.d e.slot qr (row / 16)) (row % 16) [(0, one)]) n

/-- Reference tile `j` of an entry for its grouped row `i`. -/
def State.spanRow (s : State) (p : Nat) (a : Att) (ad : AttDesc) (e : TileEnt) (j i : Nat) : State :=
  let n := s.nib p
  let rho := e.q0 + i
  let m := rho / ad.g
  let ri := rowInfoOf (n.rowInfo ad.rih m)
  let h := windowH (cdiv (s.keysSeen p m e.mask ad.win e.seg ri) 32)
  let q := n.query ad ((Fmt.ofCode ad.qfmt).getD .mxE4M3) m (e.head * ad.g + rho % ad.g)
  let lo := 128 * j
  let own := arrayList a.arrays
  let n := n.scoreTile ad e own q i lo (min (lo + 128) e.klen)
  let n := n.spanTile s.acyc ad e ri q h i lo (min (lo + 128) (roundUp e.klen 32))
  let slots := lSlot ad.d e.slot e.qr (i / 16) :: (List.range (ad.d / 16)).map (nSlot ad.d e.slot e.qr (i / 16))
  s.setNib p (slots.zipIdx.foldl (fun n x => n.updTag x.1 fun t => { t with owner := own.getD (x.2 % max 1 own.length) 0 }) n)

/-- A SPAN entry's next reference tile (R239): all its grouped rows; the entry after it follows its last tile. A tile takes as
long as its scores do, at 16 in an A-cycle (log 187). -/
def State.spanStep (s : State) (p : Nat) (a : Att) (v j : Nat) : State × Option Act :=
  let n := s.nib p
  let e := n.entryAt a v
  let ad := n.attDescOf a
  let n := n.touch s.acyc (n.tileReads ad e (128 * j) (min (128 * (j + 1)) (roundUp e.klen 32)))
  let s := (List.range e.qrows).foldl (fun s i => s.spanRow p a ad e j i) (s.setNib p n)
  let due := s.acyc + 8 * e.qrows
  (s, some (if 128 * (j + 1) < e.klen then .span due a v (j + 1) else .attend due a (v + 1) false))

/-- ATTEND's key and value sets enter its arrays as weight sets do (R67, R229, R231); which set each array is left with no rule says, so
it is a free one (log 187). `x` tells one entry of a run from another. -/
def Nib.attArrays (n : Nib) (x : Nat) (a : Att) (kv4 : Bool) : Nib :=
  (arrayList a.arrays).foldl (fun n i =>
    let v := (Config.freeValue 4224 (8 * x + i)).toNat
    { n with arrays := mset none n.arrays i (some {
        fmt := kvFmt kv4
        scales := (List.range 16).map fun c => bitsAt v (8 * c) 8
        cols := (List.range 16).map fun c => (List.range 32).map fun k => bitsAt v (128 + 8 * (32 * c + k)) (kvFmt kv4).bits }) }) n

/-- SPAN (R236, R244): keys K0 to K0 + KLEN − 1 into the partial at SLOT, a reference tile at a time; FIRST opens it. -/
def execAttSpan (p : Nat) (s : State) : Out1 :=
  .next (match s.entry p 0 with
    | none => s
    | some (a, v, e) =>
      let n := s.nib p
      let ad := n.attDescOf a
      let go (x : Act) : Option (List Act) := match x with
        | .attend .. => some [.span s.acyc a v 0]
        | _ => none
      if n.entryBad a ad e then s.bedFaultAt p Status.indexRange.code 9 { handle := a.lh }
      else s.updNib p fun n =>
        let n := (n.entryRead s.acyc a).attArrays (2048 * s.acyc + p) a ad.kv4
        let n := if e.first then n.openPartial ad.d e.slot e.qr else n
        { n with acts := replaceAct go n.acts })

/-! ### Merges (R245, R246) -/

/-- A row of a partial, out of its store: r + h, ceilings, N and ℓ by column block, flags; none where it is empty. -/
structure PartRow where
  r : Int
  v : List Int
  n : List (List Acc)
  l : List Acc
  fl : Nat
deriving DecidableEq, Repr

/-- Read slot rows of an accumulator store one after another (R152, R154). -/
def Nib.accReads (n : Nib) (now row : Nat) (slots : List Nat) : List (List Acc) × Nib :=
  slots.foldl (fun (x : List (List Acc) × Nib) sl => let (vs, n) := x.2.accRead now 3 sl row; (x.1 ++ [vs], n)) ([], n)

/-- Read a partial's row out of the accumulator store. -/
def Nib.partRow (n : Nib) (now d slot qr row : Nat) : Option PartRow × Nib :=
  match mget none n.prow (prowKey slot row) with
  | none => (none, n)
  | some o =>
    let slots := (List.range (d / 16)).map fun c => nSlot d slot qr (row / 16) c
    let ls := lSlot d slot qr (row / 16)
    let (vs, n') := n.accReads now (row % 16) (ls :: slots)
    (some { r := o.r, v := o.v, n := vs.drop 1, l := vs.headD []
            fl := (ls :: slots).foldl (fun a sl => a ||| (n.tag sl).flags (row % 16)) 0 }, n')

/-- Merge a row into the partial at `slot` (R245): both shifted up to the larger reference and ceilings, then added. -/
def Nib.mergeRow (n : Nib) (now : Nat) (kv4 : Bool) (d slot qr row : Nat) (b : PartRow) : Nib :=
  let old := mget none n.prow (prowKey slot row)
  let r := match old with | some o => max o.r b.r | none => b.r
  let v := (List.range (d / 32)).map fun g =>
    match old with | some o => max (o.v.getD g 0) (b.v.getD g 0) | none => b.v.getD g 0
  let n := n.raiseRow now kv4 d slot qr row r v
  let add (n : Nib) (sl : Nat) (vs : List Acc) (by_ : Nat) : Nib :=
    let sh := vs.map fun x => (x, (AState.ofAcc x).shift by_)
    let ix := sh.any fun x => x.2.2
    n.accAdd now sl (row % 16) (sh.map fun x => match x.2.1 with | .fin _ => x.2.1.toAcc | _ => x.1) (b2n ix)
  let n := b.n.zipIdx.foldl (fun n x =>
    add n (nSlot d slot qr (row / 16) x.2) x.1 (r + v.getD (x.2 / 2) 0 - (b.r + b.v.getD (x.2 / 2) 0)).toNat) n
  (add n (lSlot d slot qr (row / 16)) b.l (r - b.r).toNat).rowFlag d slot qr row b.fl

/-- MERGE_LOCAL (R236, R245): the partial at K0[5:0] into the one at SLOT; the former's slots are free. -/
def execMergeLocal (p : Nat) (s : State) : Out1 :=
  .next (s.runEntry p 1 1 fun _ ad e s => s.updNib p fun n =>
    let src := e.k0 % 64
    let n := (List.range e.qr).foldl (fun n i => match n.partRow s.acyc ad.d src e.qr i with
      | (none, n) => n
      | (some b, n) => n.mergeRow s.acyc ad.kv4 ad.d e.slot e.qr i b) n
    n.openPartial ad.d src e.qr)

/-- Row `row` of incoming partial `k` in RHANDLE (R120, R245, log 47): its reference and ceilings come from its window
terms; a row whose ℓ is a finite zero is empty. -/
def Nib.rawPart (n : Nib) (now : Nat) (ad : AttDesc) (qr k row : Nat) : Option PartRow × Nib :=
  let at_ (sl : Nat) : Nat := n.hrow ad.rh (9 * (k * rawCount ad.d qr + 16 * sl + row % 16))
  let cs := (List.range (ad.d / 16)).map fun c => nSlot ad.d 0 qr (row / 16) c
  let lsl := lSlot ad.d 0 qr (row / 16)
  let rows (sl : Nat) : List Row := (List.range 9).map fun j => n.peek ((at_ sl + j) % 65536)
  let fl := (lsl :: cs).foldl (fun a sl => a ||| n.padFlags (at_ sl) 9) 0
  let l := rows lsl
  let re := (rawTerms (l.getD 8 0)).rowExp
  let n' := n.touch now ((lsl :: cs).flatMap fun sl => (List.range 9).map fun j => (at_ sl + j) % 65536)
  if AState.ofAcc ((rawElems l).getD 0 0) = .fin 0 then (none, n')
  else (some {
    r := re + 8
    v := (List.range (ad.d / 32)).map fun g => (rawTerms ((rows (cs.getD (2 * g) 0)).getD 8 0)).rowExp - re
    n := cs.map fun sl => rawElems (rows sl), l := rawElems l, fl := fl }, n')

/-- MERGE_IN (R236, R246): incoming partial K0[11:0] into the one at SLOT, which FIRST opens (R197). -/
def execMergeIn (p : Nat) (s : State) : Out1 :=
  .next (s.runEntry p 2 1 fun _ ad e s => s.updNib p fun n =>
    let n := if e.first then n.openPartial ad.d e.slot e.qr else n
    (List.range e.qr).foldl (fun n i =>
      let (b, n) := n.rawPart s.acyc ad e.qr (e.k0 % 4096) i
      match b with
      | none => n
      | some b => n.mergeRow s.acyc ad.kv4 ad.d e.slot e.qr i b) n)

/-- SEND (R236, R245): every slot row of the partial goes raw over RROUTE as incoming partial K0[11:0] of the target, one each
5 A-cycles as READ_RAW_SEND has it (R153, log 47). -/
def execAttendSend (p : Nat) (s : State) : Out1 :=
  .next (match s.entry p 3 with
    | none => s
    | some (a, _, e) =>
      let ad := (s.nib p).attDescOf a
      let count := rawCount ad.d e.qr
      let s := s.runEntry p 3 (5 * count) fun _ _ _ s => s
      if (s.nib p).st = .running then
        s.withRoute p ad.rroute fun r s =>
          let land := s.acyc + 5 * (count - 1) + 10 + s.routeTime p r
          (s.updNib p fun n => { n with rawLand := if r.async then n.rawLand else max n.rawLand land }).addAct p
            (.raw s.acyc r e.slot 0 count (9 * (e.k0 % 4096 * count)) 0)
      else s)

/-! ### Normalisation (R222, R247) -/

/-- The exact quotient of two accumulator elements, with a sticky bit far below any format's last place (R222). -/
def quotient (wn : Int) (x : Acc) (wl : Int) (l : Acc) : Src :=
  match AState.ofAcc x, AState.ofAcc l with
  | .nan, _ => .nan
  | _, .nan => .nan
  | a, .fin d =>
    if d = 0 then .fin ⟨0, 0⟩
    else match a with
      | .pos => .sat false
      | .neg => .sat true
      | .fin v =>
        let k : Nat := 2 ^ 400
        let q := v.natAbs * k / d.natAbs
        let st := if v.natAbs * k % d.natAbs = 0 then 0 else 1
        let m : Int := 2 * q + st
        .fin ⟨if v < 0 then -m else m, wn - wl - 401⟩
      | .nan => .nan
  | _, _ => .fin ⟨0, 0⟩

/-- The plan of a row that is written as it stands: to where its epilogue writes, without the epilogue (R206, R247). -/
def Nib.plainPlan (n : Nib) (pl : OutPlan) : OutPlan :=
  match (n.outStages pl).2.getLast? with
  | some st =>
    if st.op = 9 then { pl with epi := false, ofmt := if st.sub = 0 then 0 else 9, ch := st.h1, csh := st.h2 }
    else { pl with epi := false }
  | none => pl

/-- Normalise and write one grouped row (R222, R227, R247); a PAD row and a row that saw no key are zero. -/
def Nib.finishRow (n : Nib) (now : Nat) (ad : AttDesc) (e : TileEnt) (i : Nat) : Nib :=
  let rho := e.q0 + i
  let m := rho / ad.g
  let h := e.head * ad.g + rho % ad.g
  let pad := (rowInfoOf (n.rowInfo ad.rih m)).pad
  let n := n.touch now [n.hrow ad.rih (m / 4)]
  let (row, n) := if pad then (none, n) else n.partRow now ad.d e.slot e.qr i
  let (vals, fl) := match row with
    | none => (List.replicate ad.d (Src.fin ⟨0, 0⟩), 0)
    | some b =>
      let ls := lSlot ad.d e.slot e.qr (i / 16)
      let wl := (n.tag ls).window (i % 16) 0
      (b.n.zipIdx.flatMap fun x =>
        let t := n.tag (nSlot ad.d e.slot e.qr (i / 16) x.2)
        x.1.zipIdx.map fun y => quotient (t.window (i % 16) y.2) y.1 wl (b.l.getD 0 0), b.fl)
  let plan : OutPlan := { ofmt := ad.ofmt, ch := ad.oh, csh := ad.osh, np := ad.npo, epi := ad.epi, edh := ad.edh, sreg := 8
                          m0 := 0, n0 := 0, held := false }
  n.writeRow now {
    plan := if pad then n.plainPlan plan else plan, m := m, col := h * ad.d, live := ad.npo, vals := vals, fl := fl, land := now + 2 }

/-- FINISH of a tile list (R236, R247): it normalises and runs the epilogue, which LAST only announces (R197, R244; log 186). Rows
past the step's are not written (R180). -/
def execAttendFinish (p : Nat) (s : State) : Out1 :=
  .next (s.runEntry p 4 2 fun _ ad e s =>
    let rows := match s.bedOf p with
      | some b => match (s.bed b).step with | some t => t.nrows | none => 0
      | none => 0
    s.updNib p fun n =>
      let n := if ad.epi then n.descRead s.acyc ad.edh 4 else n
      let n := (List.range e.qrows).foldl (fun n i =>
        if (e.q0 + i) / ad.g < rows then n.finishRow s.acyc ad e i else n) n
      { n with prow := mfilter (fun k _ => k / 512 != e.slot) n.prow })

/-- Whether the raw rows an ATTEND has sent have all landed (R159). -/
def State.attOver (s : State) (p : Nat) (a : Att) : Bool :=
  let n := s.nib p
  let r := n.route (n.attDescOf a).rroute
  decide (n.rawLand ≤ s.acyc) && !(n.acts.any fun x => match x with | .raw _ y .. => y == r | _ => false) &&
    (!r.async || s.rawsOver p r)

/-- The walk of a list: an entry whose gate has not opened stands at it (R106, R197), and a list whose entries are all done is
complete once what it sent has landed (R159). -/
def State.attStep (s : State) (p : Nat) (a : Att) (v : Nat) (started : Bool) : State × Option Act :=
  let n := s.nib p
  let next : Act := .attend (s.acyc + 1) a v started
  if (n.shape a.sreg).aux0 ≤ v then
    if s.attOver p a then (s.setNib p { n with stopAt := none }, none) else (s, some next)
  else match n.gateAt next with
    | some (t, _, _) => (s.setNib p (n.gateWaits t), some next)
    | none => (s, some next)

/-- ATTEND (R156, R159, R196): the walk of the tile list starts. -/
def execAttend (p : Nat) (s : State) : Out1 :=
  .next (s.issue p 0 (byOp 0x22) fun w s => s.updNib p fun n =>
    { n with stopAt := n.macroStop 1, rawLand := 0, acts := n.acts ++ [.attend (s.acyc + 1) (n.attendOf w) 0 false] })

end Sys2Proof.Machine
end

