-- ==== Sys2Proof/Machine/CheckForm.lean ====
section
/-!
DEFINITION. The loader's checks 3 to 9 (R199): the form of a script's words, handles, formats, shapes, layouts, slots and
tallies.
-/
namespace Sys2Proof.Machine

/-- A script as the checks see it: the logical nib that runs it, a nib that holds nothing but it, its executable bundles
and its plan. -/
structure Script where
  lg : Nat
  nib : Nib
  len : Nat
  plan : ShapePlan

/-- Executable bundles of a script (R113). -/
def execLen (n : Nib) (len : Nat) : Nat := len - 1 - n.routeBundles

/-- The lowest bundle that fails a check of bundles. -/
def firstBad (len : Nat) (ok : Nat → Bool) : Option Nat := firstNat (fun k => !ok k) 0 len

/-! ### Check 3: words (R109, R113–R127, R157) -/

/-- The bits of a word below its lowest field are 0. -/
def lowClear (w lo : Nat) : Bool := w % 2 ^ lo == 0

/-- Whether a MATRIX word is legal on its own (R115, R118, R170, R195, R196). Slots end at 63 (R71). -/
def matrixWordOk (w : Nat) : Bool :=
  match slotOp w with
  | 0x00 => lowClear w 58
  | 0x3F | 0x03 => true
  | 0x01 => lowClear w 19
  | 0x02 => lowClear w 5 && decide (fld w 11 6 + fld w 20 12 / 16 ≤ 63)
  | 0x04 =>
    match fld w 47 45 with
    | 0 => lowClear w 45
    | 1 => lowClear w 38
    | 2 => fld w 44 38 == 0 && lowClear w 27 && decide (fld w 37 34 ≤ 3)
    | 3 => fld w 44 38 == 0 && lowClear w 14
    | _ => false
  | 0x20 => lowClear w 7
  | 0x21 => lowClear w 1
  | 0x22 => lowClear w 12
  | _ => false

/-- Whether a VECTOR word is legal (R121, R122). -/
def vectorWordOk (w : Nat) : Bool :=
  match slotOp w with
  | 0x00 => lowClear w 58
  | 0x01 | 0x02 => lowClear w 21
  | 0x03 =>
    let f := fld w 37 32
    decide (f ≤ 8) || (decide (0x10 ≤ f) && decide (f ≤ 0x16)) || f == 0x18 || f == 0x20 || f == 0x21
  | 0x04 => lowClear w 44 && decide (fld w 47 44 ≤ 3)
  | 0x05 => lowClear w 39 && (quantFmt (fld w 47 44)).isSome
  | 0x06 => lowClear w 46 && decide (fld w 47 46 ≤ 2)
  | 0x07 => lowClear w 45 && decide (fld w 47 45 ≤ 5)
  | _ => false

/-- Whether a MOVE word is legal (R124, R125); its route stands in the route table and on the plane its send needs. -/
def moveWordOk (n : Nib) (w : Nat) : Bool :=
  let routeIn := decide (fld w 57 52 < 4 * n.routeBundles)
  match slotOp w with
  | 0x00 => lowClear w 58
  | 0x05 => true
  | 0x01 => lowClear w 8 && routeIn && !(n.route (fld w 57 52)).async
  | 0x02 => lowClear w 8 && routeIn && (n.route (fld w 57 52)).async
  | 0x03 => lowClear w 22 && routeIn && decide (fld w 51 46 + (fld w 45 42 + fld w 41 38) / 16 ≤ 63)
  | 0x04 => lowClear w 8
  | _ => false

/-- Whether a CONTROL word is legal (R126). -/
def controlWordOk (w : Nat) : Bool :=
  match slotOp w with
  | 0x00 => lowClear w 58
  | 0x01 => lowClear w 3 && decide (1 ≤ fld w 51 28)
  | 0x02 => lowClear w 52
  | 0x03 => lowClear w 16 && decide (1 ≤ fld w 57 56) && decide (1 ≤ fld w 55 43)
  | 0x04 | 0x05 => lowClear w 33
  | 0x06 => lowClear w 58
  | 0x07 => lowClear w 34
  | _ => false

/-- Extension words of a macro (R156). -/
def extWords (op : Nat) : Nat := if op = 0x20 then 4 else if op = 0x22 then 1 else 0

/-- Reserved fields and ranges of extension word `i` of a macro (R170, R196). -/
def extOk (op i w : Nat) : Bool :=
  if op = 0x22 then lowClear w 42
  else match i with
    | 1 => lowClear w 3 && decide (fld w 54 52 ≤ 5)
    | 2 => true
    | 3 => lowClear w 6 && fld w 16 15 != 3 && (!bitAt w 54 || (decide (1 ≤ fld w 41 25) && decide (fld w 41 25 ≤ 65536)))
    | _ => lowClear w 23

/-- Extension words stand in order behind their head, and nowhere else (R157). -/
def extPlaced (n : Nib) (len k : Nat) : Bool :=
  let w := n.slotAt k 0
  let op := slotOp w
  let word (i : Nat) : Nat := n.slotAt (k + i) 0
  let own := (List.range (extWords op)).all fun i =>
    decide (k + i + 1 < len) && slotOp (word (i + 1)) == 0x3F && fld (word (i + 1)) 57 55 == i + 1 && extOk op (i + 1) (word (i + 1))
  let mine := op != 0x3F || (let i := fld w 57 55
    decide (1 ≤ i) && decide (i ≤ k) && decide (i ≤ extWords (slotOp (n.slotAt (k - i) 0))))
  own && mine

/-- Format of an output code (R171). -/
def ofmtOk (c : Nat) : Bool := (quantFmt c).isSome || c == 0xA || c == 0xE

/-- The heads of one macro: bundle and word. -/
def headAt (n : Nib) (op k : Nat) : Option Nat :=
  let w := n.slotAt k 0
  if slotOp w = op then some w else none

/-- The MATMUL at bundle `k`. -/
def matAt (n : Nib) (k : Nat) : Option Mat := (headAt n 0x20 k).bind fun w => Nib.matmul { n with pc := k } w

/-- The FINISH at bundle `k`. -/
def finAt (n : Nib) (k : Nat) : Option Fin := (headAt n 0x21 k).map finOf

/-- The ATTEND at bundle `k`. -/
def attAt (n : Nib) (k : Nat) : Option Att := (headAt n 0x22 k).map fun w => Nib.attendOf { n with pc := k } w

/-- Where a descriptor stands. -/
inductive DescUse where
  | prologue | epilogue | finish
deriving DecidableEq, Repr

/-- Whether a stage is legal at place `i` of `k` of a descriptor (R205, R206, R213, R218, R219, R233). -/
def stageOk (u : DescUse) (ofmt i k : Nat) (st : FuseStage) : Bool :=
  let pro := u == .prologue
  let firstOnly := i == 0
  let lastOnly := i + 1 == k
  match st.op with
  | 0x01 => true
  | 0x02 => !pro
  | 0x03 => !pro && decide (st.sub ≤ 1)
  | 0x04 => !pro && decide (st.sub ≤ 3)
  | 0x05 | 0x06 => !pro && ofmtOk (st.param % 16)
  | 0x07 => decide (st.sub ≤ 1)
  | 0x08 => !pro && lastOnly && decide (st.sub ≤ 1) && decide (1 ≤ st.param) && decide (1 ≤ st.imm1) &&
      (ofmt == 0xA || ofmt == 0xE)
  | 0x09 => !pro && lastOnly && decide (st.sub ≤ 1)
  | 0x0A => u != .epilogue && firstOnly && decide (st.sub ≤ 3) && decide (1 ≤ st.param) && decide (1 ≤ st.imm1)
  | 0x0B => pro && firstOnly && decide (st.sub ≤ 3)
  | 0x0C => pro && firstOnly
  | _ => false

/-- Whether the descriptor in handle `h` is legal (R204): its handle is written by nothing but the loader. -/
def descOk (n : Nib) (u : DescUse) (ofmt h : Nat) : Bool :=
  let hd := n.handle n.activeSlot h
  let (hdr, sts) := n.descriptor h
  let w := n.descBits h 4
  decide (4 ≤ hd.length) && !hd.scriptWrite && !hd.asyncWrite &&
  (if u == .prologue then bitsAt hdr 21 107 == 0 && !sts.isEmpty else bitsAt hdr 4 124 == 0) &&
  (List.range sts.length).all (fun i => bitsAt w (128 * (i + 1) + 102) 26 == 0) &&
  sts.zipIdx.all fun x => stageOk u ofmt x.2 sts.length x.1

/-- Whether an attention descriptor is legal (R226). -/
def attDescOk (n : Nib) (h : Nat) : Bool :=
  let w := n.descBits h 2
  let d := attDesc w
  decide (2 ≤ n.hlen h) && bitsAt w 142 370 == 0 && decide (bitsAt w 32 2 ≤ 2) && decide (bitsAt w 45 2 ≤ 2) &&
  (d.qfmt == 0 || d.qfmt == 1 || d.qfmt == 5) && decide (1 ≤ d.win) && ofmtOk d.ofmt &&
  (!d.epi || descOk n .epilogue d.ofmt d.edh)

/-- A GATHER stage names at most 16 data panels, and handles that exist (R214). -/
def gatherOk (n : Nib) (m : Mat) : Bool :=
  let (hdr, sts) := n.descriptor m.pdh
  match sts.head? with
  | none => true
  | some st =>
    let ps := cdiv (m.fa.blockRows * m.kpb) 64
    st.op != 0x0C || (decide (ps ≤ 16) && decide (st.h1 + ps ≤ 64) && decide (bitsAt hdr 15 6 + ps ≤ 63))

/-- Whether the descriptors of the macro at bundle `k` are legal. -/
def macroDescOk (n : Nib) (k : Nat) : Bool :=
  (match matAt n k with
    | some m => (!m.epi || m.kmode == 1 || descOk n .epilogue m.ofmt m.edh) &&
        (!m.pro || (descOk n .prologue 0 m.pdh && gatherOk n m))
    | none => true) &&
  (match finAt n k with | some f => !f.epi || descOk n .finish f.ofmt f.edh | none => true) &&
  (match attAt n k with | some a => attDescOk n a.adh | none => true)

/-- Halo, split and attention routes stand in the route table (R170, R191). -/
def macroRoutesOk (n : Nib) (k : Nat) : Bool :=
  (match matAt n k with
  | none => true
  | some m =>
    (!(m.hmode == 1 || m.hmode == 2) || decide (m.hroute + 1 < 4 * n.routeBundles)) &&
    (m.kmode != 1 || decide (m.kroute < 4 * n.routeBundles)))

/-! ### The order of a script (R127, R129) -/

/-- A phase: its first bundle, the first bundle of its closing sync point, the SYNC, its kind and LENGTH, and the number of
barriers before it with whether it is the first phase after one (R143). -/
structure Ph where
  first : Nat
  sync : Nat
  last : Nat
  elastic : Bool
  len : Nat
  epoch : Nat
  leads : Bool
deriving DecidableEq, Repr

/-- The first bundle of the run of WAITs that ends before bundle `k`, not below `lo` (R129). -/
def waitsBack (n : Nib) (lo : Nat) : Nat → Nat
  | 0 => 0
  | k + 1 => if lo ≤ k ∧ slotOp (n.slotAt k 3) = 1 then waitsBack n lo k else k + 1

/-- The bundle of the next SYNC from `k`; none if a PHASE or END comes first. -/
def nextSync (n : Nib) : Nat → Nat → Option Nat
  | _, 0 => none
  | k, fuel + 1 =>
    let c := slotOp (n.slotAt k 3)
    if c = 5 then some k else if c = 4 ∨ c = 6 then none else nextSync n (k + 1) fuel

/-- The phases of a script from bundle `k` on (R129): none where it does not have the form, with the bundle that breaks
it. -/
def phasesFrom (n : Nib) (len : Nat) : Nat → Nat → Nat → Bool → List Ph × Option Nat
  | 0, k, _, _ => ([], some k)
  | fuel + 1, k, epoch, leads =>
    let w := n.slotAt k 3
    if len ≤ k then ([], some (len - 1))
    else if slotOp w = 6 then ([], if 0 < k ∧ k + 1 = len then none else some k)
    else if slotOp w != 4 then ([], some k)
    else match nextSync n (k + 1) (len - (k + 1)) with
      | none => ([], some k)
      | some y =>
        let barrier := bitAt (n.slotAt y 3) 57
        let ph : Ph := {
          first := k, sync := waitsBack n (k + 1) y, last := y, elastic := bitAt w 57, len := fld w 56 33 + 1, epoch := epoch
          leads := leads }
        let (r, e) := phasesFrom n len fuel (y + 1) (if barrier then epoch + 1 else epoch) barrier
        (ph :: r, e)

/-- The phases of a script. -/
def Script.phases (x : Script) : List Ph := (phasesFrom x.nib x.len (x.len + 1) 0 0 true).1

/-- The phase that holds bundle `k`. -/
def Script.phaseOf (x : Script) (k : Nat) : Option Ph := x.phases.find? fun p => decide (p.first ≤ k) && decide (k ≤ p.last)

/-- A loop's body stays inside its phase and inside every loop around it, whose level is lower (R127). -/
def loopOk (x : Script) (k : Nat) : Bool :=
  let n := x.nib
  let w := n.slotAt k 3
  if slotOp w != 3 then true
  else
    let stop := k + 1 + fld w 55 43
    (match x.phaseOf k with | some p => decide (stop ≤ p.sync) | none => false) &&
    (List.range k).all fun j =>
      let v := n.slotAt j 3
      slotOp v != 3 || decide (j + 1 + fld v 55 43 ≤ k) ||
        (decide (stop ≤ j + 1 + fld v 55 43) && decide (fld v 57 56 < fld w 57 56))

/-- The header and the route table (R113, R114). -/
def headerOk (x : Script) : Bool :=
  let n := x.nib
  match (n.bundleAt n.slotD.start).1 with
  | none => false
  | some b =>
    let w := b.toNat
    decide (bitsAt w 0 5 ≤ 16) && bitsAt w 5 3 == 0 && bitsAt w 8 8 == n.slotD.cl && bitsAt w 16 16 == x.phases.length &&
    bitsAt w 32 224 == 0 && (List.range (bitsAt w 0 5)).all fun i =>
      match (n.bundleAt (n.slotD.start + 1 + i)).1 with
      | none => false
      | some r => (List.range 4).all fun j => bitsAt (slotWord r j) 27 37 == 0

/-- Check 3. -/
def check3 (x : Script) : Option Nat :=
  if !headerOk x then some 0
  else match firstBad x.len fun k =>
      matrixWordOk (x.nib.slotAt k 0) && vectorWordOk (x.nib.slotAt k 1) && moveWordOk x.nib (x.nib.slotAt k 2) &&
      controlWordOk (x.nib.slotAt k 3) && extPlaced x.nib x.len k && loopOk x k && macroDescOk x.nib k &&
      macroRoutesOk x.nib k with
    | some k => some k
    | none => (phasesFrom x.nib x.len (x.len + 1) 0 0 true).2

/-! ### Issues (R110–R112, R127, R128, R131, R159) -/

/-- A bundle's issue: its A-cycle counted from its phase's first, the loops around it, and its A-cycle from the script's first
where nothing waits. -/
structure Iss where
  t : Nat
  k : Nat
  env : List LoopFrame
  abs : Nat := 0

/-- Occupancy of the macro at a bundle (R158, R183, R195), with its extension words. -/
def macroAt (n : Nib) (k : Nat) : Option (Nat × Nat) :=
  match matAt n k, finAt n k with
  | some m, _ => some (n.occupancy m, 4)
  | none, some f =>
    let (hdr, sts) := if f.epi then n.descriptor f.edh else (0, [])
    let (e, q) := epiLatency f.ofmt f.epi hdr sts
    some (cdiv (f.mp * f.np) 64 * q + 12 + e, 0)
  | _, _ => none

/-- A-cycles that a macro whose last word stands in bundle `k` holds an elastic phase's next bundle at least (R159). -/
def macroHold (n : Nib) (k : Nat) : Nat :=
  match macroAt n k, macroAt n (k - 4) with
  | some (o, 0), _ => o
  | _, some (o, 4) => if 4 ≤ k ∧ slotOp (n.slotAt k 0) = 0x3F then o - 4 else 0
  | _, _ => 0

/-- The issues of bundles `k` to `hi − 1` from A-cycle `t`, loops at their COUNT, and the A-cycle after them; in an elastic phase
the earliest. -/
def unroll (n : Nib) (elastic : Bool) : Nat → Nat → Nat → Nat → List LoopFrame → List Iss × Nat
  | 0, _, _, t, _ => ([], t)
  | fuel + 1, k, hi, t, env =>
    if hi ≤ k then ([], t)
    else
      let w := n.slotAt k 3
      let here : Iss := { t := t, k := k, env := env }
      if slotOp w = 3 then
        let body := fld w 55 43
        let count := fld w 42 27 + 1
        let frame (i : Nat) : LoopFrame := {
          level := fld w 57 56, start := k + 1, len := body, count := count, run := count, iter := i }
        let got := (List.range count).foldl (fun (g : List Iss × Nat) i =>
          let y := unroll n elastic fuel (k + 1) (k + 1 + body) g.2 (frame i :: env)
          (g.1 ++ y.1, y.2)) ([here], t + 1)
        let y := unroll n elastic fuel (k + 1 + body) hi got.2 env
        (got.1 ++ y.1, y.2)
      else
        let hold := if elastic then macroHold n k else 0
        let y := unroll n elastic fuel (k + 1) hi (t + max (if slotOp w = 7 then fld w 57 34 + 2 else 1) hold) env
        (here :: y.1, y.2)

/-- The issues of a phase, and the A-cycle its sync point begins in, counted from its first. -/
def Script.issues (x : Script) (p : Ph) : List Iss × Nat := unroll x.nib p.elastic (x.len + 1) p.first p.sync 0 []

/-- Every issue of phases that begin in A-cycle `t` at the earliest, with its phase: a rigid phase takes its LENGTH, a sync point
an A-cycle for each of its bundles (R128, R131). -/
def Script.timeFrom (x : Script) (t : Nat) : List Ph → List (Ph × Iss)
  | [] => []
  | p :: ps =>
    let (is, stop) := x.issues p
    (is.map fun i => (p, { i with abs := t + i.t })) ++
      x.timeFrom (t + (if p.elastic then stop else p.len) + (p.last - p.sync) + 1) ps

/-- Every issue of a script, in order, each at its earliest. -/
def Script.timeline (x : Script) : List (Ph × Iss) := x.timeFrom 0 x.phases

/-- The nib as it stands at an issue. -/
def Script.nibAt (x : Script) (i : Iss) : Nib := { x.nib with pc := i.k, loops := i.env }

/-! ### Check 4: handles and fixed indices (R93–R95) -/

/-- Rows of a handle that an instruction names. -/
structure Use where
  h : Nat
  i : Int
  rows : Nat

/-- The rows of a full row address. -/
def Nib.useRa (n : Nib) (w rows : Nat) : Use :=
  { h := bitsAt w 0 6, i := bitsAt w 6 16 + sext 8 (bitsAt w 24 8) * n.counter (bitsAt w 22 2), rows := rows }

/-- The rows of a short row address. -/
def Nib.useRa24 (n : Nib) (w rows : Nat) : Use :=
  let a := n.ra24 w rows
  { h := a.handle, i := a.index, rows := rows }

/-- The largest value of a shape field in the plan: 0 M, 1 N, 2 K, 3 AUX0, 4 AUX1 (R162). -/
def ShapePlan.top (p : ShapePlan) (sreg field : Nat) : Nat := (p.maxima.getD sreg []).getD field 0

/-- The format of the weights a PASS on array `a` finds: those of the last FRONT or of the last MATMUL's fronts before it, in the order
in which bundles issue (R110, R127, R175). -/
def Script.frontFmt (x : Script) (a : Nat) (i : Iss) : Option Fmt :=
  x.timeline.foldl (fun (m : Option Fmt) j =>
    let w := x.nib.slotAt j.2.k 0
    if i.abs ≤ j.2.abs then m
    else if slotOp w = 1 ∧ fld w 57 55 = a then Fmt.ofCode (fld w 54 51)
    else match matAt x.nib j.2.k with
      | some d => if (arrayList d.arrays).contains a then some d.fb else m
      | none => m) none

/-- The mode of the PASS on array `a` at an issue: set by both formats (R65). -/
def Script.passMode (x : Script) (a : Nat) (i : Iss) (f : Fmt) : ArrMode :=
  match x.frontFmt a i with
  | some b => arrMode f b
  | none => arrMode f f

/-- The rows the instructions of a bundle name by a fixed index (R95, R115–R124). -/
def Script.uses (x : Script) (i : Iss) : List Use :=
  let n := x.nibAt i
  let m := n.slotAt i.k 0
  let v := n.slotAt i.k 1
  let y := n.slotAt i.k 2
  (match slotOp m with
    | 0x01 => match Fmt.ofCode (fld m 54 51) with
      | some f => [n.useRa (fld m 50 19) ((n.frontMode (fld m 57 55) f).setRows + 1)]
      | none => []
    | 0x02 =>
      let rows := fld m 20 12 + 1
      let rb := match Fmt.ofCode (fld m 54 51) with | some f => f.blockRows | none => 1
      let u := n.useRa24 (fld m 50 27) (rows * rb)
      let i0 := u.i.toNat / rb
      [u, { h := fld m 26 21, i := i0 / 32, rows := (i0 + rows - 1) / 32 + 1 - i0 / 32 }]
    | 0x03 =>
      let nb := cdiv (x.plan.top (fld m 2 0) 2) 32
      { h := fld m 21 16, i := fld m 15 3, rows := 1 } ::
        (if nb = 0 ∨ fld m 51 48 = 6 ∨ fld m 51 48 = 7 then [] else
          [{ h := fld m 43 38, i := fld m 37 22 / 32, rows := (fld m 37 22 + 16 * nb - 1) / 32 + 1 - fld m 37 22 / 32 }])
    | 0x04 => if fld m 47 45 = 3 then [n.useRa24 (fld m 37 14) 9] else []
    | _ => []) ++
  (match slotOp v with
    | 0x01 | 0x02 => [n.useRa (fld v 52 21) 8]
    | _ => []) ++
  (match slotOp y with
    | 0x01 | 0x02 => [n.useRa24 (fld y 51 28) (fld y 11 8 + 1)]
    | 0x04 =>
      let k := 256 / (4 * 2 ^ fld y 57 56)
      [n.useRa24 (fld y 55 32) k, n.useRa24 (fld y 31 8) k]
    | 0x05 =>
      let c := fld y 9 0 + 1
      [n.useRa24 (fld y 45 22) (cdiv c 8), { h := fld y 51 46, i := 0, rows := c * (fld y 15 10 + 1) }]
    | _ => [])

/-- The script of a set that a route's target runs, where the route names the same slot. -/
def routeScript (set : List Script) (n : Nib) (r : RouteEntry) : Option Script :=
  if r.slot = n.activeSlot then set.find? fun y => y.lg == r.nib else none

/-- The rows a bundle's send writes at its target: route and rows (R125). -/
def Script.sends (x : Script) (i : Iss) : Option (RouteEntry × Use) :=
  let n := x.nibAt i
  let y := n.slotAt i.k 2
  let r := n.route (fld y 57 52)
  match slotOp y with
  | 0x01 | 0x02 => some (r, { h := r.handle, i := fld y 27 12, rows := fld y 11 8 + 1 })
  | 0x03 => some (r, { h := r.handle, i := fld y 37 22, rows := 9 * (fld y 41 38 + 1) })
  | _ => none

/-- Whether rows lie in their handle. -/
def inHandle (n : Nib) (u : Use) : Bool := decide (0 ≤ u.i) && decide (u.i + u.rows ≤ n.hlen u.h)

/-- What the checks know of the bed: the nib a logical number names, the bed itself, and the first row and the length of a handle
in a slot of a logical nib, of the load or armed before it. -/
structure BedView where
  phys : Nat → Option Nat
  inside : Nat → Bool
  handle : Nat → Nat → Nat → Option (Nat × Nat)

/-- Whether rows a send names by a fixed index lie in the handle they land in (R95). A slot that holds no script has no handle with
rows: a scheduled send into it is refused, and an asynchronous one meets R96 at run time (log 103). -/
def BedView.holds (v : BedView) (r : RouteEntry) (u : Use) : Bool :=
  match v.handle r.nib r.slot u.h with
  | some (_, len) => decide (0 ≤ u.i) && decide (u.i + u.rows ≤ len)
  | none => r.async

/-- Check 4. -/
def check4 (v : BedView) (x : Script) : Option Nat :=
  let d := x.nib.slotD
  if decide (512 < d.segBase + d.segSize) || (List.range 64).any (fun h =>
      let e := x.nib.handle x.nib.activeSlot h
      decide (128 * d.segSize < e.offset + e.length)) then some 0
  else x.timeline.findSome? fun i =>
    let own := (x.uses i.2).all (inHandle x.nib)
    let target := match x.sends i.2 with
      | none => true
      | some (r, u) => v.holds r u
    if own && target then none else some i.2.k

/-! ### Checks 5 and 6: formats and shapes (R41, R47, R171–R173) -/

/-- Whether two formats may be paired (R41). -/
def pairOk (a b : Fmt) : Bool := (a == .bf16) == (b == .bf16)

/-- Check 5. -/
def check5 (x : Script) : Option Nat :=
  let n := x.nib
  firstBad x.len fun k =>
    let w := n.slotAt k 0
    match slotOp w with
    | 0x01 => (Fmt.ofCode (fld w 54 51)).isSome
    | 0x02 => match Fmt.ofCode (fld w 54 51) with
      | none => false
      | some f => x.timeline.all fun i => i.2.k != k || match x.frontFmt (fld w 57 55) i.2 with
        | some b => pairOk f b
        | none => true
    | 0x03 => match Fmt.ofCode (fld w 51 48), Fmt.ofCode (fld w 47 44) with
      | some a, some b => pairOk a b
      | _, _ => false
    | 0x20 => match Fmt.ofCode (fld w 18 15), Fmt.ofCode (fld w 14 11) with
      | some a, some b => pairOk a b && ofmtOk (fld w 10 7)
      | _, _ => false
    | 0x21 => ofmtOk (fld w 30 27)
    | _ => true

/-- Number of set bits among the low eight. -/
def bits8 (x : Nat) : Nat := (arrayList x).length

/-- Whether a planned reduction has at most 65,536 blocks (R47). -/
def planKOk (x : Script) (sreg : Nat) : Bool := decide (cdiv (x.plan.top sreg 2) 32 ≤ 65536)

/-- Check 6. -/
def check6 (x : Script) : Option Nat :=
  firstBad x.len fun k =>
    let w := x.nib.slotAt k 0
    (slotOp w != 3 || planKOk x (fld w 2 0)) && match matAt x.nib k with
    | none => true
    | some m => planKOk x m.sreg &&
      bits8 m.arrays == m.tn / 16 && m.mp % m.tm == 0 && m.np % m.tn == 0 && decide (m.k0b + m.knb ≤ m.kpb) &&
      decide (m.kpb ≤ 65536) && (m.ofmt == 0xE || (decide (32 ≤ m.tn) && m.np % 32 == 0))

/-! ### Check 7: layouts (R165–R169, R193, R204–R218) -/

/-- Rows of a tensor of `rows` × 32·`nb` elements with `rb` rows an element-block, and of its scale bytes (R165, R166). -/
def dataRows (rb rows nb : Nat) : Nat := rb * (16 * nb * cdiv rows 16)
/-- See `dataRows`. -/
def scaleRows (rows nb : Nat) : Nat := cdiv (16 * nb * cdiv rows 16) 32

/-- Handles a stage reads or writes, with the rows each must have: `rows` × `np` values, token rows from `m0`. -/
def stageNeeds (m0 rows np : Nat) (st : FuseStage) : List (Nat × Nat) :=
  let ng := cdiv st.imm1 64
  match st.op with
  | 0x02 => [(st.h1, cdiv np 8)]
  | 0x03 => [(st.h1, cdiv np (if st.sub = 0 then 8 else 16))]
  | 0x05 | 0x06 =>
    let c := st.param % 16
    (st.h1, dataRows (ofRows c) rows (cdiv np 32)) :: if c = 0xE then [] else [(st.h2, scaleRows rows (cdiv np 32))]
  | 0x07 => [(st.h1, 16 * 2 ^ (st.param % 4)), (st.h2, cdiv (m0 + rows) 4)]
  | 0x08 => [(st.h1, cdiv (rows * ng * (st.sub % 2 + 1)) 8)]
  | 0x09 => [(st.h1, dataRows 1 rows (cdiv np 32)), (st.h2, scaleRows rows (cdiv np 32))]
  | 0x0A => [(st.h1, cdiv (rows * ng * (st.sub % 2 + 1)) 8), (st.h2, cdiv st.imm1 8 * (st.sub % 2 + 1))]
  | _ => []

/-- Handles a prologue's first stage reads in place of AHANDLE; none where it reads AHANDLE (R211, R213, R214, R219). -/
def firstNeeds (m : Mat) (hdr : Nat) (st : FuseStage) : Option (List (Nat × Nat)) :=
  match st.op with
  | 0x0A => some [(st.h3, dataRows (if bitAt st.sub 1 then 2 else 4) m.mp (cdiv st.imm1 32))]
  | 0x0B => some [(st.h1, dataRows (match st.sub with | 0 => 4 | 1 => 2 | _ => 1) (32 * m.kpb) (cdiv m.mp 32))]
  | 0x0C =>
    let total := m.fa.blockRows * m.kpb
    let ps := cdiv total 64
    let first := bitsAt hdr 15 6
    some ((st.param % 64, cdiv m.mp 8) :: (first + ps, cdiv m.kpb 32 * m.mp) ::
      (List.range ps).map fun j => (first + j, min 64 (total - 64 * j) * m.mp))
  | _ => none

/-- The handles a MATMUL's words name, with the rows each must have. -/
def matNeeds (n : Nib) (m : Mat) : List (Nat × Nat) :=
  let rb := m.fa.blockRows
  let scales (h : Nat) : List (Nat × Nat) := if perTensor m.fa then [] else [(h, scaleRows m.mp m.kpb)]
  let (phdr, psts) := if m.pro then n.descriptor m.pdh else (0, [])
  let own := match psts.head? with
    | some st => st.op == 0x0B || st.op == 0x0C
    | none => false
  let kvq := m.epi && (match (n.descriptor m.edh).2.getLast? with | some st => st.op == 9 | none => false)
  (if own then [] else (m.ah, dataRows rb m.mp (if m.pro then m.kpb else m.knb)) :: scales m.ash) ++
  (if m.pro then [(bitsAt phdr 3 6, dataRows rb m.mp m.knb), (bitsAt phdr 9 6, scaleRows m.mp m.kpb), (m.pdh, 4)] else []) ++
  [(m.bh, (m.mode.setRows + 1) * (m.np / 16) * m.knb), (m.cmh, m.np / 16)] ++
  (if m.kmode = 1 ∨ kvq then [] else
    (m.ch, dataRows (ofRows m.ofmt) m.mp (cdiv m.np 32)) ::
      if m.ofmt = 0xE then [] else [(m.csh, scaleRows m.mp (cdiv m.np 32))]) ++
  (if m.kmode = 2 then [(m.kroute, 18 * m.sr * (m.src + 1))] else []) ++
  (if m.epi ∧ m.kmode ≠ 1 then [(m.edh, 4)] else []) ++
  [m.ah, m.ash, m.ch, m.csh].map fun h => (h, 0)

/-- The stages of a FINISH's epilogue: its ROWSCALE's statistics stand in STHANDLE (R195, log 183). -/
def finStages (n : Nib) (f : Fin) : List FuseStage :=
  if f.epi then
    match (n.descriptor f.edh).2 with
    | st :: r => (if st.op = 10 then { st with h1 := f.sth } else st) :: r
    | [] => []
  else []

/-- The handles a FINISH names. -/
def finNeeds (n : Nib) (f : Fin) : List (Nat × Nat) :=
  let sts := finStages n f
  let held := match sts with | st :: _ => if st.op = 10 ∧ bitAt st.sub 1 then 2 else 4 | [] => 4
  let kvq := match sts.getLast? with | some st => st.op == 9 | none => false
  (f.hh, dataRows held f.mp (cdiv f.np 32)) :: (f.sth, 0) :: (f.ch, 0) :: (f.csh, 0) ::
  (if kvq then [] else
    (f.ch, dataRows (ofRows f.ofmt) f.mp (cdiv f.np 32)) ::
      if f.ofmt = 0xE then [] else [(f.csh, scaleRows f.mp (cdiv f.np 32))]) ++
  (if f.epi then [(f.edh, 4)] else [])

/-- The handles an ATTEND names, for the planned token rows of its shape register; KHANDLE and VHANDLE hold at least one set for each 32
dimensions, since no field plans an entry's keys (R198 checks each entry's). -/
def attNeeds (x : Script) (a : Att) : List (Nat × Nat) :=
  let d := attDesc (x.nib.descBits a.adh 2)
  let rows := x.plan.top a.sreg 0
  [(a.lh, cdiv a.lmax 2), (a.adh, 2), (d.qh, dataRows 1 rows (cdiv d.npo 32)), (d.qsh, scaleRows rows (cdiv d.npo 32)),
    (d.kh, (if d.kv4 then 9 else 17) * (d.d / 32)), (d.vh, (if d.kv4 then 17 else 33) * (d.d / 32)), (d.rh, 0),
    (d.rih, cdiv rows 4), (d.oh, dataRows (ofRows d.ofmt) rows (cdiv d.npo 32))] ++
  (if d.ofmt = 0xE then [] else [(d.osh, scaleRows rows (cdiv d.npo 32))])

/-- Every handle has its rows and, where a macro's words name it, starts in bank 0 (R169). -/
def needsOk (n : Nib) (bank0 : Bool) (l : List (Nat × Nat)) : Bool :=
  l.all fun x => decide (x.2 ≤ n.hlen x.1) && (!bank0 || (n.handle n.activeSlot x.1).offset % 16 == 0)

/-- A ROWSTAT covers whole groups (R218). -/
def wholeGroups (m : Mat) (sts : List FuseStage) : Bool :=
  match sts.getLast? with
  | some st => st.op != 8 || (m.n0 % 64 == 0 && m.np % 64 == 0)
  | none => true

/-- Check 7. -/
def check7 (x : Script) : Option Nat :=
  let n := x.nib
  firstBad x.len fun k =>
    (match matAt n k with
      | none => true
      | some m =>
        let (phdr, psts) := if m.pro then n.descriptor m.pdh else (0, [])
        let sts := if m.epi && m.kmode != 1 then (n.descriptor m.edh).2 else []
        needsOk n true (matNeeds n m) && needsOk n false (sts.flatMap (stageNeeds m.m0 m.mp m.np)) &&
        needsOk n false (psts.flatMap (stageNeeds m.m0 m.mp (32 * m.kpb))) &&
        (match psts.head? with | some st => needsOk n false ((firstNeeds m phdr st).getD []) | none => true) &&
        wholeGroups m sts) &&
    (match finAt n k with
      | none => true
      | some f => needsOk n true (finNeeds n f) && needsOk n false ((finStages n f).flatMap (stageNeeds 0 f.mp f.np)) &&
          (match (finStages n f).getLast? with | some st => st.op != 8 || f.np % 64 == 0 | none => true)) &&
    (match attAt n k with | none => true | some a => needsOk n true (attNeeds x a))

/-! ### Checks 8 and 9: slots and tallies (R177, R185, R199) -/

/-- Check 8. -/
def check8 (x : Script) : Option Nat :=
  firstBad x.len fun k =>
    (match matAt x.nib k with | some m => decide (m.demand ≤ m.slots) && decide (m.base + m.slots ≤ 64) | none => true) &&
    (match attAt x.nib k with | some a => decide (a.base + a.slots ≤ 64) | none => true)

/-- The gate tallies of the macro at bundle `k`. -/
def gatesAt (n : Nib) (k : Nat) : List Nat :=
  (match matAt n k with
    | some m =>
      (if m.tg then (List.range m.gspan).map (m.gtally + ·) else []) ++
      (if m.pro then match (n.descriptor m.pdh).2.head? with
        | some st => if st.op = 12 then [st.imm0 % 64] else []
        | none => [] else [])
    | none => []) ++
  (match attAt n k with | some a => if a.tg then (List.range a.gspan).map (a.gtally + ·) else [] | none => [])

/-- The rows an issue sends to a nib's tally, with the tally (R87, R101, R102, R192). -/
def Script.tallied (x : Script) (i : Iss) : List (Option RouteEntry × Nat × Nat) :=
  let n := x.nibAt i
  let y := n.slotAt i.k 2
  (match x.sends i with
    | some (r, u) => if r.async then [(some r, r.tally, u.rows)] else []
    | none => []) ++
  (if slotOp y = 5 then [(none, fld y 21 16, (fld y 9 0 + 1) * (fld y 15 10 + 1))] else []) ++
  (match matAt n i.k with
    | none => []
    | some m =>
      (let r := n.route m.kroute
        if m.kmode = 1 ∧ r.async then [(some r, r.tally, 9 * m.sr * m.tt)] else []) ++
      (if m.pro then match (n.descriptor m.pdh).2.head? with
        | some st =>
          if st.op = 12 then [(none, st.imm0 % 64, m.mp * (m.fa.blockRows * m.kpb + cdiv m.kpb 32))] else []
        | none => [] else []))

/-- The rows that gated visits of a script expect on tally `t` in a step (R185, R193). -/
def Script.gateRows (x : Script) (t : Nat) : Nat :=
  sumNat (x.timeline.map fun i => match matAt x.nib i.2.k with
    | some m => if !m.tg then 0
      else m.gcount * ((List.range (m.tt * m.kc)).filter fun v =>
        m.gtally + v % m.gspan == t && (m.kmode != 2 || (m.visit v).2 + 1 == m.kc)).length
    | none => 0)

/-- The planned total of tally `t` of script `x` in a step (R199): the rows the scripts of the set send to it, or those its gates
expect, whichever are more. -/
def tallyTotal (set : List Script) (x : Script) (t : Nat) : Nat :=
  max (x.gateRows t) <| sumNat (set.flatMap fun y => y.timeline.flatMap fun i => (y.tallied i.2).filterMap fun z =>
    let mine := match z.1 with
      | some r => r.nib == x.lg && r.slot == y.nib.activeSlot
      | none => y.lg == x.lg
    if mine && z.2.1 == t then some z.2.2 else none)

/-- Check 9. -/
def check9 (set : List Script) (x : Script) : Option Nat :=
  let n := x.nib
  match firstBad x.len fun k =>
      let g := gatesAt n k
      let inPhase := match x.phaseOf k with
        | some p => (List.range' p.first (p.last + 1 - p.first)).filter (· != k)
        | none => []
      g.all (fun t => decide (t < 64)) && g.all (fun t => inPhase.all fun j =>
        !(slotOp (n.slotAt j 3) == 1 && fld (n.slotAt j 3) 57 52 == t) && !(gatesAt n j).contains t) with
  | some k => some k
  | none => if (List.range 64).any fun t => decide (2 ^ 24 - 1 < tallyTotal set x t) then some 0 else none

end Sys2Proof.Machine
end

