-- ==== Sys2Proof/Machine/CheckTime.lean ====
section
/-!
DEFINITION. The loader's checks 10 to 14 (R199): phase placement, occupancy, the bank schedule, scheduled-plane slots and
latencies. Checking the planned shape suffices: a smaller shape only leaves accesses out (log 96).
-/
namespace Sys2Proof.Machine

/-! ### When a macro reads and writes (R153, R175, R183, R189, R192, R193, R209) -/

/-- A scheduled access to a scratchpad row: its A-cycle, counted from its issue's; whether its row is checked against the rows'
arrival one by one (R189, R193); and whether its A-cycle is one R153 or R183 states, which the bank schedule holds to it
(log 97). -/
structure Access where
  t : Nat
  row : Nat
  step : Bool := false
  bank : Bool := true

/-- Accesses to consecutive rows of a handle in one A-cycle. -/
def Nib.accesses (n : Nib) (t h i rows : Nat) (step : Bool := false) (bank : Bool := true) : List Access :=
  (List.range rows).map fun j => { t := t, row := n.hrow h (i + j), step := step, bank := bank }

/-- Accesses to given rows in one A-cycle that no rule states. -/
def rowAccesses (t : Nat) (rows : List Nat) : List Access := rows.map fun r => { t := t, row := r, bank := false }

/-- The start of visit `v` of a MATMUL whose head issues in A-cycle 0. -/
def visitAt (n : Nib) (m : Mat) (v : Nat) : Nat := n.proCycles m + m.f + sumNat ((List.range v).map m.dur)

/-- The A-cycle a tile position's readout begins in. -/
def readoutAt (n : Nib) (m : Mat) (pos : Nat) : Nat :=
  if m.korder then visitAt n m (m.tt * m.kc) + pos * m.sr * (n.matEpi m).2 else visitAt n m ((pos + 1) * m.kc)

/-- Every visit of a MATMUL: its number, its tile (column, row), its chunk, and its start. -/
def visitsOf (n : Nib) (m : Mat) : List (Nat × (Nat × Nat) × Nat × Nat) :=
  let order := tileOrder m.tr m.tc
  (List.range (m.tt * m.kc)).map fun v => (v, order.getD (m.visit v).1 (0, 0), (m.visit v).2, visitAt n m v)

/-- The A rows a MATMUL streams. -/
def aReads (n : Nib) (m : Mat) (halo : Bool) : List Access :=
  let h := (n.aHandles m).1
  (visitsOf n m).flatMap fun (_, t, ch, at_) => (List.range (m.chunk ch)).flatMap fun b => (List.range m.tm).flatMap fun r =>
    (List.range m.fa.blockRows).map fun w => {
      t := at_ + b * m.p + m.mode.cycles * r + w
      row := n.hrow h (blockIdx m.fa.blockRows m.knb (m.tm * t.2 + r) (ch * m.tkb + b) w), step := halo }

/-- The scale rows its passes read. -/
def passScales (n : Nib) (m : Mat) : List Access :=
  if perTensor m.fa then []
  else (visitsOf n m).flatMap fun (_, t, ch, at_) => (List.range (m.chunk ch)).flatMap fun b =>
    (List.range (m.tm / 16)).flatMap fun g =>
      n.accesses (at_ + b * m.p + m.mode.cycles * 16 * g) (n.aHandles m).2
        (scaleIdx m.kpb (m.tm * t.2 + 16 * g) (m.k0b + ch * m.tkb + b) / 32) 1 false false

/-- The column maxima and the scale rows its prescans read: each prescan F A-cycles before its visit, one scale row in an A-cycle
(R183, log 97). -/
def scanReads (n : Nib) (m : Mat) (halo : Bool) : List Access :=
  (visitsOf n m).flatMap fun (_, t, ch, at_) =>
    if ch != 0 then []
    else n.accesses (at_ - m.f) m.cmh (m.tn / 16 * t.1) (m.tn / 16) false false ++
      if perTensor m.fa then []
      else (List.range (m.tm / 16)).flatMap fun g => (List.range (cdiv m.kpb 2)).flatMap fun j =>
        n.accesses (at_ - m.f + 1 + g * cdiv m.kpb 2 + j) (n.aHandles m).2
          ((16 * m.kpb * (m.tm / 16 * t.2 + g) + 32 * j) / 32) 1 halo false

/-- The rows of a weight set in the order a front reads them: A-cycle, first row, rows (R69, R153). -/
def frontRowsAt (md : ArrMode) : List (Nat × Nat × Nat) :=
  (0, 0, 1) :: match md with
    | .narrow => (List.range 16).map fun j => (1 + j, 1 + j, 1)
    | .dense => (List.range 8).map fun j => (1 + 2 * j, 1 + j, 1)
    | .wide => (List.range 16).map fun j => (1 + j, 1 + 2 * j, 2)

/-- The weight sets its fronts read (R68, R167, log 184). -/
def setReads (n : Nib) (m : Mat) : List Access :=
  (visitsOf n m).flatMap fun (_, t, ch, at_) => (List.range (m.chunk ch)).flatMap fun b => m.arrayCols.flatMap fun a =>
    let set := (m.tn / 16 * t.1 + a.2) * m.knb + (ch * m.tkb + b)
    (frontRowsAt m.mode).flatMap fun x =>
      n.accesses (at_ + b * m.p + x.1 - 35) m.bh ((m.mode.setRows + 1) * set + x.2.1) x.2.2 false false

/-- The raw rows a split receiver combines (R193); no rule states the A-cycles of its COMBINEs (log 97). -/
def combineReads (n : Nib) (m : Mat) : List Access :=
  if m.kmode != 2 then []
  else
    let q := (n.matEpi m).2
    (List.range m.tt).flatMap fun pos => (List.range m.sr).flatMap fun k => (List.range (m.src + 1)).flatMap fun i =>
      let (row, cb) := m.slotRow k
      n.accesses (readoutAt n m pos + 23 - (m.src + 1) + i + q * k) m.kroute
        (rawIndex m.sr (m.src + 1) i pos (16 * (cb * (m.tm / 16) + row / 16) + row % 16)) 9 true false

/-- Where the output rows of an epilogue go: format, data handle, scale handle; a KVQ's go to its own (R206, R268). -/
def outTarget (ofmt ch csh : Nat) (sts : List FuseStage) : Nat × Nat × Nat :=
  match sts.getLast? with
  | some st => if st.op = 9 then (if st.sub = 0 then 0 else 9, st.h1, st.h2) else (ofmt, ch, csh)
  | none => (ofmt, ch, csh)

/-- The rows that hold the output of row `m` in columns `col` to `col + len − 1`: data, scales and statistics (R168, R218). -/
def outRowsOf (n : Nib) (tgt : Nat × Nat × Nat) (nb m n0 col len : Nat) (sts : List FuseStage) : List Nat :=
  let (c, h, hs) := tgt
  let rb := ofRows c
  let per := 32 / rb
  ((List.range (cdiv len per)).map fun j =>
    let k := col + per * j
    n.hrow h (blockIdx rb nb m (k / 32) (k % 32 / per))) ++
  (if c = 0xE then [] else ((List.range (cdiv len 32)).map fun j => n.hrow hs (scaleIdx nb m (col / 32 + j) / 32)).eraseDups) ++
  match sts.getLast? with
  | some st =>
    let ng := cdiv st.imm1 64
    let per := st.sub % 2 + 1
    let g0 := (n0 + col) / 64
    if st.op = 8 then n.fp32Rows st.h1 (per * (m * ng + g0)) (per * (cdiv (n0 + col + len) 64 - g0)) else []
  | none => []

/-- The rows of an epilogue: those a tile's row reads, and those it writes, with their A-cycles. -/
def epiRows (n : Nib) (m : Mat) : List Access × List Access :=
  if m.kmode = 1 then ([], [])
  else
    let (e, q) := n.matEpi m
    let sts := if m.epi then (n.descriptor m.edh).2 else []
    let nb := cdiv m.np 32
    let rows := (tileOrder m.tr m.tc).zipIdx.flatMap fun x => (List.range m.tm).map fun r =>
      (readoutAt n m x.2 + 30 + m.tn / 16 * q * (r + 1), m.tm * x.1.2 + r, m.tn * x.1.1)
    (rows.flatMap fun x => rowAccesses x.1 (sts.flatMap fun st => n.stageRows st nb x.2.1 (m.m0 + x.2.1) x.2.2 m.tn),
     rows.flatMap fun x => rowAccesses (x.1 + e) (outRowsOf n (outTarget m.ofmt m.ch m.csh sts) nb x.2.1 m.n0 x.2.2 m.tn sts))

/-- The rows a prologue reads, and those it writes (R210–R212). -/
def proAccesses (n : Nib) (m : Mat) : List Access × List Access :=
  if !m.pro then ([], [])
  else
    let (hdr, sts) := n.descriptor m.pdh
    let rb := m.fa.blockRows
    let rows := (List.range m.mp).map fun r => (proRowAt m sts r, r)
    (rows.flatMap fun x => rowAccesses x.1 (n.proRows m hdr sts x.2 ++
        (n.proStages sts).flatMap fun st => n.stageRows st (cdiv m.np 32) x.2 (m.m0 + x.2) 0 (32 * m.kpb)),
     rows.flatMap fun x => rowAccesses x.1 (((List.range m.knb).flatMap fun b => n.blockAt rb (bitsAt hdr 3 6) m.knb x.2 b) ++
        (List.range m.kpb).map fun b => n.hrow (bitsAt hdr 9 6) (scaleIdx m.kpb x.2 b / 32)))

/-- The rows a FINISH reads, and those it writes (R195, log 183); a disabled one makes no access (R220). `sts` are the stages whose reads
count. -/
def finAccesses (n : Nib) (f : Fin) (kept : FuseStage → Bool := fun _ => true) : List Access × List Access :=
  let sts := finStages n f
  let (e, q) := epiLatency f.ofmt f.epi (if f.epi then (n.descriptor f.edh).1 else 0) sts
  let held := match sts with | st :: _ => if st.op = 10 ∧ bitAt st.sub 1 then 2 else 4 | [] => 4
  let nb := cdiv f.np 32
  let off := match finScale sts with | some st => !n.slotD.holdOn.contains st.param | none => false
  let rows := if off then [] else (List.range f.mp).map fun r => (12 + cdiv ((r + 1) * f.np * q) 64, r)
  (rows.flatMap fun x => rowAccesses x.1 (((List.range nb).flatMap fun b => n.blockAt held f.hh nb x.2 b) ++
      (sts.filter kept).flatMap fun st => n.stageRows st nb x.2 x.2 0 f.np),
   rows.flatMap fun x => rowAccesses (x.1 + e) (outRowsOf n (outTarget f.ofmt f.ch f.csh sts) nb x.2 0 0 f.np sts))

/-- The rows a GATHER reads through asynchronous ports, each at its earliest (R102, R134, R153): its index list, and, since an index is
data, any row of its source from the A-cycle the first index is there (log 216). -/
def gatherAccesses (n : Nib) (y : Nat) : List Access :=
  let c := fld y 9 0 + 1
  let u := n.useRa24 (fld y 45 22) (cdiv c 8)
  ((List.range (cdiv c 8)).flatMap fun j => n.accesses (j * (8 * (fld y 15 10 + 1) + 3)) u.h (u.i.toNat + j) 1 false false) ++
    n.accesses 3 (fld y 57 52) 0 (n.hlen (fld y 57 52)) false false

/-! ### Accesses of an issue (R153) -/

/-- The scheduled reads of an issue. -/
def Script.reads (x : Script) (i : Iss) : List Access :=
  let n := x.nibAt i
  let m := n.slotAt i.k 0
  let v := n.slotAt i.k 1
  let y := n.slotAt i.k 2
  let one (t : Nat) (u : Use) (j rows : Nat) : List Access := n.accesses t u.h (u.i.toNat + j) rows
  (match slotOp m with
    | 0x01 => match Fmt.ofCode (fld m 54 51) with
      | none => []
      | some f =>
        let md := n.frontMode (fld m 57 55) f
        let u := n.useRa (fld m 50 19) (md.setRows + 1)
        (frontRowsAt md).flatMap fun z => one z.1 u z.2.1 z.2.2
    | 0x02 => match Fmt.ofCode (fld m 54 51) with
      | none => []
      | some f =>
        let c := (x.passMode (fld m 57 55) i f).cycles
        let rows := fld m 20 12 + 1
        let u := n.useRa24 (fld m 50 27) (rows * f.blockRows)
        let n0 := u.i.toNat / f.blockRows
        (List.range rows).flatMap fun r =>
          (List.range f.blockRows).flatMap (fun w => one (c * r + w) u (f.blockRows * r + w) 1) ++
          if r = 0 ∨ (n0 + r) % 32 = 0 then n.accesses (c * r) (fld m 26 21) ((n0 + r) / 32) 1 else []
    | 0x03 =>
      let nb := if fld m 51 48 = 6 ∨ fld m 51 48 = 7 then 0 else cdiv (x.plan.top (fld m 2 0) 2) 32
      n.accesses 0 (fld m 21 16) (fld m 15 3) 1 ++
        (List.range (cdiv nb 2)).flatMap fun j => n.accesses (1 + j) (fld m 43 38) ((fld m 37 22 + 32 * j) / 32) 1
    | 0x04 => if fld m 47 45 = 3 then one 0 (n.useRa24 (fld m 37 14) 9) 0 9 else []
    | _ => []) ++
  (if slotOp v = 1 then one 0 (n.useRa (fld v 52 21) 8) 0 8 else []) ++
  (match slotOp y with
    | 0x01 | 0x02 =>
      let rows := fld y 11 8 + 1
      (List.range (cdiv rows 2)).flatMap fun j => one j (n.useRa24 (fld y 51 28) rows) (2 * j) (min 2 (rows - 2 * j))
    | 0x04 =>
      let k := 256 / (4 * 2 ^ fld y 57 56)
      (List.range k).flatMap fun j => one j (n.useRa24 (fld y 55 32) k) j 1
    | 0x05 => gatherAccesses n y
    | _ => []) ++
  (match matAt n i.k with
    | none => []
    | some mt =>
      let halo := mt.hmode == 2 || mt.hmode == 3
      aReads n mt halo ++ passScales n mt ++ scanReads n mt halo ++ setReads n mt ++ combineReads n mt ++
        (epiRows n mt).1 ++ (proAccesses n mt).1) ++
  (match finAt n i.k with
    | none => []
    | some f => (finAccesses n f).1)

/-- The scheduled writes of an issue, as they land. A TRANSPOSE writes a row in an A-cycle; what it writes is complete with its
last (log 42). -/
def Script.writes (x : Script) (i : Iss) : List Access :=
  let n := x.nibAt i
  let v := n.slotAt i.k 1
  let y := n.slotAt i.k 2
  (if slotOp v = 2 then
    let u := n.useRa (fld v 52 21) 8
    n.accesses 2 u.h u.i.toNat 8 else []) ++
  (if slotOp y = 4 then
    let k := 256 / (4 * 2 ^ fld y 57 56)
    let u := n.useRa24 (fld y 31 8) k
    (List.range k).flatMap fun j => n.accesses (4 + j) u.h (u.i.toNat + j) 1 ++
      n.accesses (k + 3) u.h (u.i.toNat + j) 1 false false
    else []) ++
  (match matAt n i.k with
    | none => []
    | some mt => (epiRows n mt).2 ++ (proAccesses n mt).2) ++
  (match finAt n i.k with
    | none => []
    | some f => (finAccesses n f).2)

/-! ### Flits (R146–R149, R188–R192) -/

/-- A flit as its script sends it: the A-cycle its SEND reads it in, its route, where it lands in the target's handle. -/
structure Flit where
  t : Nat
  k : Nat
  epoch : Nat
  r : RouteEntry
  i : Nat
  rows : Nat

/-- NSRC of the receiver a split sender's route names (R192): its own field, or what its handle's length gives (log 45). -/
def senderNsrc (v : BedView) (set : List Script) (n : Nib) (m : Mat) : Nat :=
  let r := n.route m.kroute
  match (routeScript set n r).bind fun y => y.nib.receiver r.slot r.handle with
  | some d => d.src + 1
  | none => match v.handle r.nib r.slot r.handle with
    | some (_, len) => max 1 (len / (18 * m.sr))
    | none => 1

/-- The A-cycle each tile's first raw row is sent from (R192, R194): 25 after its visits, once the tile before is out. -/
def rawStarts (n : Nib) (m : Mat) : List Nat :=
  ((List.range m.tt).foldl (fun (x : List Nat × Nat) pos =>
    let t := max (readoutAt n m pos + 25) x.2
    (x.1 ++ [t], t + 5 * m.sr)) ([], 0)).1

/-- The flits of an issue on the scheduled plane, in A-cycles of its phase. A halo source or relay forwards each row in the A-cycle
it reads it in, at the same index (R189). -/
def Script.flitsOf (v : BedView) (set : List Script) (x : Script) (epoch : Nat) (i : Iss) : List Flit :=
  let n := x.nibAt i
  let y := n.slotAt i.k 2
  let r := n.route (fld y 57 52)
  let raw (r : RouteEntry) (t index : Nat) : List Flit := (List.range 5).map fun j =>
    { t := t + j, k := i.k, epoch := epoch, r := r, i := index + 2 * j, rows := min 2 (9 - 2 * j) }
  (match slotOp y with
    | 0x01 =>
      let rows := fld y 11 8 + 1
      (List.range (cdiv rows 2)).map fun j =>
        { t := i.t + j, k := i.k, epoch := epoch, r := r, i := fld y 27 12 + 2 * j, rows := min 2 (rows - 2 * j) }
    | 0x03 =>
      if r.async then [] else (List.range (fld y 41 38 + 1)).flatMap fun q => raw r (i.t + 5 * q) (fld y 37 22 + 9 * q)
    | _ => []) ++
  match matAt n i.k with
  | none => []
  | some m =>
    let base (h : Nat) : Nat := n.hrow h 0
    let forwarded (route h : Nat) (l : List Access) : List Flit := l.map fun a =>
      { t := i.t + a.t, k := i.k, epoch := epoch, r := n.route route, i := a.row - base h, rows := 1 }
    (if m.hmode = 1 ∨ m.hmode = 2 then
      forwarded m.hroute (n.aHandles m).1 (aReads n m false) ++
      forwarded (m.hroute + 1) (n.aHandles m).2 ((scanReads n m true).filter (·.step)) else []) ++
    (let kr := n.route m.kroute
      if m.kmode = 1 ∧ ¬ kr.async then
        (rawStarts n m).zipIdx.flatMap fun t => (List.range m.sr).flatMap fun q =>
          raw kr (i.t + t.1 + 5 * q) (rawIndex m.sr (senderNsrc v set n m) m.src t.2 q)
      else [])

/-- Every flit of a script. -/
def Script.flits (v : BedView) (set : List Script) (x : Script) : List Flit :=
  x.phases.flatMap fun p => (x.issues p).1.flatMap (x.flitsOf v set p.epoch)

/-- The A-cycle a flit lands in, counted as its script's phase (R153). -/
def landAt (v : BedView) (lg : Nat) (f : Flit) : Nat :=
  match v.phys lg, v.phys f.r.nib with
  | some p, some q => f.t + 6 + meshTime p q
  | _, _ => f.t + 6

/-- The router-port A-cycles a flit claims (R146–R148): ports 0 north, 1 east, 2 south, 3 west, 4 local. -/
def claimsFrom (q : Nat) : Nat → Nat → Nat → List (Nat × Nat × Nat)
  | 0, p, t => [(t, p, 4)]
  | fuel + 1, p, t =>
    let hop (port p' : Nat) : List (Nat × Nat × Nat) :=
      (t, p, port) :: claimsFrom q fuel p' (t + 1 + 3 * crossings p p')
    if p % 40 < q % 40 then hop 1 (p + 1)
    else if q % 40 < p % 40 then hop 3 (p - 1)
    else if p / 40 < q / 40 then hop 0 (p + 40)
    else if q / 40 < p / 40 then hop 2 (p - 40)
    else [(t, p, 4)]

/-- The claims of a flit. -/
def claims (v : BedView) (lg : Nat) (f : Flit) : List (Nat × Nat × Nat) :=
  match v.phys lg, v.phys f.r.nib with
  | some p, some q => claimsFrom q 71 p (f.t + 4)
  | _, _ => []

/-- What lands at script `x` in an epoch, in whichever slot's segment: the A-cycles in which it was sent and lands, and its
rows. -/
def arrivals (v : BedView) (set : List Script) (x : Script) (epoch : Nat) : List (Nat × Nat × List Nat) :=
  set.flatMap fun y => (y.flits v set).filterMap fun f =>
    if f.epoch = epoch ∧ f.r.nib = x.lg then
      (v.handle x.lg f.r.slot f.r.handle).map fun h =>
        (f.t, landAt v y.lg f, (List.range f.rows).map fun j => (h.1 + f.i + j) % 65536)
    else none

/-! ### Check 10: placement (R131, R133, R139, R143, R156, R188, R212, R215) -/

/-- Whether the macro at a bundle may stand in its phase. -/
def placedOk (n : Nib) (elastic : Bool) (k : Nat) : Bool :=
  (match matAt n k with
    | none => true
    | some m =>
      let gathers := m.pro && (match (n.descriptor m.pdh).2.head? with | some st => st.op == 12 | none => false)
      (elastic || (!m.tg && !gathers)) && (!elastic || m.hmode == 0) && !(m.pro && (m.tg || m.hmode == 2 || m.hmode == 3))) &&
  (elastic || (attAt n k).isNone)

/-- Check 10. -/
def check10 (v : BedView) (set : List Script) (x : Script) : Option Nat :=
  x.phases.findSome? fun p =>
    let (is, stop) := x.issues p
    let sent := is.flatMap (x.flitsOf v set p.epoch)
    let here := if p.leads then arrivals v set x p.epoch else []
    if !p.elastic && stop != p.len then some p.first
    else if !(sent.isEmpty && here.isEmpty) && (p.elastic || !p.leads) then
      some (match sent.head? with | some f => f.k | none => p.first)
    else if here.any fun a => decide (p.len ≤ a.2.1) then some p.first
    else is.findSome? fun i =>
      let n := x.nibAt i
      let waits := !p.elastic && slotOp (n.slotAt i.k 3) == 1
      let late := !p.elastic && ((x.writes i).any (fun w => decide (p.len ≤ i.t + w.t)) ||
        (match macroAt n i.k with | some (o, _) => decide (p.len ≤ i.t + o) | none => false))
      if placedOk n p.elastic i.k && !waits && !late then none else some i.k

/-- Flits of an epoch none of whose phases leads it are refused as well (R139). -/
def check10Orphans (v : BedView) (set : List Script) (x : Script) : Option Nat :=
  (x.flits v set).findSome? fun f => match routeScript set x.nib f.r with
    | none => none
    | some y => if y.phases.any fun p => p.epoch == f.epoch && p.leads then none else some f.k

/-! ### Check 11: occupancy (R70, R153, R158, R184, R208) -/

/-- Whether two spans meet. -/
def meets (a b : Nat × Nat) : Bool := decide (a.1 ≤ b.2) && decide (b.1 ≤ a.2)

/-- What places into slots from an issue: its arrays, its slots, its A-cycles at the earliest (R70). -/
def placers (x : Script) (i : Iss) : Option (List Nat × (Nat × Nat) × (Nat × Nat)) :=
  let n := x.nibAt i
  let w := n.slotAt i.k 0
  match matAt n i.k with
  | some m => some (arrayList m.arrays, (m.base, m.base + m.slots - 1), (i.abs, i.abs + n.occupancy m))
  | none =>
    if slotOp w != 2 then none
    else (Fmt.ofCode (fld w 54 51)).map fun f =>
      let md := x.passMode (fld w 57 55) i f
      let rows := fld w 20 12
      ([fld w 57 55], (fld w 11 6, fld w 11 6 + rows / 16), (i.abs, i.abs + md.cycles * rows + md.latency))

/-- The arrays and slots of the ATTEND at an issue: from its head on they are its own until it completes, and no later bundle issues
before that (R70, R158, R159). -/
def attPlaces (x : Script) (i : Iss) : Option (List Nat × (Nat × Nat) × (Nat × Nat)) :=
  (attAt (x.nibAt i) i.k).map fun a => (arrayList a.arrays, (a.base, a.base + a.slots - 1), (i.abs, i.abs))

/-- A-cycles in which a macro's readouts use the vector and special-function units (R184, log 98). -/
def readoutSpans (n : Nib) (k : Nat) : List (Nat × Nat) :=
  match matAt n k with
  | some m =>
    if m.kmode = 1 then []
    else
      let (e, q) := n.matEpi m
      (List.range m.tt).map fun pos => (readoutAt n m pos + 30, readoutAt n m pos + 30 + m.sr * q + e)
  | none => match macroAt n k with | some (o, _) => [(0, o)] | none => []

/-- A-cycles a VSFU holds its unit (R153). -/
def sfuCycles (fn : Nat) : Nat := if fn = 0 then 2 else if fn ≤ 3 then 4 else 8

/-- A-cycles a VECTOR word holds the vector or the special-function unit; 0 for a load or a store, which R184 is read not to mean
(DESIGN CHOICE, log 98). -/
def unitCycles (w : Nat) : Nat := if slotOp w = 7 then sfuCycles (fld w 47 45) else if 3 ≤ slotOp w then 1 else 0

/-- Check 11: a macro and its readouts in their rigid phase; the special-function unit, and slots that two arrays place into, in
the whole script. -/
def check11 (x : Script) : Option Nat :=
  let all := x.timeline
  all.findSome? fun (p, i) =>
    let n := x.nibAt i
    let w := n.slotAt i.k 0
    let v := n.slotAt i.k 1
    let is := (x.issues p).1
    let busy := !p.elastic && slotOp w != 0 && is.any fun j =>
      match macroAt (x.nibAt j) j.k with
      | none => false
      | some (o, e) => decide (j.t ≤ i.t) && decide (i.t ≤ j.t + o) &&
          !(decide (j.k ≤ i.k) && decide (i.k ≤ j.k + e) && i.env == j.env)
    -- in an elastic phase the bundle after a macro's last word issues once the macro is complete (R159)
    let units := unitCycles v != 0 && is.any fun j =>
      (!p.elastic || (match macroAt (x.nibAt j) j.k with | some (_, e) => decide (i.k ≤ j.k + e) | none => false)) &&
      (readoutSpans (x.nibAt j) j.k).any fun r => meets (j.t + r.1, j.t + r.2) (i.t, i.t + unitCycles v - 1)
    let sfu := slotOp v == 7 && all.any fun (_, j) =>
      let u := n.slotAt j.k 1
      slotOp u == 7 && decide (j.abs < i.abs) && decide (i.abs < j.abs + sfuCycles (fld u 47 45))
    let long := match matAt n i.k with
      | none => false
      | some m => !m.korder && decide (1 < m.tt) &&
          decide (max (sumNat ((List.range m.kc).map fun c => m.pv (m.chunk c))) m.sr < m.sr * (n.matEpi m).2)
    let clash := match (placers x i).orElse fun _ => attPlaces x i with
      | none => false
      | some (a, sl, ts) => all.any fun (_, j) =>
          decide (j.abs < i.abs) && match placers x j with
            | none => false
            | some (a', sl', ts') => a != a' && meets sl sl' && meets ts ts'
    if busy || units || sfu || long || clash then some i.k else none

/-! ### Check 12: the bank schedule (R79) -/

/-- The bank accesses of an issue whose A-cycles are stated: A-cycle from the issue's, and bank. The A-cycles of a macro's fronts,
prescans, epilogues and output writes are the sequencer's own and are left out (log 97). -/
def Script.banks (x : Script) (i : Iss) : List (Nat × Nat) :=
  (x.reads i ++ x.writes i).filterMap fun a => if a.bank then some (a.t, a.row % 16) else none

/-- Whether a list holds an entry twice. -/
def hasTwice {α : Type} [BEq α] : List α → Bool
  | [] => false
  | a :: l => l.contains a || hasTwice l

/-- Whether a bundle ends a run of bundles whose A-cycles lie at fixed distances: a WAIT, or in an elastic phase a macro
(R128, R159). -/
def Script.movable (x : Script) (p : Ph) (k : Nat) : Bool :=
  slotOp (x.nib.slotAt k 3) == 1 || (p.elastic && (let o := slotOp (x.nib.slotAt k 0); 0x20 ≤ o && o ≤ 0x3F))

/-- Whether the A-cycles of two issues, `j` the earlier, lie at a fixed distance: nothing between them waits. -/
def Script.rigidly (x : Script) (all : List (Ph × Iss)) (pj : Ph) (j : Iss) (pi_ : Ph) (i : Iss) : Bool :=
  !(all.any fun (p, k) => decide (j.abs ≤ k.abs) && decide (k.abs < i.abs) && x.movable p k.k) &&
  (pj.first == pi_.first || (x.phases.filter fun p => decide (pj.first ≤ p.first) && decide (p.first < pi_.first)).all fun p =>
    p.sync == p.last && !bitAt (x.nib.slotAt p.last 3) 57)

/-- Check 12. Where something may wait between two issues, the later may come any number of A-cycles later. -/
def check12 (x : Script) : Option Nat :=
  let all := x.timeline
  all.findSome? fun (p, i) =>
    let mine := x.banks i
    let meet := all.any fun (q, j) => decide (j.abs < i.abs) && (x.banks j).any fun a => mine.any fun b =>
      a.2 == b.2 && (j.abs + a.1 == i.abs + b.1 || (decide (i.abs + b.1 < j.abs + a.1) && !x.rigidly all q j p i))
    if hasTwice mine || meet then some i.k else none

/-! ### Check 13: scheduled-plane slots and halos (R24, R150, R151, R191) -/

/-- Whether the halo the MATMUL at bundle `k` asks for is available (R191). -/
def haloOk (v : BedView) (set : List Script) (x : Script) (epoch k : Nat) : Bool :=
  match matAt x.nib k with
  | none => true
  | some m =>
    let alike (y : Script) (want : Mat → Bool) : Bool := (y.phases.filter fun p => p.epoch == epoch && p.leads).any fun p =>
      (List.range' p.first (p.last + 1 - p.first)).any fun j => match matAt y.nib j with
        | none => false
        | some d => d.tm == m.tm && d.kpb == m.kpb && d.k0b == m.k0b && d.knb == m.knb && d.korder == m.korder &&
            d.tr == m.tr && d.tc == m.tc && want d
    let sends := m.hmode == 1 || m.hmode == 2
    let takes := m.hmode == 2 || m.hmode == 3
    let a := x.nib.route m.hroute
    let b := x.nib.route (m.hroute + 1)
    (!sends || (!a.async && !b.async && (v.phys a.nib).isSome && (v.phys b.nib).isSome && a.nib == b.nib &&
      match routeScript set x.nib a with
      | none => false
      | some y => alike y fun d => (d.hmode == 2 || d.hmode == 3) && d.ah == a.handle && (perTensor d.fa || d.ash == b.handle))) &&
    (!takes || set.any fun y => alike y fun d => (d.hmode == 1 || d.hmode == 2) &&
      (y.nib.route d.hroute).nib == x.lg && (y.nib.route d.hroute).handle == m.ah)

/-- The routes the sends of a bundle name (R151): a SEND's, a split sender's, an ATTEND's. -/
def routesAt (n : Nib) (k : Nat) : List RouteEntry :=
  let y := n.slotAt k 2
  (if slotOp y = 1 ∨ slotOp y = 2 ∨ slotOp y = 3 then [n.route (fld y 57 52)] else []) ++
  (match matAt n k with
  | some m => if m.kmode = 1 then [n.route m.kroute] else []
  | none => []) ++
  -- an ATTEND whose RROUTE lies beyond the route table sends nothing
  (match attAt n k with
  | some a =>
    let r := (attDesc (n.descBits a.adh 2)).rroute
    if r < 4 * n.routeBundles then [n.route r] else []
  | none => [])

/-- Check 13. -/
def check13 (v : BedView) (set : List Script) (x : Script) : Option Nat :=
  match firstBad x.len fun k =>
      (routesAt x.nib k).all (fun r => (v.phys r.nib).isSome) &&
      (match x.phaseOf k with | some p => haloOk v set x p.epoch k | none => true) with
  | some k => some k
  | none =>
    let all := set.flatMap fun y => (y.flits v set).map fun f => (f.epoch, claims v y.lg f)
    let collide := (x.flits v set).findSome? fun f =>
      let cs := claims v x.lg f
      let uses (c : Nat × Nat × Nat) : Nat := (all.filter fun a => a.1 == f.epoch && a.2.contains c).length
      if cs.any (fun c => !v.inside c.2.1 || decide (1 < uses c)) then some f.k else none
    match collide with
    | some k => some k
    | none => (x.phases.filter fun p => p.leads && !p.elastic).findSome? fun p =>
      let got := (arrivals v set x p.epoch).flatMap fun a => a.2.2.map fun r => (a.2.1, r % 16)
      let own := (x.issues p).1.flatMap fun i => (x.banks i).map fun b => (i.t + b.1, b.2)
      if hasTwice got || got.any own.contains then some p.first else none

/-! ### Check 14: latencies (R68, R133, R153, R189, R193, R209) -/

/-- Registers an issue writes, with the A-cycle each is usable in at the earliest, and registers it reads. -/
def regUses (n : Nib) (i : Iss) : List (Nat × Nat) × List Nat :=
  let m := n.slotAt i.k 0
  let v := n.slotAt i.k 1
  let (w, r) : List (Nat × Nat) × List Nat :=
    let d := fld v 57 53
    let a := fld v 52 48
    match slotOp v with
    | 0x01 => ([(d, 4)], [])
    | 0x02 => ([], [d])
    | 0x03 =>
      let f := fld v 37 32
      let b := fld v 47 43
      let c := fld v 42 38
      ([(d, if f ≤ 3 ∨ 0x20 ≤ f then 4 else 2)],
        if f = 0x18 then [] else if 0x20 ≤ f then [a] else if f = 3 ∨ f = 8 then [a, b, c] else [a, b])
    | 0x04 => ([(d, 3)], [a])
    | 0x05 => ([(d, 6), (fld v 43 39, 6)], [a])
    | 0x06 => ([(d, 8)], [a])
    | 0x07 => ([(d, if fld v 47 45 = 0 then 7 else if fld v 47 45 ≤ 3 then 11 else 19)], [a])
    | _ => ([], [])
  let w := w ++ if slotOp m = 4 ∧ fld m 47 45 = 2 then [(fld m 33 29, 5)] else []
  (w.map fun x => (x.1, i.abs + x.2), r)

/-- Slot rows an issue writes, with the A-cycle each is usable in, and slot rows it uses, with the A-cycle. -/
def slotUses (x : Script) (i : Iss) : List ((Nat × Nat) × Nat) × List ((Nat × Nat) × Nat) :=
  let n := x.nibAt i
  let m := n.slotAt i.k 0
  let y := n.slotAt i.k 2
  let whole (s t : Nat) : List ((Nat × Nat) × Nat) := (List.range 16).map fun r => ((s, r), t)
  let s := fld m 57 52
  let row := (s, fld m 51 48)
  let (w, r) : List ((Nat × Nat) × Nat) × List ((Nat × Nat) × Nat) :=
    match slotOp m with
    | 0x02 => match Fmt.ofCode (fld m 54 51) with
      | none => ([], [])
      | some f =>
        let md := x.passMode (fld m 57 55) i f
        let rs := (List.range (fld m 20 12 + 1)).map fun q =>
          ((fld m 11 6 + q / 16, q % 16), i.abs + md.cycles * q + md.latency)
        (rs, rs)
    | 0x03 => (whole s (i.abs + cdiv (cdiv (x.plan.top (fld m 2 0) 2) 32) 2 + 7), [])
    | 0x04 => match fld m 47 45 with
      | 0 => (whole s (i.abs + 1), [])
      | 1 => ([(row, i.abs + 3)], [(row, i.abs)])
      | 2 => ([], [(row, i.abs)])
      | _ => ([(row, i.abs + 3)], [(row, i.abs)])
    | _ => ([], [])
  let (w2, r2) := match matAt n i.k with
    | none => ([], [])
    | some mt =>
      -- the macro's slots are its own from its head to its last row (R158)
      let own := (List.range mt.slots).map (mt.base + ·)
      (own.flatMap fun s => whole s (i.abs + n.occupancy mt), own.flatMap fun s => whole s (i.abs + n.proCycles mt))
  (w ++ w2, r ++ r2 ++ if slotOp y = 3 then (List.range (fld y 41 38 + 1)).map fun k =>
    let q := fld y 45 42 + k
    ((fld y 51 46 + q / 16, q % 16), i.abs + 5 * k) else [])

/-- Whether an ATTEND's output handles share rows with what its entries read: the tile list alone says when (R196), so any row counts,
but a row's queries, which its own FINISH follows, may lie where its output does (R209, R227; log 217). -/
def attOverlaps (n : Nib) (d : AttDesc) (lh : Nat) : Bool :=
  let span (h : Nat) : Nat × Nat := (n.hrow h 0, n.hlen h)
  let cross (a b : Nat × Nat) : Bool := decide (0 < a.2) && decide (0 < b.2) && decide (a.1 < b.1 + b.2) && decide (b.1 < a.1 + a.2)
  let outs := span d.oh :: if d.ofmt = 0xE then [] else [span d.osh]
  let sts := if d.epi then (n.descriptor d.edh).2 else []
  let own (st : FuseStage) : Bool := (st.op == 5 || st.op == 6) && st.param % 16 == d.ofmt && span st.h1 == span d.oh
  let read : List Nat := [d.kh, d.vh, d.rih, d.rh, lh] ++
    (if ofRows d.ofmt = 1 && span d.qh == span d.oh then [] else [d.qh]) ++
    (if span d.qsh == span d.osh then [] else [d.qsh]) ++
    sts.flatMap fun st => if own st then [] else match st.op with
      | 2 | 3 => [st.h1] | 5 | 6 => [st.h1, st.h2] | 7 => [st.h1, st.h2] | _ => []
  outs.any fun o => read.any fun h => cross o (span h)

/-- Whether a macro's output rows overlap rows that it or its stages read in a later A-cycle (R209). An ADD_T or MUL_T may name
the blocks of CHANDLE itself. -/
def outOverlaps (n : Nib) (k : Nat) : Bool :=
  let same (a b : Nat) : Bool := (n.handle n.activeSlot a).offset == (n.handle n.activeSlot b).offset
  let later (ws rs : List Access) : Bool := ws.any fun w => rs.any fun r => r.row == w.row && decide (w.t < r.t)
  match matAt n k, finAt n k with
  | some m, _ =>
    let sts := if m.epi && m.kmode != 1 then (n.descriptor m.edh).2 else []
    let kept := sts.filter fun st => !((st.op == 5 || st.op == 6) && st.param % 16 == m.ofmt && same st.h1 m.ch)
    let q := (n.matEpi m).2
    let nb := cdiv m.np 32
    let stageReads := (tileOrder m.tr m.tc).zipIdx.flatMap fun x => (List.range m.tm).flatMap fun r =>
      rowAccesses (readoutAt n m x.2 + 30 + m.tn / 16 * q * (r + 1))
        (kept.flatMap fun st => n.stageRows st nb (m.tm * x.1.2 + r) (m.m0 + m.tm * x.1.2 + r) (m.tn * x.1.1) m.tn)
    let words := if sts.isEmpty then [] else n.accesses (readoutAt n m (m.tt - 1) + 30 + m.sr * q) m.edh 0 4
    later (epiRows n m).2 (aReads n m false ++ passScales n m ++ scanReads n m false ++ setReads n m ++ combineReads n m ++
      (proAccesses n m).1 ++ stageReads ++ words)
  | none, some f =>
    let (rs, ws) := finAccesses n f fun st => !((st.op == 5 || st.op == 6) && st.param % 16 == f.ofmt && same st.h1 f.ch)
    later ws rs
  | none, none => match attAt n k with
    | some a => attOverlaps n (attDesc (n.descBits a.adh 2)) a.lh
    | none => false

/-- The rows read in step with arrivals and the arrivals there, each in time order, meet pair by pair (R189, R193). -/
def inStep (reads : List (Nat × Nat)) (lands : List (Nat × Nat)) : Bool :=
  let sort (l : List Nat) : List Nat := l.mergeSort (fun a b => decide (a ≤ b))
  ((reads.map (·.2)).eraseDups).all fun row =>
    let of_ (l : List (Nat × Nat)) : List Nat := sort (l.filterMap fun a => if a.2 = row then some a.1 else none)
    ((of_ reads).zip (of_ lands)).all fun z => decide (z.2 < z.1)

/-- Whether a PASS's first vector would enter before its front has filled the array (R68). -/
def unfilled (x : Script) (all : List (Ph × Iss)) (i : Iss) : Bool :=
  let w := x.nib.slotAt i.k 0
  slotOp w == 2 && all.any fun (_, j) =>
    let f := x.nib.slotAt j.k 0
    slotOp f == 1 && fld f 57 55 == fld w 57 55 && decide (j.abs < i.abs) && decide (i.abs + 3 < j.abs + 38)

/-- Whether an issue of a rigid phase uses a result before it is usable (R133): a register, a slot row or a scratchpad row that an
earlier issue, of its phase or of one before, still has on its way. -/
def tooEarly (x : Script) (all : List (Ph × Iss)) (i : Iss) : Bool :=
  let n := x.nibAt i
  let regs := (regUses n i).2
  let srows := (slotUses x i).2
  let rows := (x.reads i).filter fun a => !a.step
  all.any fun (_, j) =>
    (decide (j.abs < i.abs) &&
      ((regUses (x.nibAt j) j).1.any (fun d => regs.contains d.1 && decide (i.abs < d.2)) ||
       (slotUses x j).1.any fun d => srows.any fun u => u.1 == d.1 && decide (u.2 < d.2))) ||
    -- a macro reads long after its head: a row that a later bundle has written by then counts too (R209)
    (j.abs != i.abs && (x.writes j).any fun d => rows.any fun u =>
        u.row == d.row && decide (j.abs < i.abs + u.t) && decide (i.abs + u.t ≤ j.abs + d.t))

/-- Check 14. -/
def check14 (v : BedView) (set : List Script) (x : Script) : Option Nat :=
  let all := x.timeline
  match firstBad x.len fun k => !outOverlaps x.nib k with
  | some k => some k
  | none => match all.findSome? fun (p, i) => if unfilled x all i || (!p.elastic && tooEarly x all i) then some i.k else none with
  | some k => some k
  | none => (x.phases.filter fun p => !p.elastic && p.leads).findSome? fun p =>
    let is := (x.issues p).1
    let came := arrivals v set x p.epoch
    let at_ (i : Iss) (l : List Access) : List (Nat × Nat) := l.map fun a => (i.t + a.t, a.row)
    let steps := is.flatMap fun i => at_ i ((x.reads i).filter (·.step))
    if !inStep steps (came.flatMap fun a => a.2.2.map fun r => (a.2.1, r)) then some p.first
    else is.findSome? fun i =>
      let rows := at_ i ((x.reads i).filter fun a => !a.step)
      let landing := came.any fun a => a.2.2.any fun r =>
        rows.any fun u => u.2 == r && decide (a.1 < u.1) && decide (u.1 ≤ a.2.1)
      if landing then some i.k else none

end Sys2Proof.Machine
end

