-- ==== Sys2Proof/Machine/Checker.lean ====
section
/-!
DEFINITION. The loader's checks of a bed's scripts as one set (R199): nibs in ascending logical order, and for each nib the
checks in the order of R199's table.
-/
namespace Sys2Proof.Machine

/-! ### Normalisation sites (R219–R221) -/

/-- The MATMULs of a script. -/
def matsOf (n : Nib) (len : Nat) : List (Nat × Mat) := (List.range len).filterMap fun k => (matAt n k).map fun m => (k, m)

/-- The sites whose FINISH stands in a script (R220): bundle, site and row width. -/
def finishSites (n : Nib) (len : Nat) : List (Nat × Nat × Nat) :=
  (List.range len).filterMap fun k => (finAt n k).bind fun f => match finStages n f with
    | st :: _ => if st.op = 10 then some (k, st.param, st.imm1) else none
    | [] => none

/-- The sites a ROWSTAT of some epilogue stands at: its bundle, its site, and the first column and the columns of its macro, a MATMUL, a
FINISH or an ATTEND (R217, R218). -/
def statSites (n : Nib) (len : Nat) : List (Nat × Nat × Nat × Nat) :=
  let site (on : Bool) (edh : Nat) : Option Nat :=
    if !on then none
    else match (n.descriptor edh).2.getLast? with
      | some st => if st.op = 8 then some st.param else none
      | none => none
  (List.range len).filterMap fun k =>
    match matAt n k, finAt n k, attAt n k with
    | some m, _, _ => (site (m.epi && m.kmode != 1) m.edh).map fun σ => (k, σ, m.n0, m.np)
    | none, some f, _ => (site f.epi f.edh).map fun σ => (k, σ, 0, f.np)
    | none, none, some a =>
      let d := attDesc (n.descBits a.adh 2)
      (site d.epi d.edh).map fun σ => (k, σ, 0, d.npo)
    | none, none, none => none

/-- The sites a ROWSCALE of some prologue stands at, with their bundles. -/
def foldSites (n : Nib) (len : Nat) : List (Nat × Nat) :=
  (matsOf n len).filterMap fun x =>
    if !x.2.pro then none
    else match (n.descriptor x.2.pdh).2 with
      | st :: _ => if st.op = 10 then some (x.1, st.param) else none
      | [] => none

/-- Whether a script's producer of a site computes all `w` columns of each row (R220). -/
def producesAll (n : Nib) (len site w : Nat) : Bool :=
  let ps := (statSites n len).filter fun x => x.2.1 == site
  !ps.isEmpty && ps.all fun x => x.2.2.1 == 0 && decide (w ≤ x.2.2.2)

/-- The sites a ROWSTAT or a ROWSCALE names, with their bundles. -/
def siteUses (n : Nib) (len : Nat) : List (Nat × Nat) :=
  foldSites n len ++ (finishSites n len).map (fun f => (f.1, f.2.1)) ++ (statSites n len).map fun x => (x.1, x.2.1)

/-- The one form the loader enables at each site of a set of scripts: true hold, false fold; none where neither can be
(R220, R221). -/
def siteForms (fixedFold : List Nat) (set : List Script) : List (Nat × Option Bool) :=
  ((set.flatMap fun x => (siteUses x.nib x.len).map (·.2)).eraseDups).map fun (σ : Nat) =>
    let fins := set.filter fun x => (finishSites x.nib x.len).any fun f => f.2.1 == σ
    let hold := !fins.isEmpty && !fixedFold.contains σ && fins.all fun x =>
      (finishSites x.nib x.len).all fun f => f.2.1 != σ || producesAll x.nib x.len σ f.2.2
    let fold := set.any fun x => (foldSites x.nib x.len).any fun f => f.2 == σ
    (σ, if hold then some true else if fold then some false else none)

/-- A script as it will run, with the forms its slot's sites take (R220). -/
def Script.withForms (x : Script) (forms : List (Nat × Option Bool)) : Script :=
  let sites (h : Bool) : List Nat := forms.filterMap fun f => if f.2 = some h then some f.1 else none
  { x with nib := { x.nib with
      slots := mupd {} x.nib.slots x.nib.activeSlot fun d => { d with holdOn := sites true, foldOn := sites false } } }

/-! ### The checks in order -/

/-- One check of one script of a set: the bundle it fails at. `sites` are the normalisation sites at which neither form can be
enabled, which check 7 refuses (R220). -/
def loaderCheck (v : BedView) (set : List Script) (sites : List Nat) (k : Nat) (x : Script) : Option Nat :=
  match k with
  | 3 => check3 x
  | 4 => check4 v x
  | 5 => check5 x
  | 6 => check6 x
  | 7 => match check7 x with
    | some k => some k
    | none => ((siteUses x.nib x.len).find? fun u => sites.contains u.2).map (·.1)
  | 8 => check8 x
  | 9 => check9 set x
  | 10 => match check10 v set x with | some k => some k | none => check10Orphans v set x
  | 11 => check11 x
  | 12 => check12 x
  | 13 => check13 v set x
  | 14 => check14 v set x
  | _ => none

/-- The first check that the scripts of a load fail (R199), each in its slot's set: nibs in ascending logical order, and for each
nib the checks in order. -/
def firstFailure (v : BedView) (sets : List (List Script × List Nat)) : Option (Nat × Nat × Nat) :=
  let nibs := ((sets.flatMap fun s => s.1.map (·.lg)).eraseDups).mergeSort (fun a b => decide (a ≤ b))
  nibs.findSome? fun lg => (List.range' 3 12).findSome? fun k => sets.findSome? fun s =>
    (s.1.filter fun x => x.lg == lg).findSome? fun x => (loaderCheck v s.1 s.2 k x).map fun at_ => (k, lg, at_)

end Sys2Proof.Machine
end

