-- ==== Sys2Proof/Machine/Channels.lean ====
section
/-!
DEFINITION. Memory channels and frames (R271, R424, R430, R431, R437–R441): where frames are placed, how channels are
marked, and the emptying of a RETIRING channel. And the pending A-clock divider (R479).
-/
namespace Sys2Proof.Machine

/-! ### Placement (R424, R429–R431) -/

/-- First address of channel `c` (R424). -/
def chanBase (c : Nat) : Nat := if c < 128 then 0xC0000000 * c else 0x008000000000 + 0x400000000 * (c - 128)
/-- Bytes of channel `c`. -/
def chanSize (c : Nat) : Nat := if c < 128 then 0xC0000000 else 0x400000000
/-- The system area of an HBM3E pseudo-channel (R429). -/
def sysBytes : Nat := 0x1000000
/-- First address of channel `c` outside the system area. -/
def chanLow (c : Nat) : Nat := chanBase c + if c < 128 then sysBytes else 0
/-- The channels of a tier. -/
def tierChans (lp : Bool) : List Nat := if lp then (List.range 32).map (· + 128) else List.range 128

/-- Frames of a tier, in number order. -/
def State.tierFrames (s : State) (lp : Bool) : List (Nat × Frame) :=
  (if lp then s.lpFrames else s.frames).filterMap fun e => e.2.map fun f => (e.1, f)

/-- What is in use of channel `c`: frames and arenas, as (address, bytes). -/
def State.usedIn (s : State) (c : Nat) : List (Nat × Nat) :=
  ((s.tierFrames (decide (128 ≤ c))).filterMap fun x =>
    let a := 65536 * x.2.addr
    if chanBase c ≤ a ∧ a < chanBase c + chanSize c then some (a, frameBytes x.2.size) else none) ++
  s.beds.filterMap fun e => if e.2.arenaSize = 0 then none else some (e.2.arenaBase, e.2.arenaSize)

/-- The lowest address in [lo, hi), aligned to `n`, at which `n` bytes are free. -/
def lowestFree (used : List (Nat × Nat)) (lo hi n : Nat) : Option Nat :=
  ((lo :: used.map fun x => x.1 + x.2).map fun a => roundUp (max a lo) n).foldl (fun m a =>
    if decide (a + n ≤ hi) && used.all fun x => decide (x.1 + x.2 ≤ a) || decide (a + n ≤ x.1) then
      some (match m with | some b => min a b | none => a)
    else m) none

/-- Where the tier's next frame goes: the next active channel with room, from the channel of the last frame created, and
the lowest free aligned address in it (R430). -/
def State.nextPlace (s : State) (lp : Bool) (fsize : Nat) : Option (Nat × Nat) :=
  let n := if lp then 32 else 128
  let last := if lp then s.msys.lastLp else s.msys.lastHbm
  ((List.range n).map fun k => (last + 1 + k) % n).findSome? fun k =>
    let c := if lp then 128 + k else k
    if (s.chan c).st != .active then none
    else (lowestFree (s.usedIn c) (chanLow c) (chanBase c + chanSize c) (frameBytes fsize)).map fun a => (k, a)

/-- Create `n` FREE frames for bed `b` in a tier (R271, R430). None where the table or the tier has no room. -/
def State.addFrames (s : State) (b : Nat) (lp : Bool) (fsize : Nat) : Nat → Option State
  | 0 => some s
  | n + 1 =>
    match firstNat (fun k => (s.frame lp k).isNone) 0 (2 ^ 21), s.nextPlace lp fsize with
    | some k, some (c, a) =>
      let s := s.setFrame lp k (some { addr := a / 65536, size := fsize, bed := b })
      let s := { s with msys := if lp then { s.msys with lastLp := c } else { s.msys with lastHbm := c } }
      s.addFrames b lp fsize n
    | _, _ => none

/-- Take `n` FREE frames with the highest numbers from bed `b` (R422). None where it lacks them. -/
def State.dropFrames (s : State) (b : Nat) (lp : Bool) (n : Nat) : Option State :=
  let fs := (s.freeFrames b lp).reverse
  if fs.length < n then none else some ((fs.take n).foldl (fun s k => s.setFrame lp k none) s)

/-- Bring a bed's allotment in a tier to `new` frames (R422). -/
def State.resizeFrames (s : State) (b : Nat) (lp : Bool) (old new : Nat) : Option State :=
  if new < old then s.dropFrames b lp (old - new) else s.addFrames b lp (s.bed b).fsize (new - old)

/-- The highest base at which an arena of `n` bytes fits (R431; log 28): within one pseudo-channel where it can be, else
across pseudo-channels, in active channels and outside every frame and arena. -/
def State.arenaSite (s : State) (n : Nat) : Option Nat :=
  let used := (s.tierFrames false).map (fun x => (65536 * x.2.addr, frameBytes x.2.size)) ++
    (s.beds.filterMap fun e => if e.2.arenaSize = 0 then none else some (e.2.arenaBase, e.2.arenaSize)) ++
    ((List.range 128).filterMap fun q => if (s.chan q).st = .active then none else some (chanBase q, chanSize q))
  let sys := (List.range 128).map fun q => (chanBase q, sysBytes)
  let fit (u : List (Nat × Nat)) : Option Nat :=
    ((chanBase 127 + chanSize 127) :: u.map (·.1)).foldl (fun m top =>
      if top < n then m
      else
        let a := (top - n) / 0x100000 * 0x100000
        if u.all fun x => decide (x.1 + x.2 ≤ a) || decide (a + n ≤ x.1) then
          some (match m with | some b => max a b | none => a)
        else m) none
  match fit (used ++ sys) with
  | some a => some a
  | none => fit used

/-! ### Retirement (R438–R440, R500) -/

/-- Set or clear a channel's retirement mark in a RETIRE register, live and stored (R438, R491). -/
def State.storeMark (s : State) (c : Nat) : State :=
  let off := if c < 64 then retire0Reg false else if c < 128 then retire1Reg else retire0Reg true
  let v : Word := BitVec.ofNat 64 (s.cfgAt off) ||| (1#64 <<< (c % 64))
  let s := s.setCfg off v
  { s with flash := { s.flash with store := mset none s.flash.store off (some v) } }

/-- The FREE frames of a RETIRING channel leave their pools, each replaced where the tier has room; else the allotment
shrinks by it (R440). -/
def State.leavePools (s : State) (c : Nat) : State :=
  let lp := decide (128 ≤ c)
  ((s.tierFrames lp).filter fun x => x.2.st == .free && placeOf (65536 * x.2.addr) == .chan c).foldl (fun s x =>
    let s := s.setFrame lp x.1 none
    match s.addFrames x.2.bed lp x.2.size 1 with
    | some s => s
    | none =>
      let off := bedReg x.2.bed 0x28
      s.setCfg off (BitVec.ofNat 64 (s.cfgAt off - if lp then 2 ^ 32 else 1))) s

/-- The prefix engine evicts the evictable entries with a frame in a RETIRING channel (R440). -/
def State.evictIn (s : State) (c : Nat) : State :=
  (mkeys (fun _ (e : PfxEntry) => evictable e && e.blist.any fun x => match s.frame (entLp x) (entFrame x) with
    | some f => placeOf (65536 * f.addr) == .chan c
    | none => false) s.pfx).foldl State.evict s

/-- What goes on while channels are RETIRING: evictable entries go, and frames that have become FREE leave their pools (R440). -/
def State.tendRetiring (s : State) : State :=
  (mkeys (fun _ (x : Chan) => x.st == .retiring) s.chans).foldl (fun s c => (s.evictIn c).leavePools c) s

/-- Plan the copies that empty a channel of private frames, in ascending frame number, as far as frames of other channels
are free (R440, R443). A page whose copy is under way, or whose session runs a step, waits. -/
def State.emptyChan (s : State) (c : Nat) : State :=
  let lp := decide (128 ≤ c)
  ((s.tierFrames lp).filter fun x =>
      (x.2.st == .sealed || x.2.st == .reserved) && placeOf (65536 * x.2.addr) == .chan c).foldl (fun s x =>
    let i := x.2.owner % 2 ^ 18
    let g := s.geo i
    let p := x.2.pos / g.fpp % g.npm
    let es := s.entries i
    if (s.ses i).st == .free || (s.ses i).st == .running || s.copies.any (fun k => k.index == i && k.page == p) then s
    else
      let units := (g.pageUnits p).filter fun u =>
        let e := es.getD u 0
        entHere e && entLp e == lp && match s.frame lp (entFrame e) with
          | some f => placeOf (65536 * f.addr) == .chan c && (f.st == .sealed || f.st == .reserved)
          | none => false
      -- only frames of other channels are targets
      let mine := (s.freeFrames (s.ses i).bed lp).filter fun n => match s.frame lp n with
        | some f => placeOf (65536 * f.addr) == .chan c | none => false
      let hide := mine.foldl (fun s n => s.updFrame lp n fun f => { f with st := .draining }) s
      match hide.planCopies i lp units with
      | some t => mine.foldl (fun s n => s.updFrame lp n fun f => { f with st := .free }) t
      | none => s) s

/-- Channels that are being emptied: RETIRING ones, and the one a migrate-mode retraining waits for (R440, R443). -/
def State.emptying (s : State) : List Nat :=
  (s.chans.filter fun e => e.2.st == .retiring).map (·.1) ++
    (s.msys.retrainQ.filter fun r => r.2.2).map fun r => if r.1 then 128 + r.2.1 else r.2.1

/-- Go on emptying channels. -/
def State.emptyChans (s : State) : State := s.emptying.foldl State.emptyChan s

/-- Mark a channel RETIRING (R438): the mark is stored, the MEMORY event raised, the epoch rises, its frames move. -/
def State.markChannel (s : State) (c cause : Nat) : State :=
  let st := (s.chan c).st
  if st = .retiring ∨ st = .retired then s
  else
    let s := s.updChan c fun x => { x with st := .retiring, cause := cause }
    let s := s.storeMark c
    let s := s.memoryEvent .channelRetired c (s.bedsInChan c)
    let s := s.raiseEpoch 0 0xFFFFFFFF c
    (s.leavePools c).emptyChan c

/-! ### The divider (R479) -/

/-- The larger of the THERM request and the staged floor (R479). -/
def State.divWanted (s : State) : Nat := max s.therm.divReq (4 + s.cfgAt throttleReg % 4)

/-- The maximum has changed: the new divider is pending, in place of an earlier one (R479). One equal to the divider in
force leaves none pending (log 32). -/
def State.repend (s : State) : State :=
  { s with clk := { s.clk with pend := if s.divWanted = s.clk.div then 0 else s.divWanted } }

end Sys2Proof.Machine
end

