-- ==== Sys2Proof/Machine/Serve.lean ====
section
/-!
DEFINITION. Sessions, tenants, requests and lists as commands (R278–R301, R304, R343–R348, R370–R377).
-/
namespace Sys2Proof.Machine

/-- Open sessions of a bed, mirrors apart (R294). -/
def State.openSessions (s : State) (b : Nat) : Nat :=
  (s.sessions.filter fun e => e.2.st != .free && e.2.bed == b && !e.2.mirror).length

/-- The lowest free entry of the parity R513 requires (R294; log 22); one a stream still reads is not used. -/
def State.freeEntry (s : State) : Option Nat :=
  let split := s.twin.st != .alone && s.twin.st != .solo
  firstNat (fun i => (s.ses i).st == .free && s.tx.all (fun t => t.index != i) && (!split || (i % 2 == 1) == s.twinSide)) 0 200000

/-- SESSION_OPEN (R294, R295, R513). Its list starts empty, generation 0 (log 23). -/
def execSessionOpen (b q : Nat) (s : State) : Out1 :=
  .next (s.command b q 0x20 fun s k =>
    let ten := bitsAt k.a0 0 12
    let mh := bitsAt k.a0 12 8
    let maxLen := bitsAt k.a0 20 21
    if !(s.tenant b ten).valid then s.reject k.ref .tenantUnknown
    else match (s.bed b).loaded mh with
    | none => s.reject k.ref .modelUnknown
    | some m =>
      match (if s.quota b ≤ s.openSessions b then none else s.freeEntry) with
      | none => s.reject k.ref .capacity
      | some i =>
        let g : Geo := ⟨m.pkg.layers, npmOf maxLen, fppOf m.pkg (s.bed b).fsize, (s.bed b).fsize⟩
        match s.arenaTake b (64 + 4 * g.nent) with
        | none => s.reject k.ref .capacity
        | some (a, s) =>
          let old := s.ses i
          let inc := if old = {} then 0 else (old.inc + 1) % 2 ^ 14
          let s := (s.writeDev a (wholeCws (listBytes g 0 (sesNum i inc) (List.replicate g.nent 0)))).1
          let s := s.setSes i {
            inc := inc, st := .idle, bed := b, tenant := ten, model := mh, maxLen := maxLen, listAddr := a, layers := g.layers, fpp := g.fpp
            lastActive := s.now, idleLimit := bitsAt k.a1 0 32 }
          (s.sesDelta i).finish k.ref { session := sesNum i inc })

/-- SESSION_CLOSE (R299, R344, R347). -/
def execSessionClose (b q : Nat) (s : State) : Out1 :=
  .next (s.command b q 0x21 fun s k =>
    match s.sesOk b k.session with
    | none => s.reject k.ref .sessionUnknown
    | some i =>
      if s.beingClosed i then s.reject k.ref .sessionBusy
      else match s.reqOf i with
      | none => (s.updSes i fun e => { e with closeRef := some k.ref }).closeNow i
      | some _ => (s.updReq i fun r => { r with closing := some k.ref }).cancelReq i none)

/-- PREFILL (R304). -/
def execPrefill (b q : Nat) (s : State) : Out1 := .next (s.command b q 0x31 fun s k => s.admission b k .prefill)

/-- ADMIT (R304, R373): its own cost, and STEPPED to wait for a STEP. -/
def execAdmit (b q : Nat) (s : State) : Out1 := .next (s.command b q 0x30 fun s k => s.admission b k .admission)

/-- DECODE (R304, R374). -/
def execDecode (b q : Nat) (s : State) : Out1 := .next (s.command b q 0x33 fun s k => s.admission b k .decode)

/-- CANCEL (R314, R344, R377). -/
def execCancel (b q : Nat) (s : State) : Out1 :=
  .next (s.command b q 0x38 fun s k =>
    match s.sesOk b k.session with
    | none => s.reject k.ref .sessionUnknown
    | some i => if s.beingClosed i then s.reject k.ref .sessionBusy else match s.reqOf i with
      | none => s.reject k.ref .alreadyComplete
      | some r =>
        if r.ref.tag != k.a0 then s.reject k.ref .alreadyComplete
        else s.cancelReq i (some k.ref))

/-- KV_EXPORT (R324, R348, R349): one batch of the committed pages, then COMMIT. -/
def execKvExport (b q : Nat) (s : State) : Out1 :=
  .next (s.command b q 0x50 fun s k =>
    let t := target (slice k.payload 0 64)
    match s.sesOk b k.session with
    | none => s.reject k.ref .sessionUnknown
    | some i =>
      let e := s.ses i
      if t.kind = 0 ∨ !s.targetOk t (npmOf e.maxLen) ∨ (t.eweid ∧ !e.eweid) then s.reject k.ref .badParameter
      else if !s.targetLicence t then s.reject k.ref .licenceRequired
      else if e.st != .idle || s.beingClosed i then s.reject k.ref .sessionBusy
      else if t.eweid ∧ 32768 < e.maxLen then s.reject k.ref .lengthAboveMax
      else
        let g := s.geo i
        let (num, s) := s.openStream i t (some k.ref) false (s.viaOf b t)
        let list := (s.listAt g e.listAddr).getD []
        let s := s.openBatch num e.listGen 0 list (committedItems g.layers t.firstPage e.c) []
        (s.readList i).settle num (.commit e.c e.lastToken 0 0 0) e.c true)

/-- KV_IMPORT (R343, R344): the session waits for a stream from the named sender. -/
def execKvImport (b q : Nat) (s : State) : Out1 :=
  .next (s.command b q 0x51 fun s k =>
    match s.sesOk b k.session with
    | none => s.reject k.ref .sessionUnknown
    | some i =>
      if (s.ses i).st != .idle || s.beingClosed i then s.reject k.ref .sessionBusy
      else
        let s := s.updSes i fun e => { e with st := .queued, noPrefix := true, reqTag := k.ref.tag, admitC := e.c }
        let s := s.updBed b fun bd => { bd with reqs := bd.reqs ++ [{ ref := k.ref, kind := .kvImport, index := i }] }
        { s with imports := s.imports ++ [{
            index := i, bed := b, ref := k.ref, transport := bitsAt k.a0 0 2, port := bitsAt k.a0 2 5
            node := bitsAt k.a0 16 16, ip := leBytes 8 k.a1 ++ leBytes 8 k.a2, taken := s.now }] })

/-- LIST_SWAP (R278, R279). -/
def execListSwap (b q : Nat) (s : State) : Out1 :=
  .next (s.command b q 0x52 fun s k =>
    let body := if k.plen = 0 then k.data else k.payload
    let base := bitsAt k.a0 0 32
    match s.sesOk b k.session with
    | none => s.reject k.ref .sessionUnknown
    | some i =>
      let e := s.ses i
      let g := s.geo i
      let fail (st : Status) (n : Nat) : State :=
        s.finish k.ref { status := st.code, session := k.session, r0 := e.listGen, r3 := n }
      if s.beingClosed i then s.reject k.ref .sessionBusy
      else if base ≠ e.listGen then fail .listStale 0xFFFFFFFF
      else if (listHead g base k.session).drop 4 ≠ slice body 4 12 then fail .listInvalid 0xFFFFFFFF
      else
        let es := bytesEnts g.nent (body.drop 64)
        match s.firstBad i es with
        | some n => fail .listInvalid n
        | none => match s.publish i es with
          | none => s.reject k.ref .capacity
          | some s => (s.sesDelta i).finish k.ref { session := k.session, r0 := (s.ses i).listGen })

/-- Set or clear PINNED along a chain, counting the blocks found and changed (R286). -/
def State.pinChain (s : State) (b salt : Nat) (digest : List Byte) (pin : Bool) :
    List Byte → List (List Nat) → Nat × Nat × List (List Byte) × State
  | _, [] => (0, 0, [], s)
  | prev, blk :: bs =>
    let h := blockHash salt digest prev blk
    match s.pfxLookup b h with
    | none => (0, 0, [], s)
    | some n =>
      let ch := (s.pfxAt n).pinned != pin
      let (f, c, hs, s) := (s.updPfx n fun e => { e with pinned := pin }).pinChain b salt digest pin h bs
      (f + 1, c + b2n ch, h :: hs, s)

/-- PREFIX_PIN (R286). -/
def execPrefixPin (b q : Nat) (s : State) : Out1 :=
  .next (s.command b q 0x53 fun s k =>
    let t := s.tenant b (bitsAt k.a0 0 12)
    if !t.valid then s.reject k.ref .tenantUnknown
    else match (s.bed b).loaded (bitsAt k.a0 12 8) with
    | none => s.reject k.ref .modelUnknown
    | some m =>
      let toks := (List.range (16 * k.plen)).map fun i => leField k.payload (4 * i) 4
      let pin := bitAt k.a0 20
      let (f, c, hs, s) := s.pinChain b t.salt m.pkg.modelDigest pin [] (blocksOf (k.plen / 16) toks)
      (s.delta b (.pin b hs pin)).finish k.ref { r0 := f, r1 := c })

/-- TENANT_SET (R301, R370). -/
def execTenantSet (b q : Nat) (s : State) : Out1 :=
  .next (s.command b q 0x72 fun s k =>
    let n := bitsAt k.a0 0 12
    let tb := bitsAt k.a0 16 5
    let valid := bitAt k.a0 12
    let unl := bitAt k.a0 13
    let mode := bitsAt k.a0 14 2
    let rate := bitsAt k.a1 0 32
    let burst := bitsAt k.a1 32 32
    let given := k.a2 + 2 ^ 64 * k.a3
    let t := s.tenant tb n
    if !valid then
      if s.sessions.any fun e => e.2.st != .free && e.2.bed == tb && e.2.tenant == n && !e.2.mirror then
        s.reject k.ref .sessionBusy
      else
        ((s.updTenant tb n fun _ => {}).delta tb (.tenant tb n {})).finish k.ref {}
    else
      let fresh := mode == 1 || (!t.valid && mode != 2)
      let (r, s) := if fresh then s.random else (0, s)
      let salt := if mode = 2 then given else if fresh then r % 2 ^ 128 else t.salt
      let t' : Tenant :=
        if t.valid then { (refill t s.now) with rate := rate, burst := burst, unlimited := unl, salt := salt }
        else { level := (burst * 100000000 : Nat), last := s.now, rate := rate, burst := burst, valid := true
               unlimited := unl, salt := salt }
      ((s.updTenant tb n fun _ => t').delta tb (.tenant tb n t')).finish k.ref {})

end Sys2Proof.Machine
end

