-- ==== Sys2Proof/Machine/Staging.lean ====
section
/-!
DEFINITION. Staging (R415–R422, R446, R491, R545, R574, R575): the stageable registers, their ranges, claims, capacity, and
the commit. And STAGE_WRITE, STAGE_CHECK, STAGE_COMMIT and a mode-2 commit's time.
-/
namespace Sys2Proof.Machine

/-! ### The stageable registers (R575) -/

/-- The BED registers that are staged. -/
def bedStaged : List Nat := [0x18, 0x20, 0x28, 0x30, 0x38, 0x40, 0x48]

/-- Staged register offsets outside the BED blocks. -/
def otherStaged : List Nat :=
  ((List.range 24).flatMap fun n => [linkReg n 8, linkReg n 0x40, linkReg n 0x48, linkReg n 0x50]) ++
  [nodeReg, kvxReg0, kvxReg1, limitsReg, throttleReg, ctrlReg false, retire0Reg false, retire1Reg, ctrlReg true,
   retire0Reg true, licenceReg, twinCfgReg]

/-- The bed and the register of an offset in the BED blocks. -/
def bedOff (off : Nat) : Option (Nat × Nat) :=
  if 0x0208000 ≤ off ∧ off < 0x0288000 then some ((off - 0x0208000) / 0x4000, (off - 0x0208000) % 0x4000) else none

/-- Whether an offset is a stageable register: those of a bed while it is not ABSENT (R575). -/
def State.stageable (s : State) (off : Nat) : Bool :=
  match bedOff off with
  | some (b, r) => bedStaged.contains r && s.bedExists b
  | none => otherStaged.contains off

/-- Every stageable offset, ascending. -/
def State.stageables (s : State) : List Nat :=
  (bedNums.filter s.bedExists).flatMap (fun b => bedStaged.map (bedReg b)) ++ otherStaged

/-- Whether the settings store keeps a register (R491, R575). -/
def storedReg (off : Nat) : Bool := (bedOff off).isNone && off != licenceReg && off != twinCfgReg

/-- The reserved bits of a stageable register. -/
def stagedReserved (off : Nat) : List (Nat × Nat) :=
  match bedOff off with
  | some (_, r) => match r with
    | 0x20 => [(24, 40)] | 0x28 => [(22, 10), (54, 10)] | 0x30 => [(24, 40)] | 0x40 => [(2, 6), (48, 16)] | 0x48 => [(18, 46)]
    | _ => []
  | none =>
    if off = kvxReg0 then [(20, 12)] else if off = kvxReg1 then [(1, 63)]
    else if off = limitsReg then [(32, 32)] else if off = throttleReg then [(2, 62)]
    else if off = ctrlReg false ∨ off = ctrlReg true then [(25, 7), (40, 24)]
    else if off = retire0Reg true then [(32, 32)] else if off = licenceReg then [(5, 59)]
    else if off = twinCfgReg then [(34, 30)] else if off = nodeReg then [(16, 48)]
    else if 0x0800000 ≤ off ∧ off < 0x0980000 then match off % 0x10000 with
      | 8 => [(7, 1), (22, 2), (48, 16)] | 0x40 => [(48, 16)] | _ => []
    else []

/-- Whether a register's fields lie in their ranges (R338, R399, R445, R471, R485). -/
def stagedInRange (off v : Nat) : Bool :=
  match bedOff off with
  | some (_, r) => match r with
    | 0x40 => decide (1 ≤ bitsAt v 16 16) && decide (bitsAt v 16 16 ≤ 4096) && decide (bitsAt v 32 8 ≤ bitsAt v 40 8)
    | 0x48 => decide (1 ≤ bitsAt v 0 18) && decide (bitsAt v 0 18 ≤ 200000)
    | _ => true
  | none =>
    if off = kvxReg0 then decide (1 ≤ bitsAt v 16 4) && decide (10 ≤ bitsAt v 32 16) && decide (10 ≤ bitsAt v 48 16) &&
      decide (bitsAt v 48 16 ≤ 60000)
    else if off = limitsReg then decide (1 ≤ bitsAt v 0 16) && decide (100 ≤ bitsAt v 16 16)
    else if off = throttleReg then bitsAt v 0 2 != 3
    else if off = ctrlReg false ∨ off = ctrlReg true then decide (1 ≤ bitsAt v 32 8)
    else if off = nodeReg then bitsAt v 0 16 != 0xFFFF
    else if 0x0800000 ≤ off ∧ off < 0x0980000 ∧ off % 0x10000 = 8 then
      decide (1500 ≤ bitsAt v 8 14) && decide (bitsAt v 8 14 ≤ 9216)
    else true

/-! ### Claims (R350, R378, R396, R418, R446) -/

/-- A claim: the resource's kind and number, and the claimant's code. -/
structure Claim where
  kind : Nat
  num : Nat
  code : Nat
deriving DecidableEq, Repr

/-- Settings as claims see them: a register's value, and a bed's rectangle. -/
structure Settings where
  get : Nat → Nat
  beds : List (Nat × Nat × Nat × Nat × Nat)   -- bed, x0, y0, w, h

/-- The live settings. -/
def State.liveSet (s : State) : Settings :=
  { get := s.cfgAt, beds := (bedNums.filter s.bedExists).map fun b =>
      let bd := s.bed b
      (b, bd.x0, bd.y0, bd.w, bd.h) }

/-- The shadow bank's settings. -/
def State.shadowSet (s : State) : Settings := { s.liveSet with get := s.shadowAt }

/-- A port's role in a set of settings. -/
def Settings.role (g : Settings) (n : Nat) : Nat := g.get (linkReg n 8) % 4

/-- Every claim of a set of settings, ascending by resource (R418). `twinHere` says at which ports the twin link sits. -/
def Settings.claims (g : Settings) (twinHere : Nat → Bool) : List Claim :=
  ((List.range 24).flatMap fun n =>
    (match g.role n with | 0 => [⟨1, n, 0x01⟩] | 2 => [⟨1, n, 0x03⟩] | _ => []) ++
    (if twinHere n then [⟨1, n, 0x02⟩] else []) ++
    g.beds.filterMap fun b => if bitAt (g.get (bedReg b.1 0x20)) n then some ⟨1, n, 5 + 256 * b.1⟩ else none) ++
  ((List.range 64).flatMap fun c =>
    (if bitAt (g.get kvxReg1) 0 && decide (60 ≤ c) then [⟨2, c, 0x04⟩] else []) ++
    g.beds.filterMap fun b => if bitAt (g.get (bedReg b.1 0x18)) c then some ⟨2, c, 5 + 256 * b.1⟩ else none) ++
  (List.range 80).flatMap fun p =>
    g.beds.filterMap fun (b, x0, y0, w, h) =>
      if decide (x0 ≤ p % 10) && decide (p % 10 < x0 + w) && decide (y0 ≤ p / 10) && decide (p / 10 < y0 + h) then
        some ⟨6, p, 5 + 256 * b⟩ else none

/-- Whether two claims on one resource cannot hold together (R418): all do but a bed's port in the Ruxel or Ethernet role, which its
streams to KIND 1 and KIND 2 targets can use (log 205). -/
def Claim.clash (a b : Claim) : Bool :=
  a.kind == b.kind && a.num == b.num && a.code != b.code &&
  !(a.kind == 1 && ((a.code % 256 == 5 && (b.code == 1 || b.code == 3)) || (b.code % 256 == 5 && (a.code == 1 || a.code == 3))))

/-- Insert by code. -/
def claimInsert (x : Claim) : List Claim → List Claim
  | [] => [x]
  | y :: ys => if x.code ≤ y.code then x :: y :: ys else y :: claimInsert x ys

/-- The first conflict of a set (R418): ascending kind and number; a live claim comes first, else the lower code. -/
def firstConflict (live new : List Claim) : Option (Nat × Nat × Nat × Nat) :=
  let res := (new.map fun c => (c.kind, c.num)).eraseDups
  res.findSome? fun r =>
    let cs := (new.filter fun c => (c.kind, c.num) == r).foldr claimInsert []
    let cs := cs.filter live.contains ++ cs.filter fun c => !live.contains c
    (cs.zipIdx).findSome? fun x => ((cs.drop (x.2 + 1)).find? (Claim.clash x.1)).map fun y =>
      (r.1, r.2, x.1.code, y.code)

/-- Ports where a set has the twin link (R30, R446): its twin-role ports; a set that gives the role to one port alone leaves
the link on its live ports as well (log 31). -/
def State.twinPorts (s : State) (g : Settings) (n : Nat) : Bool :=
  let mine := (List.range 24).filter fun k => g.role k == 1
  mine.contains n || (mine.length == 1 && s.role n == 1)

/-! ### The checks (R417) -/

/-- Why a set is refused: status and the record's fields. -/
structure Conflict where
  status : Status
  detail : Nat := 0
  r0 : Nat := 0
  r1 : Nat := 0
  r2 : Nat := 0
deriving DecidableEq, Repr

/-- Claims of a set against the live ones, and the clearing of EWEID_ENABLE under an active export (R350): that record's
second claimant is not given (log 33). -/
def State.claimCheck (s : State) (g : Settings) : Option Conflict :=
  let live := s.liveSet.claims (s.twinPorts s.liveSet)
  match firstConflict live (g.claims (s.twinPorts g)) with
  | some (k, n, a, b) => some { status := .resourceConflict, detail := k, r0 := n, r1 := a, r2 := b }
  | none =>
    if s.eweidOn && !bitAt (g.get kvxReg1) 0 && s.tx.any (fun t => t.target.eweid && !t.finished) then
      some { status := .resourceConflict, detail := 2, r0 := 60, r1 := 4, r2 := (Config.freeValue 32 s.draws).toNat }
    else none

/-- Bytes of HBM3E or LPDDR5X that frames may take in active channels. -/
def State.bedsOf (s : State) (g : Settings) : List Nat := (g.beds.map (·.1)).filter s.bedExists

/-- The allotments of a set, applied: shrinking ones first (R422). -/
def State.resizeAll (s : State) (g : Settings) : Option State :=
  let jobs := (s.bedsOf g).flatMap fun b =>
    let o := s.cfgAt (bedReg b 0x28)
    let n := g.get (bedReg b 0x28)
    [(b, false, bitsAt o 0 22, bitsAt n 0 22), (b, true, bitsAt o 32 22, bitsAt n 32 22)]
  let order := jobs.filter (fun j => decide (j.2.2.2 < j.2.2.1)) ++ jobs.filter fun j => decide (j.2.2.1 < j.2.2.2)
  order.foldl (fun m j => match m with
    | some s => s.resizeFrames j.1 j.2.1 j.2.2.1 j.2.2.2
    | none => none) (some s)

/-- STAGE_CHECK's checks, in order (R417, R422, R446, R545). -/
def State.checkSet (s : State) : Option Conflict :=
  let g := s.shadowSet
  let roles := (List.range 24).map g.role
  let en := g.get licenceReg
  if s.stageables.any (fun o => !stagedInRange o (g.get o)) ||
      (List.range 24).any (fun n => roles.getD n 0 == 2 && decide (n < 16)) ||
      decide (2 < (roles.filter (· == 1)).length) then some { status := .badParameter }
  else if Nat.land en s.sec.licIn != en || (roles.contains 2 && !bitAt en 0) || (g.beds.any (fun b => decide (3 < b.1)) && !bitAt en 2) ||
      (bitAt (g.get kvxReg1) 0 && !bitAt en 4) then some { status := .licenceRequired }
  else match s.claimCheck g with
  | some c => some c
  | none =>
    let quota (b : Nat) : Nat := bitsAt (g.get (bedReg b 0x48)) 0 18
    if decide (200000 < sumNat (g.beds.map fun b => quota b.1)) ||
        (s.bedsOf g).any (fun b => decide (quota b < s.openSessions b) ||
          decide (bitsAt (g.get (bedReg b 0x28)) 0 22 < wsReserve (s.bed b))) ||
        (s.resizeAll g).isNone then some { status := .capacity }
    else none

/-- Reject a packet under a conflict report (R378). -/
def State.rejectSet (s : State) (p : PktRef) (c : Conflict) : State :=
  { s with draws := s.draws + 1 }.finish p {
    status := c.status.code, detail := c.detail, r0 := c.r0, r1 := c.r1, r2 := c.r2 }

/-! ### The commit (R419–R422) -/

/-- A port's role has changed: it goes down and retrains in its new role; in none it stays DOWN (R446). -/
def State.roleChange (s : State) (n : Nat) : State :=
  if s.role n = 3 then
    let had := (s.port n).active != 0
    let s := (s.updPort n fun p => { p with st := .down, cause := .none, active := 0, nego := none }).streamsDown n
    if had then s.raiseEpoch 0 0xFFFFFFFF n else s
  else (s.updPort n fun p => { errCorr := p.errCorr, errUncorr := p.errUncorr, replay := p.replay, rxDrop := p.rxDrop
                               active := p.active }).startTraining n 1000000

/-- Bits newly set in a RETIRE register mark their channels (R438). -/
def State.markNew (s : State) (old : Nat → Nat) : State :=
  ((List.range 160).filter fun c =>
    let off := if c < 64 then retire0Reg false else if c < 128 then retire1Reg else retire0Reg true
    bitAt (s.cfgAt off) (c % 64) && !bitAt (old off) (c % 64)).foldl (fun s c => s.markChannel c 4) s

/-- Every value of the set takes effect in one A-cycle (R415, R419, R422, R438, R446, R479, R491). -/
def State.installSet (s : State) (fr : State) : State :=
  let g := s.shadowSet
  let offs := s.stageables
  let old := s.cfgAt
  let changed := offs.filter fun o => g.get o != old o
  let s' := { fr with
    cfg := changed.foldl (fun m o => mset (regReset o) m o (BitVec.ofNat 64 (g.get o))) fr.cfg
    flash := { fr.flash with store := (changed.filter storedReg).foldl (fun m o =>
      mset none m o (some (BitVec.ofNat 64 (g.get o)))) fr.flash.store }
    shadow := []
    mark := { fr.mark with cfg := some (fr.mark.cfg.getD s.cfg) }
    stage := { fr.stage with checked := false, commits := fr.stage.commits + 1 } }
  let s' := ((List.range 24).filter fun n => s'.role n != old (linkReg n 8) % 4).foldl State.roleChange s'
  let s' := if s'.cfgAt throttleReg = old throttleReg then s' else s'.repend
  (s'.markNew old).assignDma

/-- Apply the pending commit (R419): the checks again, then all or nothing; its record carries this A-cycle's time. -/
def State.applyCommit (s : State) : State :=
  let ref := s.stage.ref
  let s := { s with stage := { s.stage with pending := false, ref := none, mode := 0, bed := 0, at_ := 0 } }
  match s.checkSet, s.resizeAll s.shadowSet with
  | some c, _ => match ref with
    | some p => s.rejectSet p c
    | none => s
  | none, none => s
  | none, some fr =>
    let s := s.installSet fr
    match ref with
    | some p => s.finish p {}
    | none => s

/-- Cancel a pending commit (R421): its packet completes with BED_RESET. -/
def State.cancelCommit (s : State) : State :=
  if !s.stage.pending then s
  else
    let ref := s.stage.ref
    let s := { s with stage := { s.stage with pending := false, ref := none, mode := 0, bed := 0, at_ := 0 } }
    match ref with
    | some p => s.finish p { status := Status.bedReset.code }
    | none => s

/-- Cancel a mode-1 commit that names a bed (R421). -/
def State.cancelCommitOf (s : State) (b : Nat) : State :=
  if s.stage.mode = 1 ∧ s.stage.bed = b then s.cancelCommit else s

/-! ### Commands -/

/-- The records of a STAGE_WRITE (R370): up to the last that is not all zero. -/
def stageRecords (p : List Byte) (n : Nat) : List (Nat × Nat) :=
  let all := (List.range n).map fun i => (leField p (16 * i) 8, leField p (16 * i + 8) 8)
  (all.reverse.dropWhile fun (r : Nat × Nat) => r.1 == 0 && r.2 == 0).reverse

/-- STAGE_WRITE (R416): every record, or none. -/
def execStageWrite (b q : Nat) (s : State) : Out1 :=
  .next (s.command b q 0x60 fun s k =>
    let rs := stageRecords k.payload (4 * k.plen)
    let bad := rs.findIdx? fun r =>
      s.stage.pending || r.1 % 8 != 0 || !s.stageable r.1 || (stagedReserved r.1).any fun f => bitsAt r.2 f.1 f.2 != 0
    match (if rs.isEmpty then some 0 else bad) with
    | some i => s.finish k.ref { status := Status.badParameter.code, r3 := i }
    | none =>
      let s := { s with
        shadow := rs.foldl (fun (m : SMap (Option Word)) (r : Nat × Nat) => mset none m r.1 (some (BitVec.ofNat 64 r.2))) s.shadow
        stage := { s.stage with checked := false } }
      s.finish k.ref {})

/-- STAGE_CHECK (R417). -/
def execStageCheck (b q : Nat) (s : State) : Out1 :=
  .next (s.command b q 0x61 fun s k =>
    match s.checkSet with
    | some c => s.rejectSet k.ref c
    | none => { s with stage := { s.stage with checked := true } }.finish k.ref {})

/-- A bed's step can seal in this A-cycle (R482): the barrier has reported, every page writer and walk-end check is done, every sampler
job has ended. A reset and a commit that fall in the A-cycle wait for it (R414, R420). -/
def State.sealable (s : State) (b : Nat) : Bool :=
  let bd := s.bed b
  s.runs && (s.boot.computeEnd.isNone || bd.asked != 0) && bd.st == .ready && match bd.step with
    | none => false
    | some t =>
      (match t.doneAt with | some d => decide (d ≤ s.acyc) | none => false) &&
        t.seqs.all fun q => decide ((s.ses q.index).layers ≤ q.layers.length) && (q.token.isSome && decide (q.tokenAt ≤ s.acyc) || !q.last)

/-- STAGE_COMMIT (R419, R420, R538). -/
def execStageCommit (b q : Nat) (s : State) : Out1 :=
  .next (s.command b q 0x62 fun s k =>
    let mode := bitsAt k.a0 0 2
    let bed := bitsAt k.a0 4 5
    if s.sec.upd = .window then s.reject k.ref .updateSequence
    else if !s.stage.checked || s.stage.pending || (mode == 2 && decide (k.a1 ≤ s.now)) then
      s.reject k.ref .badParameter
    else
      let s := { s with stage := { s.stage with
        pending := true, mode := mode, bed := if mode = 1 then bed else 0, at_ := if mode = 2 then k.a1 else 0, ref := some k.ref } }
      if mode = 0 then s.applyCommit else s)

/-- A mode-2 commit applies once the timebase has reached its value (R420). -/
def State.commitTime (s : State) : State :=
  if s.runs && s.stage.pending && s.stage.mode == 2 && decide (s.stage.at_ ≤ s.now) then s.applyCommit else s

/-- STAGE_COMMIT_TIME (R420): a seal that falls in the A-cycle takes effect first. -/
def execStageCommitTime (s : State) : Out1 := .next (if bedNums.any s.sealable then s else s.commitTime)

end Sys2Proof.Machine
end

