-- ==== Sys2Proof/Machine/Beds.lean ====
section
/-!
DEFINITION. Beds (R384, R389, R393–R397, R409–R414, R495): creation, destruction, bed resets, function-level resets, compute
resets and D3hot.
-/
namespace Sys2Proof.Machine

/-! ### Creation (R395, R396) -/

/-- Live values a new bed's registers take from its description block (R395, R399). -/
def bedSettings (b w : Nat) : List (Nat × Nat) :=
  [(bedReg b 0x18, bitsAt w 64 64), (bedReg b 0x20, bitsAt w 128 24),
   (bedReg b 0x28, bitsAt w 160 22 + 2 ^ 32 * bitsAt w 192 22), (bedReg b 0x30, bitsAt w 320 64),
   (bedReg b 0x38, bitsAt w 384 64),
   (bedReg b 0x40, (regReset (bedReg b 0x40)).toNat + bitsAt w 16 2), (bedReg b 0x48, bitsAt w 32 18)]

/-- BED.Q0_CFG with ENABLE clear. -/
def q0Off (v : Nat) : Nat := if bitAt v 16 then v - 65536 else v

/-- A queue removed without records: what is not fetched is discarded (R400). -/
def Queue.goes (u : Queue) : Queue := { u with gone := true, tail := u.head }

/-- The bed a description block makes, READY, with INTR_EN 0 and queue 0 disabled (R396, R399, R400). The PF's other queues, and what it
has fetched and holds, stay when bed 0 is made (log 26). -/
def State.newBed (s : State) (b w site : Nat) : Bed :=
  let old := s.bed b
  { st := .ready, x0 := bitsAt w 0 4, y0 := bitsAt w 4 3, w := bitsAt w 7 4 + 1, h := bitsAt w 11 3 + 1, fsize := bitsAt w 14 2
    ch := 256 * (bitsAt w 224 12 + 1), pw := bitsAt w 236 12, arenaBase := site, arenaSize := 0x100000 * bitsAt w 256 16
    win := old.win, sq0Base := old.sq0Base, cq0Base := old.cq0Base
    q0cfg := q0Off old.q0cfg, cqMod := old.cqMod
    queues := if b = 0 then mmap none (fun q u => if q = 0 then u.map Queue.goes else u) old.queues else []
    exporting := if b = 0 then old.exporting else [], fetched := if b = 0 then old.fetched else []
    held := if b = 0 then old.held else [], reserve := if b = 0 then old.reserve else 0
    stuck := if b = 0 then old.stuck else 0, fetchTurn := if b = 0 then old.fetchTurn else (0, 0) }

/-- Install a bed with its frames (R271, R395, R430), or none where something does not fit. -/
def State.makeBed (s : State) (b w : Nat) : Option State :=
  match s.arenaSite (0x100000 * bitsAt w 256 16) with
  | none => none
  | some site =>
    let s := s.setBed b (s.newBed b w site)
    let s := (bedSettings b w).foldl (fun (s : State) (x : Nat × Nat) => s.setCfg x.1 (BitVec.ofNat 64 x.2)) s
    match s.addFrames b false (bitsAt w 14 2) (bitsAt w 160 22) with
    | none => none
    | some s => s.addFrames b true (bitsAt w 14 2) (bitsAt w 192 22)

/-- BED_CREATE (R394–R396). -/
def execBedCreate (b q : Nat) (s : State) : Out1 :=
  .next (s.command b q 0x70 fun s k =>
    let n := bitsAt k.a0 0 5
    let w := leField k.payload 0 64
    let x0 := bitsAt w 0 4
    let y0 := bitsAt w 4 3
    let bw := bitsAt w 7 4 + 1
    let bh := bitsAt w 11 3 + 1
    if decide (3 < n) && !s.licensed 2 then s.reject k.ref .licenceRequired
    else if s.bedExists n || decide (10 < x0 + bw) || decide (8 < y0 + bh) || bitsAt w 32 18 == 0 ||
        decide (200000 < bitsAt w 32 18) || bitsAt w 236 12 == 0 || bitsAt w 256 16 == 0 then s.reject k.ref .badParameter
    else
      let get (o : Nat) : Nat := match (bedSettings n w).find? fun x => x.1 == o with
        | some x => x.2
        | none => s.cfgAt o
      let live := s.liveSet.claims (s.twinPorts s.liveSet)
      let new : Settings := { get := get, beds := s.liveSet.beds ++ [(n, x0, y0, bw, bh)] }
      match firstConflict live (new.claims (s.twinPorts s.liveSet)) with
      | some (kd, r, c1, c2) => s.rejectSet k.ref { status := .resourceConflict, detail := kd, r0 := r, r1 := c1, r2 := c2 }
      | none =>
        let enabled := (rectNibs { x0 := x0, y0 := y0, w := bw, h := bh }).any s.nibOn
        let quotas := sumNat (s.liveSet.beds.map fun x => s.quota x.1) + bitsAt w 32 18
        match (if !enabled || decide (200000 < quotas) then none else s.makeBed n w) with
        | none => s.reject k.ref .capacity
        | some s => s.finish k.ref { r0 := n })

/-! ### Bed resets (R410–R412) -/

/-- A nib reset (R105), with the store zeroed at once and writes refused while it lasts; the accumulator store is zeroed
with a bed reset (R412). Rows that wait in its arrival buffers go, uncounted (log 178). NIB.STATE reads IDLE from its first A-cycle on
(log 204). -/
def nibReset (n : Nib) (upto : Nat) : Nib :=
  { n with
    st := match n.st with | .disabled => .disabled | .fenced => .fenced | _ => .idle
    slots := [], handles := [], tallies := [], tags := [], acc := [], accUpset := [], pad := [], padUpset := [], padFl := []
    script := [], scriptUpset := [], hold := .none, loops := [], phase := {}, acts := [], stopAt := none, prow := [], wq := []
    abuf := [], forcedAt := [], signalled := false, issuedM := false, issuedV := false, issuedX := false, issuedC := false, pc := 0
    resetTo := upto }

/-- Rows on the mesh towards a bed's nibs are dropped and counted (R410). -/
def State.dropMesh (s : State) (b : Nat) : State :=
  let hit := s.mesh.filter fun x => x.2.bed == b
  let s := { s with mesh := s.mesh.filter fun x => x.2.bed != b }
  hit.foldl (fun s x => s.updNib x.2.nib fun n => { n with asyncDrop := n.asyncDrop + 1 }) s

/-- A bed's copies end unpublished; their target frames are FREE again, its DMA channels take nothing more (R410). -/
def State.dropCopies (s : State) (b : Nat) : State :=
  let mine := s.copies.filter fun k => (s.ses k.index).bed == b
  let s := { s with
    copies := s.copies.filter fun k => (s.ses k.index).bed != b
    dma := mmap {} (fun _ d => if d.job.isSome ∧ d.bed = b then { d with job := none } else d) s.dma }
  mine.foldl (fun s k => k.moves.foldl (fun s m => s.updFrame k.toLp m.2 fun f =>
    if f.st = .copying then { f with st := .free, owner := 0, pos := 0 } else f) s) s

/-- A bed's sampler jobs are discarded (R410). -/
def State.dropJobs (s : State) (b : Nat) : State :=
  { s with samp := mmap {} (fun _ x => match x.job with
      | some j => if j.1 = b then { x with job := none } else x
      | none => x) s.samp }

/-- A packet's later record is not due any more: what waits for it forgets it (R384). -/
def State.forgetRef (s : State) (p : PktRef) : State :=
  { s with
    stage := if s.stage.ref = some p then { s.stage with ref := none } else s.stage
    sec := if s.sec.activate = some p then { s.sec with activate := none } else s.sec
    tx := s.tx.map fun t => if t.ref = some p then { t with ref := none } else t
    beds := mmap {} (fun _ bd => { bd with destroy := if bd.destroy = some p then none else bd.destroy }) s.beds }

/-- Remove a bed's queues without records (R360, R384, R397): what waits in the hold area for them goes too, and no export record is due
any more. -/
def State.removeQueues (s : State) (b : Nat) : State :=
  ((s.bed b).exporting.foldl State.forgetRef s).updBed b fun bd => { bd with
    queues := [], cqMod := [], q0cfg := q0Off bd.q0cfg, fetched := [], exporting := [], reserve := 0, stuck := 0, held := [] }

/-- Every fetched, unfinished packet of a bed but `keep` completes with BED_RESET (R384, R411); a LIST_SWAP not yet applied is
rejected with BED_NOT_READY (R414). -/
def State.abortFetched (s : State) (b : Nat) (keep : Option PktRef) : State :=
  ((s.bed b).fetched.filter fun p => some p != keep).foldl (fun s p =>
    (s.forgetRef p).finish p { status := if p.op = 0x52 then Status.bedNotReady.code else Status.bedReset.code })
    (s.updBed b fun bd => { bd with queues := mmap none (fun _ q => q.map fun u => { u with
      taken := none, deleting := none }) bd.queues })

/-- A CANCEL taken and not yet acted on waits for its request's end like one that was (R377, R414). -/
def State.joinCancels (s : State) (b : Nat) : State :=
  (s.bed b).queues.foldl (fun (s : State) e => match e.2 with
    | none => s
    | some u => match u.taken with
      | none => s
      | some k =>
        if k.ref.op ≠ 0x38 then s
        else match s.sesOk b k.session with
          | none => s
          | some i => match s.reqOf i with
            | none => s
            | some r => if r.ref.tag = k.a0 then s.updReq i fun r => { r with cancels := r.cancels ++ [k.ref] } else s) s

/-- End every request of a bed with BED_RESET (R411): an import keeps what its sender committed (R344). -/
def State.abortRequests (s : State) (b : Nat) : State :=
  ((s.bed b).reqs.map fun r => (r.index, r.kind)).foldl (fun s x =>
    if x.2 = .kvImport then s.endImport x.1 .bedReset else s.dropRequest x.1 .bedReset) s

/-- Start a bed reset (R410, R411): `keep` keeps the sessions, `destroy` is for BED_DESTROY, whose own packet stays open. The nibs issue
until the A-cycle ends, and their reset begins with the next (`State.resetNibs`). -/
def State.startReset (s : State) (b : Nat) (keep destroy : Bool) : State :=
  let was := s.bed b
  let upto := s.acyc + 4097
  let s := s.updBed b fun bd => { bd with
    asked := 0, st := if destroy then .destroying else .resetting
    faultCode := if bd.st = .faulted then bd.faultCode else Status.bedReset.code
    intrEn := false, resetEnd := some upto, step := none, next := none }
  let s := ((s.dropMesh b).dropCopies b).dropJobs b
  let s := (rectNibs was).foldl (fun s p => s.updNib p fun n => { n with resetTo := upto }) s
  let s := (s.tx.filter fun t => t.bed == b && !t.finished).foldl (fun s t => s.abortStream t.num 0x49 t.lastC) s
  let s := s.cancelCommitOf b
  let s := (s.joinCancels b).abortRequests b
  let s := s.updBed b fun bd => { bd with models := mmap none (fun _ m => m.map fun x => { x with slots := [] }) bd.models, loads := [] }
  let s := s.abortFetched b was.destroy
  let s := (mkeys (fun _ e => e.st != .free && e.bed == b) s.sessions).foldl (fun s i => s.drain (s.sesNumber i)) s
  if keep then s
  else (mkeys (fun _ e => e.st != .free && e.bed == b && !e.mirror) s.sessions).foldl State.closeNow s

/-- The nib resets of the bed resets that began in the A-cycle that has ended (R105, R410). -/
def State.resetNibs (s : State) : State :=
  (mkeys (fun _ (bd : Bed) => bd.resetEnd == some (s.acyc + 4096)) s.beds).foldl (fun s b =>
    (rectNibs (s.bed b)).foldl (fun s p => s.updNib p fun n => nibReset n (s.acyc + 4096)) s) s

/-- A bed reset that was ordered: 1 keeps the queues, 2 removes them (R384, R409), 3 is BED_DESTROY's (R397). -/
def State.runReset (s : State) (b kind : Nat) : State :=
  if kind = 1 then s.startReset b (s.keepSessions b) false
  else if kind = 2 then (s.startReset b (s.keepSessions b) false).removeQueues b
  else s.startReset b false true

/-- Order a bed reset: a step that can seal in this A-cycle seals first (R414). -/
def State.orderReset (s : State) (b kind : Nat) : State :=
  if s.sealable b then s.updBed b fun bd => { bd with asked := max bd.asked kind } else s.runReset b kind

/-- The resets that waited for a seal start (R414). -/
def State.askedResets (s : State) : State :=
  (mkeys (fun _ (bd : Bed) => bd.asked != 0) s.beds).foldl (fun s b => s.runReset b (s.bed b).asked) s

/-- BED_DESTROY's last steps (R397): queues, plots, channels, ports, frames, quota and arena go back, the bed is ABSENT, and
the packet completes. -/
def State.finishDestroy (s : State) (b : Nat) : State :=
  let bd := s.bed b
  let s := (mkeys (fun _ e => e.bed == b && e.st != .free) s.sessions).foldl (fun s i =>
    s.updSes i fun e => { inc := e.inc, maxLen := e.maxLen }) s
  let drop (m : SMap (Option Frame)) : SMap (Option Frame) := m.filter fun e => match e.2 with
    | some f => f.bed != b | none => true
  let s := { s with
    frames := drop s.frames, lpFrames := drop s.lpFrames
    pfx := mmap {} (fun _ (e : PfxEntry) => if e.st = PfxSt.valid ∧ e.bed = b then { st := .tombstone } else e) s.pfx
    oldGens := s.oldGens.filter fun g => g.bed != b
    rx := s.rx.filter fun r => r.bed != b, imports := s.imports.filter fun r => r.bed != b
    cfg := bedStaged.foldl (fun m r => merase m (bedReg b r)) s.cfg
    shadow := bedStaged.foldl (fun m r => merase m (bedReg b r)) s.shadow }
  let keep : List PktRef := bd.fetched.filter fun p => some p == bd.destroy
  let s := bd.exporting.foldl State.forgetRef s
  let s := s.setBed b {
    win := bd.win, held := if b = 0 then bd.held.filter fun h => h.body.event else [], fetched := keep, reserve := sumNat (keep.map fun (p : PktRef) => reserveOf p.op) }
  match bd.destroy with
  | some p => s.finish p {}
  | none => s

/-- BED_DESTROY (R397, R421): a bed already being reset is destroyed when its reset ends (log 35). -/
def execBedDestroy (b q : Nat) (s : State) : Out1 :=
  .next (s.command b q 0x71 fun s k =>
    let n := bitsAt k.a0 0 5
    match (s.bed n).st with
    | .absent | .creating | .destroying => s.reject k.ref .badParameter
    | .resetting =>
      let s := s.updBed n fun bd => { bd with st := .destroying, destroy := some k.ref }
      (mkeys (fun _ e => e.st != .free && e.bed == n && !e.mirror) s.sessions).foldl State.closeNow (s.cancelCommitOf n)
    | _ => (s.updBed n fun bd => { bd with destroy := some k.ref }).orderReset n 3)

/-- A bed reset that keeps the queues, from BED.CTRL.RESET of the PF or of the bed's own function (R409, R414). -/
def State.resetBed (s : State) (b : Nat) : State :=
  match (s.bed b).st with
  | .ready | .faulted => s.orderReset b 1
  | _ => s

/-- A bed reset that removes the queues (R384, R409, R414). -/
def State.resetBedFlr (s : State) (b : Nat) : State :=
  match (s.bed b).st with
  | .ready | .faulted => s.orderReset b 2
  | .absent => if b = 0 then (s.updBed 0 fun bd => { bd with intrEn := false }).removeQueues 0 else s
  | _ => s.updBed b fun bd => { bd with resetFlr := true }

/-- Whether function `f` may act on bed `b`'s block: the PF on any, a VF on its own (R391, R399), in D0 after READY. -/
def State.mayTouch (s : State) (f b : Nat) : Bool := s.ready && s.fnOn f && !s.inD3 f && (f == 0 || f == b)

/-- BED_RESET (R410, R414): a write of 1 to BED.CTRL.RESET. -/
def execBedReset (f b : Nat) (s : State) : Out1 := .next (if s.mayTouch f b then s.resetBed b else s)

/-- BED.CTRL.INTR_EN (R403): once it is 1, messages that waited go out; a reset under way keeps it clear only in its first C-cycle (R576). -/
def State.setIntr (s : State) (b : Nat) (en : Bool) : State :=
  if s.bedExists b || b == 0 then
    let s := s.updBed b fun bd => { bd with intrEn := en }
    if en then s.sendOwed b else s
  else s

/-- INTR_EN (R403): a write of the bit. -/
def execIntrEn (f b : Nat) (en : Bool) (s : State) : Out1 := .next (if s.mayTouch f b then s.setIntr b en else s)

/-! ### Queue 0 (R400) -/

/-- Whether BED.Q0_CFG's fields lie in their ranges, and a ring in HBM in the arena (R357, R400). -/
def q0Ok (bd : Bed) (v : Nat) : Bool :=
  let sq := bitsAt v 0 5
  let cq := bitsAt v 8 5
  decide (6 ≤ sq) && decide (sq ≤ 16) && decide (6 ≤ cq) && decide (cq ≤ 16) && bitsAt v 24 8 != 0 &&
  (!bitAt v 5 || ringInArena bd bd.sq0Base (64 * 2 ^ sq)) && (!bitAt v 13 || ringInArena bd bd.cq0Base (32 * 2 ^ cq))

/-- The fields of BED.Q0_CFG a write sets, ENABLE apart. -/
def q0Fields (v : Nat) : Nat :=
  pack [(6, bitsAt v 0 6), (2, 0), (6, bitsAt v 8 6), (2, 0), (1, 0), (7, 0), (8, bitsAt v 24 8)]

/-- Queue 0 set up from its registers, heads and tails at 0 (R400); a packet already taken from the old queue 0 stays. -/
def State.q0Enable (s : State) (b : Nat) : State :=
  s.updBed b fun bd =>
    let v := bd.q0cfg
    let old := (mget none bd.queues 0).getD {}
    { bd with
      q0cfg := v + 65536
      queues := mset none bd.queues 0 (some {
        sqBase := bd.sq0Base, sqSlots := 2 ^ bitsAt v 0 5, sqHbm := bitAt v 5, weight := bitsAt v 24 8, cqBase := bd.cq0Base
        cqSize := 2 ^ bitsAt v 8 5, cqHbm := bitAt v 13, vector := 0, taken := old.taken }) }

/-- Queue 0 removed: what is not fetched is discarded without records, what is fetched runs on (R400). -/
def State.q0Disable (s : State) (b : Nat) : State :=
  (s.updBed b fun bd => { bd with q0cfg := q0Off bd.q0cfg }).updQueue b 0 Queue.goes

/-- A write of BED.Q0_CFG (R400): while ENABLE is 1 only its clearing acts. -/
def State.writeQ0 (s : State) (b v : Nat) : State :=
  if !(s.bedExists b || b == 0) then s
  else
    let bd := s.bed b
    if bitAt bd.q0cfg 16 then (if bitAt v 16 then s else s.q0Disable b)
    else
      let s := s.updBed b fun bd => { bd with q0cfg := q0Fields v }
      if bitAt v 16 && q0Ok (s.bed b) v then s.q0Enable b else s

/-- Q0_ENABLE (R400): a write of BED.Q0_CFG with ENABLE 1. -/
def execQ0Enable (f b : Nat) (v : Word) (s : State) : Out1 :=
  .next (if s.mayTouch f b && bitAt v.toNat 16 then s.writeQ0 b v.toNat else s)

/-- Q0_DISABLE (R400): a write of BED.Q0_CFG with ENABLE 0. -/
def execQ0Disable (f b : Nat) (v : Word) (s : State) : Out1 :=
  .next (if s.mayTouch f b && !bitAt v.toNat 16 then s.writeQ0 b v.toNat else s)

/-! ### Function-level resets, D3hot, compute reset -/

/-- What an FLR clears of a function itself (R389, R402, R485). -/
def State.resetFn (s : State) (f : Nat) : State := { s with pcie := { s.pcie with fns := merase s.pcie.fns f } }

/-- VF_FLR (R384, R409). -/
def execVfFlr (n : Nat) (s : State) : Out1 :=
  .next (if n = 0 ∨ ¬ s.fnOn n then s else if s.ready then (s.resetBedFlr n).resetFn n else s.resetFn n)

/-- PF_FLR (R409, R421): every bed resets and loses its queues, VF Enable is cleared, a pending commit goes without a
record. -/
def execPfFlr (s : State) : Out1 :=
  .next (
    let s := { s with stage := { s.stage with pending := false, ref := none, mode := 0, bed := 0, at_ := 0 } }
    let s := if s.ready then bedNums.foldl State.resetBedFlr s else s
    { s with pcie := { s.pcie with fns := [], numVfs := 0 } })

/-- D3HOT_ENTRY (R389). -/
def execD3hotEntry (f : Nat) (s : State) : Out1 := .next (if s.fnOn f then s.updFn f fun x => { x with d3 := true } else s)

/-- D0_RETURN (R389): every state is kept; owed messages go out. -/
def execD0Return (f : Nat) (s : State) : Out1 :=
  .next (
    let s := s.updFn f fun x => { x with d3 := false }
    ((if f = 0 then List.range 32 else [f]).filter fun b => s.fnOn b && !s.inD3 b).foldl State.sendOwed s)

/-- A compute reset (R412, R413, R421, R495): every bed resets with its queues kept, a pending commit is cancelled, the mesh
and the scribes restart; it ends within 50 ms. -/
def State.computeReset (s : State) : State :=
  let s := s.cancelCommit
  let s := bedNums.foldl (fun s b => if s.bedExists b || b == 0 then s.updBed b fun bd => { bd with intrEn := false } else s) s
  let s := (bedNums.filter s.bedExists).foldl State.resetBed s
  let hit := s.mesh
  let s := { s with mesh := [] }
  let s := hit.foldl (fun s x => s.updNib x.2.nib fun n => { n with asyncDrop := n.asyncDrop + 1 }) s
  { s with
    draws := s.draws + 1
    boot := { s.boot with computeEnd := some (s.acyc + 4097 + Config.computeResetCycles s.draws % 30000000) } }

end Sys2Proof.Machine
end

