-- ==== Sys2Proof/Machine/Report.lean ====
section
/-!
DEFINITION. The floor plan record (R496–R499) and attestation (R547, R548): FLOOR_PLAN_READ and ATTEST.
-/
namespace Sys2Proof.Machine

/-- A nib's state in the record (R496): 0 enabled, 1 DISABLED, 2 FENCED. -/
def State.nibMark (s : State) (p : Nat) : Nat :=
  match (s.nib p).st with | .disabled => 1 | .fenced => 2 | _ => 0

/-- Nibs in a state of the record; none before step 5 has counted them (R486). -/
def State.nibCount (s : State) (k : Nat) : Nat :=
  if s.boot.meshUp then ((List.range 1280).filter fun p => s.nibMark p == k).length else 0

/-- BOOT.NIBS.BELOW_MIN: fewer than 1,200 nibs are enabled. -/
def State.belowMin (s : State) : Bool := s.boot.meshUp && decide (s.nibCount 0 < 1200)

/-- BOOT.NIBS (R491's table). -/
def State.bootNibs (s : State) : Nat :=
  pack [(11, s.nibCount 0), (11, s.nibCount 1), (11, s.nibCount 2), (1, b2n s.belowMin)]

/-- Bits as bytes, bit 0 first. -/
def bitBytes (n : Nat) (bits : Nat → Bool) : List Byte :=
  leBytes n (((List.range (8 * n)).filter bits).foldl (fun a i => a + 2 ^ i) 0)

/-- Whether a channel is out of service in the record (R496). -/
def State.chanOut (s : State) (c : Nat) : Bool :=
  match (s.chan c).st with | .retired => true | .retiring => true | _ => false

/-- The device section (R496). -/
def State.deviceSection (s : State) : List Byte :=
  leBytes 320 (((List.range 1280).map fun p => s.nibMark p * 4 ^ p).foldl (· + ·) 0) ++
  bitBytes 16 (fun q => s.chanOut q) ++ bitBytes 4 (fun m => s.chanOut (128 + m)) ++
  bitBytes 12 (fun l => !bitAt (s.port (l / 4)).active (l % 4)) ++ bitBytes 4 (fun k => s.scribesOut.contains k) ++
  bitBytes 1 (fun k => k < 4 && (mget {} s.samp k).retired) ++ List.replicate 155 0

/-- A-cycles of a hop between columns i and i + 1 (R18, R497). -/
def hopX (i : Nat) : Nat := if i = 19 then 4 else 1
/-- A-cycles of a hop between rows j and j + 1. -/
def hopY (j : Nat) : Nat := if j = 15 then 4 else 1

/-- The hop block (R497). -/
def hopBlock : List Byte :=
  (List.range 39).map (fun i => BitVec.ofNat 8 (hopX i)) ++ List.replicate 25 0 ++
  (List.range 31).map (fun j => BitVec.ofNat 8 (hopY j)) ++ List.replicate 33 0

/-- BED.RECT (R399). -/
def bedRect (bd : Bed) : Nat := pack [(4, bd.x0), (3, bd.y0), (4, bd.w - 1), (3, bd.h - 1)]

/-- The logical table, padded to 32 bytes (R497). -/
def State.logicalTable (s : State) (b : Nat) : List Byte :=
  let ps := s.bedNibs b
  ps.flatMap (leBytes 2) ++ List.replicate (roundUp (2 * ps.length) 32 - 2 * ps.length) 0

/-- Section header bytes 0–7 (R497), with the bed number and DMA count given. -/
def State.sectionHead (s : State) (b num nch : Nat) : List Byte :=
  leBytes 8 (pack [(5, num), (14, bedRect (s.bed b)), (11, (s.bedNibs b).length), (2, 0), (8, barrierD (s.bed b)), (8, nch)])

/-- BED_DIGEST (R499). -/
def State.bedDigest (s : State) (b : Nat) : List Byte :=
  shake256 16 (s.sectionHead b 0 0 ++ s.logicalTable b ++ hopBlock)

/-- The router a DMA channel attaches to (R19). -/
def dmaRouter (c : Nat) : Nat × Nat := ((MUnit.dma c).router % 40, (MUnit.dma c).router / 40)

/-- A bed section (R497). -/
def State.bedSection (s : State) (b : Nat) : List Byte :=
  let chs := (List.range 64).filter fun c => bitAt (s.dmaMask b) c
  let body := s.logicalTable b ++ hopBlock ++ chs.flatMap fun c =>
    leBytes 4 (pack [(6, c), (2, 0), (6, (dmaRouter c).1), (2, 0), (5, (dmaRouter c).2)])
  s.sectionHead b b chs.length ++ leBytes 8 (64 + body.length) ++ s.bedDigest b ++ List.replicate 32 0 ++ body

/-- The digest of the device section (R496, R548). -/
def State.planDigest (s : State) : List Byte := shake256 16 s.deviceSection

/-- The whole record (R496). -/
def State.floorPlan (s : State) (whole : Bool) (b : Nat) : List Byte :=
  let beds := if whole then bedNums.filter s.bedExists else if s.bedExists b then [b] else []
  let body := (if whole then s.deviceSection else []) ++ beds.flatMap s.bedSection
  leBytes 32 (pack [(16, 0xF1A7), (8, s.sec.cl), (1, b2n s.belowMin), (1, b2n !whole), (6, 0), (32, s.boot.epoch),
    (11, s.nibCount 0), (11, s.nibCount 2), (10, 0), (32, 64 + body.length),
    (128, if whole then leNat s.planDigest else 0)]) ++
  leBytes 32 beds.length ++ body

/-- Write a reply and complete, or reject a buffer that is too small (R368). -/
def State.answer (s : State) (k : Pkt) (bs : List Byte) (r1 : Nat) : State :=
  if k.dbytes < bs.length then s.reject k.ref .badLength 0 bs.length
  else s.replyDone k.ref k.dspace k.daddr bs { r0 := bs.length, r1 := r1 }

/-- FLOOR_PLAN_READ (R496). -/
def execFloorPlanRead (b q : Nat) (s : State) : Out1 :=
  .next (s.command b q 0xB0 fun s k => s.answer k (s.floorPlan (bitAt k.a0 0) b) s.boot.epoch)

/-! ### Attestation (R548) -/

/-- A measurement entry: its kind, its index within the kind, the level of what it measures, its digest. -/
def measurement (kind idx level : Nat) (digest : List Byte) : List Byte :=
  leBytes 4 (pack [(8, kind), (8, idx)]) ++ leBytes 4 level ++ List.replicate 8 0 ++ slice digest 0 32 ++ List.replicate 16 0

/-- The slot the running image came from. -/
def State.runningSlot (s : State) : SMap Byte := if s.sec.running = 0 then s.flash.slotA else s.flash.slotB

/-- Kinds, indices and digests of a report's entries, in order. -/
def State.measured (s : State) (b : Nat) : List (Nat × Nat × List Byte) :=
  let kind (k : Nat) (l : List Licence) : List (Nat × Nat × List Byte) := l.zipIdx.map fun (x : Licence × Nat) =>
    (k, x.2, shake256 32 x.1.bytes)
  let models (c : Nat) : List (List Byte) := (s.bed c).models.filterMap fun e => match e.2 with
    | some m => if m.slots.isEmpty then none else some m.pkg.modelDigest
    | none => none
  let ms := if b = 0 then bedNums.flatMap models else models b
  [(1, 0, Config.componentDigest 1 []), (2, 0, Config.componentDigest 2 s.runningSlot),
   (3, 0, Config.componentDigest 3 s.runningSlot), (4, 0, Config.componentDigest 4 s.runningSlot),
   (5, 0, shake256 32 (mgetRange 0 s.runningSlot 0 128))] ++
  kind 6 (s.flash.licences.filter fun l => leField l.bytes 2 1 == 1) ++
  kind 7 (s.flash.licences.filter fun l => leField l.bytes 2 1 == 2) ++
  [(8, 0, Config.storeDigest s.flash.storeVersion s.flash.store), (9, 0, s.planDigest)] ++
  ms.zipIdx.map fun (x : List Byte × Nat) => (10, x.2, x.1)

/-- The report (R548). Whether an entry's level is a CL or an SVN is not given for each kind: a free value (log 36). -/
def State.attestation (s : State) (b : Nat) (k : Pkt) : List Byte :=
  let ms := s.measured b
  let head := leBytes 12 (pack [(16, 0xA7E5), (8, s.sec.cl),
      (8, b2n s.sec.debug + 2 * b2n (s.sec.upd == .window) + 4 * b2n s.belowMin), (64, s.flash.serial)]) ++
    leBytes 8 k.a0 ++ leBytes 8 k.a1 ++ leBytes 8 k.a2 ++ leBytes 8 k.a3 ++
    leBytes 16 (pack [(64, s.now), (32, s.boot.epoch), (16, ms.length), (8, if b = 0 then 0xFF else b), (8, s.flash.svn)]) ++
    List.replicate 68 0
  let es := ms.zipIdx.flatMap fun (x : (Nat × Nat × List Byte) × Nat) =>
    measurement x.1.1 x.1.2.1 (Config.freeValue 32 (s.draws + x.2)).toNat x.1.2.2
  let body := head ++ es ++ slice s.flash.cert 0 3088
  body ++ slice (Config.falconSign s.draws (shake256 64 body)) 0 1280

/-- ATTEST (R548). -/
def execAttest (b q : Nat) (s : State) : Out1 :=
  .next (s.command b q 0xA0 fun s k =>
    let bs := s.attestation b k
    { s with draws := s.draws + (s.measured b).length + 1 }.answer k bs 0)

end Sys2Proof.Machine
end

