-- ==== Sys2Proof/Machine/Loader.lean ====
section
/-!
DEFINITION. Loads (R199, R220, R263, R290, R501–R504, R508): what a load checks, how it starts, arms and ends, and the
firmware's reload after a bed reset.
-/
namespace Sys2Proof.Machine

/-! ### Images -/

/-- A nib that holds nothing but one image in one slot, as the checks see it. -/
def imageNib (slot cl : Nat) (im : Image) : Nib :=
  { activeSlot := slot
    slots := mset {} [] slot {
      length := im.bundles.length, segBase := im.segBase, segSize := im.segSize, cl := cl, st := .loading }
    handles := im.handles.foldl (fun m h => mset {} m (64 * slot + h.1) h.2) []
    script := msetRange 0 [] 0 im.bundles
    pad := im.pad.foldl (fun m r => mset 0 m (im.segBase * 128 + r.1) r.2) [] }

/-- Insert by logical number. -/
def scriptInsert (x : Script) : List Script → List Script
  | [] => [x]
  | y :: ys => if x.lg ≤ y.lg then x :: y :: ys else y :: scriptInsert x ys

/-- The scripts of one slot of a load, ascending by logical nib (R199). -/
def slotScripts (cl slot : Nat) (ims : List Image) (plan : ShapePlan) : List Script :=
  (ims.flatMap fun im =>
    let n := imageNib slot cl im
    im.nibs.map fun lg => ({ lg := lg, nib := n, len := execLen n im.bundles.length, plan := plan } : Script)).foldr scriptInsert []

/-- The scripts of each slot of a variant, as sets. -/
def Variant.sets (v : Variant) : List (Nat × List Script) := v.slots.map fun x => (x.1, slotScripts v.cl x.1 x.2.1 x.2.2)

/-! ### What the loader works out from the images (R45, R135, R163, R167, R199) -/

/-- Whether the load places a MATMUL's weights: the image brings rows of BHANDLE (log 188). -/
def weightsPlaced (n : Nib) (m : Mat) : Bool :=
  let rows := (m.mode.setRows + 1) * (m.np / 16) * m.knb
  n.pad.any fun r => decide ((r.1 + 65536 - n.hrow m.bh 0) % 65536 < rows)

/-- The largest scale exponent of each column of column block `c` over a MATMUL's own blocks (R45, R167); none where all are NaN. -/
def blockMaxima (n : Nib) (m : Mat) (c : Nat) : List (Option Int) :=
  (List.range 16).map fun j =>
    let es := (List.range m.knb).filterMap fun b =>
      m.fb.scaleExp (rowByte (mget 0 n.pad (n.hrow m.bh ((m.mode.setRows + 1) * (c * m.knb + b)))) j).toNat
    match es with
    | [] => none
    | x :: xs => some (xs.foldl max x)

/-- The MATMULs of a split reduction with a script's `k`-th MATMUL, which together hold the whole reduction of B (R167, R192, R193):
a receiver, and each sender whose KROUTE names its RHANDLE. Those of one handle pair up in script order (log 188). -/
def splitGroup (set : List Script) (x : Script) (m : Mat) (k : Nat) : List (Nib × Mat) :=
  let nth (y : Script) (want : Mat → Bool) (stop : Nat) : Nat := ((matsOf y.nib stop).filter fun z => want z.2).length
  let takes (h : Nat) (d : Mat) : Bool := d.kmode == 2 && d.kroute == h
  let gives (y : Script) (r : Script) (h : Nat) (d : Mat) : Bool :=
    d.kmode == 1 && (y.nib.route d.kroute).nib == r.lg && (y.nib.route d.kroute).handle == h
  let group (r : Script) (h i : Nat) : List (Nib × Mat) := set.flatMap fun y =>
    let own := if y.lg = r.lg then ((matsOf y.nib y.len).filter fun z => takes h z.2)[i]?.toList else []
    (own ++ ((matsOf y.nib y.len).filter fun z => gives y r h z.2)[i]?.toList).map fun z => (y.nib, z.2)
  if m.kmode = 2 then group x m.kroute (nth x (takes m.kroute) k)
  else if m.kmode = 1 then
    let r := x.nib.route m.kroute
    match routeScript set x.nib r with
    | some y => group y r.handle (nth x (gives x y r.handle) k)
    | none => [(x.nib, m)]
  else [(x.nib, m)]

/-- The larger of two maxima, where a NaN scale takes no part. -/
def maxScale (a b : Option Int) : Option Int :=
  match a, b with
  | some a, some b => some (max a b)
  | none, b => b
  | a, none => a

/-- A row of column maxima (R118): cb(c) + 127 in byte c. -/
def maximaRow (cs : List (Option Int)) : Row :=
  BitVec.ofNat 256 (pack (cs.map fun c => (8, ((c.getD 0) + 127).toNat % 256)))

/-- The rows of column maxima the loader writes beside the weights it places (R45, R167). -/
def columnRows (set : List Script) (x : Script) : List (Nat × Row) :=
  (matsOf x.nib x.len).flatMap fun z =>
    let m := z.2
    if !weightsPlaced x.nib m then []
    else
      let g := splitGroup set x m z.1
      (List.range (m.np / 16)).map fun c =>
        (x.nib.hrow m.cmh c, maximaRow (g.foldl (fun a y => List.zipWith maxScale a (blockMaxima y.1 y.2 c)) (List.replicate 16 none)))

/-- What the loader adds to a slot's shape plan: the BSCALE byte that per-tensor weights it places carry (R163), and the LOOPs whose
count comes from a shape register (R135). -/
def planFrom (set : List Script) (p : ShapePlan) : ShapePlan :=
  { p with
    bscale := (p.bscale ++ set.flatMap fun x => (matsOf x.nib x.len).flatMap fun z =>
      if perTensor z.2.fb && weightsPlaced x.nib z.2 then
        [(z.2.sreg, (rowByte (mget 0 x.nib.pad (x.nib.hrow z.2.bh 0)) 0).toNat)] else []).eraseDups
    loops := (p.loops ++ set.flatMap fun x => (List.range x.len).filterMap fun k =>
      let w := x.nib.slotAt k 3
      if slotOp w = 3 ∧ bitAt w 26 then some (fld w 25 23, fld w 22 20, fld w 19 16, fld w 42 27 + 1) else none).eraseDups }

/-- The loader's report on a variant, one entry a macro (R184, R199): slot, logical nib and bundle; occupancy, slot demand, halo mode;
1 where it holds row statistics and 2 where it folds them; then the A-cycles, from its head's, of each readout. -/
def macroReports (v : Variant) (fixedFold : List Nat) : List (List Nat) :=
  v.sets.flatMap fun (slot, set) =>
    let forms := siteForms fixedFold set
    set.flatMap fun x => (List.range x.len).filterMap fun k =>
      let (o, _) := (macroAt x.nib k).getD (0, 0)
      let form := match (siteUses x.nib x.len).find? fun u => u.1 == k with
        | some u => (match forms.find? fun f => f.1 == u.2 with | some (_, some h) => if h then 1 else 2 | _ => 0)
        | none => 0
      let entry (demand halo : Nat) : List Nat :=
        [slot, x.lg, k, o, demand, halo, form] ++ (readoutSpans x.nib k).flatMap fun r => [r.1, r.2]
      match matAt x.nib k, finAt x.nib k, attAt x.nib k with
      | some m, _, _ => some (entry m.demand m.hmode)
      | none, some _, _ => some (entry 0 0)
      | none, none, some a => some (entry a.slots 0)
      | none, none, none => none

/-! ### The package -/

/-- Whether a package is well formed (R370): its container fields lie in their ranges. -/
def packageOk (m : Package) (script : Bool) : Bool :=
  m.script == script && decide (1 ≤ m.layers) && decide (m.layers ≤ 256) && decide (1 ≤ m.hkv) && decide (m.dcode ≤ 2) &&
  decide (1 ≤ m.maxLen) && decide (m.maxLen ≤ 1048576) && decide (m.variants.length ≤ 8) && decide (1 ≤ m.variants.length) &&
  (!script || m.variants.all fun v => v.slots.length == 1) &&
  m.variants.all fun v => !v.slots.isEmpty && v.slots.all fun x => decide (x.1 < 8) && x.2.1.all fun im =>
    decide (1 ≤ im.bundles.length) && decide (im.bundles.length ≤ 8192) && !im.nibs.isEmpty &&
    im.handles.all fun h => decide (h.1 < 64)

/-- The first of a nib's script-store places with room for `len` bundles, outside its other slots (R92; log 55). -/
def Nib.scriptPlace (n : Nib) (slot len : Nat) : Option Nat :=
  let used := n.slots.filterMap fun x => if x.1 = slot ∨ x.2.st = .empty then none else some (x.2.start, x.2.length)
  (0 :: used.map fun x => x.1 + x.2).foldl (fun m a =>
    if decide (a + len ≤ 8192) && used.all fun x => decide (x.1 + x.2 ≤ a) || decide (a + len ≤ x.1) then
      some (match m with | some b => min a b | none => a)
    else m) none

/-! ### Starting (R199, R501) -/

/-- Why a load is refused: a status with DETAIL, and for a script check the logical nib and bundle. -/
structure Refused where
  status : Status
  detail : Nat := 0
  lg : Nat := 0
  bundle : Nat := 0
  r0 : Nat := 0
deriving DecidableEq, Repr

/-- Status of a failed loader check (R199). -/
def checkStatus (k : Nat) : Status :=
  match k with | 1 => .versionUnsupported | 2 => .planMismatch | 8 => .accOvercommit | _ => .scriptRefused

/-- Whether a slot is in use by a step of the bed or by another load (log 56). -/
def slotBusy (bd : Bed) (slot : Nat) : Bool :=
  (match bd.step with | some t => t.slot == slot | none => false) || (match bd.next with | some t => t.slot == slot | none => false) ||
  bd.loads.any fun l => l.images.any fun x => x.1 == slot

/-- The refusals of R263 and R290: pages too large, lists too long, a working set the bed cannot hold. -/
def State.noRoom (s : State) (b : Nat) (m : Package) : Bool :=
  let bd := s.bed b
  let fpp := fppOf m bd.fsize
  decide (64 < fpp) || decide (2 ^ 24 ≤ m.layers * npmOf 1048576 * fpp) ||
  decide (wsReserve bd + s.freeOutside b < workingSet bd m)

/-- The first row and the length of a handle in a slot of a logical nib: the load's, else that of the script armed there. -/
def State.loadHandle (s : State) (b : Nat) (v : Variant) (lg slot h : Nat) : Option (Nat × Nat) :=
  match (v.sets.find? fun x => x.1 == slot).bind fun x => x.2.find? fun y => y.lg == lg with
  | some y => some (y.nib.hrow h 0, y.nib.hlen h)
  | none => match s.physical b lg with
    | none => none
    | some p =>
      let n := s.nib p
      if (mget {} n.slots slot).st = .armed then some (n.rowIn slot h 0, (n.handle slot h).length) else none

/-- What the checks see of a bed. -/
def State.bedView (s : State) (b : Nat) (v : Variant) : BedView :=
  { phys := s.physical b, inside := inRect (s.bed b), handle := s.loadHandle b v }

/-- The loader's checks of a variant, the site forms at check 7 (R199, R220). -/
def State.checkLoad (s : State) (b : Nat) (v : Variant) (fixedFold : List Nat) : Option Refused :=
  let lowest := (v.sets.flatMap fun x => x.2.map (·.lg)).foldl min 2047
  if v.cl != s.sec.cl && v.cl + 1 != s.sec.cl then some { status := .versionUnsupported, detail := 1, lg := lowest }
  else if v.bedDigest != s.bedDigest b then some { status := .planMismatch, detail := 2, lg := lowest }
  else (firstFailure (s.bedView b v) (v.sets.map fun x =>
      let forms := siteForms fixedFold x.2
      (x.2.map (·.withForms forms), forms.filterMap fun f => if f.2.isNone then some f.1 else none))).map fun (k, lg, at_) =>
    { status := checkStatus k, detail := k, lg := lg, bundle := at_ }

/-- The images of a variant, each with its slot. -/
def Variant.images (v : Variant) : List (Nat × Image) := v.slots.flatMap fun x => x.2.1.map fun im => (x.1, im)

/-- The forms a slot's sites take in a load. -/
def Variant.forms (v : Variant) (fixedFold : List Nat) (slot : Nat) : List (Nat × Option Bool) :=
  match v.slots.find? fun x => x.1 == slot with
  | some x => siteForms fixedFold (slotScripts v.cl x.1 x.2.1 x.2.2)
  | none => []

/-- The state a nib that runs no step is in by its slots (R103): LOADING while one receives a script, else ARMED where one is
armed, else IDLE (log 182). -/
def Nib.restState (n : Nib) : NibSt :=
  if n.slots.any fun y => y.2.st == .loading then .loading else if n.slots.any fun y => y.2.st == .armed then .armed else .idle

/-- A nib's slots have changed: at rest, its state follows them. -/
def Nib.rested (n : Nib) : Nib :=
  match n.st with
  | .idle | .loading | .armed => { n with st := n.restState }
  | _ => n

/-- Put an image's slot into a nib, LOADING (R106, R501). -/
def Nib.slotLoading (n : Nib) (slot start cl : Nat) (im : Image) (forms : List (Nat × Option Bool)) : Nib :=
  let sites (h : Bool) : List Nat := forms.filterMap fun f => if f.2 = some h then some f.1 else none
  Nib.rested { n with
    slots := mset {} n.slots slot {
      start := start, length := im.bundles.length, segBase := im.segBase, segSize := im.segSize, st := .loading, cl := cl
      segs := cdiv im.bundles.length 128, digest := im.digest, holdOn := sites true, foldOn := sites false }
    handles := (List.range 64).foldl (fun m h => mset {} m (64 * slot + h)
      (match im.handles.find? fun x => x.1 == h with | some x => x.2 | none => {})) n.handles }

/-- The physical nibs of a bed that take an image. -/
def State.imageNibs (s : State) (b : Nat) (im : Image) : List Nat := im.nibs.filterMap (s.physical b)

/-- Place every image's slot in its nibs; none where a script store has no room. -/
def State.placeImages (s : State) (b cl : Nat) (forms : Nat → List (Nat × Option Bool)) : List (Nat × Image) → Option State
  | [] => some s
  | (slot, im) :: r =>
    match (s.imageNibs b im).foldl (fun (m : Option State) p => match m with
      | none => none
      | some s => match (s.nib p).scriptPlace slot im.bundles.length with
        | none => none
        | some a => some (s.updNib p fun n => n.slotLoading slot a cl im (forms slot))) (some s) with
    | none => none
    | some s => s.placeImages b cl forms r

/-- Start a load of variant `v` of package `m` under handle `h` (R501): its slots go LOADING, the scribe sends every segment.
None where a script store has no room. -/
def State.beginLoad (s : State) (b : Nat) (ref : Option PktRef) (h : Nat) (m : Package) (v : Variant) (reply len space : Nat) :
    Option State :=
  let ims := v.images
  let new : Model := {
    pkg := m, slots := v.slots.map fun x => (x.1, planFrom (slotScripts v.cl x.1 x.2.1 x.2.2) x.2.2), cl := v.cl }
  (s.placeImages b v.cl (v.forms m.fixedFold) ims).map fun s =>
    s.updBed b fun bd => { bd with loads := bd.loads ++ [{
      ref := ref, fn := b, handle := h, model := new, images := ims, first := s.now, lastSent := s.now
      digest := v.bedDigest, reply := reply, replyLen := len, replySpace := space }] }

/-! ### Ending (R503, R504, R508) -/

/-- The bed's reset has waited for a reload: it goes READY now, with the PLAN_RELOADED event (R508). -/
def State.reloaded (s : State) (b h slots : Nat) (st : Status) : State :=
  let s := s.updBed b fun bd => { bd with st := if bd.st = .resetting then .ready else bd.st }
  s.event [b, 0] {
    kind := .planReloaded, status := st.code, r0 := h, r1 := slots, r2 := s.boot.epoch, bed := b }

/-- Empty a slot that a load had begun to fill (R504). -/
def Nib.emptySlot (n : Nib) (slot : Nat) : Nib :=
  if (mget {} n.slots slot).st != .loading then n
  else Nib.rested { n with
    slots := mset {} n.slots slot {}
    handles := (List.range 64).foldl (fun m h => mset {} m (64 * slot + h) {}) n.handles }

/-- A load's slots return to empty (R504), in every nib of the bed: a fence may have moved the logical numbers since. -/
def State.emptySlots (s : State) (b : Nat) (l : Load) : State :=
  (l.images.map (·.1)).eraseDups.foldl (fun s slot =>
    (rectNibs (s.bed b)).foldl (fun s p => s.updNib p fun n => n.emptySlot slot) s) s

/-- The loader report of a variant (R184, R199) as its reply's bytes, whose form is not given; its length fits ARG2's 32 bits. -/
def loaderReport (v : Variant) (fixedFold : List Nat) : List Byte :=
  (Config.loaderReport (macroReports v fixedFold)).take (2 ^ 32 - 1)

/-- The variant a load takes. -/
def Load.variant (l : Load) : Variant :=
  { bedDigest := l.digest, cl := l.model.cl
    slots := l.model.slots.map fun x => (x.1, (l.images.filter fun y => y.1 == x.1).map (·.2), x.2) }

/-- What a nib reports at the end of a failed load: its reason code and bitmap (R504); none where it is READY. -/
def SlotDesc.reason (d : SlotDesc) : Option (Nat × Nat) :=
  match d.report with
  | .ready => none
  | .gaps => some (1, d.bitmap)
  | .digestBad => some (2, d.bitmap)
  | .none => some (3, d.bitmap)

/-- The nibs a LOAD_INCOMPLETE lists, 16 bytes each, ascending (R504). -/
def State.missing (s : State) (b : Nat) (l : Load) : List Byte :=
  (List.range 1280).flatMap fun lg => match s.physical b lg with
    | none => []
    | some p => (l.images.filter fun x => x.2.nibs.contains lg).flatMap fun x =>
        match (mget {} (s.nib p).slots x.1).reason with
        | none => []
        | some (r, bm) => leBytes 16 (pack [(11, lg), (5, 0), (8, r), (40, 0), (64, bm)])

/-- A load ends without success (R504, R508). A LOAD_INCOMPLETE's list is cut to the whole entries its buffer holds
(log 57). -/
def State.failLoad (s : State) (b : Nat) (l : Load) : State :=
  let st : Status := if s.bedDigest b = l.digest then .loadIncomplete else .planMismatch
  let list := s.missing b l
  let s := s.updBed b fun bd => { bd with loads := bd.loads.filter fun x => x.handle != l.handle }
  let s := s.emptySlots b l
  match l.ref with
  | none => s.reloaded b l.handle 0 st
  | some p =>
    if st = .loadIncomplete then s.replyDone p l.replySpace l.reply (list.take (l.replyLen / 16 * 16)) { status := st.code }
    else s.finish p { status := st.code }

/-- A nib's slot goes ARMED, its tallies are cleared (R90), and the rows the loader writes stand in its segment: the image's, then
the column maxima `cms` (R167). -/
def Nib.arm (n : Nib) (slot : Nat) (im : Image) (cms : List (Nat × Row)) : Nib :=
  let n := im.pad.foldl (fun n r => n.padWrite (im.segBase * 128 + r.1) r.2 0) n
  let n := cms.foldl (fun n r => n.padWrite r.1 r.2 0) n
  Nib.rested { n with slots := mupd {} n.slots slot fun d => { d with st := .armed }, tallies := [] }

/-- Another model's slots that a new model takes over leave it. -/
def dropSlots (taken : List Nat) (m : Model) : Model := { m with slots := m.slots.filter fun x => !taken.contains x.1 }

/-- Every slot of a load goes ARMED in one A-cycle, and the load completes (R503, R370, R508). A model already loaded under
the handle gives way to a MODEL_LOAD and takes a SCRIPT_LOAD's slot (log 54). -/
def State.armLoad (s : State) (b : Nat) (l : Load) : State :=
  let digest := s.bedDigest b
  let sets := l.variant.sets
  let cms (slot lg : Nat) : List (Nat × Row) := match sets.find? fun y => y.1 == slot with
    | some y => (match y.2.find? fun z => z.lg == lg with | some z => columnRows y.2 z | none => [])
    | none => []
  let s := l.images.foldl (fun s x => x.2.nibs.foldl (fun s lg => match s.physical b lg with
    | some p => s.updNib p fun n => n.arm x.1 x.2 (cms x.1 lg)
    | none => s) s) s
  let taken := l.model.slots.map (·.1)
  let s := s.updBed b fun bd =>
    let ms := mmap none (fun _ m => m.map (dropSlots taken)) bd.models
    let new : Model := if !l.model.pkg.script then l.model
      else match mget none ms l.handle with
        | some m => { m with slots := m.slots ++ l.model.slots }
        | none => l.model
    { bd with
      models := mset none ms l.handle (some new)
      loads := bd.loads.filter fun x => x.handle != l.handle
      package := if l.model.pkg.script then bd.package else some l.model.pkg
      pkgHandle := if l.model.pkg.script then bd.pkgHandle else l.handle
      armedDigest := if l.model.pkg.script then bd.armedDigest else digest }
  match l.ref with
  | none => s.reloaded b l.handle l.model.slots.length .ok
  | some p =>
    s.replyDone p l.replySpace l.reply (loaderReport l.variant l.model.pkg.fixedFold) { r0 := l.handle, r1 := l.model.slots.length }

/-- Arm every load whose nibs are all READY, where no step runs (R503); one whose bed's digest has changed fails (R504). -/
def State.armReady (s : State) (b : Nat) : State :=
  if (s.bed b).step.isSome then s
  else ((s.bed b).loads.filter (·.ready)).foldl (fun s l =>
    if s.bedDigest b = l.digest then s.armLoad b l else s.failLoad b l) s

/-- The reports of a load's nibs. -/
def State.reports (s : State) (b : Nat) (l : Load) : List LoadRep :=
  l.images.flatMap fun x => (s.imageNibs b x.2).map fun p => (mget {} (s.nib p).slots x.1).report

/-- Once every nib has reported: the load succeeds, or the scribe resends, at most 4 times (R502–R504). -/
def State.loadRound (s : State) (b : Nat) (l : Load) : State :=
  let rs := s.reports b l
  let all := sumNat (l.images.map fun x => x.2.nibs.length)
  if rs.length < all ∨ rs.contains .none then s
  else if rs.all (· == .ready) then
    if s.bedDigest b ≠ l.digest then s.failLoad b l
    else
      let s := s.updBed b fun bd => { bd with
        loads := bd.loads.map fun x => if x.handle = l.handle then { x with ready := true } else x }
      s.armReady b
  else if 4 ≤ l.rounds then s.failLoad b l
  else
    let s := l.images.foldl (fun s x => (s.imageNibs b x.2).foldl (fun s p => s.updNib p fun n => { n with
      slots := mupd {} n.slots x.1 fun d => match d.report with
        | .gaps => { d with report := .none }
        | .digestBad => { d with report := .none, bitmap := 0 }
        | _ => d }) s) s
    s.updBed b fun bd => { bd with loads := bd.loads.map fun x =>
      if x.handle = l.handle then { x with rounds := x.rounds + 1, lastSent := s.now } else x }

/-- The load that a nib's slot belongs to, with the bed. -/
def State.loadOf (s : State) (p slot : Nat) : Option (Nat × Load) :=
  match s.bedOf p with
  | none => none
  | some b => ((s.bed b).loads.find? fun l => l.images.any fun x => x.1 == slot && (s.imageNibs b x.2).contains p).map fun l =>
      (b, l)

/-- A nib reports, and the scribe acts on it. -/
def State.report (s : State) (p slot : Nat) (r : LoadRep) : State :=
  match s.loadOf p slot with
  | none => s
  | some (b, l) =>
    (s.updNib p fun n => { n with slots := mupd {} n.slots slot fun d => { d with report := r } }).loadRound b l

/-! ### After a bed reset (R508, R411) -/

/-- The variant of the bed's package for its digest, where the firmware searches for one (R508). -/
def State.reloadVariant (s : State) (b : Nat) : Option (Package × Variant) :=
  let bd := s.bed b
  match bd.package with
  | none => none
  | some m =>
    if !bd.afterFence && bd.armedDigest == s.bedDigest b then none
    else (m.variants.find? fun v => v.bedDigest == s.bedDigest b).map fun v => (m, v)

/-- The end of a bed reset's own work (R410, R508): a reload starts, or the bed goes READY unarmed. -/
def State.afterReset (s : State) (b : Nat) : State :=
  let bd := s.bed b
  let found := s.reloadVariant b
  let s := s.updBed b fun bd => { bd with afterFence := false }
  match found with
  | none => s.updBed b fun bd => { bd with st := .ready }
  | some (m, v) =>
    let fail (st : Status) : State := (s.updBed b fun bd => { bd with st := .ready }).reloaded b bd.pkgHandle 0 st
    if s.noRoom b m then fail .capacity
    else match s.checkLoad b v m.fixedFold with
      | some r => fail r.status
      | none => match s.beginLoad b none bd.pkgHandle m v 0 0 0 with
        | none => fail .capacity
        | some s => s

end Sys2Proof.Machine
end

