-- ==== Sys2Proof/Machine/Links.lean ====
section
/-!
DEFINITION. Ports as commands and events (R446–R471): training, retraining, lanes, NEGOTIATE, frames, replay, remote writes,
level changes and Ethernet frames.
-/
namespace Sys2Proof.Machine

/-! ### A port's state -/

/-- A LINK event (R379): on the PF and the beds that hold the port. -/
def State.linkEvent (s : State) (n : Nat) (st : Status) : State :=
  s.event (0 :: s.portBeds n) { kind := .link, status := st.code, r0 := n, where_ := n }

/-- Change a port's set of active lanes: each lane that changes raises the epoch once, ascending (R500). -/
def State.setActive (s : State) (n mask : Nat) : State :=
  let old := (s.port n).active
  let s := s.updPort n fun p => { p with active := mask }
  ((List.range 4).filter fun l => bitAt old l != bitAt mask l).foldl (fun s _ => s.raiseEpoch 0 0xFFFFFFFF n) s

/-- A port goes FAILED (R459, R462, R465). -/
def State.failPort (s : State) (n : Nat) (cause : PortCause) (event : Bool) : State :=
  let s := s.updPort n fun p => { p with st := .failed, cause := cause, wasUp := false, everFailed := true, nego := none }
  let s := s.setActive n 0
  if event then s.linkEvent n .linkDown else s

/-- Waiting frames without the rest of a bed's message of which frames have gone. -/
def dropRest (b : Nat) : List TxFrame → List TxFrame
  | [] => []
  | f :: fs => if f.bed = b then (if f.som then f :: fs else dropRest b fs) else f :: dropRest b fs

/-- Replay and receive buffers go, SEQ restarts at 0, credits as when a port comes UP (R453, R461, R468); the rest of a message
of which frames have gone is lost with them. -/
def Port.restart (p : Port) : Port :=
  let f (v : Nat) (x : Vc) : Vc := {
    credits := vcBuffer v, txq := match x.sending with | some b => dropRest b x.txq | none => x.txq }
  { p with
    stream := 0, lanes := [], txSeq := 0, rxSeq := 0, replayBuf := [], fruitless := 0, gap := none, offer := none, turn := false
    vc0 := f 0 p.vc0, vc1 := f 1 p.vc1, vc2 := f 2 p.vc2 }

/-- Every ACT stream over a port ends with LINK_DOWN (R345, R461). An import that came over it ends in a way of R344: by HOLD_LIMIT, for
no message of its stream will come. -/
def State.endPortStreams (s : State) (n : Nat) : State :=
  let s := (s.tx.filter fun t => t.via == .ruxel n).foldl (fun s t => s.endStream t.num 0x60 0) s
  { s with rx := s.rx.filter fun r => !(r.via == .ruxel n && (r.mirror || r.discarded)) }

/-- Streams over a port that is back stop waiting for it (R338). -/
def State.streamsBack (s : State) (n : Nat) : State :=
  { s with tx := s.tx.map fun t => if t.via = .ruxel n ∨ t.via = .eth n then { t with downSince := none } else t }

/-- The level of R459: the highest within both ends' ranges. -/
def commonLevel (cl clmin pcl pmin : Nat) : Option Nat :=
  let l := min cl pcl
  if clmin ≤ l ∧ pmin ≤ l then some l else none

/-- The NODE of the other twin port's peer (R446), where that port is UP. -/
def State.otherTwinPeer (s : State) (n : Nat) : Option Nat :=
  ((List.range 24).find? fun k => k != n && s.role k == 1 && (s.port k).st == .up).map fun k => (s.port k).peer

/-- What a received NEGOTIATE body forbids (R446, R459). -/
def State.negoFault (s : State) (n : Nat) (g : Nego) : Option PortCause :=
  if (commonLevel s.sec.cl (s.sec.cl - 1) g.cl g.clmin).isNone then some .version
  else if g.role ≠ s.role n then some .role
  else if s.role n == 1 && (match s.otherTwinPeer n with | some k => k != g.node | none => false) then some .role
  else none

/-- A port comes UP (R453, R459, R461, R463, R465): a port that was UP and whose peer kept its EPOCH goes on where it was;
every other port starts afresh (log 62). -/
def State.portUp (s : State) (n working : Nat) : State :=
  let p := s.port n
  let eth := s.role n = 2
  let g := p.nego.getD {}
  let lanes := working &&& s.lanesAllowed n &&& (if eth then 15 else g.lanes)
  if lanes = 0 then s.failPort n (if working = 0 then .noSignal else .lanes) p.wasUp
  else
    let same := p.wasUp && (eth || p.peerEpoch == some g.epoch)
    let s := if same then s else s.updPort n Port.restart
    let s := if same || eth then s else s.endPortStreams n
    let s := s.updPort n fun q => { q with
      st := .up, cause := if p.wasUp && !same then .peerRestart else .none, working := 0, nego := none, wasUp := false
      everFailed := false
      level := if eth then 0 else (commonLevel s.sec.cl (s.sec.cl - 1) g.cl g.clmin).getD 0
      peer := if eth then 0 else g.node, peerRole := g.role, peerEpoch := if eth then none else some g.epoch, progress := s.now }
    let s := s.setActive n lanes
    let s := s.streamsBack n
    let s := if p.everFailed then s.linkEvent n .ok else s
    s.pumpAll n

/-- Send this end's NEGOTIATE frame (R449, R458). -/
def State.sendNegotiate (s : State) (n : Nat) : State :=
  let body := leBytes 16 (pack [(16, s.cfgAt nodeReg), (8, s.sec.cl), (8, s.sec.cl - 1), (8, s.role n), (8, (s.port n).working),
    (16, 0), (64, s.boot.drawnEpoch)])
  (s.sendFrame n (frameHead (s.port n) 2 false false false 0 0 0 ++ body ++ List.replicate 224 0)).updPort n fun p =>
    { p with negoAt := s.now }

/-- Whether a port is training or retraining. -/
def Port.training (p : Port) : Bool := p.st == .training || p.st == .retraining

/-! ### Training (R462–R465) -/

/-- A write of LINK.RETRAIN.GO (R464, R471, R492): a port left DOWN trains as a FAILED one does. -/
def State.retrainGo (s : State) (n : Nat) : State :=
  match (s.port n).st with
  | .up => s.startRetrain n .none
  | .failed | .down => if s.role n = 3 then s else s.startTraining n 50000000
  | _ => s

/-- LINK_RETRAIN (R464). -/
def execLinkRetrain (f n : Nat) (s : State) : Out1 :=
  .next (if f = 0 ∧ s.ready ∧ ¬ s.inD3 0 then s.retrainGo n else s)

/-- LANE_ALIGNMENT_LOSS (R448, R464): the alignment counts of an active lane of a port that is UP no longer deskew it
(log 192). -/
def execLaneAlignmentLoss (n lane : Nat) (s : State) : Out1 :=
  .next (if s.runs ∧ (s.port n).st = .up ∧ bitAt (s.port n).active lane then s.startRetrain n .none else s)

/-- RETRAIN_COMPLETE (R458, R461, R462, R463): stages 1 to 3 have left these lanes working, and the port sends its own
NEGOTIATE; it comes UP, on the lanes it named there, once it has the peer's body too (log 61). -/
def execRetrainComplete (n lanes : Nat) (s : State) : Out1 :=
  .next (
    let p := s.port n
    let w := if p.working = 0 then lanes &&& s.lanesAllowed n else p.working
    if !s.runs || !p.training then s
    else if s.role n = 2 || w = 0 then s.portUp n lanes
    else
      let s := if p.working = 0 then (s.updPort n fun p => { p with working := w }).sendNegotiate n else s
      if p.nego.isSome then s.portUp n w else s)

/-- LINK_TRAINING_TIMEOUT (R462, R465). -/
def execLinkTrainingTimeout (n : Nat) (s : State) : Out1 :=
  .next (
    let p := s.port n
    if s.runs && p.training && decide (p.trainStart + p.trainLimit < s.now) then
      s.failPort n (if p.working = 0 then .noSignal else .lanes) p.wasUp
    else s)

/-- NEGOTIATE (R450, R458, R459). -/
def execNegotiate (n : Nat) (raw : List Byte) (s : State) : Out1 :=
  .next (if !s.runs || !(s.port n).training then s
    else match s.receive n 2 raw with
    | (none, s) => s
    | (some f, s) =>
      let w := leField f.body 0 16
      if bitsAt w 44 20 ≠ 0 ∨ (f.body.drop 16).any (· != 0) then
        s.updPort n fun p => { p with errUncorr := p.errUncorr + 1 }
      else
        let g : Nego := {
          node := bitsAt w 0 16, cl := bitsAt w 16 8, clmin := bitsAt w 24 8, role := bitsAt w 32 8, lanes := bitsAt w 40 4
          epoch := bitsAt w 64 64 }
        match s.negoFault n g with
        | some c => s.failPort n c true
        | none => s.updPort n fun p => { p with nego := some g })

/-- NEGOTIATE_REPEAT (R458): every 1 µs until the port is UP. -/
def execNegotiateRepeat (n : Nat) (s : State) : Out1 :=
  .next (
    let p := s.port n
    if s.runs && p.training && decide (s.role n ≤ 1) && p.working != 0 && decide (p.negoAt + 100 < s.now) then s.sendNegotiate n
    else s)

/-! ### Frames (R449–R457, R467, R468) -/

/-- IDLE_FRAME (R449, R453, R456). -/
def execIdleFrame (n : Nat) (raw : List Byte) (s : State) : Out1 :=
  .next (if !s.runs || (s.port n).st != .up then s
    else match s.receive n 0 raw with
    | (none, s) => s
    | (some f, s) => s.frameNews n f)

/-- A DATA frame accepted in order takes its place in its channel's receive buffer; a frame that opens no message and
continues none is dropped there. -/
def Vc.take (x : Vc) (f : RxFrame) : Vc × Bool :=
  if !f.som && !x.rxOpen then (x, false)
  else
    let x := if f.som then { x with rxPart := [], rxFrames := 0 } else x
    let x := { x with rxPart := x.rxPart ++ f.body.take f.len, rxFrames := x.rxFrames + 1, rxOpen := !f.eom }
    (if f.eom then { x with rxq := x.rxq ++ [(x.rxFrames, x.rxPart)], rxPart := [], rxFrames := 0 } else x, true)

/-- The level offered for this SEQ comes into use (R460). -/
def Port.switchLevel (p : Port) (seq : Nat) : Port :=
  match p.offer with
  | some (k, l) => if k = seq then { p with level := l, offer := none } else p
  | none => p

/-- DATA_FRAME (R449, R450, R456): accepted in order, or discarded with NAK, once for each gap. -/
def execDataFrame (n : Nat) (raw : List Byte) (s : State) : Out1 :=
  .next (if !s.runs || (s.port n).st != .up then s
    else match s.receive n 1 raw with
    | (none, s) => s
    | (some f, s) =>
      let s := s.frameNews n f
      if (s.port n).st ≠ .up then s        -- an eighth fruitless replay
      else if f.seq = (s.port n).rxSeq then
        s.updPort n fun p =>
          let (x, ok) := (p.vc f.vc).take f
          let p := { (p.setVc f.vc x).switchLevel f.seq with rxSeq := (p.rxSeq + 1) % 4096, gap := none }
          if ok then p else p.giveCr f.vc 1
      else match (s.port n).gap with
        | some _ => s
        | none => (s.updPort n fun p => { p with gap := some s.now }).sendIdle n true)

/-- REPLAY_TIMER (R456, R457, R476). -/
def execReplayTimer (n : Nat) (s : State) : Out1 :=
  .next (
    let p := s.port n
    if s.runs && p.st == .up && decide (p.progress + 200 < s.now) then s.replayDue n else s)

/-- NAK_REPEAT_TIMER (R456). -/
def execNakRepeatTimer (n : Nat) (s : State) : Out1 :=
  .next (match (s.port n).gap with
    | none => s
    | some t =>
      if s.runs ∧ (s.port n).st = .up ∧ t + 200 < s.now then
        (s.updPort n fun p => { p with gap := some s.now }).sendIdle n true
      else s)

/-! ### Messages -/

/-- A remote-write message's packet, from its port's router on (R18, R19, R454); none where it breaks its own layout or its bed does not take it (R455). -/
def State.remotePkt (s : State) (n : Nat) (m : List Byte) : Option AsyncPkt :=
  let w := leField m 0 16
  let b := bitsAt w 0 5
  let rows := bitsAt w 47 6 + 1
  if m.length < 16 ∨ bitsAt w 53 75 ≠ 0 ∨ m.length ≠ 16 + 32 * rows ∨ ¬ s.bedMayUse b n then none
  else (s.physical b (bitsAt w 5 11)).map fun p => {
    bed := b, nib := p, slot := bitsAt w 16 3, handle := some (bitsAt w 19 6), index := bitsAt w 25 16
    tally := bitsAt w 41 6, rows := rowsOf rows (m.drop 16), reach := s.acyc + meshTime (MUnit.router (.port n)) p }

/-- REMOTE_WRITE (R454, R455, R466): the whole message at the front of VC1 goes to the asynchronous plane, or is dropped and
counted; its frames' credits return either way. -/
def execRemoteWrite (n : Nat) (s : State) : Out1 :=
  .next (match (if s.runs then s.takeRx n 1 else none) with
    | none => s
    | some (m, s) =>
      match (if s.boot.computeEnd.isSome then none else s.remotePkt n m) with
      | some k => { s with mesh := s.mesh ++ [(.port n, k)] }
      | none => s.updPort n fun p => { p with rxDrop := p.rxDrop + 1 })

/-- The front message of a port's VC2, whose content the command carries, leaves the receive buffer (R451, R466): not while
the scribes restart. -/
def State.popControl (s : State) (n : Nat) : State :=
  match s.takeRx n 2 with
  | some (_, s) => s
  | none => s

/-- LEVEL_CHANGE (R460): the peer offers a range and a switch SEQ; a higher common level comes into use with the frame of
that SEQ (log 63). -/
def execLevelChange (n cl clmin seq : Nat) (s : State) : Out1 :=
  .next (if !s.runs || s.boot.computeEnd.isSome || (s.port n).st != .up || decide (1 < s.role n) then s
    else
      let s := s.popControl n
      match commonLevel s.sec.cl (s.sec.cl - 1) cl clmin with
      | none => s
      | some l => s.updPort n fun p => if p.level < l then { p with offer := some (seq % 4096, l) } else p)

/-- Every port that is UP offers its new range after a handover (R460): the switch SEQ is the next frame's. -/
def State.offerLevels (s : State) : State :=
  ((List.range 24).filter fun n => (s.port n).st == .up && decide (s.role n ≤ 1)).foldl (fun s n =>
    s.emit (.levelOffer n s.sec.cl (s.sec.cl - 1) (s.port n).txSeq)) s

/-! ### Ethernet (R469, R470) -/

/-- Whether a ones' complement sum comes to all ones: UDP's checksum over the IPv6 pseudo-header is good. -/
def sumGood (n : Nat) : Bool := n != 0 && n % 65535 == 0

/-- Read an Ethernet frame that a port accepts (R470): the sender's MAC and IPv6 address, and the UDP payload. -/
def State.ethAccept (s : State) (n : Nat) (raw : List Byte) : Option (List Byte × List Byte) :=
  let len := raw.length
  let body := raw.take (len - 4)
  let ip := body.drop 14
  let ulen := beNat (slice ip 44 2)
  let udp := (ip.drop 40).take ulen
  if len < 66 ∨ leNat (raw.drop (len - 4)) ≠ fcs body then none
  else if slice raw 0 6 ≠ leBytes 6 (s.cfgAt (linkReg n 0x40)) then none
  else if slice raw 12 2 ≠ [0x86, 0xDD] ∨ beNat (slice ip 0 1) / 16 ≠ 6 then none
  else if slice ip 24 16 ≠ leBytes 8 (s.cfgAt (linkReg n 0x48)) ++ leBytes 8 (s.cfgAt (linkReg n 0x50)) then none
  else if slice ip 6 1 ≠ [0x11] ∨ ulen < 8 ∨ ip.length < 40 + ulen ∨ beNat (slice ip 4 2) ≠ ulen then none
  else if beNat (slice udp 2 2) ≠ bitsAt (s.cfgAt kvxReg0) 0 16 then none
  else if beNat (slice udp 6 2) = 0 ∨ ¬ sumGood (wordSum 16 (slice ip 8 32) + ulen + 17 + wordSum ulen udp) then none
  else some (slice raw 6 6 ++ slice ip 8 16, udp.drop 8)

/-- ETHERNET_FRAME (R470): the datagram waits for the shipper, or the frame is dropped and counted. -/
def execEthernetFrame (n : Nat) (raw : List Byte) (s : State) : Out1 :=
  .next (if !s.runs || s.role n != 2 || (s.port n).st != .up then s
    else match s.ethAccept n raw with
    | some d => s.updPort n fun p => { p with ethRx := p.ethRx ++ [d] }
    | none => s.updPort n fun p => { p with rxDrop := p.rxDrop + 1 })

end Sys2Proof.Machine
end

