-- ==== Sys2Proof/Machine/Security.lean ====
section
/-!
DEFINITION. Firmware, licences and recovery (R527–R546): the staging slot, verification, activation and the live handover, the
health window, ROM recovery, licence records.
-/
namespace Sys2Proof.Machine

/-! ### The staging slot (R528, R530–R533) -/

/-- Add the covered range [a, b) to a coverage record, kept rising and apart. -/
def cover (a b : Nat) : List (Nat × Nat) → List (Nat × Nat)
  | [] => [(a, b)]
  | (x, y) :: r =>
    if b < x then (a, b) :: (x, y) :: r
    else if y < a then (x, y) :: cover a b r
    else cover (min a x) (max b y) r

/-- Write bytes at an offset of the staging slot and mark them covered (R532); from EMPTY the record starts anew (R531). -/
def State.stageBytes (s : State) (off : Nat) (bs : List Byte) : State :=
  let cov := if s.sec.upd = .empty then [] else s.flash.coverage
  { s with
    flash := { s.flash with
      staging := msetRange 0 s.flash.staging off bs, coverage := if bs.isEmpty then cov else cover off (off + bs.length) cov }
    sec := { s.sec with upd := .writing } }

/-- A field of the manifest in a slot (R530). -/
def manifest (m : SMap Byte) (o n : Nat) : Nat := leNat (mgetRange 0 m o n)

/-- U of the manifest. -/
def bundleUnits (m : SMap Byte) : Nat := manifest m 10 2

/-- Bytes of unit `u`. -/
def bundleUnit (m : SMap Byte) (u : Nat) : List Byte := mgetRange 0 m (16384 + 65536 * u) 65536

/-- Whether manifest bytes R530 calls reserved are 0. -/
def manifestReserved (m : SMap Byte) : Bool :=
  manifest m 20 12 == 0 && manifest m 112 16 == 0 && (mgetRange 0 m 1408 14976).all (· == 0) &&
  (List.range 3).all fun i => manifest m (64 + 16 * i + 1) 3 == 0 && manifest m (64 + 16 * i + 12) 4 == 0

/-- Whether unit `u` of a bundle decrypts with a valid tag (R530). -/
def bundleUnitOk (m : SMap Byte) (u : Nat) : Bool :=
  let b := bundleUnit m u
  Config.gcmOk (manifest m 5 1) (mgetRange 0 m 12 8 ++ leBytes 4 u) (mgetRange 0 m 0 64) (b.take 65520) (b.drop 65520)

/-- Whether the conditions of check `k` of R533 hold. -/
def State.verifyOk (s : State) (k : Nat) : Bool :=
  let m := s.flash.staging
  let u := bundleUnits m
  match k with
  | 1 => s.flash.coverage.any fun c => c.1 == 0 && decide (16384 + 65536 * u ≤ c.2)
  | 2 => manifest m 0 2 == 0xB0D1 && manifest m 2 1 == 1 && manifestReserved m && decide (1 ≤ u) && decide (u ≤ 1023)
  | 3 => Config.falconVerify 0 (shake256 64 (mgetRange 0 m 0 128)) (mgetRange 0 m 128 1280)
  | 4 => shake256 32 ((List.range u).flatMap (bundleUnit m)) == mgetRange 0 m 32 32
  | 5 => decide (s.sec.cl ≤ manifest m 3 1 + 1) && decide (manifest m 3 1 ≤ s.sec.cl + 1) && decide (manifest m 6 1 ≤ s.sec.cl) &&
      decide (s.sec.cl ≤ manifest m 7 1) && decide (manifest m 8 1 ≤ s.flash.storeVersion)
  | 6 => decide (s.flash.svn ≤ manifest m 4 1)
  | _ => (List.range u).all (bundleUnitOk m)

/-- Status of a failed check of R533. -/
def verifyStatus (k : Nat) : Status :=
  match k with
  | 1 => .updateSequence | 2 | 3 | 4 => .signatureInvalid | 5 | 6 => .versionUnsupported | _ => .imageDecryptFailed

/-- The first of some checks that fails. -/
def State.verifyFail (s : State) (ks : List Nat) : Option Nat := ks.find? fun k => !s.verifyOk k

/-- An update command ends: LAST_CODE, and its record. -/
def State.endUpdate (s : State) (p : PktRef) (st : Status) (detail : Nat := 0) (r0 : Nat := 0) : State :=
  { s with sec := { s.sec with lastCode := st.code } }.finish p { status := st.code, detail := detail, r0 := r0 }

/-- UPDATE_WRITE (R531, R532). -/
def execUpdateWrite (b q : Nat) (s : State) : Out1 :=
  .next (s.command b q 0x80 fun s k =>
    match s.sec.upd with
    | .empty | .writing | .verified => (s.stageBytes k.a0 (slice k.data 0 k.dbytes)).endUpdate k.ref .ok
    | _ => s.endUpdate k.ref .updateSequence)

/-- UPDATE_VERIFY (R531, R533). -/
def execUpdateVerify (b q : Nat) (s : State) : Out1 :=
  .next (s.command b q 0x81 fun s k =>
    match s.sec.upd with
    | .writing | .verified =>
      match s.verifyFail [1, 2, 3, 4, 5, 6, 7] with
      | some c => { s with sec := { s.sec with upd := .writing } }.endUpdate k.ref (verifyStatus c) c
      | none => { s with sec := { s.sec with upd := .verified } }.endUpdate k.ref .ok 0 (manifest s.flash.staging 3 1)
    | _ => s.endUpdate k.ref .updateSequence)

/-! ### Activation and the handover (R527, R534–R538) -/

/-- Whether an armed script slot is bound to a level below `cl` − 1 (R527). -/
def State.oldScripts (s : State) (cl : Nat) : Bool :=
  s.beds.any fun e => e.2.models.any fun m => match m.2 with
    | some m => !m.slots.isEmpty && decide (m.cl + 1 < cl)
    | none => false

/-- UPDATE_ACTIVATE (R527, R531, R534): the copy to the other slot begins; its record waits for the handover. -/
def execUpdateActivate (b q : Nat) (s : State) : Out1 :=
  .next (s.command b q 0x82 fun s k =>
    if s.sec.upd != .verified then s.endUpdate k.ref .updateSequence
    else if s.oldScripts (manifest s.flash.staging 3 1) then s.endUpdate k.ref .versionUnsupported
    else if s.twin.peerUpdate != 0 then s.endUpdate k.ref .updateSequence
    else { s with sec := { s.sec with
      upd := .copying, activate := some k.ref, windowSecs := if k.a0 = 0 then 300 else bitsAt k.a0 0 12, attempts := 0
      back := none } })

/-- Existing beds. -/
def State.bedList (s : State) : List Nat := bedNums.filter s.bedExists

/-- Instant H of an attempt (R535): intake stops, beds without a step pause. -/
def State.startPause (s : State) : State :=
  let idle := s.bedList.filter fun b => (s.bed b).step.isNone
  let s := idle.foldl (fun s b => s.updBed b fun bd => { bd with paused := true }) s
  { s with sec := { s.sec with
    pausing := true, retryAt := none, firstPause := if idle.isEmpty then none else some s.now } }

/-- Every bed has paused (R535). -/
def State.allPaused (s : State) : Bool := s.bedList.all fun b => (s.bed b).paused || (s.bed b).step.isNone

/-- Intake resumes in every bed (R535). -/
def State.resume (s : State) : State :=
  let s := s.bedList.foldl (fun s b => s.updBed b fun bd => { bd with paused := false }) s
  { s with sec := { s.sec with pausing := false, firstPause := none, retryAt := none } }

/-- TRIAL is cleared and the old settings copy serves again (R540). -/
def Flash.restoreStore (f : Flash) : Flash :=
  { f with
    trial := none, store := f.oldStore.getD f.store, oldStore := none
    storeVersion := if f.oldStore.isSome then f.oldVersion else f.storeVersion }

/-- The image of a flash slot. -/
def Flash.image (f : Flash) (slot : Nat) : SMap Byte := if slot = 0 then f.slotA else f.slotB

/-- The image of a slot runs from here on, at its level; ports offer the new range (R460). -/
def State.runImage (s : State) (slot : Nat) : State :=
  { s with sec := { s.sec with running := slot, cl := manifest (s.flash.image slot) 3 1, selftest := false } }.offerLevels

/-- The handover's end (R535, R537, R538): the TRIAL image runs, from its own copy of the settings store; UPDATE_ACTIVATE
completes and the health window opens. -/
def State.toTrial (s : State) : State :=
  let slot := s.flash.trial.getD 0
  let s := (s.resume).runImage slot
  let s := { s with
    flash := { s.flash with
      oldStore := some (s.flash.oldStore.getD s.flash.store)
      oldVersion := if s.flash.oldStore.isSome then s.flash.oldVersion else s.flash.storeVersion
      storeVersion := s.sec.cl }
    sec := { s.sec with upd := .window, windowStart := s.now }
    boot := { s.boot with qmbCause := 3 } }
  match s.sec.activate with
  | some p => ({ s with sec := { s.sec with activate := none } }).endUpdate p .ok
  | none => { s with sec := { s.sec with lastCode := 0 } }

/-- The handback's end (R540): the ACTIVE image runs again from the old settings copy; the UPDATE event names it and why. -/
def State.toActive (s : State) (cause : Nat) : State :=
  let s := (s.resume).runImage s.flash.active
  let s := { s with
    flash := s.flash.restoreStore
    sec := { s.sec with upd := .empty, back := none }
    boot := { s.boot with qmbCause := 4 } }
  s.event [0] { kind := .update, status := Status.healthTimeoutFallback.code, r0 := s.flash.active, r1 := cause }

/-- HANDOVER (R534, R535): the copy is complete and H has come; or every bed has paused, and the other image resumes. -/
def execHandover (s : State) : Out1 :=
  .next (if !s.runs then s
    else match s.sec.upd with
    | .copying =>
      let slot := 1 - s.flash.active
      let s := { s with
        flash := { s.flash with
          slotA := if slot = 0 then s.flash.staging else s.flash.slotA
          slotB := if slot = 0 then s.flash.slotB else s.flash.staging, trial := some slot, seq := s.flash.seq + 1 }
        sec := { s.sec with upd := .handover } }
      s.startPause
    | .handover =>
      if !s.sec.pausing || !s.allPaused then s
      else match s.sec.back with
        | none => s.toTrial
        | some c => s.toActive c
    | _ => s)

/-- HANDOVER_PAUSE_TIMEOUT (R535): 15 ms after the first bed paused the attempt is abandoned; after the sixteenth the update
goes back to VERIFIED. A handback tries until it succeeds (log 58). -/
def execHandoverPauseTimeout (s : State) : Out1 :=
  .next (match s.sec.firstPause with
    | none => s
    | some t =>
      if !s.runs || !s.sec.pausing || s.allPaused || decide (s.now ≤ t + 1500000) then s
      else
        let s := s.resume
        let n := satAdd 8 s.sec.attempts 1
        let s := { s with sec := { s.sec with attempts := n, retryAt := some s.now } }
        if n < 16 ∨ s.sec.back.isSome then s
        else
          let ref := s.sec.activate
          let s := { s with
            flash := { s.flash with trial := none, seq := s.flash.seq + 1 }
            sec := { s.sec with upd := .verified, retryAt := none, activate := none } }
          match ref with
          | some p => s.endUpdate p .updateSequence 2
          | none => s)

/-- HANDOVER_RETRY (R535): 100 ms after an abandoned attempt. -/
def execHandoverRetry (s : State) : Out1 :=
  .next (match s.sec.retryAt with
    | none => s
    | some t => if s.runs && s.sec.upd == .handover && !s.sec.pausing && decide (t + 10000000 < s.now) then s.startPause else s)

/-! ### The health window (R539, R540, R544) -/

/-- A handback begins (R540): a handover from the TRIAL image to the ACTIVE one. -/
def State.handBack (s : State) (cause : Nat) : State :=
  ({ s with sec := { s.sec with upd := .handover, back := some cause, attempts := 0 } }).startPause

/-- SELFTEST (R539, R540). -/
def execSelfTest (ok : Bool) (s : State) : Out1 :=
  .next (if s.runs && s.sec.upd == .window && !s.sec.selftest then
      if ok then { s with sec := { s.sec with selftest := true } } else s.handBack 2
    else s)

/-- SELFTEST_TIMEOUT (R539, R540): 10 s after the window opened. -/
def execSelftestTimeout (s : State) : Out1 :=
  .next (if s.runs && s.sec.upd == .window && !s.sec.selftest && decide (s.sec.windowStart + 1000000000 < s.now) then s.handBack 2
    else s)

/-- HEALTH_WINDOW_EXPIRY (R476, R540). -/
def execHealthWindowExpiry (s : State) : Out1 :=
  .next (if s.runs && s.sec.upd == .window && decide (s.sec.windowStart + 100000000 * s.sec.windowSecs < s.now) then s.handBack 1
    else s)

/-- UPDATE_CONFIRM (R531, R539): one boot-record write. -/
def execUpdateConfirm (b q : Nat) (s : State) : Out1 :=
  .next (s.command b q 0x83 fun s k =>
    if s.sec.upd != .window || !s.sec.selftest then s.endUpdate k.ref .updateSequence
    else
      let slot := s.flash.trial.getD s.flash.active
      let m := s.flash.image slot
      { s with
        flash := { s.flash with
          active := slot, trial := none, oldStore := none, seq := s.flash.seq + 1
          svn := if manifest m 9 1 = 1 then max s.flash.svn (manifest m 4 1) else s.flash.svn }
        sec := { s.sec with upd := .empty } }.endUpdate k.ref .ok)

/-- A warm or cold reset during a handover or a health window (R540): the ACTIVE image starts, TRIAL is cleared, and the
event is due at step 9. -/
def State.resetTrial (s : State) : State :=
  if s.sec.upd = .handover ∨ s.sec.upd = .window then
    { s with
      flash := s.flash.restoreStore
      boot := { s.boot with fallback := true } }
  else s

/-- LIFE_HOUR_TICK (R544): a whole hour at step 9. -/
def execLifeHourTick (s : State) : Out1 :=
  .next (if s.runs && s.boot.beds && decide (s.sec.lifeAt + 360000000000 ≤ s.now) then
      { s with
        flash := { s.flash with life := satAdd 32 s.flash.life 1, seq := s.flash.seq + 1 }
        sec := { s.sec with lifeAt := s.sec.lifeAt + 360000000000 } }
    else s)

/-! ### ROM recovery (R541) -/

/-- A mailbox command ends. -/
def State.endRec (s : State) (ok : Bool) (st : Status) (detail : Nat) : State :=
  { s with sec := { s.sec with recSt := if ok then 2 else 3, recCode := st.code, recDetail := detail } }

/-- Whether the mailbox is carrying out OP `op`. -/
def State.recBusy (s : State) (op : Nat) : Bool := s.boot.mailbox && s.sec.recSt == 1 && s.sec.recCmd == op

/-- REC_WRITE (R532, R541). -/
def execRecWrite (s : State) : Out1 :=
  .next (if !s.recBusy 1 then s
    else
      let o := s.sec.recOffset
      let n := s.sec.recLength
      if n = 0 ∨ 16384 < n ∨ o % 64 ≠ 0 ∨ 0x4000000 < o + n then s.endRec false .badParameter 0
      else
        let s := s.stageBytes o (mgetRange 0 s.sec.recBuf 0 n)
        { s with sec := { s.sec with recVerified := false } }.endRec true .ok 0)

/-- REC_VERIFY (R533, R541): checks 1 to 4, 6 and 7. -/
def execRecVerify (s : State) : Out1 :=
  .next (if !s.recBusy 2 then s
    else match s.verifyFail [1, 2, 3, 4, 6, 7] with
    | some c => { s with sec := { s.sec with recVerified := false } }.endRec false (verifyStatus c) c
    | none => { s with sec := { s.sec with recVerified := true } }.endRec true .ok 0)

/-- REC_INSTALL (R541): the verified bundle goes to both slots. -/
def execRecInstall (s : State) : Out1 :=
  .next (if !s.recBusy 3 then s
    else if !s.sec.recVerified then s.endRec false .updateSequence 0
    else
      let m := s.flash.staging
      { s with flash := { s.flash with
        slotA := m, slotB := m, active := 0, trial := none, seq := s.flash.seq + 1
        svn := if manifest m 9 1 = 1 then max s.flash.svn (manifest m 4 1) else s.flash.svn } }.endRec true .ok 0)

/-- A write of REC.CMD (R541): the key must match, OP 0 is ignored, and a command under way is not disturbed. -/
def State.recCommand (s : State) (v : Nat) : State :=
  if bitsAt v 8 8 ≠ 0xC7 ∨ bitsAt v 0 2 = 0 ∨ s.sec.recSt = 1 then s
  else { s with sec := { s.sec with recCmd := bitsAt v 0 2, recSt := 1, recCode := 0, recDetail := 0 } }

/-! ### Licences (R542–R546) -/

/-- A record's ID. -/
def Licence.id (l : Licence) : Nat := leField l.bytes 4 4
/-- A record's EXPIRY. -/
def Licence.expiry (l : Licence) : Nat := leField l.bytes 20 4
/-- A record's KIND. -/
def Licence.kind (l : Licence) : Nat := leField l.bytes 2 1

/-- Whether a record is in effect: a lapse takes effect at the next step 8 only (R544; log 60). -/
def State.unexpired (s : State) (l : Licence) : Bool := l.expiry == 0 || decide (s.sec.lifeEight < l.expiry)

/-- The features of every stored, unexpired licence record (R543). -/
def State.licensedBits (s : State) : Nat :=
  (s.flash.licences.filter fun l => l.kind == 1 && s.unexpired l).foldl (fun a l => a ||| bitsAt (leField l.bytes 16 1) 0 5) 0

/-- The first check of R543 that a record fails. -/
def State.licenceFail (s : State) (r : List Byte) : Option Status :=
  let l : Licence := { bytes := r.take 64 }
  if leField r 0 2 ≠ 0x11CE ∨ ¬ (l.kind = 1 ∨ l.kind = 2) ∨ leField r 3 1 ≠ 1 ∨ bitsAt (leField r 16 1) 5 2 ≠ 0 ∨
      leField r 17 3 ≠ 0 ∨ leField r 24 40 ≠ 0 then some .badParameter
  else if !Config.falconVerify 1 (shake256 64 (slice r 0 64)) (slice r 64 1280) then some .signatureInvalid
  else if leField r 8 8 ≠ s.flash.serial then some .serialMismatch
  else if l.expiry ≠ 0 ∧ l.expiry ≤ s.flash.life then some .licenceExpired
  else if 16 ≤ s.flash.licences.length ∧ ¬ (s.flash.licences.any fun x => x.id == l.id) then some .capacity
  else none

/-- LICENCE_INSTALL (R542, R543, R545). -/
def execLicenceInstall (b q : Nat) (s : State) : Out1 :=
  .next (s.command b q 0x90 fun s k =>
    let r := slice k.payload 0 1344
    match s.licenceFail r with
    | some st => s.reject k.ref st
    | none =>
      let l : Licence := { bytes := r.take 64 }
      let here := s.flash.licences.any fun x => x.id == l.id
      let list := if bitAt (leField r 16 1) 7 then s.flash.licences.filter fun x => x.id != l.id
        else if here then s.flash.licences.map fun x => if x.id = l.id then l else x
        else s.flash.licences ++ [l]
      let s := { s with flash := { s.flash with licences := list } }
      let s := { s with sec := { s.sec with licIn := s.licensedBits } }
      s.finish k.ref { r0 := s.sec.licIn })

end Sys2Proof.Machine
end

