-- ==== Sys2Proof/Machine/Thermal.lean ====
section
/-!
DEFINITION. Temperatures, power and ALERT# (R559–R561, R565, R568), PLL loss (R474), and the TWIN_PRES# pin (R566).
-/
namespace Sys2Proof.Machine

/-- ALERT# (R565). -/
def State.alert (s : State) : Bool := (s.therm.events &&& s.therm.alertMask) != 0 || s.pins.thermtrip || s.clk.lost

/-- In I3C mode an assertion of ALERT# raises an in-band interrupt (R562): `s` as it stood before. -/
def State.noteAlert (s t : State) : State := if !s.alert && t.alert && t.pins.sbMode then t.emit .ibi else t

/-- Set bits of THERM.EVENTS. -/
def State.thermEvent (s : State) (bits : Nat) : State :=
  s.noteAlert { s with
    therm := { s.therm with events := s.therm.events ||| bits }, mark := { s.mark with events := s.mark.events ||| bits } }

/-- A signed temperature as a 16-bit field. -/
def temp16 (t : Int) : Nat := ofInt 16 t

/-- The hottest stack. -/
def Readings.hot (r : Readings) : Int := r.hbm.foldl max (-32768)

/-- The sensors' readings reach the THERM block; a power threshold newly reached sets its event (R559, R568). -/
def State.sense (s : State) (r : Readings) : State :=
  let reached := (decide (1800 ≤ r.watts) && decide (s.therm.watts < 1800)) || (decide (1900 ≤ r.watts) && decide (s.therm.watts < 1900))
  let s := { s with therm := { s.therm with
    die := temp16 r.die, field := r.field % 4, hbm := r.hbm.map temp16, watts := r.watts % 65536, amps := r.amps % 65536 } }
  if reached then s.thermEvent 4 else s

/-- The largest divider some condition requests (R559, R560). -/
def divOf (stuck : Bool) (r : Readings) : Nat :=
  if stuck || decide (800 ≤ r.die) || decide (800 ≤ r.hot) || decide (1900 ≤ r.watts) then 6
  else if decide (760 ≤ r.die) || decide (760 ≤ r.hot) || decide (1800 ≤ r.watts) then 5
  else 4

/-- Whether every condition that requests divider `d` stands clear by 5 °C and by 100 W (R560). -/
def belowDiv (d : Nat) (r : Readings) : Bool :=
  let t : Int := if d = 6 then 760 else 720
  decide (r.die < t) && decide (r.hot < t) && decide (r.watts < if d = 6 then 1800 else 1700)

/-- How long the conditions have stood clear, after a reading (R560). -/
def State.noteBelow (s : State) (r : Readings) : State :=
  { s with therm := { s.therm with
    below := if belowDiv s.therm.divReq r then some (s.therm.below.getD s.now) else none } }

/-- DIV_REQ changes (R479, R560). -/
def State.setDivReq (s : State) (d : Nat) : State :=
  let s := ({ s with therm := { s.therm with divReq := d, below := none } }.thermEvent 1).repend
  { s with clk := { s.clk with seen := some s.acyc } }

/-- THROTTLE_REQUEST (R559, R560): a rise takes effect at once. -/
def execThrottleRequest (r : Readings) (s : State) : Out1 :=
  .next (
    let s := s.sense r
    let d := divOf s.therm.stuck r
    (if s.therm.divReq < d then s.setDivReq d else s).noteBelow r)

/-- DIV_REQ_FALL (R560): one step down, after 100 ms in which every requesting condition stood clear (log 64). -/
def execDivReqFall (r : Readings) (s : State) : Out1 :=
  .next (
    let s := (s.sense r).noteBelow r
    match s.therm.below with
    | none => s
    | some t =>
      if s.runs && !s.therm.stuck && decide (4 < s.therm.divReq) && decide (t + 10000000 < s.now) then
        (s.setDivReq (s.therm.divReq - 1)).noteBelow r
      else s)

/-- THERMTRIP (R559, R561): THERMTRIP# and ALERT#, and the clocks stop. -/
def execThermtrip (r : Readings) (s : State) : Out1 :=
  .next (
    let t := s.sense r
    if decide (880 ≤ r.die) || decide (840 ≤ r.hot) then t.noteAlert { t with pins := { t.pins with thermtrip := true } } else t)

/-- HBM_HOT (R568): stacks at 85 °C or above refresh at twice the rate. -/
def execHbmHot (r : Readings) (s : State) : Out1 :=
  .next (
    let s := s.sense r
    let hot := (r.hbm.zipIdx).foldl (fun a (x : Int × Nat) => if 680 ≤ x.1 then a + 2 ^ x.2 else a) 0
    let s := { s with therm := { s.therm with hotStacks := hot } }
    if hot = 0 then s else s.thermEvent 2)

/-- SENSOR_FAILURE (R560). -/
def execSensorFailure (k : Nat) (s : State) : Out1 :=
  .next (
    let failed := if s.therm.failedSensors.contains k then s.therm.failedSensors else k :: s.therm.failedSensors
    let s := { s with therm := { s.therm with failedSensors := failed } }.thermEvent 32
    let dead := (List.range 4).any fun f =>
      !(Config.fieldSensors f).isEmpty && (Config.fieldSensors f).all fun x => failed.contains x
    if dead && !s.therm.stuck then
      let s := { s with therm := { s.therm with stuck := true } }
      if s.therm.divReq = 6 then s else s.setDivReq 6
    else s)

/-- PLL_LOSS (R474, R568): every clocked unit and the timebase stop; BOOT.STATUS and ALERT# say so. -/
def execPllLoss (s : State) : Out1 :=
  .next (if !s.clk.lock then s
    else
      let t := { s with
        clk := { s.clk with lock := false, lost := true }
        boot := { s.boot with
          st := .failed, cause := 2, elapsed := if s.boot.st = BootSt.busy then s.ref - s.boot.started else s.boot.elapsed } }
      s.noteAlert { t with
        therm := { t.therm with events := t.therm.events ||| 8 }, mark := { t.mark with events := t.mark.events ||| 8 } })

/-- TWIN_PRES (R379, R566): the pin changes. -/
def execTwinPres (present : Bool) (s : State) : Out1 :=
  .next (if s.pins.twinPres = present then s
    else
      let s := { s with pins := { s.pins with twinPres := present } }.thermEvent 16
      s.event [0] { kind := .twin, status := if s.twinPort.isSome then 0 else Status.linkDown.code, r0 := s.twin.st.code })

end Sys2Proof.Machine
end

