-- ==== Sys2Proof/Machine/Bringup.lean ====
section
/-!
DEFINITION. Resets of the whole device (R409, R412, R495, R556, R558) and bring-up (R486–R494): power, PERST#, the nine steps,
and their limits.
-/
namespace Sys2Proof.Machine

/-! ### Resets (R412) -/

/-- What a warm or cold reset leaves: flash, fuses, pins and what has left the package; everything else starts anew. -/
def State.restart (s : State) (boot : Boot) (pcie : Pcie) (therm : Therm) : State :=
  let s := s.resetTrial
  { pending := s.pending, out := s.out, ref := s.ref, draws := s.draws, ids := s.ids, pins := s.pins, flash := s.flash
    boot := { boot with fallback := s.boot.fallback }, pcie := pcie, therm := therm }

/-- The readings of the sensors, with every other field of THERM at its reset value. -/
def Therm.readingsOnly (t : Therm) : Therm := { die := t.die, field := t.field, hbm := t.hbm, watts := t.watts, amps := t.amps }

/-- A warm reset (R412, R495, R561, R564): the PCI Express link stays up and configuration space is kept; DONE 0, IDLE. -/
def State.warmReset (s : State) : State :=
  if s.pins.thermtrip || !s.boot.up then s
  else
    let installed := s.boot.mailbox && s.sec.recCmd == 3 && s.sec.recSt == 2
    let fns := mmap {} (fun _ (f : Fn) => { f with latch := none }) s.pcie.fns
    s.restart { qmbCause := if installed then 5 else 1 } { s.pcie with badAccess := 0, fns := fns } s.therm.readingsOnly

/-- A cold reset (R409, R412): everything but flash is lost; the bring-up window answers once PERST# is released. -/
def State.coldReset (s : State) : State := s.restart { up := false } {} {}

/-- Whether every power-good input is asserted (R555). -/
def State.powered (s : State) : Bool := s.pins.pwrgdIo && s.pins.pwrgdMem && s.pins.pwrgdCore

/-- Power-good levels; THERMTRIP# goes with PWRGD_CORE (R561). -/
def State.setPower (s : State) (io mem core : Bool) : State :=
  { s with pins := { s.pins with
    pwrgdIo := io, pwrgdMem := mem, pwrgdCore := core, thermtrip := s.pins.thermtrip && core } }

/-- COLD_RESET (R409): PERST# asserts, or power is removed. -/
def execColdReset (power : Bool) (s : State) : Out1 :=
  .next (
    let s := s.coldReset
    if power then s.setPower false false false else { s with pins := { s.pins with perst := true } })

/-- PERST_RELEASE (R489 step 0, R578): PCI Express trains from hardwired logic. -/
def execPerstRelease (speed width : Nat) (flit : Bool) (s : State) : Out1 :=
  .next (if !s.powered || !s.pins.refclk || s.boot.up then s
    else { s with
      pins := { s.pins with perst := false }, boot := { s.boot with up := true }
      pcie := { s.pcie with speed := speed, width := width, flit := flit } })

/-- POWER_GOOD_LOSS (R556): the inputs named deassert; the device stops as on removal of power. -/
def execPowerGoodLoss (io mem core : Bool) (s : State) : Out1 :=
  .next (if !io && !mem && !core then s
    else (s.coldReset).setPower (s.pins.pwrgdIo && !io) (s.pins.pwrgdMem && !mem) (s.pins.pwrgdCore && !core))

/-- POWER_GOOD_ASSERTION (R556, R558, R562): all three inputs assert, which starts a cold reset; the straps are sampled as
PWRGD_CORE rises. -/
def execPowerGoodAssertion (mode : Bool) (addr : Nat) (s : State) : Out1 :=
  .next (if s.powered then s
    else
      let rise := !s.pins.pwrgdCore
      let s := (s.coldReset).setPower true true true
      if rise then { s with pins := { s.pins with sbMode := mode, sbAddr := addr } } else s)

/-- Whether the PF may write the bring-up window. -/
def State.bootOpen (s : State) (f : Nat) : Bool := f == 0 && s.boot.up && !s.inD3 0 && !s.pins.thermtrip

/-- COMPUTE_RESET (R412, R495): BOOT.RESET with KIND 1; one in progress goes on. -/
def execComputeReset (f : Nat) (s : State) : Out1 :=
  .next (if s.bootOpen f && s.ready && s.boot.computeEnd.isNone then
      let s := s.computeReset
      { s with boot := { s.boot with qmbCause := 2 } }
    else s)

/-- BOOT_WARM_RESET (R495): BOOT.RESET with KIND 2. -/
def execBootWarmReset (f : Nat) (s : State) : Out1 := .next (if s.bootOpen f then s.warmReset else s)

/-! ### Steps (R487–R489) -/

/-- Limits of the steps in ms (R489). -/
def stepLimit (n : Nat) : Nat := [0, 2, 5, 800, 3000, 2000, 4000, 600, 500, 10].getD n 0

/-- A write of n to BOOT.STEP (R487). -/
def State.startBoot (s : State) (n : Nat) : State :=
  let b := s.boot
  let first := decide (1 ≤ n) && decide (n ≤ 9) && b.st == .idle && b.done + 1 == n
  let again6 := n == 6 && b.st == .failed && b.done == 5 && b.cause != 2 && !b.retried
  let again7 := n == 7 && b.st != .busy && decide (6 ≤ b.done) && !b.nine && b.cause != 2
  let s := { s with boot := { b with step := n % 16 } }
  if first || again6 || again7 then
    { s with boot := { s.boot with
      st := .busy, started := s.ref, elapsed := 0, cause := 0, code := 0, detail := 0, nine := b.nine || n == 9
      retried := b.retried || again6 } }
  else { s with boot := { b with refused := true }, mark := { s.mark with boot := true } }

/-- Whether step `n` is running. -/
def State.booting (s : State) (n : Nat) : Bool :=
  s.boot.up && s.boot.st == .busy && s.boot.step == n && (n == 1 || s.runs)

/-- The running step ends (R488). -/
def State.endBoot (s : State) (n detail : Nat) : State :=
  { s with boot := { s.boot with st := .idle, done := n, detail := detail % 2 ^ 24, elapsed := s.ref - s.boot.started } }

/-- The running step fails with a CAUSE of R491's table; once the quill runs, the log records it (R523). -/
def State.failBoot (s : State) (cause code detail : Nat) : State :=
  let n := s.boot.step
  let s := { s with boot := { s.boot with
    st := .failed, done := n - 1, cause := cause, code := code, detail := detail % 2 ^ 24, elapsed := s.ref - s.boot.started } }
  if s.boot.memUp then s.logEntry code 0x21 0xFF 0 0 cause else s

/-- BOOT_STEP_TIMEOUT (R476, R488). -/
def execBootStepTimeout (s : State) : Out1 :=
  .next (if s.boot.up && s.boot.st == .busy && decide (s.boot.started / 48 + 100000 * stepLimit s.boot.step < s.ref / 48) then
      s.failBoot 1 0 0
    else s)

/-- BRING_UP_STEP_1 (R472, R473, R489): the root PLL locks, or does not. -/
def execBringUpStep1 (locked : Bool) (s : State) : Out1 :=
  .next (if !s.booting 1 then s
    else if !locked then s.failBoot 2 0 0
    else { s with clk := { lock := true }, root := 0, acyc := 0 }.endBoot 1 0)

/-- BRING_UP_STEP_2 (R489, R573): the fuses are read. -/
def execBringUpStep2 (s : State) : Out1 :=
  .next (if !s.booting 2 then s
    else if !s.flash.check then s.failBoot 3 0 0
    else { s with boot := { s.boot with fuses := true } }.endBoot 2 0)

/-- Disable nibs (R490). -/
def State.disable (s : State) (ps : List Nat) : State :=
  ps.foldl (fun s p => if p < 1280 then s.updNib p fun n => { n with st := .disabled } else s) s

/-- BRING_UP_STEP_3 (R489): nibs beyond repair are disabled; a perimeter SRAM beyond repair fails the step. -/
def execBringUpStep3 (nibs : List Nat) (perimeter : Bool) (s : State) : Out1 :=
  .next (if !s.booting 3 then s
    else
      let bad := nibs.eraseDups.filter (· < 1280)
      let s := s.disable bad
      if perimeter then s.failBoot 4 0 bad.length else s.endBoot 3 bad.length)

/-- The slot the ROM starts (R489, R529): the active one first; else what the active slot failed with. -/
def romPick (active : Nat) (a b : ImageCheck) : Except Status Nat :=
  let of (k : Nat) : ImageCheck := if k = 0 then a else b
  if of active = .ok then .ok active
  else if of (1 - active) = .ok then .ok (1 - active)
  else .error (if of active = .badDecrypt then .imageDecryptFailed else .signatureInvalid)

/-- BRING_UP_STEP_4 (R27, R489, R541): the quill starts and loads the scribes; those listed fail their own test. A settings
store older than the image migrates is left aside; one the image does migrate takes its version (R538). -/
def execBringUpStep4 (a b : ImageCheck) (bad : List Nat) (s : State) : Out1 :=
  .next (if !s.booting 4 then s
    else match romPick s.flash.active a b with
    | .error st => { s with boot := { s.boot with mailbox := true } }.failBoot 5 st.code 0
    | .ok slot =>
      let m := s.flash.image slot
      let out := bad.eraseDups.filter (· < 32)
      let (e, s) := s.random
      let old := decide (s.flash.storeVersion < manifest m 8 1)
      let s := { s with
        scribesOut := out
        sec := { s.sec with running := slot, cl := manifest m 3 1 }
        flash := { s.flash with
          store := if old then [] else s.flash.store, storeVersion := max s.flash.storeVersion (manifest m 3 1) }
        boot := { s.boot with qmbStart := s.now, drawnEpoch := e % 2 ^ 64 } }
      if 32 - out.length < 4 then s.failBoot 6 0 (32 - out.length) else s.endBoot 4 (32 - out.length))

/-- BRING_UP_STEP_5 (R489, R490, R492): the nibs, routers and samplers listed fail their tests. -/
def execBringUpStep5 (nibs routers samplers : List Nat) (s : State) : Out1 :=
  .next (if !s.booting 5 then s
    else
      let s := s.disable (s.flash.defects ++ nibs ++ s.flash.nibMarks)
      let s := { s with samp := (samplers.filter (· < 4)).foldl (fun m k => mupd {} m k fun x => { x with retired := true }) s.samp }
      if !routers.isEmpty then s.failBoot 7 0 0
      else { s with boot := { s.boot with meshUp := true } }.endBoot 5 0)

/-- Apply stored settings of some registers (R491). -/
def State.applyStore (s : State) (p : Nat → Bool) : State :=
  s.flash.store.foldl (fun (s : State) e => match e.2 with
    | some v => if p e.1 then s.setCfg e.1 v else s
    | none => s) s

/-- Registers whose stored values step 6 uses. -/
def memoryStored (o : Nat) : Bool := [ctrlReg false, ctrlReg true, retire0Reg false, retire1Reg, retire0Reg true].contains o

/-- Registers whose stored values step 7 uses. -/
def linkStored (o : Nat) : Bool := decide (0x0800000 ≤ o) && decide (o < 0x0980000)

/-- Whether a channel carries a retirement mark (R438). -/
def State.marked (s : State) (c : Nat) : Bool :=
  if c < 64 then bitAt (s.cfgAt (retire0Reg false)) c
  else if c < 128 then bitAt (s.cfgAt retire1Reg) (c - 64)
  else bitAt (s.cfgAt (retire0Reg true)) (c - 128)

/-- RESULT of a training (R493). -/
def TrainResult.code (r : TrainResult) : Nat := if !r.answered then 2 else if r.rd < 10 ∨ r.wr < 10 then 1 else 0

/-- A channel after step 6 (R437, R493). -/
def trained (mark : Bool) (r : TrainResult) : Chan :=
  if mark then { st := .retired, cause := 4, result := 3 }
  else
    let c : Chan := { rdMargin := r.rd % 64, wrMargin := r.wr % 64, vref := r.vref % 256, result := r.code }
    if r.code = 0 then c else { c with st := .retired, cause := 1 }

/-- BRING_UP_STEP_6 (R429, R489, R491, R493): channels train, both tiers are zero-filled, the frame tables are empty. -/
def execBringUpStep6 (hbm lp : List TrainResult) (s : State) : Out1 :=
  .next (if !s.booting 6 then s
    else
      let s := s.applyStore memoryStored
      let of (c : Nat) : TrainResult :=
        if c < 128 then hbm.getD c { answered := false } else lp.getD (c - 128) { answered := false }
      let s := (List.range 160).foldl (fun s c => s.updChan c fun _ => trained (s.marked c) (of c)) s
      let s := { s with mem := [], memUpset := [], frames := [], lpFrames := [], msys := {} }
      let act (lo : Nat) : Nat := ((List.range 64).filter fun c => (s.chan (lo + c)).st == .active).length
      if act 0 < 16 ∨ act 64 < 16 then s.failBoot 8 0 0
      else { s with boot := { s.boot with memUp := true } }.endBoot 6 0)

/-- One port of step 7 (R462, R491, R492): it trains in its stored role and ends UP or FAILED; a port that is off stays
DOWN. -/
def State.bootPort (s : State) (n : Nat) (r : Option (Nat × Option Nego)) : State :=
  if s.role n = 3 then s
  else
    let s := s.startTraining n 50000000
    match r with
    | none => s.failPort n .noSignal false
    | some (lanes, g) =>
      if s.role n = 2 then s.portUp n lanes
      else match g with
        | none => s.failPort n (if lanes = 0 then .noSignal else .lanes) false
        | some g => match s.negoFault n g with
          | some c => s.failPort n c true
          | none => (s.updPort n fun p => { p with nego := some g }).portUp n lanes

/-- BRING_UP_STEP_7 (R462, R489, R492): of each port, the lanes that trained and the peer's NEGOTIATE. -/
def execBringUpStep7 (ports : List (Nat × Nat × Option Nego)) (s : State) : Out1 :=
  .next (if !s.booting 7 then s
    else
      let s := s.applyStore linkStored
      let s := ((List.range 24).filter (bitAt s.boot.linkSel)).foldl (fun s n =>
        s.bootPort n ((ports.find? fun x => x.1 == n).map fun x => x.2)) s
      s.endBoot 7 ((List.range 24).filter fun n => (s.port n).st == .up).length)

/-- BRING_UP_STEP_8 (R489, R491, R544–R546): licences and the other stored settings come into force. A port that step 7 has trained for a
stored Ethernet role stays up in it where EXPORT_ETH is then not in force: no rule takes it down (DESIGN CHOICE, log 210). -/
def execBringUpStep8 (s : State) : Out1 :=
  .next (if !s.booting 8 then s
    else
      let s := s.applyStore fun o => !memoryStored o && !linkStored o
      let s := { s with sec := { s.sec with lifeEight := s.flash.life } }
      let s := { s with sec := { s.sec with
        licIn := s.licensedBits, debug := s.flash.licences.any fun l => l.kind == 2 && s.unexpired l } }
      let s := s.setCfg licenceReg (BitVec.ofNat 64 s.sec.licIn)
      let floor := 4 + s.cfgAt throttleReg % 4
      let s := { s with clk := { s.clk with div := floor, source := if floor = 4 then 0 else 2 } }.repend
      s.endBoot 8 s.sec.licIn)

/-- BRING_UP_STEP_9 (R489, R500, R540): READY, epoch 1; an update that a reset ended says so now. -/
def execBringUpStep9 (s : State) : Out1 :=
  .next (if !s.booting 9 then s
    else
      let was := s.boot.fallback
      let s := { s with
        boot := { s.boot with beds := true, epoch := 1, fallback := false }, sec := { s.sec with lifeAt := s.now } }.endBoot 9 0
      if was then s.event [0] { kind := .update, status := Status.healthTimeoutFallback.code, r0 := s.flash.active, r1 := 3 } else s)

/-! ### Nibs, scribes and samplers out of service (R500, R505, R509) -/

/-- FENCE_NOW (R505, R506): BOOT.FENCE with OP 1; ignored for a nib already DISABLED or FENCED. -/
def execFenceNow (f p : Nat) (s : State) : Out1 :=
  .next (if s.bootOpen f && s.runs && s.nibOn p then s.fence p else s)

/-- CLEAR_RETIREMENT_MARK (R505, R509): the mark goes; the nib stays FENCED until the next step 5. -/
def execClearRetirementMark (f p : Nat) (s : State) : Out1 :=
  .next (if s.bootOpen f && s.runs && decide (4 ≤ s.boot.done) then
      { s with flash := { s.flash with nibMarks := s.flash.nibMarks.filter (· != p) } }
    else s)

/-- SCRIBE_RETIREMENT (R500). -/
def execScribeRetirement (k : Nat) (s : State) : Out1 :=
  .next (if !s.ready || s.scribesOut.contains k || decide (32 ≤ k) then s
    else { s with scribesOut := k :: s.scribesOut }.raiseEpoch 0 0xFFFFFFFF k)

/-- SAMPLER_RETIREMENT (R500, R578). -/
def execSamplerRetirement (k : Nat) (s : State) : Out1 :=
  .next (if !s.ready || (mget {} s.samp k).retired || decide (4 ≤ k) then s
    else { s with samp := mupd {} s.samp k fun x => { x with retired := true } }.raiseEpoch 0 0xFFFFFFFF k)

/-! ### PCI Express (R578) -/

/-- PCIE_LINK_RETRAINING (R578). -/
def execPcieLinkRetraining (speed width : Nat) (flit : Bool) (s : State) : Out1 :=
  .next (if s.boot.up then { s with pcie := { s.pcie with speed := speed, width := width, flit := flit } } else s)

/-- VF_ENABLE (R394, R578): the VFs, and their beds' queues, become reachable or unreachable. -/
def execVfEnable (num : Nat) (s : State) : Out1 :=
  .next (if !s.boot.up then s
    else
      let gone := (List.range 32).filter fun f => decide (num < f) && decide (f ≤ s.pcie.numVfs)
      let s := { s with pcie := { s.pcie with numVfs := num, fns := gone.foldl (fun m f => mset {} m f {}) s.pcie.fns } }
      ((List.range 32).filter fun b => s.fnOn b && !s.inD3 b).foldl State.sendOwed s)

end Sys2Proof.Machine
end

