-- ==== Sys2Proof/Machine/Sampler.lean ====
section
/-!
DEFINITION. The samplers' arithmetic (R319–R321): the generator and the selection, as the normative pseudocode has them.
-/
namespace Sys2Proof.Machine

/-- A quarter round of the generator (R319). -/
def qr (x : Lane × Lane × Lane × Lane) : Lane × Lane × Lane × Lane :=
  let (a, b, c, d) := x
  let a := a + b
  let d := (d ^^^ a).rotateLeft 16
  let c := c + d
  let b := (b ^^^ c).rotateLeft 12
  let a := a + b
  let d := (d ^^^ a).rotateLeft 8
  let c := c + d
  let b := (b ^^^ c).rotateLeft 4
  (a, b, c, d)

/-- draw of R319: 24 random bits as an FP32 value in [0, 1). -/
def sampleDraw (seed pos ctr : Nat) : Lane :=
  let (a, _, c, _) := qr (qr (qr (qr (BitVec.ofNat 32 seed, BitVec.ofNat 32 (seed / 2 ^ 32),
    BitVec.ofNat 32 pos ^^^ 0x9E3779B9#32, BitVec.ofNat 32 ctr ^^^ 0x7F4A7C15#32))))
  fmul (fOfNat ((a ^^^ c).toNat / 256)) 0x33800000#32

/-- Whether a logit is a candidate: neither NaN nor −∞ (R320). -/
def candidate (x : Lane) : Bool := !(decide (0x7F800000 < x.toNat % 2 ^ 31)) && x != 0xFF800000#32

/-- Insert by logit descending, then token ascending (R320). -/
def candInsert (x : Nat × Lane) : List (Nat × Lane) → List (Nat × Lane)
  | [] => [x]
  | y :: ys => if flt x.2 y.2 || (feq x.2 y.2 && decide (y.1 < x.1)) then y :: candInsert x ys else x :: y :: ys

/-- Running sums, ascending rank (R320). -/
def cumulate (s : Lane) : List Lane → List Lane
  | [] => []
  | p :: ps => let t := fadd s p; t :: cumulate t ps

/-- The candidates of R320 kept after top-k, by rank. -/
def candidates (logits : List Lane) (prm : Sampling) : List (Nat × Lane) :=
  let l := prm.bias.foldl (fun l b => l.set b.1 (fadd (l.getD b.1 0) (BitVec.ofNat 32 b.2))) logits
  let cand := (l.zipIdx).filterMap fun x =>
    if candidate x.1 then some (x.2, if x.1 = 0x7F800000#32 then 0x7F7FFFFF#32 else x.1) else none
  let sorted := cand.foldl (fun acc x => candInsert x acc) []
  sorted.take (if prm.topk = 0 then 1024 else prm.topk)

/-- A-cycles of a sampler job on V logits (R317). -/
def samplerCycles (logits : List Lane) (prm : Sampling) : Nat :=
  (logits.length + 63) / 64 + 3 * (candidates logits prm).length + 48

/-- sample of R320: the token, or none where no candidate is left. -/
def sampleToken (logits : List Lane) (prm : Sampling) (pos : Nat) : Option Nat :=
  let k := if prm.topk = 0 then 1024 else prm.topk
  let cs := candidates logits prm
  match cs with
  | [] => none
  | first :: _ =>
    if prm.temp % 2 ^ 31 = 0 ∨ k = 1 then some first.1
    else
      let c := fmul cLog2e (frecip (BitVec.ofNat 32 prm.temp))
      let ps := cs.map fun x => fexp2 (fmul (fsub x.2 first.2) c)
      let minp : Lane := BitVec.ofNat 32 prm.minp
      let n := if prm.minp % 2 ^ 31 = 0 then ps.length else (ps.takeWhile fun p => fle minp p).length
      let cum := cumulate 0 (ps.take n)
      let s := cum.getLast?.getD 0
      let n := if prm.topp = 0x3F800000 then n
        else 1 + ((cum.takeWhile fun x => flt x (fmul (BitVec.ofNat 32 prm.topp) s)).length)
      let total := cum.getD (n - 1) 0
      let target := fmul (sampleDraw prm.seed pos 0) total
      match ((cum.take n).zip cs).find? fun x => flt target x.1 with
      | some x => some x.2.1
      | none => ((cum.take n).zip cs).find? (fun x => feq x.1 total) |>.map (·.2.1)

end Sys2Proof.Machine
end

