-- ==== Sys2Proof/Machine/TileCheck.lean ====
section
/-!
DEFINITION. What the scribe and the planner bring a step's nibs: row information and tile lists (R228, R250, R251, R253), and
the planner's checks of every tile list (R198, R254).
-/
namespace Sys2Proof.Machine

/-! ### The shape block against the plan (R135, R162, R163) -/

/-- Whether a shape block pushes a field above its plan (R162), or the count of a LOOP above the planned one (R135). -/
def shapesAbove (p : ShapePlan) (sh : List Shape) : Bool :=
  (sh.zipIdx.any fun x =>
    decide (p.max x.2 0 < x.1.m) || decide (p.max x.2 1 < x.1.n) || decide (p.max x.2 2 < x.1.k) ||
    decide (p.max x.2 3 < x.1.aux0) || decide (p.max x.2 4 < x.1.aux1)) ||
  p.loops.any fun l => decide (l.2.2.2 < cdiv ((sh.getD l.1 {}).field l.2.1) (2 ^ l.2.2.1))

/-- Whether a shape register's BSCALE differs from the byte the weight sets carry (R163). -/
def bscaleDiffers (p : ShapePlan) (sh : List Shape) : Bool := p.bscale.any fun x => (sh.getD x.1 {}).bscale != x.2

/-- Whether the length of a list, which goes into AUX0 of its ATTEND's register (R251), is above the plan (R135, R162). -/
def listAbove (p : ShapePlan) (a : Att) (len : Nat) : Bool :=
  decide (p.max a.sreg 3 < len) || p.loops.any fun l =>
    l.1 == a.sreg && l.2.1 == 6 && decide (l.2.2.2 < cdiv len (2 ^ l.2.2.1))

/-! ### Row information (R228, R250) -/

/-- Token rows a sequence has in its step, padding included (R249). -/
def Step.rowsFor (t : Step) (q : Seq) : Nat := if t.bulk then t.buckets.getD q.bucket q.new else q.new

/-- The sequence token row `m` belongs to. -/
def Step.seqAt (t : Step) (m : Nat) : Option Seq :=
  t.seqs.find? fun q => decide (q.row0 ≤ m) && decide (m < q.row0 + t.rowsFor q)

/-- START of the last segment that starts at or below a position; 0 without segments (R250). -/
def segStart (segs : List Nat) (pos : Nat) : Nat := segs.foldl (fun l x => if x ≤ pos then x else l) 0

/-- Row information of token row `m` (R250): a PAD row's POS and LO are free values, and a row of no sequence is padding. -/
def Step.rowInfo (t : Step) (m : Nat) : RowInfo :=
  let pad (pfx : Nat) : RowInfo :=
    { pos := (Config.freeValue 20 m).toNat, lo := (Config.freeValue 20 (m + 2 ^ 24)).toNat, pfx := pfx, pad := true }
  match t.seqAt m with
  | none => pad 0
  | some q =>
    if m < q.row0 + q.new then
      let pos := q.pos0 + (m - q.row0)
      { pos := pos, lo := segStart q.segs pos, pfx := q.pfx, pad := false }
    else pad q.pfx

/-- A row information word (R228). -/
def RowInfo.word (r : RowInfo) : Nat := bitsAt r.pos 0 20 + bitsAt r.lo 0 20 * 2 ^ 20 + bitsAt r.pfx 0 20 * 2 ^ 40 + b2n r.pad * 2 ^ 60

/-- Executable bundles of the selected script. -/
def Nib.scriptLen (n : Nib) : Nat := execLen n n.slotD.length

/-- The ATTENDs of the selected script, in script order. -/
def Nib.attends (n : Nib) : List Att := (List.range n.scriptLen).filterMap (attAt n)

/-- The row-information handles of the selected script: RIHANDLE of its ATTENDs and H2 of the ROTARY stages of every prologue and
epilogue (R228, R232). -/
def Nib.infoHandles (n : Nib) : List Nat :=
  let rot (h : Nat) : List Nat := ((n.descriptor h).2.filter fun st => st.op == 7).map (·.h2)
  (n.attends.flatMap (fun a => (n.attDescOf a).rih :: (if (n.attDescOf a).epi then rot (n.attDescOf a).edh else [])) ++
    (List.range n.scriptLen).flatMap fun k =>
    (match matAt n k with | some m => (if m.epi then rot m.edh else []) ++ (if m.pro then rot m.pdh else []) | none => []) ++
    (match finAt n k with | some f => if f.epi then rot f.edh else [] | none => [])).eraseDups

/-- Overwrite word `j` of width `w` of a row where `v` gives one. -/
def putWords (w : Nat) (v : Nat → Option Nat) (d : Row) : Row :=
  BitVec.ofNat 256 (pack ((List.range (256 / w)).map fun j => (w, (v j).getD (bitsAt d.toNat (w * j) w))))

/-- Write `words` of width `w` from row 0 of handle `h`, as far as the handle reaches. -/
def Nib.fillHandle (n : Nib) (h w count : Nat) (word : Nat → Nat) : Nib :=
  let per := 256 / w
  (List.range (min (n.hlen h) (cdiv count per))).foldl (fun n i =>
    let row := n.hrow h i
    n.padWrite row (putWords w (fun j => if per * i + j < count then some (word (per * i + j)) else none) (n.peek row))) n

/-- The tile list a step has for an ATTEND of a nib; empty where it has none. -/
def Step.listOf (t : Step) (lg a : Nat) : List (BitVec 128) :=
  match t.lists.find? fun (l : TileList) => l.1 == lg && l.2.1 == a with
  | some l => l.2.2
  | none => []

/-- What a step's start finds in logical nib `lg`: row information for each token row, and the nib's tile lists in LHANDLE
(R228, R253; log 157). -/
def Nib.withPlan (n : Nib) (t : Step) (lg : Nat) : Nib :=
  let n := n.infoHandles.foldl (fun n h => n.fillHandle h 64 t.nrows fun m => (t.rowInfo m).word) n
  n.attends.zipIdx.foldl (fun n x =>
    let l := t.listOf lg x.2
    n.fillHandle x.1.lh 128 l.length fun i => (l.getD i 0).toNat) n

/-! ### The planner's checks (R198, R254) -/

/-- One entry of a list, as the checks meet it. -/
structure TileItem where
  lg : Nat
  k : Nat
  n : Nib
  a : Att
  ad : AttDesc
  bits : Nat
  e : TileEnt

/-- A partial as the checks follow it (R237, R244): its grouped rows, the spans and SPAN entries it holds, and whether its
span still runs. -/
structure TilePart where
  slot : Nat
  q0 : Nat
  qrows : Nat
  head : Nat
  tm : Nat
  running : Bool
  spans : List Nat
  keys : List TileEnt
  k : Nat                           -- the entry that made it, and the token row it starts at
  row : Nat

/-- The same grouped rows. -/
def TilePart.rowsAs (p : TilePart) (e : TileEnt) : Bool :=
  p.q0 == e.q0 && p.qrows == e.qrows && p.head == e.head && p.tm == e.tm

/-- A nib's side of the checks: the entries left, the live partials and the rows finished. -/
structure TileNib where
  lg : Nat
  todo : List TileItem
  live : List TilePart

/-- The checks' progress: each nib's, the partials sent and not yet merged, by target nib, slot, handle and index, and the
rows finished, by nib, LHANDLE, head and grouped row. -/
structure TileSim where
  nibs : List TileNib
  sent : List ((Nat × Nat × Nat × Nat) × TilePart)
  done : List (Nat × Nat × TileEnt)

/-- Rows an entry's DMA programs deliver (R254, point 5). -/
def TileItem.delivered (x : TileItem) : Nat :=
  match x.e.op with
  | 0 => x.ad.d / 32 * (keySetRows x.ad.kv4 * cdiv x.e.klen 16 + valSetRows x.ad.kv4 * cdiv x.e.klen 32)
  | 2 => 9 * rawCount x.ad.d x.e.qr
  | _ => 0

/-- The entry's gate count is right: an ungated SPAN stands on sets already delivered (log 158). -/
def TileItem.gateOk (x : TileItem) : Bool := x.e.gcount == x.delivered || (x.e.op == 0 && x.e.gcount == 0)

/-- What an entry's own fields may break (R197, R198, R236; R254, points 1, 2 and 5). -/
def TileItem.fieldsOk (x : TileItem) (t : Step) : Bool :=
  let e := x.e
  let m0 := e.q0 / x.ad.g
  let m1 := (e.q0 + e.qrows - 1) / x.ad.g
  let one := match t.seqAt m0 with | some q => decide (m1 < q.row0 + t.rowsFor q) | none => false
  bitsAt x.bits 95 2 == 0 && bitsAt x.bits 105 23 == 0 && decide (e.op ≤ 4) && decide (e.tm ≤ 5) && decide (e.gcount ≤ 65536) &&
  one && decide (e.qrows ≤ e.qr) && decide ((e.head + 1) * x.ad.g * x.ad.d ≤ x.ad.npo) && x.gateOk &&
  (e.op != 0 || (e.k0 % 128 == 0 && e.k0 / x.ad.span == (e.k0 + e.klen - 1) / x.ad.span))

/-- Whether the entry names slots outside those the ATTEND owns (R198). -/
def TileItem.slotsOut (x : TileItem) : Bool :=
  let need := partialSlots x.ad.d x.e.qr
  let out (s : Nat) : Bool := decide (s < x.a.base) || decide (x.a.base + x.a.slots < s + need)
  out x.e.slot || (x.e.op == 1 && out (x.e.k0 % 64))

/-- The live partial at a slot, its span ended. -/
def TileNib.partAt (n : TileNib) (slot : Nat) (e : TileEnt) : Option TilePart :=
  n.live.find? fun p => p.slot == slot && p.rowsAs e && !p.running

/-- Take a partial out of the live ones, or put one in its place. -/
def TileNib.drop (n : TileNib) (slot : Nat) : TileNib := { n with live := n.live.filter fun p => p.slot != slot }

/-- Replace a live partial. -/
def TileNib.put (n : TileNib) (p : TilePart) : TileNib := { n with live := p :: n.live.filter fun q => q.slot != p.slot }

/-- A new partial's slots (R254, point 6): none too many, and none that another live partial holds. -/
def TileNib.opens (n : TileNib) (x : TileItem) (p : TilePart) : Except Status TileNib :=
  let need (tm : Nat) : Nat := partialSlots x.ad.d (16 * 2 ^ tm)
  if x.a.slots < need p.tm + sumNat (n.live.map fun q => need q.tm) then .error .accOvercommit
  else if n.live.any fun q => decide (q.slot < p.slot + need p.tm) && decide (p.slot < q.slot + need q.tm) then
    .error .tileListInvalid
  else .ok (n.put p)

/-- Whether two sets of spans are the two children of one node of the tree (R245): at some level each lies in one node, and
the two nodes are siblings. -/
def siblings (a b : List Nat) : Bool :=
  (List.range 11).any fun l =>
    match a, b with
    | x :: _, y :: _ => (a.all fun s => s / 2 ^ l == x / 2 ^ l) && (b.all fun s => s / 2 ^ l == y / 2 ^ l) &&
        x / 2 ^ l != y / 2 ^ l && x / 2 ^ (l + 1) == y / 2 ^ (l + 1)
    | _, _ => false

/-- The keys an entry makes visible to a row, from the first to before the last (R234). -/
def TileEnt.sees (e : TileEnt) (win : Nat) (r : RowInfo) : Nat × Nat :=
  let hi := match e.mask with
    | 0 => e.k0 + e.klen
    | 3 => if r.pos < r.pfx then max (r.pos + 1) r.pfx else r.pos + 1
    | _ => r.pos + 1
  let lo := max (if e.mask = 2 then r.pos + 1 - win else 0) (if e.seg then r.lo else 0)
  if r.pad then (0, 0) else (max e.k0 lo, min (e.k0 + e.klen) hi)

/-- No key is visible to one row through two of a partial's SPAN entries (R254, point 3). -/
def keysOnce (t : Step) (ad : AttDesc) (e : TileEnt) : List TileEnt → Bool
  | [] => true
  | x :: xs => (xs.all fun y => (List.range e.qrows).all fun i =>
      let r := t.rowInfo ((e.q0 + i) / ad.g)
      let a := x.sees ad.win r
      let b := y.sees ad.win r
      decide (a.2 ≤ a.1) || decide (b.2 ≤ b.1) || decide (a.2 ≤ b.1) || decide (b.2 ≤ a.1)) && keysOnce t ad e xs

/-- What two half-open ranges of keys share. -/
def shared (a b : Nat × Nat) : Nat := min a.2 b.2 - max a.1 b.1

/-- Whether the SPAN entries over which retrieval attention runs name pages that R258 may select of `n` visible ones from page `p0`: the
first 4, the last 8 and 64 others, whichever have the highest bounds (log 165). -/
def selectionOk (p0 n : Nat) (pages : List Nat) : Bool :=
  pages.length == min n 76 && (List.range n).all fun p => (decide (4 ≤ p) && decide (p + 8 < n)) || pages.contains (p0 + p)

/-- Every key visible to a row of a FINISH lies in a SPAN entry of the row's tree (R254, point 3): its visible keys are those of its
sequence that the mask of each of these entries admits (log 158). Of a row whose visible keys exceed the retrieval length `lr`, those
are visible that lie in the selected pages (R258). -/
def keysAll (t : Step) (lr : Nat) (ad : AttDesc) (e : TileEnt) (l : List TileEnt) : Bool :=
  (List.range e.qrows).all fun i =>
    let m := (e.q0 + i) / ad.g
    let r := t.rowInfo m
    match t.seqAt m with
    | none => true
    | some q =>
      let ends := q.pos0 + q.new
      let vis := l.foldl (fun (a : Nat × Nat) x =>
        let y := ({ x with k0 := 0, klen := ends } : TileEnt).sees ad.win r
        (max a.1 y.1, min a.2 y.2)) (0, ends)
      let pages := (l.flatMap fun x => (List.range' (x.k0 / 256) ((x.k0 + x.klen - 1) / 256 + 1 - x.k0 / 256))).eraseDups
      let last := min (256 * (r.pos / 256) + 255) (ends - 1)
      let covered := sumNat (l.map fun x => shared (x.sees ad.win r) vis)
      r.pad || (if q.retr && decide (lr < vis.2 - vis.1) then
          selectionOk (vis.1 / 256) (last / 256 + 1 - vis.1 / 256) pages &&
            covered == sumNat (pages.map fun p => shared (256 * p, 256 * p + 256) vis)
        else covered == vis.2 - vis.1)

/-- Merge a partial into another (R245). -/
def TilePart.merge (p q : TilePart) : Option TilePart :=
  if siblings p.spans q.spans then some { p with spans := p.spans ++ q.spans, keys := p.keys ++ q.keys } else none

/-- Carry out one entry (R236, R244, R245, R254): none while a MERGE_IN waits for its partial. -/
def TileSim.entry (s : TileSim) (t : Step) (lr : Nat) (n : TileNib) (x : TileItem) : Option (Except Status (TileSim × TileNib)) :=
  let e := x.e
  let bad : Option (Except Status (TileSim × TileNib)) := some (.error .tileListInvalid)
  let fresh : TilePart := { slot := e.slot, q0 := e.q0, qrows := e.qrows, head := e.head, tm := e.tm, running := false, spans := [], keys := []
                            k := x.k, row := e.q0 / x.ad.g }
  if x.slotsOut then some (.error .accOvercommit)
  else if !x.fieldsOk t || x.n.entryBad x.a x.ad e || (x.k == 0 && !n.live.isEmpty) then bad
  else match e.op with
    | 0 =>
      if e.first then match n.opens x { fresh with running := !e.last, spans := [e.k0 / x.ad.span], keys := [e] } with
        | .error c => some (.error c)
        | .ok n => some (.ok (s, n))
      else match n.live.find? fun p => p.slot == e.slot && p.rowsAs e && p.running with
        | none => bad
        | some p =>
          if p.spans = [e.k0 / x.ad.span] ∧ p.keys.all fun y => decide (y.k0 + y.klen ≤ e.k0) then
            some (.ok (s, n.put { p with running := !e.last, keys := e :: p.keys }))
          else bad
    | 1 => match n.partAt e.slot e, n.partAt (e.k0 % 64) e with
      | some p, some q =>
        if e.slot = e.k0 % 64 then bad else match p.merge q with
        | some p => some (.ok (s, (n.drop q.slot).put p))
        | none => bad
      | _, _ => bad
    | 2 =>
      let key := (x.lg, x.n.activeSlot, x.ad.rh, e.k0 % 4096)
      match s.sent.find? fun y => y.1 == key with
      | none => none
      | some y =>
        let s := { s with sent := s.sent.eraseP fun z => z.1 == key }
        if !y.2.rowsAs e then bad
        else if e.first then match n.opens x { y.2 with slot := e.slot } with
          | .error c => some (.error c)
          | .ok n => some (.ok (s, n))
        else match n.partAt e.slot e with
          | none => bad
          | some p => match p.merge y.2 with
            | some p => some (.ok (s, n.put p))
            | none => bad
    | 3 => match n.partAt e.slot e with
      | none => bad
      | some p =>
        let r := x.n.route x.ad.rroute
        some (.ok ({ s with sent := s.sent ++ [((r.nib, r.slot, r.handle, e.k0 % 4096), p)] }, n.drop e.slot))
    | _ => match n.partAt e.slot e with
      | none => bad
      | some p =>
        let twice := s.done.any fun y => y.1 == x.lg && y.2.1 == x.a.lh && y.2.2.head == e.head &&
          decide (y.2.2.q0 < e.q0 + e.qrows) && decide (e.q0 < y.2.2.q0 + y.2.2.qrows)
        if twice || !keysOnce t x.ad e p.keys || !keysAll t lr x.ad e p.keys then bad
        else some (.ok ({ s with done := (x.lg, x.a.lh, e) :: s.done }, n.drop e.slot))

/-- One round: every nib carries out its next entry, if it can. -/
def TileSim.round (s : TileSim) (t : Step) (lr : Nat) : Except (Status × TileItem) TileSim :=
  s.nibs.foldlM (fun s n => match n.todo with
    | [] => .ok { s with nibs := s.nibs ++ [n] }
    | x :: xs => match s.entry t lr n x with
      | none => .ok { s with nibs := s.nibs ++ [n] }
      | some (.error c) => .error (c, x)
      | some (.ok (s, n)) => .ok { s with nibs := s.nibs ++ [{ n with todo := xs }] }) { s with nibs := [] }

/-- All rounds. What is left at the end waits for a partial nobody sends. -/
def TileSim.rounds (s : TileSim) (t : Step) (lr : Nat) : Nat → Except (Status × TileItem) TileSim
  | 0 => .ok s
  | k + 1 => match s.round t lr with
    | .error e => .error e
    | .ok s => s.rounds t lr k

/-- A failed check: the status, the entry's index in its list, and the token row it starts at. -/
structure TileFault where
  st : Status
  k : Nat := 0
  row : Nat := 0
deriving DecidableEq, Repr

/-- The failure an item stands for. -/
def TileItem.fault (x : TileItem) (c : Status) : TileFault := { st := c, k := x.k, row := x.e.q0 / x.ad.g }

/-- The entries of one list, for the ATTEND it names. -/
def tileItems (lg : Nat) (n : Nib) (a : Att) (l : List (BitVec 128)) : List TileItem :=
  l.zipIdx.map fun x => { lg := lg, k := x.2, n := n, a := a, ad := n.attDescOf a, bits := x.1.toNat, e := tileEnt x.1.toNat }

/-- The number that stands most often in a list; of several, the greatest. -/
def commonest (l : List Nat) : Nat :=
  (l.foldl (fun (m : Nat × Nat) x =>
    let c := l.count x
    if m.1 < c ∨ (m.1 = c ∧ m.2 < x) then (c, x) else m) (0, 0)).2

/-- A token row that the lists' FINISHes do not write, for some key–value head of an ATTEND, as often as the other rows and heads: once
for each layer whose attention the lists hold (R254, point 4; log 158). -/
def unfinished (t : Step) (its : List TileItem) (atts : List AttDesc) : Option Nat :=
  ((atts.map fun ad => (ad.g, ad.npo / (ad.d * ad.g))).eraseDups).findSome? fun gh =>
    let fins := its.filter fun x => x.e.op == 4 && x.ad.g == gh.1
    let times (q : Nat) : List Nat := (List.range gh.2).map fun h =>
      (fins.filter fun x => x.e.head == h && decide (x.e.q0 ≤ q) && decide (q < x.e.q0 + x.e.qrows)).length
    let all := max 1 (commonest ((List.range (gh.1 * t.nrows)).flatMap times))
    (firstNat (fun q => (times q).any (· != all)) 0 (gh.1 * t.nrows)).map fun q => q / gh.1

/-- The first entry of a nib's lists with which the rows its gate tally expects in the step exceed 2^24 − 1 (R198, R199 check 9). -/
def tallyOver (its : List TileItem) : Option TileItem :=
  its.find? fun x => x.a.tg && decide (2 ^ 24 - 1 < sumNat (its.map fun y =>
    if y.a.tg && y.a.gtally + y.k % y.a.gspan == x.a.gtally + x.k % x.a.gspan then y.delivered else 0))

/-- The planner's checks of a step's lists (R198, R254): the first that fails, the lists by number of entries first, then
entry by entry in turn over the nibs, then the rows that no FINISH writes. -/
def State.tileFault (s : State) (b : Nat) (p : ShapePlan) (t : Step) : Option TileFault :=
  let nibs := (s.bedNibs b).zipIdx.map fun x => (x.2, { s.nib x.1 with activeSlot := t.slot })
  let lost := t.lists.any fun l => match nibs[l.1]? with
    | some x => decide (x.2.attends.length ≤ l.2.1)
    | none => true
  let doubled := decide ((t.lists.map fun (l : TileList) => (l.1, l.2.1)).eraseDups.length < t.lists.length)
  if lost || doubled then some { st := .tileListInvalid }
  else
    let its := nibs.map fun x => (x.1, x.2.attends.zipIdx.map fun a => tileItems x.1 x.2 a.1 (t.listOf x.1 a.2))
    match its.findSome? fun x => x.2.findSome? fun l => match l.head? with
      | some i => if listAbove p i.a l.length then l.getLast? else l[i.a.lmax]?
      | none => none with
    | some i => some (i.fault .shapeAbovePlan)
    | none => match its.findSome? fun x => tallyOver x.2.flatten with
    | some i => some (i.fault .tileListInvalid)
    | none =>
      let todo := its.map fun x => ({ lg := x.1, todo := x.2.flatten, live := [] } : TileNib)
      match ({ nibs := todo, sent := [], done := [] } : TileSim).rounds t t.lr (sumNat (todo.map fun n => n.todo.length)) with
      | .error x => some (x.2.fault x.1)
      | .ok z =>
        match z.nibs.findSome? fun n => n.todo.head? with
        | some x => some (x.fault .tileListInvalid)
        | none =>
          match z.sent.map (·.2) ++ z.nibs.flatMap (·.live) with
          | p :: _ => some { st := .tileListInvalid, k := p.k, row := p.row }
          | [] => (unfinished t (its.flatMap fun x => x.2.flatten) (nibs.flatMap fun x => x.2.attends.map x.2.attDescOf)).map fun row =>
              { st := .tileListInvalid, row := row }

end Sys2Proof.Machine
end

