-- ==== Sys2Proof/Machine/Steps.lean ====
section
/-!
DEFINITION. Building and starting steps (R32, R130, R161–R163, R249–R251, R275, R312, R373, R376), the samplers' jobs and
the timers of requests and steps (R298, R317, R478).
-/
namespace Sys2Proof.Machine

/-! ### Capture (R275, R276) -/

/-- Whether a list's copy carries its own digest (R274, R275). -/
def listDigestOk (bs : List Byte) : Bool := slice bs 16 8 == listDigest (bs.take 16) (bs.drop 64)

/-- Whether entry `x` at index `k` passes the frame checks of R275: neither FREE nor DRAINING, and a private frame is the
session's for this unit. -/
def State.capturedOk (s : State) (num k x : Nat) : Bool :=
  !entHere x || match s.frame (entLp x) (entFrame x) with
    | none => false
    | some f => match f.st with
      | .free => false
      | .draining => false
      | .shared => true
      | _ => f.owner == num && f.pos == k

/-- State of the frame an entry names; none where it is absent. -/
def State.entState (s : State) (x : Nat) : Option FrameSt :=
  if entHere x then (s.frame (entLp x) (entFrame x)).map (·.st) else none

/-- What the capture of a sequence finds (R275): OK with the copy, UNCORRECTABLE where the list cannot be read (R434), PAGE_LIST_CHANGED,
or LIST_INVALID with the first failing entry. The tail page, part of which lies below C, is read and written. -/
def State.capture (s : State) (i pos0 new : Nat) : Except (Status × Nat) (List Byte) :=
  let e := s.ses i
  let g := s.geo i
  match s.listAt g e.listAddr with
  | none => .error (.uncorrectable, 0)
  | some bs =>
    if !listDigestOk bs then .error (.pageListChanged, 0)
    else
      let es := bytesEnts g.nent (bs.drop 64)
      let reads := g.span 0 (cdiv pos0 256)
      let writes := g.span (pos0 / 256) (cdiv (pos0 + new) 256)
      let tail := if pos0 % 256 = 0 then [] else g.pageUnits (pos0 / 256)
      let ok (u : Nat) : Bool :=
        let x := es.getD u 0
        s.capturedOk (s.sesNumber i) u x && match s.entState x with
          | some .sealed => !writes.contains u || tail.contains u
          | some .shared => !writes.contains u
          | some .reserved => !reads.contains u && (!writes.contains u || !tail.contains u)
          | _ => !reads.contains u && !writes.contains u
      match firstNat (fun u => !ok u) 0 g.nent with
      | some u => .error (.listInvalid, u)
      | none => .ok bs

/-- Of waiting requests, those whose next step the working set has frames for (R290, R291); the others wait. -/
def State.chunksFit (s : State) : Nat → List Req → List Req
  | _, [] => []
  | free, r :: rs =>
    if !r.streamed then r :: s.chunksFit free rs
    else
      let w := s.want r
      let es := s.entries r.index
      let n := (((s.geo r.index).span (w.pos / 256) (cdiv (w.pos + w.rows) 256)).filter fun u => !entHere (es.getD u 0)).length
      if n ≤ free then r :: s.chunksFit (free - n) rs else s.chunksFit free rs

/-- A streamed request's chunk takes working-set frames (R291): absent units of the chunk's pages are named by a swap. -/
def State.chunkFrames (s : State) (i pos0 new : Nat) : State :=
  match s.reqOf i with
  | none => s
  | some r =>
    if !r.streamed then s
    else
      let g := s.geo i
      let es := s.entries i
      let us := (g.span (pos0 / 256) (cdiv (pos0 + new) 256)).filter fun u => !entHere (es.getD u 0)
      match fillUnits es false us (s.freeFrames (s.ses i).bed false) with
      | none => s
      | some es' => (s.swap i es').updReq i fun r => { r with frames := r.frames + us.length }

/-- Take one request into a descriptor under capture: its sequence, with the copy in a capture area (log 199), or its end (R275). One that computes with a bidirectional prefix
or segments takes no part in the prefix index (R35, R282). -/
def State.enterSeq (s : State) (w : Want) (row0 bucket : Nat) : Option Seq × State :=
  let s := (s.chunkFrames w.index w.pos w.rows).readList w.index
  match s.capture w.index w.pos w.rows with
  | .error (st, k) => (none, s.dropRequest w.index st (if st = .listInvalid then listRecord st k else fun _ r => r))
  | .ok bs =>
    let e := s.ses w.index
    let (cap, s) := match s.arenaTake e.bed (wholeCws bs).length with
      | some (a, s) => (a, (s.writeDev a (wholeCws bs)).1)
      | none => (0, s)
    let s := s.updSes w.index fun e => { e with
      st := .running, noPrefix := e.noPrefix || w.pfx != 0 || !w.segs.isEmpty }
    let r := (s.reqOf w.index).getD {}
    let s := (s.carriers w.index).foldl (fun s x => s.stepBatch x.1 e.listGen w.pos bs w.layers) s
    (some {
      index := w.index, row0 := row0, new := w.rows, pos0 := w.pos, retr := w.retr, bucket := bucket, pfx := w.pfx
      segs := w.segs, gen := e.listGen, cap := cap
      addr := e.listAddr, list := bs, last := w.left == 0 || r.kind == .decode }, s)

/-- Take requests in length-table order (R249): rows packed without gaps, a bulk sequence at its bucket's length. -/
def State.enterAll (s : State) (p : ShapePlan) (row0 : Nat) : List Want → List Seq × Nat × State
  | [] => ([], row0, s)
  | w :: ws =>
    let k := if w.bulk then (bucketFor p w.rows).getD 0 else 0
    let n := if w.bulk then p.buckets.getD k w.rows else w.rows
    match s.enterSeq w row0 k with
    | (none, s) => s.enterAll p row0 ws
    | (some q, s) =>
      let (qs, rows, s) := s.enterAll p (row0 + n) ws
      (q :: qs, rows, s)

/-- Shape registers with NROWS in field M of those the plan assigns to token rows (R251). -/
def rowShapes (p : ShapePlan) (rows : Nat) (sh : List Shape) : List Shape :=
  sh.zipIdx.map fun x => if p.rowRegs.contains x.2 then { x.1 with m := rows } else x.1

/-- Shape registers of a step the scribe builds (R160, R162, R251): the plan's own fields, NROWS in field M of the
token-row registers. -/
def planShapes (p : ShapePlan) (rows : Nat) : List Shape :=
  rowShapes p rows ((List.range 8).map fun r =>
    let f := p.base.getD r []
    { m := f.getD 0 0, n := f.getD 1 0, k := f.getD 2 0, nb := cdiv (f.getD 2 0) 32, ascale := f.getD 4 0
      bscale := f.getD 5 0, aux0 := f.getD 6 0, aux1 := f.getD 7 0 })

/-- Requests whose deadline has passed leave the queue (R312). -/
def State.dropLate (s : State) (b : Nat) : State :=
  ((s.waiting b).filter fun r => (s.ses r.index).deadline != 0 && decide ((s.ses r.index).deadline < s.now)).foldl
    (fun s r => s.missDeadline r.index) s

/-- Bulk sequences stand by bucket in the length table (R248, R249). -/
def byBucket (p : ShapePlan) (bulk : Bool) (ws : List Want) : List Want :=
  if bulk then (List.range p.buckets.length).flatMap fun k => ws.filter fun w => bucketFor p w.rows == some k else ws

/-- Whether a bed may have its next descriptor published: READY, none waiting, intake running (R32, R535). -/
def State.mayPublish (s : State) (b : Nat) : Bool :=
  s.runs && s.boot.computeEnd.isNone && !s.sec.pausing && (s.bed b).st == .ready && (s.bed b).next.isNone

/-- Why the step `t` that a scribe has built on plan `p` may not be published, with the token row concerned (R162, R163, R198, R254):
a shape or a list above the plan, a BSCALE that differs, or a list that fails a check. -/
def State.builtFault (s : State) (b : Nat) (p : ShapePlan) (t : Step) : Option TileFault :=
  match s.tileFault b p t with
  | some f => if f.st = .shapeAbovePlan ∨ ¬ shapesAbove p t.shapes then some f else some { st := .shapeAbovePlan }
  | none =>
    if shapesAbove p t.shapes then some { st := .shapeAbovePlan }
    else if bscaleDiffers p t.shapes then some { st := .planMismatch } else none

/-- The lists of a step without its sequence `q`: the entries of its rows are gone, and the rows after them take their place (R249,
R309; log 159). -/
def State.cutLists (s : State) (b : Nat) (t : Step) (q : Seq) : List TileList :=
  let n := t.rowsFor q
  t.lists.map fun l =>
    let g := match (s.bedNibs b)[l.1]? with
      | none => 1
      | some x =>
        let m := { s.nib x with activeSlot := t.slot }
        match m.attends[l.2.1]? with | some a => (m.attDescOf a).g | none => 1
    (l.1, l.2.1, l.2.2.filterMap fun e =>
      let m := bitsAt e.toNat 0 20 / g
      if m < q.row0 then some e else if m < q.row0 + n then none else some (BitVec.ofNat 128 (e.toNat - g * n)))

/-- A descriptor published: it is the bed's next, and its capture areas are its own (R32, R275; log 199). -/
def State.publishStep (s : State) (b interactive : Nat) (t : Step) : State :=
  s.updBed b fun bd => { bd with
    interactive := interactive, next := some t, arena := bd.arena.filter fun x => t.seqs.all fun q => q.cap != x.1 }

/-- Build a descriptor of the requests taken, in the order they were taken, and publish it. While a field or a list stands above the plan,
the last request waits for a later step (R309); any other check that fails rejects its request, and the step is built anew without
it (R254; log 159). -/
def State.buildStep (s : State) (b interactive slot : Nat) (p : ShapePlan) (bulk : Bool) : Nat → List Want → List TileList → State
  | 0, _, _ => s
  | fuel + 1, taken, lists =>
    let handle := match taken with | w :: _ => w.handle | [] => 0
    let (qs, rows, u) := s.enterAll p 0 (byBucket p bulk taken)
    if qs.isEmpty then u
    else
      let t : Step := {
        slot := slot, handle := handle, bulk := bulk, nrows := rows, buckets := p.buckets
        shapes := planShapes p rows, lists := lists, seqs := qs, at_ := u.acyc, lr := u.retrievalLen b }
      match u.builtFault b p t with
      | none => u.publishStep b interactive t
      | some f =>
        match (if f.st = .shapeAbovePlan ∧ 1 < taken.length then taken.getLast? else none) with
        | some w => s.buildStep b interactive slot p bulk fuel taken.dropLast (match qs.find? fun q => q.index == w.index with
            | some q => u.cutLists b t q
            | none => lists)
        | none => match t.seqAt f.row with
          | some q => s.dropRequest q.index f.st (if f.st = .tileListInvalid then listRecord f.st f.k else fun _ r => r)
          | none => s

/-- STEP_DESCRIPTOR_PUBLISH (R32, R33, R162, R163, R253, R254, R275, R289, R308–R312): the planner's tile lists come with it (log 159). -/
def execStepDescriptorPublish (b : Nat) (lists : List TileList) (s : State) : Out1 :=
  .next (if !s.mayPublish b then s
    else
      let s := (s.dropLate b).fetchPages b
      let ready := (s.chunksFit (wsReserve (s.bed b) - wsUsed (s.bed b)) ((s.waiting b).filter fun r => !r.prefetch)).map s.want
      match s.buildFrom b (s.bed b).interactive ready with
      | none => s
      | some (bulk, slot, p, taken) =>
        s.buildStep b (if bulk then 0 else if ready.any (·.bulk) then (s.bed b).interactive + 1 else 0) slot p bulk taken.length taken lists)

/-! ### An expert STEP (R248, R375, R376) -/

/-- Enter the sequences of an expert STEP in entry order; a request whose deadline has passed is left out (R312). -/
def State.enterGiven (s : State) : List (Nat × Nat) → List Want → List Seq × State
  | (row0, bucket) :: rs, w :: ws =>
    let late := w.deadline != 0 && decide (w.deadline < s.now)
    match if late then (none, s.missDeadline w.index) else s.enterSeq w row0 bucket with
    | (none, s) => s.enterGiven rs ws
    | (some q, s) =>
      let (qs, s) := s.enterGiven rs ws
      (q :: qs, s)
  | _, _ => ([], s)

/-- What an expert STEP asks of a request: its own rows, position, prefix, segments and retrieval (R248, R376). -/
def State.wantGiven (s : State) (r : Req) (handle layers : Nat) (lt : List Byte) (e : Nat) : Want :=
  let w := s.want r
  { w with rows := bitsAt e 56 21, pos := bitsAt e 77 20, left := w.left + w.rows - bitsAt e 56 21, pfx := bitsAt e 97 20
           segs := seqSegs lt e, retr := bitAt e 153, handle := handle, layers := layers }

/-- Whether sequence entry `i` of an expert STEP fails (R376; log 161): it must name a QUEUED request admitted with STEPPED
that no other entry names, ask for rows it has from where it stands, and have the form of R248 and R249. -/
def State.entryBad (s : State) (b : Nat) (lt : List Byte) (i : Nat) : Bool :=
  let e := seqEntry lt i
  !entryFormOk lt i || match s.sesOk b (bitsAt e 0 32) with
    | some x => match s.reqOf x with
      | some r =>
        let w := s.want r
        !(r.stepped && (s.ses x).st == .queued) || !(s.mustFetch r).isEmpty || (stepIndices (s.bed b).next).contains x ||
        ((List.range i).any fun j => s.sesOk b (bitsAt (seqEntry lt j) 0 32) == some x) ||
        bitsAt e 77 20 != w.pos || decide (w.left + w.rows < bitsAt e 56 21)
      | none => true
    | none => true

/-- The armed plan a STEP's slot names (R376): the model's handle, the model and the plan. -/
def Bed.planOf (bd : Bed) (slot : Nat) : Option (Nat × Model × ShapePlan) :=
  bd.models.findSome? fun e => match e.2 with
    | some m => (m.slots.find? fun x => x.1 == slot).map fun x => (e.1, m, x.2)
    | none => none

/-- The step an expert STEP's descriptor makes of the sequences entered (R248, R375); without lists of its own it takes the
planner's. -/
def StepData.step (d : StepData) (p : ShapePlan) (ref : PktRef) (handle lr : Nat) (qs : List Seq) : Step :=
  let l := lenTab d.lt
  { ref := some ref, slot := d.slot, handle := handle, bulk := l.bulk, nrows := l.nrows
    buckets := (List.range l.buckets).map fun i => bitsAt (bucketEntry d.lt i) 0 21
    shapes := rowShapes p l.nrows d.shapes, lists := if d.lists then suppliedLists d.tl else Config.plannerLists ref.id, seqs := qs
    lr := lr }

/-- The record of a tile list that fails (R254, R378): the session's generation and the first failing entry. -/
def State.tileRecord (s : State) (k : Pkt) (t : Step) (f : TileFault) : Rec :=
  match f.st with
  | .tileListInvalid =>
    let gen := match t.seqAt f.row with | some q => (s.ses q.index).listGen | none => (Config.freeValue 32 k.ref.id).toNat
    { status := f.st.code, r0 := gen, r3 := f.k }
  | _ => { status := f.st.code }

/-- STEP (R2, R162, R163, R254, R376). A descriptor that passes every check waits while another is the bed's next (R32; log 161). -/
def execStepCmd (b q : Nat) (s0 : State) : Out1 :=
  .next (s0.command b q 0x32 fun s k =>
    let bd := s.bed b
    let d := stepData k.data
    let l := lenTab d.lt
    let ents := (List.range l.nseq).map (seqEntry d.lt)
    if bd.st != .ready || !bd.armed then s.reject k.ref .bedNotReady
    else if !s.licensed 3 && ents.any (bitAt · 153) then s.reject k.ref .licenceRequired
    else
      let ids := ents.map fun e => s.sesOk b (bitsAt e 0 32)
      match firstNat (s.entryBad b d.lt) 0 l.nseq with
      | some i => s.finish k.ref { status := Status.badParameter.code, r3 := i }
      | none =>
        match firstNat (fun i => match ids.getD i none with
          | some x => (s.ses x).listGen != d.gens.getD i 0
          | none => false) 0 l.nseq with
        | some i =>
          let cur := match ids.getD i none with | some x => (s.ses x).listGen | none => 0
          s.finish k.ref { status := Status.listStale.code, r0 := cur, r3 := i }
        | none =>
          match bd.planOf d.slot with
          | none => s.reject k.ref .badParameter
          | some (handle, m, p) =>
            if shapesAbove p (rowShapes p l.nrows d.shapes) then s.reject k.ref .shapeAbovePlan
            else if d.shapes.any fun x => x.nb != cdiv x.k 32 then s.reject k.ref .badParameter
            else if bscaleDiffers p d.shapes then s.reject k.ref .planMismatch
            else if ids.any (fun x => match x with | some i => (s.ses i).model != handle | none => true) ||
              l.nrows != sumNat ((List.range l.nseq).map (entryRows d.lt)) then s.reject k.ref .badParameter
            else
              let ws := (ents.zip ids).filterMap fun x => match x.2 with
                | some i => (s.reqOf i).map fun r => s.wantGiven r handle m.pkg.layers d.lt x.1
                | none => none
              let planned := d.step p k.ref handle (s.retrievalLen b) ((ents.zip ws).map fun x =>
                { index := x.2.index, row0 := bitsAt x.1 32 24, new := x.2.rows, pos0 := x.2.pos, bucket := bitsAt x.1 154 3
                  pfx := x.2.pfx, segs := x.2.segs, retr := x.2.retr })
              let fault := if d.lists && !listsInside d.tl then some { st := .tileListInvalid } else s.tileFault b p planned
              match fault with
              | some f => s.finish k.ref (s.tileRecord k planned f)
              | none =>
                if bd.next.isSome then s0
                else
                let (qs, s) := s.enterGiven (ents.map fun e => (bitsAt e 32 24, bitsAt e 154 3)) ws
                if qs.isEmpty then s.finish k.ref { r0 := 0, r1 := l.nseq }
                else s.publishStep b bd.interactive { d.step p k.ref handle (s.retrievalLen b) qs with at_ := s.acyc })

/-! ### Starting a step (R130, R161) -/

/-- A nib at the first bundle of its selected slot, its row information and tile lists in place, its shape registers loaded,
AUX0 of each ATTEND's register at the live entries of this nib's list (R130, R161, R250, R251, R253). No rule says what a nib
does whose selected slot holds no script: the model sets it RUNNING at the empty slot's address (log 170). Where two ATTENDs name one register
and their lists differ in length, the first in script order gives AUX0 (DESIGN CHOICE, log 215). -/
def startNib (n : Nib) (t : Step) (lg : Nat) : Nib :=
  let n := Nib.withPlan { n with activeSlot := t.slot, pc := 0, loops := [] } t lg
  let atts := n.attends
  let shapes : List (Nat × Shape) := t.shapes.zipIdx.map fun (x : Shape × Nat) =>
    match atts.findIdx? (fun a => a.sreg == x.2) with
    | some a => (x.2, { x.1 with aux0 := (t.listOf lg a).length })
    | none => (x.2, x.1)
  { n with
    st := .running, hold := .none, phase := {}, issuedM := false
    issuedV := false, issuedX := false, issuedC := false, signalled := false, acts := n.acts.filter Act.scrubs, stopAt := none, kvqDone := [], prow := [], rowFl := [], rawFree := 0
    shapes := shapes.foldl (fun m x => mset {} m x.1 x.2) [] }

/-- Whether a bed whose next descriptor is `t` may start its step: none runs, and this is no earlier than the A-cycle after the
descriptor was published and the last step sealed (R32, R33). -/
def State.mayStart (s : State) (b : Nat) (t : Step) : Bool :=
  let bd := s.bed b
  s.runs && bd.st == .ready && !bd.paused && !s.sec.pausing && s.boot.computeEnd.isNone && bd.step.isNone &&
    decide (t.at_ < s.acyc) && match bd.sealed with | some c => decide (c < s.acyc) | none => true

/-- The step of a bed's next descriptor starts where it may (R32, R33, R130, R161). -/
def State.startStep (s : State) (b : Nat) : State :=
  match (s.bed b).next with
  | none => s
  | some t =>
    if !s.mayStart b t then s
    else
      let s := s.updBed b fun bd => { bd with
        next := none, step := some { t with start := s.acyc, startT := s.now } }
      (s.bedNibs b).zipIdx.foldl (fun s x => s.updNib x.1 fun n => startNib n t x.2) s

/-- Steps that may start do so, at the latest as the A-cycle's work begins (R32, R33). -/
def State.startSteps (s : State) : State :=
  (mkeys (fun _ (bd : Bed) => bd.next.isSome) s.beds).foldl State.startStep s

/-- STEP_START (R32, R33, R130, R161): the current descriptor's step starts where no step runs, in the A-cycle after its publish and
the last seal. -/
def execStepStart (b : Nat) (s : State) : Out1 := .next (s.startStep b)

/-- The sequence of a bed's running step whose sampler job waits first (R407): in length-table order, the first final one without a
token, once the barrier has reported the step's phases complete (log 189). -/
def State.samplerWaits (s : State) (b : Nat) : Option Nat :=
  match (s.bed b).step with
  | none => none
  | some t =>
    if (match t.doneAt with | some d => decide (d ≤ s.acyc) | none => false) then t.seqs.findIdx? fun q => q.last && q.token.isNone
    else none

/-- BED.QOS.SAMP_W. -/
def State.sampWeight (s : State) (b : Nat) : Nat := bitsAt (s.cfgAt (bedReg b 0x30)) 16 8

/-- The bed whose job a free sampler takes next (R407): weighted round-robin, SAMP_W jobs a turn, over the beds with jobs waiting; a bed
of weight 0 where no other has any (log 189). -/
def State.samplerBed (s : State) : Option Nat :=
  let waits (b : Nat) : Bool := (s.samplerWaits b).isSome
  let some_ := bedNums.any fun b => waits b && s.sampWeight b != 0
  let may (b : Nat) : Bool := waits b && (s.sampWeight b != 0 || !some_)
  let (b, n) := s.sampTurn
  if may b && decide (n < max 1 (s.sampWeight b)) then some b
  else (bedNums.map fun i => (b + 1 + i) % 32).find? may

/-- Sampler jobs that end by this A-cycle are counted (R317, R578). -/
def State.samplersEnd (s : State) : State :=
  { s with samp := mmap {} (fun _ (x : Samp) => match x.job with
      | some j => if j.2 ≤ s.acyc then { x with job := none, jobs := x.jobs + 1 } else x
      | none => x) s.samp }

/-- SAMPLER_JOB (R317, R320, R407): a free, working sampler takes the job of the sequence whose turn it is, reads its V logits, as the
plan's last phase has written them (log 218), and selects its token; the job ends after the A-cycles R317 gives it. -/
def execSamplerJob (k b seq : Nat) (logits : List Lane) (s : State) : Out1 :=
  .next (match (s.bed b).step with
    | none => s
    | some t => match t.seqs[seq]? with
      | none => s
      | some q =>
        if !s.runs || decide (4 ≤ k) || (mget {} s.samp k).retired || (mget {} s.samp k).job.isSome || s.samplerBed != some b || s.samplerWaits b != some seq ||
            logits.length != (s.pkgOf q.index).vocab then s
        else match s.reqOf q.index with
        | none => s
        | some r =>
          let tok := sampleToken logits r.sampling (q.pos0 + q.new)
          let till := s.acyc + samplerCycles logits r.sampling
          let t := { t with seqs := t.seqs.set seq { q with token := some tok, tokenAt := till } }
          let s := s.updBed b fun bd => { bd with step := some t }
          { s with
            samp := mupd {} s.samp k fun x => { x with job := some (b, till) }
            sampTurn := (b, if s.sampTurn.1 = b ∧ s.sampTurn.2 < max 1 (s.sampWeight b) then s.sampTurn.2 + 1 else 1) })

/-- STEP_WATCHDOG (R476, R478): the step has not sealed within STEP_WD. -/
def execStepWatchdog (b : Nat) (s : State) : Out1 :=
  .next (match (s.bed b).step with
    | none => s
    | some t =>
      if s.runs ∧ t.startT + 100000 * bitsAt (s.cfgAt limitsReg) 0 16 < s.now then
        s.bedFault b Status.tallyTimeout.code 10 0 0 0
      else s)

/-- DEADLINE_EXPIRY (R312, R373): a STEPPED request's deadline passes while it is QUEUED. -/
def execDeadlineExpiry (i : Nat) (s : State) : Out1 :=
  .next (match s.reqOf i with
    | none => s
    | some r =>
      let e := s.ses i
      if s.runs ∧ r.stepped ∧ e.st = .queued ∧ e.deadline ≠ 0 ∧ e.deadline < s.now ∧
          ¬ (stepIndices (s.bed e.bed).next).contains i then s.missDeadline i
      else s)

/-- SESSION_IDLE_EXPIRY (R298, R361): an IDLE session past its limit closes, if its event's record fits the hold area. -/
def execSessionIdleExpiry (i : Nat) (s : State) : Out1 :=
  .next (let e := s.ses i
    if s.runs ∧ e.st = .idle ∧ ¬ e.mirror ∧ e.idleLimit ≠ 0 ∧ e.lastActive + 100000000 * e.idleLimit < s.now ∧
        heldPlain (s.bed e.bed) + (s.bed e.bed).reserve < s.holdRoom e.bed then
      let num := s.sesNumber i
      (s.closeNow i).event [e.bed] { kind := .sessionExpired, session := num, bed := e.bed }
    else s)

end Sys2Proof.Machine
end

