-- ==== Sys2Proof/Machine/Memory.lean ====
section
/-!
DEFINITION. The memory system as commands and events (R287–R291, R434–R445, R477): retraining, scrubbing, copies between
frames, spills, and the limit on a DMA program's progress.
-/
namespace Sys2Proof.Machine

/-! ### Channels -/

/-- Channels whose uncorrectable codewords of the epoch have reached UNCORR_LIMIT are marked (R438), RETIRING ones give up frames
(R440), and retrainings that waited for a channel to be emptied start (R443). -/
def State.careChannels (s : State) : State :=
  let bad := mkeys (fun c (ch : Chan) =>
    let lim := bitsAt (s.cfgAt (ctrlReg (decide (128 ≤ c)))) 0 8
    lim != 0 && (ch.st == .active || ch.st == .retraining) && decide (lim ≤ ch.epochUncorr)) s.chans
  ((bad.foldl (fun s c => s.markChannel c 3) s).tendRetiring.retrainNext false).retrainNext true

/-- A write of HBM.RETRAIN or LP.RETRAIN with GO (R442, R443, R445). A channel to be emptied starts to be so. -/
def State.retrainWrite (s : State) (lp : Bool) (ch : Nat) (migrate : Bool) : State :=
  let s := s.queueRetrain lp ch migrate
  if migrate then s.emptyChans else s

/-- Whether the PF's registers beyond the bring-up window answer (R570): READY, in D0. -/
def State.pfOpen (s : State) (f : Nat) : Bool := f == 0 && s.ready && !s.inD3 0

/-- HBM_RETRAIN_WAIT (R443). -/
def execHbmRetrainWait (f : Nat) (lp : Bool) (ch : Nat) (s : State) : Out1 :=
  .next (if s.pfOpen f then s.retrainWrite lp ch false else s)

/-- HBM_RETRAIN_MIGRATE (R443). -/
def execHbmRetrainMigrate (f : Nat) (lp : Bool) (ch : Nat) (s : State) : Out1 :=
  .next (if s.pfOpen f then s.retrainWrite lp ch true else s)

/-- MEMORY_RETRAIN_END (R441–R444, R494): the training register takes the new result; a failure marks the channel RETIRING
with cause 2 and stops it. -/
def execMemoryRetrainEnd (lp : Bool) (r : TrainResult) (s : State) : Out1 :=
  .next (match (if s.runs then s.msys.now lp else none) with
    | none => s
    | some (q, _) =>
      let c := q + if lp then 128 else 0
      let s := { s with msys := s.msys.setNow lp none }
      let s := s.updChan c fun ch => { ch with
        st := .active, rdMargin := r.rd % 64, wrMargin := r.wr % 64, vref := r.vref % 256, result := r.code }
      let s := if r.code = 0 then s else (s.updChan c fun ch => { ch with dead := true }).markChannel c 2
      s.retrainNext lp)

/-- PHY_CALIBRATION_DRIFT (R442): a wait-mode retraining. -/
def execPhyCalibrationDrift (lp : Bool) (ch : Nat) (s : State) : Out1 :=
  .next (if s.ready then s.queueRetrain lp ch false else s)

/-- MEMORY_SCRUB (R436): the channel's next codeword; a correction is written back, an uncorrectable one is reported. -/
def execMemoryScrub (lp : Bool) (q : Nat) (s : State) : Out1 :=
  .next (
    let c := q + if lp then 128 else 0
    let ch := s.chan c
    if !s.runs || !s.boot.memUp || !bitAt (s.cfgAt (ctrlReg lp)) 24 || ch.st == .retired || ch.st == .retraining ||
        decide ((if lp then 32 else 128) ≤ q) then s
    else
      let a := chanBase c + 32 * ch.scrubPtr
      let s := s.updChan c fun ch => { ch with scrubPtr := (ch.scrubPtr + 1) % (chanSize c / 32) }
      match s.codeword a with
      | (none, _) => s.uncorrEvent a
      | (some d, true) => (s.countCorr a).putOne a d
      | (some _, false) => s)

/-! ### Copies (R288, R289, R291, R435, R440) -/

/-- A page's copy ends without its swap: the target frames are FREE again. -/
def State.dropCopy (s : State) (k : PageCopy) : State :=
  let s := { s with copies := s.copies.filter fun x => !(x.index == k.index && x.page == k.page) }
  let s := k.moves.foldl (fun s m => s.updFrame k.toLp m.2 fun f =>
    if f.st = .copying then { f with st := .free, owner := 0, pos := 0 } else f) s
  s.endCopyJob k.index k.page 0

/-- A copy fails with a status: a request that waited for the page's prefetch completes with it (R435, R477). -/
def State.failCopy (s : State) (k : PageCopy) (st : Status) : State :=
  let s := s.dropCopy k
  match s.reqOf k.index with
  | some r => if r.prefetch && !k.toLp then s.dropRequest k.index st else s
  | none => s

/-- Read the source units of a copy: the bytes for each target frame, or an uncorrectable codeword's address. -/
def State.readUnits (s : State) (g : Geo) (es : List Nat) : List (Nat × Nat) → (Except Nat (List (Nat × List Byte))) × State
  | [] => (.ok [], s)
  | (u, t) :: r =>
    let e := es.getD u 0
    let a := match s.frame (entLp e) (entFrame e) with | some f => 65536 * f.addr | none => 0
    match s.readDev a (frameBytes g.fsize) with
    | (.error x, s) => (.error x, s)
    | (.ok bs, s) => match s.readUnits g es r with
      | (.ok l, s) => (.ok ((t, bs) :: l), s)
      | (.error x, s) => (.error x, s)

/-- Publish a copy's swap: its units name the target frames. A unit that was not yet committed stays so (R440), and
one that is PINNED stays that (R287). -/
def State.publishCopy (s : State) (k : PageCopy) : Option State :=
  let es := s.entries k.index
  let held := k.moves.filter fun m => match s.frame (entLp (es.getD m.1 0)) (entFrame (es.getD m.1 0)) with
    | some f => f.st == .reserved
    | none => false
  let moved := k.moves.foldl (fun es m => es.set m.1 (mkEnt k.toLp m.2 + 2 ^ 26 * b2n (entPinned (es.getD m.1 0)))) es
  (s.edit k.index moved).map fun s =>
    held.foldl (fun s m => s.updFrame k.toLp m.2 fun f => { f with st := .reserved }) s

/-- Once no copy towards HBM waits for a session, its request may join a step (R289). -/
def State.prefetched (s : State) (i : Nat) : State :=
  if s.copies.any fun k => k.index == i && !k.toLp then s else s.updReq i fun r => { r with prefetch := false }

/-- Whether a copy has lost its purpose: a unit has left the list, or a spill's session runs again and is not streamed
(R287). -/
def State.copyMoot (s : State) (k : PageCopy) : Bool :=
  let e := s.ses k.index
  let es := s.entries k.index
  let spill := k.toLp && !entLp (es.getD (k.moves.headD (0, 0)).1 0)
  e.st == .free || (k.moves.any fun m => !entHere (es.getD m.1 0)) ||
  (spill && (e.st == .queued || e.st == .running) && !e.streamed)

/-- FRAME_COPY_COMPLETE (R276, R288, R289, R435, R440): the copy of a page, under way on a DMA channel, ends. While a step
writes the page or the arena has no room for the new list, the swap waits. -/
def execFrameCopyComplete (i p : Nat) (s : State) : Out1 :=
  .next (match s.copies.find? fun (k : PageCopy) => k.index == i && k.page == p with
    | none => s
    | some k =>
      if !s.runs || !(s.dma.any fun d => d.2.job == some (.copy i p)) || (s.writtenPages i).contains p then s
      else if s.copyMoot k then (s.dropCopy k).prefetched i
      else
        let g := s.geo i
        match s.readUnits g (s.entries i) k.moves with
        | (.error a, s) => (s.uncorrEvent a).failCopy k .uncorrectable
        | (.ok l, s) =>
          let w := l.foldl (fun (s : State) (x : Nat × List Byte) => match s.frame k.toLp x.1 with
            | some f => (s.writeDev (65536 * f.addr) x.2).1
            | none => s) s
          match w.publishCopy k with
          | none => s
          | some s =>
            let s := { s with copies := s.copies.filter fun x => !(x.index == i && x.page == p) }
            let s := if k.toLp then s.updReq i fun r => { r with frames := r.frames - k.moves.length } else s
            ((s.endCopyJob i p (k.moves.length * frameBytes g.fsize)).prefetched i).emptyChans)

/-- Units of page `p` of a session that a spill takes, all layers together (R287): SEALED frames of HBM, not PINNED. -/
def State.spillUnits (s : State) (i p : Nat) (es : List Nat) : List Nat :=
  ((s.geo i).pageUnits p).filter fun u =>
    let e := es.getD u 0
    entHere e && !entLp e && !entPinned e && s.entState e == some FrameSt.sealed

/-- Frames on their way out of HBM for a bed. -/
def State.spilling (s : State) (b : Nat) : Nat :=
  sumNat (s.copies.map fun k => if k.toLp && (s.ses k.index).bed == b then k.moves.length else 0)

/-- Spill pages of a session, ascending, until the mark is in sight or LPDDR runs short (R287, R288). -/
def State.spillPages (s : State) (b i mark : Nat) : List Nat → State
  | [] => s
  | p :: ps =>
    if mark ≤ s.freeOutside b + s.spilling b then s
    else
      let us := if s.copies.any (fun k => k.index == i && k.page == p) then [] else s.spillUnits i p (s.entries i)
      if us.isEmpty then s.spillPages b i mark ps
      else match s.planCopies i true us with
        | none => s
        | some s => s.spillPages b i mark ps

/-- Insert a session by its last seal, oldest first. -/
def State.sealInsert (s : State) (i : Nat) : List Nat → List Nat
  | [] => [i]
  | j :: js => if (s.ses j).lastSeal < (s.ses i).lastSeal then j :: s.sealInsert i js else i :: j :: js

/-- SPILL (R287, R288). -/
def execKvSpill (b : Nat) (s : State) : Out1 :=
  .next (
    let hbm := bitsAt (s.cfgAt (bedReg b 0x28)) 0 22
    let pol := s.cfgAt (bedReg b 0x40)
    let mark (k : Nat) : Nat := hbm * bitsAt pol k 8 / 256
    if !s.runs || (s.bed b).st != .ready || decide (mark 32 ≤ s.freeOutside b) then s
    else
      let s := s.evictTo b (mark 40) (s.pfx.length)
      let idle := (mkeys (fun _ (e : Session) => e.st == .idle && e.bed == b) s.sessions).foldr s.sealInsert []
      idle.foldl (fun s i => s.spillPages b i (mark 40) (List.range (s.geo i).npm)) s)

/-! ### DMA progress (R477) -/

/-- DMA_PROGRESS_TIMEOUT (R476, R477). -/
def execDmaProgressTimeout (c : Nat) (s : State) : Out1 :=
  .next (
    let d := s.dmaCh c
    match d.job with
    | none => s
    | some j =>
      if !s.runs || decide (s.now ≤ d.moved + 100 * bitsAt (s.cfgAt limitsReg) 16 16) then s
      else
        let s := s.updDma c fun d => { d with job := none, abandon := d.abandon + 1 }
        let s := match j with
          | .copy i p => match s.copies.find? fun (k : PageCopy) => k.index == i && k.page == p with
            | some (k : PageCopy) => s.failCopy k .tallyTimeout
            | none => s
          | .ship n => s.endStream n Status.exportTimeout.code 0
          | _ => s
        s.assignDma)

end Sys2Proof.Machine
end

