-- ==== Sys2Proof/Machine/KvPage.lean ====
section
/-!
DEFINITION. The page image (R262–R268), the page writer (R269, R276), page summaries (R270) and what the shipper makes of
a page (R326, R351, R352).
-/
namespace Sys2Proof.Machine

/-! ### Places in a page image -/

/-- A page of a session through a captured list: its geometry, its model, the list's entries, layer and page. -/
structure PageRef where
  g : Geo
  m : Package
  es : List Nat
  layer : Nat
  page : Nat
deriving DecidableEq, Repr

/-- Head dimension. -/
def PageRef.d (p : PageRef) : Nat := headDim p.m.dcode

/-- First row of head `h`'s block (R264). -/
def PageRef.head (p : PageRef) (h : Nat) : Nat := 1 + h * headRows p.d p.m.kv4

/-- First row of key set (16-key group `j`, dimension block `b`) of head `h` (R229, R264). -/
def PageRef.keySet (p : PageRef) (h j b : Nat) : Nat := p.head h + keySetRows p.m.kv4 * (p.d / 32 * j + b)

/-- First row of value set (32-key block `kb`, dimension group `q`) of head `h` (R230, R264). -/
def PageRef.valueSet (p : PageRef) (h kb q : Nat) : Nat :=
  p.head h + keyRows p.d p.m.kv4 + valSetRows p.m.kv4 * (p.d / 32 * kb + q)

/-- First row of the summary of head `h` (R264). -/
def PageRef.summary (p : PageRef) (h : Nat) : Nat := p.head h + keyRows p.d p.m.kv4 + valueRows p.d p.m.kv4

/-- Device address of byte `o` of the page image (R262); none where its unit names no frame. -/
def State.pageAddr (s : State) (p : PageRef) (o : Nat) : Option Nat :=
  let f := frameBytes p.g.fsize
  let e := p.es.getD (p.g.unit p.layer p.page (o / f)) 0
  if entHere e then (s.frame (entLp e) (entFrame e)).map fun x => 65536 * x.addr + o % f else none

/-- Read `n` rows of the page image from row `r`; else the address of the first uncorrectable one, or one beyond device memory
where a unit names no frame. -/
def State.pageRows (s : State) (p : PageRef) (r : Nat) : Nat → (Except Nat (List Row)) × State
  | 0 => (.ok [], s)
  | n + 1 =>
    match s.pageAddr p (32 * r) with
    | none => (.error (2 ^ 48), s)
    | some a => match s.readDev a 32 with
      | (.error x, s) => (.error x, s)
      | (.ok bs, s) => match s.pageRows p (r + 1) n with
        | (.ok rs, s) => (.ok (rowOf bs :: rs), s)
        | (.error x, s) => (.error x, s)

/-- Write rows of the page image from row `r`, each whole. -/
def State.putRows (s : State) (p : PageRef) (r : Nat) (rows : List Row) : State :=
  rows.zipIdx.foldl (fun s x => match s.pageAddr p (32 * (r + x.2)) with
    | some a => (s.writeDev a (rowBytes x.1)).1
    | none => s) s

/-! ### Elements (R265) -/

/-- Row, bit and width of key `c` (0–15), dimension `kk` (0–31), within a key set. -/
def keyAt (kv4 : Bool) (c kk : Nat) : Nat × Nat × Nat :=
  if kv4 then (1 + kk % 16 / 2, 8 * (16 * (kk % 2) + c) + 4 * (kk / 16), 4)
  else (1 + kk % 16, 8 * (2 * c + kk / 16), 8)

/-- Row, bit and width of key `k` (0–31), dimension `qq` (0–31), within a value set. -/
def valueAt (kv4 : Bool) (k qq : Nat) : Nat × Nat × Nat :=
  if kv4 then (1 + 8 * (qq / 16) + k % 16 / 2, 8 * (16 * (k % 2) + qq % 16) + 4 * (k / 16), 4)
  else (1 + 16 * (qq / 16) + k % 16, 8 * (2 * (qq % 16) + k / 16), 8)

/-- Put `v` into bits [lo+n-1:lo] of a row. -/
def putField (r : Row) (lo n v : Nat) : Row :=
  BitVec.ofNat 256 (r.toNat - bitsAt r.toNat lo n * 2 ^ lo + v % 2 ^ n * 2 ^ lo)

/-- Put an element into a set's rows. -/
def putElem (rows : List Row) (x : Nat × Nat × Nat) (v : Nat) : List Row :=
  rows.set x.1 (putField (rows.getD x.1 0) x.2.1 x.2.2 v)

/-- An element of a set's rows. -/
def getElem (rows : List Row) (x : Nat × Nat × Nat) : Nat := bitsAt (rows.getD x.1 0).toNat x.2.1 x.2.2

/-- Put one position's record into a set: 32 codes and their scale. -/
def putRecord (kv4 value : Bool) (c : Nat) (rec : List Nat × Nat) (rows : List Row) : List Row :=
  let rows := rec.1.zipIdx.foldl (fun rows x =>
    putElem rows (if value then valueAt kv4 c x.2 else keyAt kv4 c x.2) x.1) rows
  putElem rows (0, 8 * c, 8) rec.2

/-! ### Records (R268) -/

/-- The source of column block `cb` of token row `t`. -/
def recordSrc (prog : WriterProg) (value : Bool) (t cb : Nat) : Option RecordSrc :=
  prog.srcs.find? fun x => x.value == value && decide (x.m0 ≤ t) && decide (t < x.m0 + x.rows) && decide (x.col0 ≤ 32 * cb) &&
    decide (32 * cb + 32 ≤ x.col0 + x.cols)

/-- Whether a nib holding a sequence's records of the layer its next writer takes has issued the SYNC that closes their phase: more
phases have closed on that handle's KVQ than the sequence's earlier writers have taken (R269). -/
def Nib.kvqClosed (n : Nib) (q : Seq) (x : RecordSrc) : Bool := decide (mget 0 q.taken (64 * x.nib + x.h1) < mget 0 n.kvqDone x.h1)

/-- A writer of a sequence has taken its program's records (R269). -/
def Seq.take (q : Seq) (prog : WriterProg) : Seq :=
  { q with taken := (prog.srcs.map fun x => 64 * x.nib + x.h1).eraseDups.foldl (fun m k => mupd 0 m k (· + 1)) q.taken }

/-- Whether the writer may start on a source and read its handles (R269): the KVQ's phase is closed, and both handles are valid with
ASYNC_READ, in a working nib of the bed. -/
def State.srcOk (s : State) (b : Nat) (q : Seq) (x : RecordSrc) : Bool :=
  let n := s.nib x.nib
  n.kvqClosed q x &&
  s.bedOf x.nib == some b && s.nibOn x.nib && (n.handle x.slot x.h1).valid && (n.handle x.slot x.h1).asyncRead &&
    (n.handle x.slot x.h2).valid && (n.handle x.slot x.h2).asyncRead

/-- Rows of the scratchpad that hold a record: its data row and its scale's row and byte (R166, R168). -/
def Nib.recordRows (n : Nib) (x : RecordSrc) (t cb : Nat) : Nat × Nat × Nat :=
  let nb := cdiv x.cols 32
  let m := t - x.m0
  let b := cb - x.col0 / 32
  let i := scaleIdx nb m b
  (n.rowIn x.slot x.h1 (blockIdx 1 nb m b 0), n.rowIn x.slot x.h2 (i / 32), i % 32)

/-- Read a scratchpad row through a nib's asynchronous port for the writer: a row that cannot be corrected is not delivered, and the bed
faults in the A-cycle in which it would have left the port (R84); its address in the window. -/
def State.recordRow (s : State) (p row : Nat) : (Except Nat Row) × State :=
  match (s.nib p).readRow row with
  | (some d, n) => (.ok d, s.setNib p n)
  | (none, n) => (.error (0x010000000000 + 0x400000 * p + 32 * row), s.setNib p { n with acts := n.acts ++ [lateFault s.acyc row] })

/-- Read a record: its codes, its scale and its row's flags. -/
def State.record (s : State) (kv4 : Bool) (x : RecordSrc) (t cb : Nat) : (Except Nat ((List Nat × Nat) × Nat)) × State :=
  let n := s.nib x.nib
  let (r1, r2, i) := n.recordRows x t cb
  match s.recordRow x.nib r1 with
  | (.error a, s) => (.error a, s)
  | (.ok a, s) => match s.recordRow x.nib r2 with
    | (.error a, s) => (.error a, s)
    | (.ok b, s) => (.ok ((blockCodes (kvFmt kv4) [a], (rowByte b i).toNat), n.padFlag r1), s)

/-! ### The page writer (R269) -/

/-- One set a writer assembles: values or keys, head, its dimension block, its row of the image and its first position. -/
structure SetJob where
  value : Bool
  h : Nat
  b : Nat
  row : Nat
  first : Nat
deriving DecidableEq, Repr

/-- Positions a set covers. -/
def SetJob.size (j : SetJob) : Nat := if j.value then 32 else 16

/-- The sets of a page that hold positions in [lo, hi). -/
def PageRef.sets (p : PageRef) (lo hi : Nat) : List SetJob :=
  let nb := p.d / 32
  let keep (j : SetJob) : Bool := decide (j.first < hi) && decide (lo < j.first + j.size)
  ((List.range p.m.hkv).flatMap fun h =>
    ((List.range 16).flatMap fun j => (List.range nb).map fun b =>
      ({ value := false, h := h, b := b, row := p.keySet h j b, first := 256 * p.page + 16 * j } : SetJob)) ++
    ((List.range 8).flatMap fun kb => (List.range nb).map fun q =>
      ({ value := true, h := h, b := q, row := p.valueSet h kb q, first := 256 * p.page + 32 * kb } : SetJob))).filter keep

/-- Rows nothing has written: their values are free. -/
def State.freeRows (s : State) : Nat → List Row × State
  | 0 => ([], s)
  | n + 1 =>
    let (r, s) := s.free 256
    let (rs, s) := s.freeRows n
    (r :: rs, s)

/-- The records of new positions join a set; the flags of their rows join the sequence's. -/
def State.placeRecords (s : State) (p : PageRef) (prog : WriterProg) (q : Seq) (j : SetJob) :
    List Nat → List Row × List (Nat × Nat) → (Except Nat (List Row × List (Nat × Nat))) × State
  | [], acc => (.ok acc, s)
  | pos :: ps, acc =>
    let t := q.row0 + (pos - q.pos0)
    let cb := (j.h * p.d + 32 * j.b) / 32
    match recordSrc prog j.value t cb with
    | none => s.placeRecords p prog q j ps acc
    | some x => match s.record p.m.kv4 x t cb with
      | (.error a, s) => (.error a, s)
      | (.ok (rec, fl), s) =>
        s.placeRecords p prog q j ps (putRecord p.m.kv4 j.value (pos - j.first) rec acc.1, (pos - q.pos0, fl) :: acc.2)

/-- Write one set (R269): a set with committed positions is read first and keeps them, another starts from rows without
meaning (R267). Answers the flags met, or the address of what cannot be
corrected. -/
def State.writeSet (s : State) (p : PageRef) (prog : WriterProg) (q : Seq) (j : SetJob) : (Except Nat (List (Nat × Nat))) × State :=
  let k := if j.value then valSetRows p.m.kv4 else keySetRows p.m.kv4
  let (old, s) := if j.first < q.pos0 then s.pageRows p j.row k else
    let (rs, s) := s.freeRows k
    (.ok rs, s)
  match old with
  | .error a => (.error a, s)
  | .ok rows =>
    let lo := max j.first q.pos0
    let hi := min (j.first + j.size) (q.pos0 + q.new)
    match s.placeRecords p prog q j ((List.range (hi - lo)).map (· + lo)) (rows, []) with
    | (.error a, s) => (.error a, s)
    | (.ok acc, s) => (.ok acc.2, s.putRows p j.row acc.1)

/-- Write a page's sets in order. -/
def State.writeSets (s : State) (p : PageRef) (prog : WriterProg) (q : Seq) : List SetJob → (Except Nat (List (Nat × Nat))) × State
  | [] => (.ok [], s)
  | j :: js =>
    match s.writeSet p prog q j with
    | (.error a, s) => (.error a, s)
    | (.ok f, s) => match s.writeSets p prog q js with
      | (.ok fs, s) => (.ok (f ++ fs), s)
      | (.error a, s) => (.error a, s)

/-- The page header row (R264). -/
def PageRef.header (p : PageRef) (session ntok : Nat) : Row :=
  BitVec.ofNat 256 (pack [(32, session), (16, p.layer), (12, p.page), (9, ntok), (1, b2n p.m.kv4), (2, p.m.dcode),
    (6, p.m.hkv - 1)])

/-! ### Summaries (R266, R270) -/

/-- A key of the page, decoded exactly: position `u`, from the rows of its head's key sets. -/
def PageRef.keyVec (p : PageRef) (rows : List Row) (u : Nat) : List Lane :=
  let k := keySetRows p.m.kv4
  let nb := p.d / 32
  (List.range nb).flatMap fun b =>
    let set := (rows.drop (k * (nb * (u / 16) + b))).take k
    let sc := getElem set (0, 8 * (u % 16), 8)
    (List.range 32).map fun kk => fOfEVal ((kvFmt p.m.kv4).value sc (getElem set (keyAt p.m.kv4 (u % 16) kk)))

/-- The summary rows of one head from its 256 keys (R266, R270). -/
def summaryRows (d : Nat) (keys : List (List Lane)) : List Row :=
  let mean := (List.range d).map fun k => fmul (treeSum (keys.map fun v => v.getD k 0)) 0x3B800000#32
  let qs := (List.range (d / 32)).map fun r => quantMX .mxE4M3 (((mean.drop (32 * r)).take 32).map fSrc)
  let meanq := qs.flatMap fun q => q.elems.map fun c => fOfEVal (Fmt.mxE4M3.value q.scale c)
  let dist (v : List Lane) : Lane := (List.range (d / 64)).foldl (fun a g =>
    fadd a (treeSum (((v.zip meanq).drop (64 * g)).take 64 |>.map fun x => let t := fsub x.1 x.2; fmul t t))) (fZero false)
  let best := keys.foldl (fun a v => fmax a (dist v)) (fZero false)
  let n := if flt (fZero false) best then fmul best (frsqrt best) else fZero false
  let radius := fmul n 0x3F800008#32
  (qs.map fun q => rowOf (q.elems.map (BitVec.ofNat 8))) ++
    [rowOf (qs.map (fun q => BitVec.ofNat 8 q.scale) ++ List.replicate (28 - d / 32) 0 ++ leBytes 4 radius.toNat)]

/-! ### Retrieval (R258, R259): what a plan's scoring phase writes (log 165) -/

/-- The exact dot product of decoded elements, rounded once to FP32. -/
def dotOnce (xs : List (EVal × EVal)) : Lane :=
  let go (acc : Option Dy) (x : EVal × EVal) : Option Dy := match acc, x with
    | some a, (.fin p, .fin q) => some (a.add (p.mul q))
    | _, _ => none
  match xs.foldl go (some ⟨0, 0⟩) with
  | some d => fRoundZ false d
  | none => fNaN

/-- The bound of a page for a query block's rows of one key–value head (R259): its mean key in KV8 form, its radius. -/
def pageBound (d : Nat) (mean : List EVal) (radius : Lane) (queries : List (List EVal)) : Lane :=
  queries.foldl (fun best q =>
    let sq := (List.range (d / 64)).foldl (fun a g =>
      fadd a (treeSum (((q.drop (64 * g)).take 64).map fun x => let v := fOfEVal x; fmul v v))) (fZero false)
    let n := if flt (fZero false) sq then fmul sq (frsqrt sq) else fZero false
    fmax best (fma n radius (dotOnce (q.zip mean)))) (fInf true)

/-- The pages selected of `n` visible ones (R258): the first 4, the last 8, and the 64 others with the highest bounds, the
lower index first where they tie; ascending. -/
def selectPages (n : Nat) (bound : Nat → Lane) : List Nat :=
  let mid := (List.range n).filter fun p => decide (4 ≤ p) && decide (p + 8 < n)
  let above (p : Nat) : Nat := (mid.filter fun q => flt (bound p) (bound q) || (feq (bound p) (bound q) && decide (q < p))).length
  (List.range n).filter fun p => !mid.contains p || decide (above p < 64)

/-- Write the summaries of a page: of its keys where it is full, else zero (R266). -/
def State.writeSummaries (s : State) (p : PageRef) (full : Bool) : List Nat → Option Nat × State
  | [] => (none, s)
  | h :: hs =>
    if full then
      match s.pageRows p (p.head h) (keyRows p.d p.m.kv4) with
      | (.error a, s) => (some a, s)
      | (.ok rows, s) =>
        (s.putRows p (p.summary h) (summaryRows p.d ((List.range 256).map (p.keyVec rows)))).writeSummaries p full hs
    else (s.putRows p (p.summary h) (List.replicate (p.d / 32 + 1) 0)).writeSummaries p full hs

/-- Write the pages of a sequence's layer: sets, header, summaries (R269, R270). -/
def State.writePages (s : State) (g : Geo) (m : Package) (es : List Nat) (layer : Nat) (prog : WriterProg) (q : Seq) (session : Nat) :
    List Nat → (Except Nat (List (Nat × Nat))) × State
  | [] => (.ok [], s)
  | pg :: pgs =>
    let p : PageRef := ⟨g, m, es, layer, pg⟩
    let ntok := min 256 (q.pos0 + q.new - 256 * pg)
    match s.writeSets p prog q (p.sets q.pos0 (q.pos0 + q.new)) with
    | (.error a, s) => (.error a, s)
    | (.ok f, s) =>
      match (s.putRows p 0 [p.header session ntok]).writeSummaries p (ntok == 256) (List.range m.hkv) with
      | (some a, s) => (.error a, s)
      | (none, s) => match s.writePages g m es layer prog q session pgs with
        | (.ok fs, s) => (.ok (f ++ fs), s)
        | (.error a, s) => (.error a, s)

/-- Pages a sequence writes. -/
def Seq.pages (q : Seq) : List Nat :=
  if q.new = 0 then [] else (List.range ((q.pos0 + q.new - 1) / 256 + 1 - q.pos0 / 256)).map (· + q.pos0 / 256)

/-- Whether every record the writer needs has a source whose handles it may read. -/
def State.sourcesOk (s : State) (b : Nat) (prog : WriterProg) (m : Package) (q : Seq) : Bool :=
  prog.srcs.all (s.srcOk b q) && (List.range q.new).all fun t => (List.range (m.hkv * headDim m.dcode / 32)).all fun cb =>
    (recordSrc prog false (q.row0 + t) cb).isSome && (recordSrc prog true (q.row0 + t) cb).isSome

/-- Whether the live list, read again at the captured address, still has the captured GEN and digest: the DIGEST it carries and
the digest of its bytes (R274, R276, R280). -/
def State.listKept (s : State) (q : Seq) : Bool × State :=
  match s.readDev q.addr q.list.length with
  | (.ok bs, s) => (slice bs 0 4 == slice q.list 0 4 && slice bs 16 8 == slice q.list 16 8 &&
      listDigest (bs.take 16) (bs.drop 64) == slice q.list 16 8, s)
  | (.error _, s) => (false, s)

/-- The packet of a release row (R269): its content is not given. -/
def State.releaseRow (s : State) (b c : Nat) (x : Nat × Nat × Nat × Nat × Nat) : State :=
  let (r, s) := s.free 256
  { s with mesh := s.mesh ++ [(.dma c, {
    bed := b, nib := x.1, slot := x.2.1, handle := some x.2.2.1, index := x.2.2.2.1, tally := x.2.2.2.2, rows := [r]
    reach := s.acyc + meshTime (MUnit.router (.dma c)) x.1 })] }

/-- Change sequence `k` of a bed's running step. -/
def State.updSeq (s : State) (b k : Nat) (f : Seq → Seq) : State :=
  s.updBed b fun bd => { bd with step := bd.step.map fun t => { t with seqs := t.seqs.mapIdx fun i q => if i = k then f q else q } }

/-- PAGE_WRITER (R269, R270, R276, R325): the writer of one layer of a sequence of the running step runs on an idle channel of
its bed. After the sequence's last layer the live list is checked. -/
def execPageWriter (b k layer : Nat) (prog : WriterProg) (s : State) : Out1 :=
  .next (match (s.bed b).step with
    | none => s
    | some t => match t.seqs[k]? with
      | none => s
      | some q =>
        let m := s.pkgOf q.index
        let g := s.geo q.index
        if !s.runs || (s.bed b).st != .ready || q.layers.contains layer || decide (g.layers ≤ layer) ||
            !s.sourcesOk b prog m q then s
        else match (List.range 64).find? (s.dmaFree b) with
        | none => s
        | some c =>
          match s.writePages g m (bytesEnts g.nent (q.list.drop 64)) layer prog q (s.sesNumber q.index) q.pages with
          | (.error a, s) => match placeOf a with
            | .pad .. => s
            | _ => (s.uncorrEvent a).bedFault b Status.uncorrectable.code 0 0 0 0
          | (.ok fl, s) =>
            let s := s.updDma c fun d => { d with bed := b, moved := s.now, bytes := satAdd 64 d.bytes (q.pages.length * pageBytes m) }
            let s := prog.release.foldl (fun s x => s.releaseRow b c x) s
            let has (bit : Nat) : List Nat := ((fl.filter fun x => bitAt x.2 bit).map (·.1)).eraseDups
            let s := s.updSeq b k fun q => { q.take prog with
              layers := layer :: q.layers
              inexact := (q.inexact ++ has 0).eraseDups, saturated := (q.saturated ++ has 1).eraseDups }
            let s := (s.carriers q.index).foldl (fun s x => s.eligible x.1 layer q.pages) s
            if q.layers.length + 1 < g.layers then s
            else
              let (kept, s) := s.listKept q
              (s.updSeq b k fun q => { q with changed := q.changed || !kept }).drain (s.sesNumber q.index))

/-! ### Arrivals (R96, R253, R276) -/

/-- A DMA channel reads rows of a page for the running step and sends them on their way (R19, R22, R253): the page is found through the
sequence's captured list, never the live one (R276), and read from the tier its unit names. Rows that cannot be corrected are not
delivered, and the bed faults (R84, R434). -/
def State.pageArrival (s : State) (c b seq layer page row n : Nat) (pkt : AsyncPkt) : State :=
  match (s.bed b).step.bind fun t => t.seqs[seq]? with
  | none => s
  | some q =>
    let m := s.pkgOf q.index
    let g := s.geo q.index
    if !s.dmaFree b c || decide (g.layers ≤ layer) || decide (g.npm ≤ page) || decide (pageBytes m / 32 < row + n) ||
        decide (n < 1) || decide (16 < n) then s
    else match s.pageRows ⟨g, m, bytesEnts g.nent (q.list.drop 64), layer, page⟩ row n with
    | (.error a, s) => (s.uncorrEvent a).bedFault b Status.uncorrectable.code 0 0 0 0
    | (.ok rows, s) =>
      let s := s.updDma c fun d => { d with bed := b, moved := s.now, bytes := satAdd 64 d.bytes (32 * n) }
      { s with mesh := s.mesh ++ [(.dma c, { pkt with
          bed := b, rows := rows, err := 0, fl := 0, reach := s.acyc + meshTime (MUnit.router (.dma c)) pkt.nib })] }

/-- ASYNC_WRITE_ARRIVAL (R18, R96): a packet under way is at its nib from the A-cycle its route takes it there; a DMA channel's rows of a
page start on their way (R253, R276). -/
def execAsyncWriteArrival (a : Arrival) (s : State) : Out1 :=
  .next (if !s.runs then s
    else match a with
    | .inflight k =>
      match s.mesh[k]? with
      | none => s
      | some (u, pkt) =>
        if s.acyc < pkt.reach then s
        else
          let (s, done) := s.arrive u pkt
          if done then { s with mesh := s.mesh.eraseIdx k } else s
    | .ext u pkt => (s.arrive u pkt).1
    | .page c b seq layer page row n pkt => s.pageArrival c b seq layer page row n pkt)

/-! ### What the shipper reads -/

/-- The page image: its PB bytes (R326); else the address of an uncorrectable codeword. -/
def State.pageImage (s : State) (p : PageRef) : (Except Nat (List Byte)) × State :=
  match s.pageRows p 0 (pageBytes p.m / 32) with
  | (.ok rows, s) => (.ok (rows.flatMap rowBytes), s)
  | (.error a, s) => (.error a, s)

/-- One element as BF16 (R352). -/
def eweidElem (kv4 : Bool) (scale code : Nat) : Nat :=
  match (kvFmt kv4).value scale code with
  | .nan => 0x7FC0
  | .inf neg => (convert .bf16 (.sat neg)).1
  | .fin x => (convert .bf16 (.fin x)).1

/-- The Eweid page `j` of 64 tokens (R351, R352) from the rows of its page image, cut at the committed length. -/
def PageRef.eweidPage (p : PageRef) (rows : List Row) (tag j c stamp : Nat) : List Byte :=
  let kv4 := p.m.kv4
  let nb := p.d / 32
  let u0 := 64 * (j % 4)
  let at_ (row n : Nat) : List Row := (rows.drop row).take n
  let key (h u k : Nat) : Nat :=
    let set := at_ (p.keySet h (u / 16) (k / 32)) (keySetRows kv4)
    eweidElem kv4 (getElem set (0, 8 * (u % 16), 8)) (getElem set (keyAt kv4 (u % 16) (k % 32)))
  let value (h u k : Nat) : Nat :=
    let set := at_ (p.valueSet h (u / 32) (k / 32)) (valSetRows kv4)
    eweidElem kv4 (getElem set (0, 8 * (u % 32), 8)) (getElem set (valueAt kv4 (u % 32) (k % 32)))
  let part (f : Nat → Nat → Nat) : List Byte := (List.range 64).flatMap fun t => (List.range (32 * nb)).flatMap fun k =>
    leBytes 2 (if 64 * j + t < c then f (u0 + t) k else 0)
  leBytes 64 (pack [(32, tag), (16, p.layer), (9, j), (7, min 64 (c - 64 * j) - 1), (6, p.m.hkv - 1), (2, p.m.dcode), (24, 0),
    (32, stamp)]) ++ (List.range p.m.hkv).flatMap fun h => part (key h) ++ part (value h)

/-- Bytes of an Eweid page (R351). -/
def eweidBytes (m : Package) : Nat := 64 + 256 * m.hkv * headDim m.dcode

end Sys2Proof.Machine
end

