-- ==== Sys2Proof/Machine/Act.lean ====
section
/-!
DEFINITION. The shipper (R322–R355): what a sender sends next, the ACT and Eweid messages a device receives, and the
timers of streams and imports.
-/
namespace Sys2Proof.Machine

/-! ### Messages (R331–R333, R354) -/

/-- A received ACT message, or an Eweid ACK or NACK, whose `stream` is then the TAG. -/
structure ActMsg where
  eweid : Bool := false
  type : Nat
  cl : Nat := 0
  stream : Nat
  seq : Nat := 0
  session : Nat := 0
  layer : Nat := 0
  page : Nat := 0
  batch : Nat := 0
  off : Nat := 0
  payload : List Byte
deriving DecidableEq, Repr

/-- Whether a payload has the form of its type (R332): its length, and its reserved bytes 0. -/
def payloadOk (type : Nat) (p : List Byte) : Bool :=
  match type with
  | 1 => p.length == 64 && (p.drop 50).all (· == 0)
  | 2 => p.length == 1
  | 3 => decide (1 ≤ p.length)
  | 4 => p.length == 4
  | 5 => p.length == 32 && leField p 9 1 / 4 == 0 && (p.drop 12).all (· == 0)
  | 6 => p.length == 8
  | 7 => p.length == 4
  | 8 => p.length % 8 == 0 && decide (8 ≤ p.length) && decide (p.length ≤ 512)
  | 9 => p.isEmpty
  | 10 => p.length == 1
  | _ => false

/-- Read a message (R331–R333); none where MAGIC, CHECK, a reserved field or its form is wrong. -/
def parseAct (bs : List Byte) : Option ActMsg :=
  let w := leField bs 0 32
  let p := bs.drop 64
  let m : ActMsg := {
    type := bitsAt w 16 8, cl := bitsAt w 24 8, stream := bitsAt w 32 32, seq := bitsAt w 64 32, session := bitsAt w 96 32
    layer := bitsAt w 128 16, page := bitsAt w 144 12, batch := bitsAt w 160 16, off := bitsAt w 176 24, payload := p }
  if decide (64 ≤ bs.length) && bitsAt w 0 16 == 0xAC70 && bitsAt w 156 4 == 0 && bitsAt w 214 2 == 0 && bitsAt w 218 6 == 0 &&
      leField bs 32 32 == 0 && bitsAt w 200 14 == p.length && decide (p.length ≤ 8192) &&
      bitsAt w 224 32 == (crc32c (bs.take 28 ++ p)).toNat && payloadOk m.type p then some m
  else none

/-- Read an Eweid datagram that comes back: ACK or NACK (R354). -/
def parseEweid (bs : List Byte) : Option ActMsg :=
  let w := leField bs 0 32
  let p := bs.drop 32
  let t := bitsAt w 16 8
  if decide (32 ≤ bs.length) && bitsAt w 0 16 == 0xE31D && (t == 2 || t == 3) && bitsAt w 24 8 == 0 && bitsAt w 121 7 == 0 &&
      bitsAt w 166 2 == 0 && bitsAt w 169 7 == 0 && bitsAt w 176 16 == 0 && bitsAt w 152 14 == p.length &&
      bitsAt w 224 32 == (crc32c (bs.take 28 ++ p)).toNat && payloadOk (t + 5) p then
    some { eweid := true, type := t + 5, stream := bitsAt w 64 32, payload := p }
  else none

/-- The transport that a port's messages come over. -/
def State.portVia (s : State) (n : Nat) : Transport := if s.role n = 2 then .eth n else .ruxel n

/-- The message at the front of a port, its sender's address, and the state without it. -/
def State.frontAct (s : State) (n : Nat) : Option (List Byte × List Byte × State) :=
  if s.role n = 2 then
    match (s.port n).ethRx with
    | [] => none
    | (src, bs) :: r => some (bs, src, s.updPort n fun p => { p with ethRx := r })
  else (s.takeRx n 0).map fun x => (x.1, [], x.2)

/-- A row of the table for messages of one type: it acts on the front message of a port where that has this type; an invalid
message is discarded (R333). -/
def State.actRow (s : State) (n type : Nat) (f : State → ActMsg → List Byte → List Byte → State) : State :=
  if !s.runs || s.boot.computeEnd.isSome then s
  else match s.frontAct n with
  | none => s
  | some (bs, src, t) =>
    match (parseAct bs).orElse fun _ => if s.role n = 2 then parseEweid bs else none with
    | none => t
    | some m => if m.type = type then f t m src bs else s

/-! ### What a sender sends (R325–R330, R334–R337, R345, R346, R351–R355) -/

/-- The page a batch reads. -/
def State.batchPage (s : State) (t : TxStream) (b : Batch) (layer page : Nat) : PageRef :=
  let g := s.geo t.index
  let l := match b.cap with | some c => if c.2.2 ≤ page then c.2.1 else b.list | none => b.list
  ⟨g, s.pkgOf t.index, bytesEnts g.nent (l.drop 64), layer, page⟩

/-- OPEN body (R332). -/
def State.openBody (s : State) (t : TxStream) : List Byte :=
  let m := s.pkgOf t.index
  slice m.modelDigest 0 32 ++ leBytes 2 m.layers ++ leBytes 1 (m.hkv - 1) ++ leBytes 1 (m.dcode + 4 * b2n m.kv4) ++
    leBytes 4 (pageBytes m) ++ leBytes 3 (s.ses t.index).maxLen ++ leBytes 1 (s.sec.cl - 1) ++ leBytes 4 t.c0 ++
    leBytes 2 t.target.firstPage ++ List.replicate 14 0

/-- Build a sender message (R331, R332, R354), reading what it carries through its batch's generation (R329). -/
def State.buildMsg (s : State) (t : TxStream) (m : SentMsg) : (Except Nat (List Byte)) × State :=
  let r := 2 * b2n (m.resends != 0)
  let act (type layer page off flags : Nat) (p : List Byte) : List Byte :=
    actMessage type t.level t.num m.seq t.target.remote layer page m.batch off flags p
  let b := (t.batches.find? fun b => b.num == m.batch).getD {}
  match m.kind with
  | .open_ => (.ok (actMessage 1 (match t.via with | .ruxel _ => s.sec.cl | _ => t.level) t.num m.seq t.target.remote 0 0 0 0 r
      (s.openBody t)), s)
  | .layerDone l n => (.ok (act 4 l 0 0 r (leBytes 4 n)), s)
  | .commit c tok st fl n =>
    (.ok (act 5 0 0 0 r (leBytes 4 c ++ leBytes 4 tok ++ leBytes 1 st ++ leBytes 1 fl ++ leBytes 2 n ++ List.replicate 20 0)), s)
  | .abort st c => (.ok (act 6 0 0 0 r (leBytes 4 st ++ leBytes 4 c)), s)
  | .close => (.ok (act 9 0 0 0 r []), s)
  | .page l p off len last =>
    match s.pageRows (s.batchPage t b l p) (off / 32) (cdiv len 32) with
    | (.ok rows, s) => (.ok (act 3 l p off (r + b2n last) ((rows.flatMap rowBytes).take len)), s)
    | (.error a, s) => (.error a, s)
  | .eweid l j off len last =>
    let p := s.batchPage t b l (j / 4)
    match s.pageRows p 0 (pageBytes p.m / 32) with
    | (.error a, s) => (.error a, s)
    | (.ok rows, s) =>
      let img := p.eweidPage rows t.target.remote j b.c (b.stamp / 100 % 2 ^ 32)
      (.ok (eweidMessage 1 m.seq t.target.remote l j off (b2n last) s.stamp (slice img off len)), s)

/-- An uncorrectable codeword in a page the shipper reads (R346): the unsettled batch aborts, and the stream closes. -/
def State.breakStream (s : State) (num a : Nat) : State :=
  (s.uncorrEvent a).updTx num fun t =>
    let old := t.batches.filter (·.closed)
    let cut := (t.batches.filter fun b => !b.closed).take 1
    let c := if s.sesNumber t.index = t.session then (s.ses t.index).admitC else t.lastC
    { t with
      failure := some (t.failure.getD (Status.uncorrectable.code, 0)), endAfter := true
      batches := old ++ if t.target.eweid then [] else cut.map fun b => { b with
        items := [], openLayers := [], settle := some (.abort Status.uncorrectable.code c) } }

/-- Hand a message to a stream's transport. -/
def State.sendTx (s : State) (t : TxStream) (bs : List Byte) : State :=
  s.sendVia t.bed t.via t.num t.target.destMac t.target.destIp t.udpSrc t.udpPort bs

/-- Send a stream's next message (R332); on Ethernet it is kept until it is acknowledged (R337). False: what it carries could
not be read. -/
def State.post (s : State) (num batch : Nat) (k : ActKind) : State × Bool :=
  match s.txAt num with
  | none => (s, false)
  | some t =>
    let m : SentMsg := { seq := t.seq, batch := batch, kind := k }
    match s.buildMsg t m with
    | (.error a, s) => (s.breakStream num a, false)
    | (.ok bs, s) =>
      let keep := match t.via with | .eth _ => true | _ => false
      let s := s.updTx num fun t => { t with
        seq := t.seq + 1, unacked := if keep then t.unacked ++ [m] else []
        progress := if t.unacked.isEmpty then s.now else t.progress }
      (s.sendTx t bs, true)

/-- The chunks of `n` bytes: offset, length, last (R326, R354). -/
def chunksOf (n chunk : Nat) : List (Nat × Nat × Bool) :=
  (List.range (cdiv n chunk)).map fun i => (chunk * i, min chunk (n - chunk * i), decide (n ≤ chunk * (i + 1)))

/-- Send messages in order as long as they can be read. -/
def State.postAll (s : State) (num batch : Nat) : List ActKind → State × Bool
  | [] => (s, true)
  | k :: ks => match s.post num batch k with
    | (s, false) => (s, false)
    | (s, true) => s.postAll num batch ks

/-- Change a batch of a stream. -/
def State.updBatch (s : State) (num b : Nat) (f : Batch → Batch) : State :=
  s.updTx num fun t => { t with batches := t.batches.map fun x => if x.num = b then f x else x }

/-- The DMA channel a stream's pages take (R350, R404): the one it holds, or an idle one. -/
def State.shipChan (s : State) (t : TxStream) : Option Nat :=
  let mine (c : Nat) : Bool := (s.dmaCh c).job == some (.ship t.num)
  if t.target.eweid then ([60, 61, 62, 63].find? mine).orElse fun _ => [60, 61, 62, 63].find? fun c => (s.dmaCh c).job.isNone
  else ((List.range 64).find? mine).orElse fun _ => (List.range 64).find? (s.dmaFree t.bed)

/-- The pages that a streamed request has shipped without KEEP are released, once they are acknowledged and no later step of the request
reads them (R291, R334; log 112). -/
def State.releaseShipped (s : State) (num : Nat) : State :=
  match s.txAt num with
  | none => s
  | some t =>
    let gone := match t.batches with | b :: _ => b.start / 256 | [] => cdiv t.lastC 256
    if !t.streamed || t.target.keep || t.failure.isSome || s.sesNumber t.index != t.session || (s.reqOf t.index).isSome then s
    else
      let g := s.geo t.index
      let es := s.entries t.index
      let es' := es.zipIdx.map fun x =>
        let p := x.2 / g.fpp % g.npm
        if t.target.firstPage ≤ p ∧ p < gone then 0 else x.1
      if es' = es then s else s.swap t.index es'

/-- Batches that no message waits for any more go, and their generations may drain (R329, R334). -/
def State.dropBatches (s : State) (num : Nat) : State :=
  match s.txAt num with
  | none => s
  | some t =>
    ((s.updTx num fun t => { t with batches := t.batches.filter fun b => !b.closed || t.unacked.any fun m => m.batch == b.num }).drain
      t.session).releaseShipped num

/-- A stream has ended well or with the failure it noted; one that closes with OK and KEEP 0 closes its session (R334). -/
def State.closeStream (s : State) (num : Nat) : State :=
  match s.txAt num with
  | none => s
  | some t =>
    let s := s.endStream num 0 0
    let i := t.index
    if t.target.keep || t.failure.isSome || s.sesNumber i != t.session || (s.ses i).st == .free || (s.ses i).st == .closing then s
    else match s.reqOf i with
    | none => s.closeNow i
    | some r =>
      if r.closing.isSome || r.closeAfter then s
      else (s.updReq i fun r => { r with closeAfter := true }).cancelReq i none

/-- Whether a stream has nothing left to do: CLOSE is sent, and on Ethernet acknowledged (R345). -/
def State.streamDone (s : State) (num : Nat) : State :=
  match s.txAt num with
  | none => s
  | some t =>
    if !t.finished && t.endAfter && t.batches.all (·.closed) && t.unacked.isEmpty && (t.closeSent || t.target.eweid) then
      s.closeStream num
    else s

/-- A page of a batch has been sent (R325, R327): its item is done, its channel is free once none waits, and what it was read through may
drain (R329). -/
def State.itemSent (s : State) (t : TxStream) (b : Batch) (c layer bytes : Nat) : State :=
  let s := s.updBatch t.num b.num fun b => { b with items := b.items.drop 1, sent := mupd 0 b.sent layer (· + 1) }
  let s := s.updTx t.num fun t => { t with pages := t.pages + 1 }
  let left := match s.txAt t.num with | some t => t.batches.any fun b => !b.items.isEmpty | none => false
  let s := s.updDma c fun d => { d with
    job := if left then some (.ship t.num) else none, bed := t.bed, moved := s.now, bytes := satAdd 64 d.bytes bytes }
  (if left then s else s.assignDma).drain t.session

/-- Write an Eweid page into the host ring (R355): the body first, the header last. A full ring, and D3hot, make it wait
(R389). -/
def State.hostPage (s : State) (t : TxStream) (b : Batch) (c layer j : Nat) : State :=
  let p := s.batchPage t b layer (j / 4)
  if t.prod - t.cons ≥ t.target.nslots ∨ !s.hostOpen t.bed then
    s.updTx t.num fun t => { t with fullSince := some (t.fullSince.getD s.now) }
  else match s.pageRows p 0 (pageBytes p.m / 32) with
  | (.error a, s) => s.breakStream t.num a
  | (.ok rows, s) =>
    let img := p.eweidPage rows t.target.remote j b.c (b.stamp / 100 % 2 ^ 32)
    let a := t.target.hostAddr + t.prod % t.target.nslots * roundUp (eweidBytes p.m) 4096
    let s := (s.emit (.hostWrite t.bed (a + 64) (img.drop 64))).emit (.hostWrite t.bed a (img.take 64))
    let s := s.updTx t.num fun t => { t with prod := t.prod + 1, fullSince := none }
    s.itemSent t b c layer (pageBytes p.m)

/-- Send a batch's next page (R325, R326, R351, R354). -/
def State.sendItem (s : State) (t : TxStream) (b : Batch) (layer page : Nat) : State :=
  match s.shipChan t with
  | none => s
  | some c =>
    if t.via = .host then s.hostPage t b c layer page
    else
      let m := s.pkgOf t.index
      let ks : List ActKind := (chunksOf (if t.target.eweid then eweidBytes m else pageBytes m) (s.chunkOf t.via)).map fun x =>
        if t.target.eweid then .eweid layer page x.1 x.2.1 x.2.2 else .page layer page x.1 x.2.1 x.2.2
      match s.postAll t.num b.num ks with
      | (s, false) => s.dropShip t.num
      | (s, true) => s.itemSent t b c layer (pageBytes m)

/-- The lowest layer of a batch that has sent its last page and not its LAYER_DONE (R327). -/
def Batch.layerDue (b : Batch) : Option (Nat × Nat) :=
  b.sent.find? fun x => x.2 != 0 && !b.doneLayers.contains x.1 && !b.openLayers.contains x.1 && b.items.all (fun i => i.1 != x.1)

/-- The batch is settled and its last message sent; what nothing acknowledges goes at once. -/
def State.batchOver (s : State) (num b : Nat) : State :=
  ((s.updBatch num b fun x => { x with closed := true }).dropBatches num).streamDone num

/-- Send COMMIT or ABORT (R328). -/
def State.settleBatch (s : State) (t : TxStream) (b : Batch) (k : ActKind) : State :=
  let k := match k with | .commit c tok st fl _ => .commit c tok st fl b.doneLayers.length | k => k
  let s := (s.post t.num b.num k).1
  let s := match k with | .commit c _ _ _ _ => s.updTx t.num fun t => { t with lastC := c } | _ => s
  s.batchOver t.num b.num

/-- The eligible item with the lowest layer and page of a stream's open batches (R325); of one page in two batches, the older's first. -/
def TxStream.nextItem (t : TxStream) : Option (Batch × Nat × Nat) :=
  t.batches.foldl (fun m b => match (if b.closed then none else b.items.head?), m with
    | none, m => m
    | some i, none => some (b, i.1, i.2)
    | some i, some x => if i.1 < x.2.1 ∨ (i.1 = x.2.1 ∧ i.2 < x.2.2) then some (b, i.1, i.2) else m) none

/-- A batch that has sent its items settles (R328): COMMIT or ABORT, of which an Eweid stream sends none (R349). -/
def State.settleNext (s : State) (t : TxStream) (b : Batch) (k : ActKind) : State :=
  if !t.target.eweid then s.settleBatch t b k
  else match k with
    | .commit c _ _ _ _ => (s.updTx t.num fun t => { t with lastC := c }).batchOver t.num b.num
    | _ => s.batchOver t.num b.num

/-- What a stream does next (R325–R328, R336, R337, R345, R351): a LAYER_DONE that is due, the oldest batch's COMMIT or ABORT, or the lowest
eligible item of any batch. -/
def State.shipNext (s : State) (t : TxStream) : State :=
  if t.seq == 0 && !t.target.eweid then (s.post t.num 0 .open_).1
  else if (match t.via with | .eth _ => true | _ => false) && !t.acked then s
  else match t.batches.find? fun b => !b.closed with
  | none =>
    if !t.endAfter then s
    else if t.target.eweid || t.closeSent then s.streamDone t.num
    else
      let s := (s.post t.num t.nextBatch .close).1
      (s.updTx t.num fun t => { t with closeSent := true }).streamDone t.num
  | some b =>
    match (if t.target.eweid then none else t.batches.findSome? fun x => if x.closed then none else x.layerDue.map fun d => (x, d)) with
    | some (x, l, n) =>
      let s := (s.post t.num x.num (.layerDone l n)).1
      s.updBatch t.num x.num fun b => { b with doneLayers := l :: b.doneLayers }
    | none => match b.items, b.settle with
      | [], some k => s.settleNext t b k
      | _, _ => match t.nextItem with
        | some (x, l, p) => s.sendItem t x l p
        | none => s

/-- SHIPPER_SEND (R325–R330, R334–R338, R345, R351–R355): the shipper's next message or page of a stream. -/
def execShipperSend (num : Nat) (s : State) : Out1 :=
  .next (match s.txAt num with
    | none => s
    | some t =>
      if !s.runs || s.boot.computeEnd.isSome || t.finished || t.downSince.isSome then s else s.shipNext t)

/-! ### Acknowledgement and recovery (R335–R338, R345) -/

/-- The running stream a message from a port answers: by its number, or an Eweid stream by its TAG and the address it sends to (R354). -/
def State.txFrom (s : State) (n : Nat) (m : ActMsg) (src : List Byte) : Option TxStream :=
  s.tx.find? fun t => t.via == s.portVia n && !t.finished &&
    (if m.eweid then t.target.eweid && t.target.remote == m.stream && slice src 6 16 == slice t.target.destIp 0 16
     else !t.target.eweid && t.num == m.stream)

/-- Send a kept message again (R337): past RETRY_LIMIT the stream ends. One that can no longer be read ends it with UNCORRECTABLE once the
unsettled batch's ABORT has gone, for what follows the gap would never be acknowledged (R346; log 206). -/
def State.resend (s : State) (num seq : Nat) : State :=
  match s.txAt num with
  | none => s
  | some t => match t.unacked.find? fun m => m.seq == seq with
    | none => s
    | some m =>
      if t.finished then s
      else if t.retryLimit ≤ m.resends then s.endStream num Status.exportTimeout.code 0
      else
        let m := { m with resends := m.resends + 1 }
        match s.buildMsg t m with
        | (.error a, s) =>
          let s := s.breakStream num a
          let s := match (s.txAt num).bind fun t => t.batches.find? fun b => !b.closed with
            | some b => match b.settle with | some k => (s.post num b.num k).1 | none => s
            | none => s
          s.endStream num Status.uncorrectable.code 0
        | (.ok bs, s) =>
          (s.updTx num fun t => { t with
            resent := t.resent + 1
            unacked := t.unacked.map fun x => if x.seq = seq then m else x }).sendTx t bs

/-- OPEN_ACK (R335–R337): on Ethernet it gives the level. A level the sender does not accept is no answer. -/
def execOpenAck (n : Nat) (s : State) : Out1 :=
  .next (s.actRow n 2 fun s m src _ => match s.txFrom n m src with
    | none => s
    | some t =>
      let l := leField m.payload 0 1
      match t.via with
      | .eth _ =>
        if t.level < l ∨ l + 1 < t.level then s
        else s.updTx t.num fun t => { t with
          acked := true, level := if t.acked then t.level else l, progress := s.now
          unacked := t.unacked.filter fun x => x.kind != .open_ }
      | _ => s.updTx t.num fun t => { t with acked := true })

/-- ACK (R337, R354): messages below the lowest SEQ not received are done; OPEN stays until OPEN_ACK. -/
def execActAck (n : Nat) (s : State) : Out1 :=
  .next (s.actRow n 7 fun s m src _ => match s.txFrom n m src with
    | none => s
    | some t =>
      let k := leField m.payload 0 4
      let left := t.unacked.filter fun x => decide (k ≤ x.seq) || (x.kind == .open_ && !t.acked)
      let s := s.updTx t.num fun t => { t with
        unacked := left, lowest := max t.lowest k, progress := if t.lowest < k then s.now else t.progress }
      (s.dropBatches t.num).streamDone t.num)

/-- NACK (R337, R354): every message its ranges name is sent again. -/
def execActNack (n : Nat) (s : State) : Out1 :=
  .next (s.actRow n 8 fun s m src _ => match s.txFrom n m src with
    | none => s
    | some t =>
      let ranges := (List.range (m.payload.length / 8)).map fun i => (leField m.payload (8 * i) 4, leField m.payload (8 * i + 4) 4)
      (t.unacked.filter fun x => ranges.any fun r => decide (r.1 ≤ x.seq) && decide (x.seq < r.1 + r.2)).foldl
        (fun s x => s.resend t.num x.seq) s)

/-- REFUSE (R336, R345). -/
def execActRefuse (n : Nat) (s : State) : Out1 :=
  .next (s.actRow n 10 fun s m src _ => match s.txFrom n m src with
    | none => s
    | some t => s.endStream t.num Status.peerRefused.code (leField m.payload 0 1))

/-- ACK_TIMEOUT (R337, R476): ACK has not advanced, nor has this timer fired, within the limit: the oldest unacknowledged message is sent
again. -/
def execAckTimeout (num : Nat) (s : State) : Out1 :=
  .next (match s.txAt num with
    | none => s
    | some t => match t.unacked with
      | [] => s
      | m :: _ =>
        if s.runs ∧ t.downSince.isNone ∧ t.progress + 100 * t.ackTimeout < s.now then
          (s.updTx num fun t => { t with progress := s.now }).resend num m.seq else s)

/-- EXPORT_LINK_WAIT_EXPIRY (R338, R476). -/
def execExportLinkWaitExpiry (num : Nat) (s : State) : Out1 :=
  .next (match s.txAt num with
    | none => s
    | some t => match t.downSince with
      | none => s
      | some d =>
        if s.runs ∧ !t.finished ∧ d + 100 * t.ackTimeout * t.retryLimit < s.now then s.endStream num Status.linkDown.code 0 else s)

/-! ### Receiving (R340–R344, R516) -/

/-- Whether a received stream is the one a message from this source belongs to. -/
def RxStream.from_ (r : RxStream) (num : Nat) (via : Transport) (src : List Byte) : Bool :=
  r.num == num && r.via == via && r.src == src

/-- Change a received stream. -/
def State.updRx (s : State) (r : RxStream) (f : RxStream → RxStream) : State :=
  { s with rx := s.rx.map fun x => if x.from_ r.num r.via r.src then f x else x }

/-- Forget a received stream. -/
def State.dropRx (s : State) (r : RxStream) : State := { s with rx := s.rx.filter fun x => !x.from_ r.num r.via r.src }

/-- Send ACK with the lowest SEQ not received (R337). -/
def State.sendAck (s : State) (r : RxStream) : State :=
  match s.rx.find? fun x => x.from_ r.num r.via r.src with
  | none => s
  | some r => (s.updRx r fun r => { r with unackedSince := none, unackedCount := 0 }).sendBack r (s.sesNumber r.index) 7 (leBytes 4 r.next)

/-- The session a stream's OPEN may fill: one prepared for import from this sender (R343), or, over a twin port, the mirror of
the twin's session (R516). True: a mirror. -/
def State.openFor (s : State) (n session : Nat) (src : List Byte) : Option (Nat × Bool) :=
  let i := session % 2 ^ 18
  let e := s.ses i
  if e.st == .free || e.inc != session / 2 ^ 18 then none
  else if e.mirror then (if s.role n == 1 then some (i, true) else none)
  else
    (s.imports.find? fun x => x.index == i && x.stream.isNone &&
      match s.portVia n with
      | .eth k => x.transport == 2 && x.port == k && x.ip == slice src 6 16
      | .ruxel _ => x.transport == 1 && s.role n == 0 && x.node == (s.port n).peer
      | .host => false).map fun x => (x.index, false)

/-- Reserve frames for a session's pages up to `len` (R340): absent units are named by a swap. The number reserved; none where
the bed cannot hold them. -/
def State.reservePages (s : State) (i len : Nat) : Option (Nat × State) :=
  let b := (s.ses i).bed
  let g := s.geo i
  let es := s.entries i
  let us := (g.span 0 (npmOf len)).filter fun u => !entHere (es.getD u 0)
  if (s.ses i).listAddr = 0 then none
  else if us.isEmpty then some (0, s)
  else if s.freeOutside b < us.length then none
  else match fillUnits es false us (s.freeFrames b false) with
  | none => none
  | some es => (s.edit i es).map fun s => (us.length, s)

/-- The level of a stream at its receiver (R335). -/
def State.rxLevel (s : State) (n : Nat) (m : ActMsg) : Option Nat :=
  if s.role n = 2 then commonLevel s.sec.cl (s.sec.cl - 1) m.cl (leField m.payload 43 1) else some (s.port n).level

/-- What an OPEN meets (R335, R340): the session, its mirror flag, the level, the frames reserved and the state with them, or
the status of REFUSE. -/
def State.judgeOpen (s : State) (n : Nat) (m : ActMsg) (src : List Byte) : Except Status (Nat × Bool × Nat × Nat × State) :=
  match s.openFor n m.session src with
  | none => .error .sessionUnknown
  | some (i, mir) =>
    let k := s.pkgOf i
    let p := m.payload
    match s.rxLevel n m with
    | none => .error .versionUnsupported
    | some l =>
      if slice p 0 32 != slice k.modelDigest 0 32 || leField p 32 2 != k.layers || leField p 34 1 != k.hkv - 1 ||
          leField p 35 1 != k.dcode + 4 * b2n k.kv4 || leField p 36 4 != pageBytes k then .error .planMismatch
      else if (s.ses i).maxLen < leField p 40 3 then .error .lengthAboveMax
      else match s.reservePages i (leField p 40 3) with
      | none => .error .capacity
      | some (f, s) => .ok (i, mir, l, f, s)

/-- OPEN (R335, R340, R343, R516): OPEN_ACK once the frames are reserved, else REFUSE; an OPEN that comes again is answered
again. -/
def execActOpen (n : Nat) (s : State) : Out1 :=
  .next (s.actRow n 1 fun s m src _ =>
    let via := s.portVia n
    match s.rx.find? fun r => r.from_ m.stream via src && !r.discarded with
    | some r => s.sendBack r m.session 2 (leBytes 1 r.level)
    | none =>
      let k0 := s.cfgAt kvxReg0
      let r : RxStream := {
        num := m.stream, via := via, src := src, level := m.cl, next := 1, lastMsg := s.now, udp := bitsAt k0 0 16
        hold := bitsAt k0 48 16, unackedSince := if s.role n = 2 then some s.now else none, unackedCount := b2n (s.role n == 2) }
      match s.judgeOpen n m src with
      | .error st => s.sendBack r m.session 0x0A [BitVec.ofNat 8 st.code]
      | .ok (i, mir, l, f, s) =>
        let r := { r with bed := (s.ses i).bed, index := i, level := l, frames := f, mirror := mir }
        let s := s.dropRx r
        let s := { s with
          rx := s.rx ++ [r]
          imports := s.imports.map fun (x : Import) => if x.index = i ∧ !mir then { x with stream := some m.stream } else x }
        s.sendBack r m.session 2 (leBytes 1 l))

/-- Replace a chunk held of a batch. -/
def putChunk (x : Nat × Nat × Nat × List Byte) (l : List (Nat × Nat × Nat × List Byte)) : List (Nat × Nat × Nat × List Byte) :=
  (l.filter fun y => !(y.1 == x.1 && y.2.1 == x.2.1 && y.2.2.1 == x.2.2.1)) ++ [x]

/-- The bytes a batch holds of a page, in order of their offsets. -/
def pageOf (l : List (Nat × Nat × Nat × List Byte)) (layer page chunks : Nat) : List Byte :=
  let mine := l.filter fun y => y.1 == layer && y.2.1 == page
  (List.range chunks).flatMap fun k => match mine.find? fun y => y.2.2.1 == 1024 * k with | some y => y.2.2.2 | none => []

/-- Put a page's image into its units' frames and mark them SEALED (R341). -/
def State.placePage (s : State) (p : PageRef) (bs : List Byte) : State :=
  let f := frameBytes p.g.fsize
  (List.range p.g.fpp).foldl (fun s k =>
    let e := p.es.getD (p.g.unit p.layer p.page k) 0
    match s.frame (entLp e) (entFrame e) with
    | none => s
    | some x =>
      ((s.writeDev (65536 * x.addr) ((bs.drop (f * k)).take f)).1).updFrame (entLp e) (entFrame e) fun x => { x with st := .sealed }) s

/-- Apply a batch's COMMIT that waits, once every page is whole and every LAYER_DONE has come (R341): the pages go into their frames,
one swap publishes them, C, LAST_TOKEN and the flags follow. A unit that is not the session's own takes a fresh frame. -/
def State.applyBatch (s : State) (r : RxStream) (b : RxBatch) : State :=
  match b.commit with
  | none => s
  | some body =>
    let i := r.index
    let g := s.geo i
    let m := s.pkgOf i
    let pages := (b.chunks.map fun x => (x.1, x.2.1)).eraseDups
    let image (x : Nat × Nat) : List Byte := pageOf b.chunks x.1 x.2 (cdiv (pageBytes m) 1024)
    if b.layerDone < leField body 10 2 || pages.any (fun x => (image x).length != pageBytes m) then s
    else
      let units := pages.flatMap fun x => (List.range g.fpp).map fun f => g.unit x.1 x.2 f
      let own (e : Nat) : Bool := entHere e && !entLp e && match s.frame false (entFrame e) with
        | some f => f.st == .reserved || f.st == .sealed
        | none => false
      let es := s.entries i
      let es := units.foldl (fun es u => if own (es.getD u 0) then es else es.set u 0) es
      match fillUnits es false units (s.freeFrames (s.ses i).bed false) with
      | none => s
      | some es =>
        match s.edit i es with
        | none => s
        | some s =>
          let s := pages.foldl (fun s x => s.placePage ⟨g, m, es, x.1, x.2⟩ (image x)) s
          let s := s.updRx r fun r => { r with batches := r.batches.filter fun x => x.num != b.num }
          let c := leField body 0 4
          if r.mirror then s.updSes i fun e => { e with warmC := c, warm := decide (e.c ≤ c) }
          else s.updSes i fun e => { e with
            c := c, admitC := c, lastToken := leField body 4 4
            tailInexact := e.tailInexact || bitAt (leField body 9 1) 0
            tailSaturated := e.tailSaturated || bitAt (leField body 9 1) 1 }

/-- A provisional batch of a received stream; empty where nothing of it has come. -/
def RxStream.batch (r : RxStream) (num : Nat) : RxBatch := (r.batches.find? fun b => b.num == num).getD { num := num }

/-- Replace a provisional batch. -/
def RxStream.setBatch (r : RxStream) (b : RxBatch) : RxStream := { r with batches := (r.batches.filter fun x => x.num != b.num) ++ [b] }

/-- Act on a message of a received stream, in SEQ order (R341, R342, R344): each batch by its BATCH number. -/
def State.rxProcess (s : State) (r : RxStream) (m : ActMsg) : State :=
  let i := r.index
  let m' := s.pkgOf i
  let upd (f : RxBatch → RxBatch) : State := s.updRx r fun r => r.setBatch (f (r.batch m.batch))
  let again (s : State) : State := match s.rx.find? fun x => x.from_ r.num r.via r.src with
    | some r => s.applyBatch r (r.batch m.batch)
    | none => s
  let eth := match r.via with | .eth _ => true | _ => false
  match m.type with
  | 3 =>
    if r.discarded || decide (m'.layers ≤ m.layer) || decide ((s.geo i).npm ≤ m.page) || decide (pageBytes m' < m.off + m.payload.length) then s
    else
      let cut := (List.range (cdiv m.payload.length 1024)).map fun k =>
        (m.layer, m.page, m.off + 1024 * k, (m.payload.drop (1024 * k)).take 1024)
      upd fun b => { b with chunks := cut.foldl (fun l x => putChunk x l) b.chunks }
  | 4 => if r.discarded then s else again (upd fun b => { b with layerDone := b.layerDone + 1 })
  | 5 =>
    if r.discarded then (s.sendBack r m.session 0x0A [BitVec.ofNat 8 Status.exportTimeout.code]).dropRx r
    else again (upd fun b => { b with commit := some m.payload })
  | 6 =>
    if r.discarded then s.dropRx r
    else
      let s := s.updRx r fun r => { r with batches := r.batches.filter fun x => x.num != m.batch }
      let c := leField m.payload 4 4
      if r.mirror then s.updSes i fun e => { e with warmC := c }
      else s.updSes i fun e => { e with c := c, admitC := c }
  | 9 =>
    let s := if eth then s.sendAck r else s
    if r.discarded then s.dropRx r
    else if r.mirror then (s.dropRx r).dropAbove i (s.ses i).c
    else s.endImport i .ok
  | _ => s

/-- Take the messages that wait beyond a gap and are now in order. -/
def State.rxAhead (s : State) (r : RxStream) : Nat → State
  | 0 => s
  | n + 1 =>
    match s.rx.find? fun x => x.from_ r.num r.via r.src with
    | none => s
    | some r => match r.ahead.find? fun x => x.1 == r.next with
      | none => s
      | some x =>
        let s := s.updRx r fun r => { r with next := r.next + 1, ahead := r.ahead.filter fun y => y.1 != x.1 }
        let s := match parseAct x.2 with | some m => s.rxProcess { r with next := r.next + 1 } m | none => s
        s.rxAhead r n

/-- A message with number `seq` has come: the numbers between it and the highest seen are a gap, and one it fills is cut (R337). -/
def RxStream.noteSeq (r : RxStream) (seq now : Nat) : RxStream :=
  if r.maxSeen < seq then
    { r with maxSeen := seq, gaps := r.gaps ++ if r.maxSeen + 1 < seq then
        [{ first := r.maxSeen + 1, count := seq - r.maxSeen - 1, since := now }] else [] }
  else { r with gaps := r.gaps.flatMap fun g =>
    if seq < g.first ∨ g.first + g.count ≤ seq then [g]
    else [{ g with count := seq - g.first }, { g with first := seq + 1, count := g.first + g.count - seq - 1 }].filter fun g => g.count != 0 }

/-- A sender message of a stream: PAGE, LAYER_DONE, COMMIT, ABORT or CLOSE. A Ruxel link delivers in order (R336); on Ethernet
SEQ orders them, duplicates go, gaps are noted and ACKs are due (R337). -/
def State.rxMessage (s : State) (n : Nat) (m : ActMsg) (src raw : List Byte) : State :=
  match s.rx.find? fun r => r.from_ m.stream (s.portVia n) src with
  | none => s
  | some r =>
    let s := s.updRx r fun r => { r with lastMsg := s.now }
    if s.role n ≠ 2 then
      let s := s.updRx r fun r => { r with next := m.seq + 1 }
      s.rxProcess { r with next := m.seq + 1 } m
    else
      let s := s.updRx r fun r => { r with
        unackedCount := r.unackedCount + 1, unackedSince := some (r.unackedSince.getD s.now)
        ahead := if m.seq < r.next || r.ahead.any (fun x => x.1 == m.seq) then r.ahead else r.ahead ++ [(m.seq, raw)] }
      let s := (s.updRx r fun r => r.noteSeq m.seq s.now).rxAhead r (r.ahead.length + 1)
      match s.rx.find? fun x => x.from_ r.num r.via r.src with
      | some r => if 64 ≤ r.unackedCount then s.sendAck r else s
      | none => s

/-- PAGE (R341). -/
def execActPage (n : Nat) (s : State) : Out1 := .next (s.actRow n 3 fun s m src raw => s.rxMessage n m src raw)

/-- LAYER_DONE (R341). -/
def execLayerDone (n : Nat) (s : State) : Out1 := .next (s.actRow n 4 fun s m src raw => s.rxMessage n m src raw)

/-- COMMIT (R341, R342). -/
def execActCommit (n : Nat) (s : State) : Out1 := .next (s.actRow n 5 fun s m src raw => s.rxMessage n m src raw)

/-- ABORT (R341). -/
def execActAbort (n : Nat) (s : State) : Out1 := .next (s.actRow n 6 fun s m src raw => s.rxMessage n m src raw)

/-- CLOSE (R344, R345). -/
def execActClose (n : Nat) (s : State) : Out1 := .next (s.actRow n 9 fun s m src raw => s.rxMessage n m src raw)

/-! ### A receiver's timers (R337, R342, R344, R355, R476) -/

/-- The streams of a number that come over a port: of each sender its own (R337). -/
def State.rxOver (s : State) (n num : Nat) : List RxStream := s.rx.filter fun r => r.num == num && r.via == .eth n

/-- ACK_DELAY_TIMER (R337): 20 µs after the first message left unacknowledged. -/
def execAckDelayTimer (n num : Nat) (s : State) : Out1 :=
  .next (if !s.runs || s.boot.computeEnd.isSome then s
    else (s.rxOver n num).foldl (fun s r => match r.unackedSince with
      | some t => if t + 2000 < s.now then s.sendAck r else s
      | none => s) s)

/-- Whether NACK is due for a gap (R337): it has stood 10 µs, or 100 µs since it was last named. -/
def SeqGap.due (g : SeqGap) (now : Nat) : Bool := match g.nacked with
  | some t => decide (t + 10000 < now)
  | none => decide (g.since + 1000 < now)

/-- Send NACK for the gaps of a stream that are due, 64 at most (R332, R337). -/
def State.sendNack (s : State) (r : RxStream) : State :=
  let gs := (r.gaps.filter (·.due s.now)).take 64
  if gs.isEmpty then s
  else (s.updRx r fun r => { r with gaps := r.gaps.map fun g => if gs.contains g then { g with nacked := some s.now } else g }).sendBack r
    (s.sesNumber r.index) 8 (gs.flatMap fun g => leBytes 4 g.first ++ leBytes 4 g.count)

/-- NACK_GAP_TIMER (R337): a gap that has stood 10 µs, and every 100 µs while it stands. -/
def execNackGapTimer (n num : Nat) (s : State) : Out1 :=
  .next (if !s.runs || s.boot.computeEnd.isSome then s else (s.rxOver n num).foldl State.sendNack s)

/-- HOLD_LIMIT has passed for a received stream (R342, R344): the import ends, with its provisional batches, and the stream is remembered
to refuse their COMMIT. A mirror's batches go the same way, with no packet to complete (R516; log 207). -/
def State.holdOver (s : State) (r : RxStream) : State :=
  let kept (s : State) : State := if r.batches.isEmpty then s
    else { s.dropRx r with rx := (s.dropRx r).rx ++ [{ r with discarded := true, batches := [] }] }
  if s.now ≤ r.lastMsg + 100000 * r.hold then s
  else if r.mirror then (if r.batches.isEmpty then s else (kept s).dropAbove r.index (s.ses r.index).c)
  else kept (s.endImport r.index .exportTimeout)

/-- HOLD_LIMIT (R342, R344, R355): a provisional batch or a silent stream ends its import, a missing OPEN too, and a full host
ring its export. -/
def execHoldLimit (obj : HoldObj) (s : State) : Out1 :=
  .next (if !s.runs then s
    else match obj with
    | .batch num => (s.rx.filter fun r => r.num == num && !r.discarded).foldl State.holdOver s
    | .noOpen i => match s.imports.find? fun (x : Import) => x.index == i with
      | none => s
      | some x => if x.stream.isNone ∧ x.taken + s.holdLimit < s.now then s.endImport i .exportTimeout else s
    | .ring num => match s.txAt num with
      | none => s
      | some t => match t.fullSince with
        | some f => if !t.finished ∧ f + 100000 * t.holdLimit < s.now then s.endStream num Status.exportTimeout.code 0 else s
        | none => s)

end Sys2Proof.Machine
end

