-- ==== Sys2Proof/Machine/Loads.lean ====
section
/-!
DEFINITION. Loading as commands and events (R199, R370, R501–R504): MODEL_LOAD, SCRIPT_LOAD, LOAD_SEGMENT, and the timers of
a load.
-/
namespace Sys2Proof.Machine

/-- The lowest handle no model of the bed holds and no load claims. -/
def Bed.freeHandle (bd : Bed) : Option Nat :=
  firstNat (fun h => (bd.loaded h).isNone && bd.loads.all fun l => l.handle != h) 0 255

/-- The variant of a package for a bed: the one compiled for its digest, or the first, which check 2 then refuses. -/
def State.variantFor (s : State) (b : Nat) (m : Package) : Option Variant :=
  match m.variants.find? fun v => v.bedDigest == s.bedDigest b with
  | some v => some v
  | none => m.variants.head?

/-- Reject a load (R199, R378, R523). -/
def State.refuseLoad (s : State) (k : Pkt) (r : Refused) : State :=
  let b := k.ref.bed
  let p := (s.physical b r.lg).getD 0
  let s := if r.detail = 0 then s else s.logEntry r.status.code 0x20 b 0 p r.detail
  s.finish k.ref { status := r.status.code, detail := r.detail, r0 := r.r0, r3 := r.lg % 2048 + 65536 * (r.bundle % 8192) }

/-- What MODEL_LOAD and SCRIPT_LOAD share: the refusals in order, then the load's start. -/
def State.load (s : State) (k : Pkt) (script : Bool) : State :=
  let b := k.ref.bed
  let bd := s.bed b
  if bd.st != .ready then s.reject k.ref .bedNotReady
  else match k.pkg with
  | none => s.reject k.ref .badParameter
  | some m =>
    let slot := bitsAt k.a0 8 3
    if !packageOk m script then s.reject k.ref .badParameter
    else match (if bitsAt k.a0 0 8 = 0xFF then bd.freeHandle else some (bitsAt k.a0 0 8)), s.variantFor b m with
      | some h, some v =>
        -- SCRIPT_LOAD names the slot its image takes
        let v : Variant := if script then { v with slots := v.slots.map fun x => (slot, x.2) } else v
        let report := loaderReport v m.fixedFold
        if bd.loads.any (fun l => l.handle == h) || v.slots.any (fun x => slotBusy bd x.1) then s.reject k.ref .badParameter
        else if !script && s.noRoom b m then s.reject k.ref .capacity
        else match s.checkLoad b v m.fixedFold with
          | some r => s.refuseLoad k r
          | none =>
            if bitsAt k.a2 0 32 < report.length then s.reject k.ref .badLength 0 report.length
            else match s.beginLoad b (some k.ref) h m v k.a1 (bitsAt k.a2 0 32) k.dspace with
              | none => s.reject k.ref .capacity
              | some s => s
      | _, _ => s.reject k.ref .capacity

/-- MODEL_LOAD (R370, R263, R290, R199). -/
def execModelLoad (b q : Nat) (s : State) : Out1 := .next (s.command b q 0x10 fun s k => s.load k false)

/-- SCRIPT_LOAD (R370, R162, R199). -/
def execScriptLoad (b q : Nat) (s : State) : Out1 := .next (s.command b q 0x11 fun s k => s.load k true)

/-- LOAD_SEGMENT (R501, R502): a segment reaches a nib; one with an uncorrectable codeword is discarded. A full bitmap makes
the nib digest its bundles and report. -/
def execLoadSegment (p slot seg : Nat) (rows : List Row) (bad : Bool) (s : State) : Out1 :=
  .next (
    let n := s.nib p
    let d := mget {} n.slots slot
    if !s.runs || bad || !s.nibOn p || d.st != .loading || decide (d.segs ≤ seg) || d.report == .ready ||
        (s.loadOf p slot).isNone then s
    else
      let want := min 128 (d.length - 128 * seg)
      let at_ := d.start + 128 * seg
      let d := { d with bitmap := if bitAt d.bitmap seg then d.bitmap else d.bitmap + 2 ^ seg, lastSeg := seg }
      let s := s.updNib p fun n => { n with
        script := msetRange 0 n.script at_ ((rows ++ List.replicate want 0).take want)
        scriptUpset := (List.range want).foldl (fun m i => merase m (at_ + i)) n.scriptUpset
        slots := mset {} n.slots slot d }
      if d.bitmap ≠ 2 ^ d.segs - 1 then s
      else
        let bs := (mgetRange 0 (s.nib p).script d.start d.length).flatMap rowBytes
        s.report p slot (if shake256 32 bs = d.digest then .ready else .digestBad))

/-- LOAD_GAP_TIMER (R502): 2 ms after the last segment was sent, an incomplete nib reports GAPS. -/
def execLoadGapTimer (p slot : Nat) (s : State) : Out1 :=
  .next (match s.loadOf p slot with
    | none => s
    | some (_, l) =>
      let d := mget {} (s.nib p).slots slot
      if s.runs && s.nibOn p && d.st == .loading && d.report == .none && decide (l.lastSent + 200000 < s.now) then
        s.report p slot .gaps
      else s)

/-- LOAD_TIMEOUT (R504): 500 ms after its first segment was sent, a load that has not succeeded fails. -/
def execLoadTimeout (b h : Nat) (s : State) : Out1 :=
  .next (match (s.bed b).loads.find? fun l => l.handle == h with
    | none => s
    | some l => if s.runs && !l.ready && decide (l.first + 50000000 < s.now) then s.failLoad b l else s)

end Sys2Proof.Machine
end

