-- ==== Sys2Proof/Machine/Counters.lean ====
section
/-!
DEFINITION. Read-clear counters and write-1-clear bits (R11, R12, R569, R576): the fields, and what a clear leaves of what
was counted or set in its own C-cycle.
-/
namespace Sys2Proof.Machine

/-- The RC field of the register at `o` (R11): the bytes that hold it; none where the register has none. -/
def rcBytes (o : Nat) : Option (Nat × Nat) :=
  if o = 0x200000 ∨ o = 0x300020 then some (2, 4)
  else if o = 0x403020 then some (2, 6)
  else if o = 0xC70000 then some (4, 6)
  else if o = 0xC00008 ∨ o = 0xC60000 ∨ o = 0xC60008 ∨ o = 0xC60010 then some (0, 4)
  else if (0x401000 ≤ o ∧ o < 0x401400) ∨ (0x401800 ≤ o ∧ o < 0x401C00) then some (0, 4)
  else if (0x601000 ≤ o ∧ o < 0x601100) ∨ (0x601800 ≤ o ∧ o < 0x601900) then some (0, 4)
  else if 0x800000 ≤ o ∧ o < 0x980000 then (if [0x18, 0x20, 0x28, 0x30].contains (o % 0x10000) then some (0, 4) else none)
  else if 0xC10000 ≤ o ∧ o < 0xC11000 then (if o % 0x40 = 8 then some (0, 4) else none)
  else if 0xC40000 ≤ o ∧ o < 0xC40080 then (if o % 0x20 = 8 then some (0, 4) else none)
  else if 0x1000000 ≤ o ∧ o < 0x3800000 then (if [0x20, 0x28, 0x30].contains (o % 0x8000) then some (0, 4) else none)
  else none

/-- The channel whose counter is at `o`. -/
def rcChan (o : Nat) : Nat := (if o < 0x600000 then 0 else 128) + o % 0x800 / 8

/-- The count of the RC field at `o`: all that was counted since it was cleared; a read shows it saturated (`rcRead`). -/
def State.rcGet (s : State) (o : Nat) : Nat :=
  if o = 0x200000 then s.stage.commits
  else if o = 0x300020 then s.clk.changes
  else if o = 0x403020 then s.msys.repaired
  else if o = 0xC70000 then s.twin.late
  else if o = 0xC00008 then s.pcie.badAccess
  else if o = 0xC60000 then s.fenceDrop
  else if o = 0xC60008 then s.meshCorr
  else if o = 0xC60010 then s.meshUncorr
  else if o < 0x800000 then (if o % 0x1000 < 0x800 then (s.chan (rcChan o)).errCorr else (s.chan (rcChan o)).errUncorr)
  else if o < 0x980000 then
    let p := s.port ((o - 0x800000) / 0x10000)
    match o % 0x10000 with
    | 0x18 => p.errCorr
    | 0x20 => p.errUncorr
    | 0x28 => p.replay
    | _ => p.rxDrop
  else if o < 0xC11000 then (s.dmaCh ((o - 0xC10000) / 0x40)).abandon
  else if o < 0xC40080 then (mget {} s.samp ((o - 0xC40000) / 0x20)).jobs
  else
    let n := s.nib ((o - 0x1000000) / 0x8000)
    match o % 0x8000 with
    | 0x20 => n.errCorr
    | 0x28 => n.errUncorr
    | _ => n.asyncDrop

/-- The RC field at `o` with count `v`. -/
def State.rcSet (s : State) (o v : Nat) : State :=
  if o = 0x200000 then { s with stage := { s.stage with commits := v } }
  else if o = 0x300020 then { s with clk := { s.clk with changes := v } }
  else if o = 0x403020 then { s with msys := { s.msys with repaired := v } }
  else if o = 0xC70000 then { s with twin := { s.twin with late := v } }
  else if o = 0xC00008 then { s with pcie := { s.pcie with badAccess := v } }
  else if o = 0xC60000 then { s with fenceDrop := v }
  else if o = 0xC60008 then { s with meshCorr := v }
  else if o = 0xC60010 then { s with meshUncorr := v }
  else if o < 0x800000 then
    s.updChan (rcChan o) fun ch => if o % 0x1000 < 0x800 then { ch with errCorr := v } else { ch with errUncorr := v }
  else if o < 0x980000 then
    s.updPort ((o - 0x800000) / 0x10000) fun p => match o % 0x10000 with
      | 0x18 => { p with errCorr := v }
      | 0x20 => { p with errUncorr := v }
      | 0x28 => { p with replay := v }
      | _ => { p with rxDrop := v }
  else if o < 0xC11000 then s.updDma ((o - 0xC10000) / 0x40) fun d => { d with abandon := v }
  else if o < 0xC40080 then { s with samp := mupd {} s.samp ((o - 0xC40000) / 0x20) fun x => { x with jobs := v } }
  else
    s.updNib ((o - 0x1000000) / 0x8000) fun n => match o % 0x8000 with
      | 0x20 => { n with errCorr := v }
      | 0x28 => { n with errUncorr := v }
      | _ => { n with asyncDrop := v }

/-- Every register with an RC field that may hold a count. -/
def State.rcOffsets (s : State) : List Nat :=
  [0x200000, 0x300020, 0x403020, 0xC70000, 0xC00008, 0xC60000, 0xC60008, 0xC60010] ++
  (s.chans.flatMap fun x =>
    let a := if x.1 < 128 then 0x401000 + 8 * x.1 else 0x601000 + 8 * (x.1 - 128)
    [a, a + 0x800]) ++
  (s.ports.flatMap fun x => [0x18, 0x20, 0x28, 0x30].map fun d => 0x800000 + 0x10000 * x.1 + d) ++
  (s.dma.map fun x => 0xC10008 + 0x40 * x.1) ++ (s.samp.map fun x => 0xC40008 + 0x20 * x.1) ++
  s.nibs.flatMap fun x => [0x20, 0x28, 0x30].map fun d => 0x1000000 + 0x8000 * x.1 + d

/-- What a C-cycle starts from: the counts of the RC fields, and nothing yet set or committed in it (R12, R576). -/
def State.markNow (s : State) : Marks :=
  { counts := s.rcOffsets.foldl (fun m o => mset 0 m o (s.rcGet o)) [] }

/-- A read clears the RC field at `o` (R12): what its C-cycle added to the count stays, from a saturated field too. -/
def State.rcClear (s : State) (o : Nat) : State :=
  let t := s.rcSet o (s.rcGet o - mget 0 s.mark.counts o)
  { t with mark := { t.mark with counts := merase t.mark.counts o } }

/-- The highest count the RC field at `o` shows (R577). -/
def rcMax (o : Nat) : Nat := match rcBytes o with | some (lo, hi) => 2 ^ (8 * (hi - lo)) - 1 | none => 0

/-- The count a read of the RC field at `o` returns: as it stood before what its C-cycle added (R12), and at most its maximum (R577). -/
def State.rcRead (s : State) (o : Nat) : Nat := min (rcMax o) (min (s.rcGet o) (mget 0 s.mark.counts o))

/-- Clear bits of THERM.EVENTS (R11, R12, R565): a bit set in this C-cycle stays. -/
def State.clearEvents (s : State) (v : Nat) : State :=
  { s with therm := { s.therm with
    events := (s.therm.events - (s.therm.events &&& v)) ||| (s.therm.events &&& s.mark.events) } }

end Sys2Proof.Machine
end

