-- ==== Sys2Proof/Machine/Twins.lean ====
section
/-!
DEFINITION. Twins (R510–R524): pairing, deltas, the full copy, heartbeats, takeover and detachment.
-/
namespace Sys2Proof.Machine

/-! ### State changes and messages -/

/-- Change the twin state; a change raises a TWIN event on the PF (R379, R518). -/
def State.moveTwin (s : State) (st : TwinSt) : State :=
  if s.twin.st = st then s
  else
    ({ s with twin := { s.twin with st := st } }).event [0] {
      kind := .twin, status := if s.twinPort.isSome then 0 else Status.linkDown.code, r0 := st.code }

/-- The update status a BEAT carries (R511). -/
def State.updateStatus (s : State) : Nat :=
  match s.sec.upd with
  | .handover => 1
  | .window => 2
  | _ => 0

/-- This device's HELLO (R511): a digest for each bed of TWIN.CFG.BEDS. -/
def State.hello (s : State) : Hello :=
  { node := s.cfgAt nodeReg % 2 ^ 16, side := s.twinSide, cl := s.sec.cl, clmin := s.sec.cl - 1, epoch := s.boot.drawnEpoch
    beds := s.twinBeds, digests := bedNums.map fun b => if bitAt s.twinBeds b then armedDigestOf (s.bed b) else [] }

/-- Send the deltas that wait, in order (R518). -/
def State.flushDeltas (s : State) : State := if s.twin.queue.isEmpty then s else s.sendTwin (.delta s.twin.queue)

/-- The records of a full copy (R521): tenants, sessions and pins of the paired beds. -/
def State.copyRecs (s : State) : List Delta :=
  let beds := bedNums.filter s.pairedBed
  (beds.flatMap fun b => (s.bed b).tenants.filterMap fun (e : Nat × Tenant) =>
    if e.2.valid then some (Delta.tenant b e.1 e.2) else none) ++
  (s.sessions.filterMap fun (e : Nat × Session) =>
    if e.2.st != .free && !e.2.mirror && beds.contains e.2.bed then some (.session e.1 (sesImage e.2)) else none) ++
  (beds.filterMap fun b =>
    let hs := (s.pfx.filter fun e => e.2.st == .valid && e.2.bed == b && e.2.pinned).map fun (e : Nat × PfxEntry) => e.2.hash
    if hs.isEmpty then none else some (.pin b hs true))

/-- Send the full copy between SYNC_BEGIN and SYNC_END (R521); delta numbers start again at 0. -/
def State.sendCopy (s : State) : State :=
  let recs := s.copyRecs.zipIdx.map fun (x : Delta × Nat) => (x.2, x.1)
  let s := { s with twin := { s.twin with
    queue := recs, nextDelta := recs.length, syncAt := recs.length, syncOut := false, overflow := false } }
  let s := s.sendTwin .syncBegin
  (s.flushDeltas).sendTwin .syncEnd

/-- Begin pairing (R521): PAIRING, and this device's HELLO. -/
def State.beginPairing (s : State) : State :=
  let s := { s with twin := { s.twin with
    hellod := false, syncing := false, syncIn := false, syncOut := false, queue := [], hostBeating := false, linkBeating := false } }
  (s.moveTwin .pairing).sendTwin (.hello s.hello)

/-- The pair goes PAIRED when both SYNC_END messages are acknowledged (R521): the miss timers start. -/
def State.checkPaired (s : State) : State :=
  let t := s.twin
  if t.st = .pairing ∧ t.syncIn ∧ t.syncOut then
    (({ s with twin := { t with linkAt := s.now, hostAt := s.now, linkMiss := 0, hostMiss := 0, linkBeating := true } }).moveTwin
      .paired).flushDeltas
  else s

/-- A row for a message of the twin protocol on a port (R511): the message leaves VC2's buffer, then acts. -/
def State.twinRow (s : State) (n : Nat) (f : State → State) : State :=
  if !s.runs || s.boot.computeEnd.isSome || s.role n != 1 then s else f (s.popControl n)

/-! ### Mirror entries (R513, R514, R516) -/

/-- Free a mirror entry with the frames of its warm pages (R514, R521). -/
def State.freeMirror (s : State) (i : Nat) : State :=
  let s := { s with rx := s.rx.filter fun r => !(r.mirror && r.index == i) }
  let s := if (s.ses i).listAddr = 0 then s else s.dropList i
  s.updSes i fun e => { e with st := .free, mirror := false, warm := false, warmC := 0, listAddr := 0, chain := [] }

/-- The indices of the mirror entries of a bed; of every bed for none. -/
def State.mirrorsOf (s : State) (b : Option Nat) : List Nat :=
  mkeys (fun _ (e : Session) => e.mirror && (match b with | some b => e.bed == b | none => true)) s.sessions

/-- Write a mirror entry (R514). The page list is this device's own: a new entry gets an empty one. -/
def State.writeMirror (s : State) (i : Nat) (e : Session) : State :=
  let old := s.ses i
  if old.st != .free && !old.mirror then s
  else if old.mirror && old.inc == e.inc then
    s.setSes i { e with
      mirror := true, st := .idle, listAddr := old.listAddr, listGen := old.listGen, layers := old.layers, fpp := old.fpp
      warmC := old.warmC, warm := decide (e.c ≤ old.warmC) }
  else
    let s := if old.mirror then s.freeMirror i else s
    let m := match mget none (s.bed e.bed).models e.model with | some m => m.pkg | none => {}
    let fs := (s.bed e.bed).fsize
    let g : Geo := ⟨m.layers, npmOf e.maxLen, fppOf m fs, fs⟩
    let (a, s) := match s.arenaTake e.bed (64 + 4 * g.nent) with
      | some (a, s) => (a, (s.writeDev a (listBytes g 0 (sesNum i e.inc) (List.replicate g.nent 0))).1)
      | none => (0, s)
    s.setSes i { e with
      mirror := true, st := .idle, listAddr := a, listGen := 0, layers := g.layers, fpp := g.fpp, warmC := 0, warm := e.c == 0 }

/-- Apply one delta record, whole (R514, R515). -/
def State.applyDelta (s : State) (d : Delta) : State :=
  match d with
  | .session i e =>
    let s := { s with twin := { s.twin with stale := s.twin.stale.filter (· != i) } }
    if e.st = .free then (if (s.ses i).mirror then s.freeMirror i else s) else s.writeMirror i e
  | .charge b n k => s.updTenant b n fun t => if t.unlimited then t else { t with level := t.level - (k * 100000000 : Nat) }
  | .held b n k =>
    let s := s.updTenant b n fun t => { t with held := ((t.held : Int) + k).toNat }
    { s with twin := { s.twin with peerHeld := mupd 0 s.twin.peerHeld (4096 * b + n) (· + k) } }
  | .tenant b n t =>
    s.updTenant b n fun old =>
      if !t.valid then {}
      else if old.valid then { (refill old s.now) with rate := t.rate, burst := t.burst, unlimited := t.unlimited, salt := t.salt }
      else { level := (t.burst * 100000000 : Nat), last := s.now, rate := t.rate, burst := t.burst, valid := true
             unlimited := t.unlimited, salt := t.salt }
  | .pin b hs p => hs.foldl (fun s h => match s.pfxLookup b h with
    | some n => s.updPfx n fun e => { e with pinned := p }
    | none => s) s
  | .insert b h k => { s with twin := { s.twin with hints := s.twin.hints ++ [(b, h, k)] } }

/-- Apply records in delta-number order; one already applied is passed over (R514). -/
def State.applyDeltas (s : State) : List (Nat × Delta) → State
  | [] => s
  | (n, d) :: r =>
    if n = s.twin.applied then
      let s := s.applyDelta d
      ({ s with twin := { s.twin with applied := n + 1 } }).applyDeltas r
    else s.applyDeltas r

/-- DELTA_ACK: the highest delta number applied in order; all ones where none has been. -/
def State.ackDeltas (s : State) : State := s.sendTwin (.deltaAck ((s.twin.applied + (2 ^ 32 - 1)) % 2 ^ 32))

/-! ### The protocol's messages (R511, R512, R514, R518, R521–R523) -/

/-- HELLO (R512, R521): equal sides or no common level leave the pair unformed; else the first HELLO is answered, and the full
copy follows. -/
def execTwinHello (n : Nat) (h : Hello) (s : State) : Out1 :=
  .next (s.twinRow n fun s =>
    match s.twin.st with
    | .alone | .solo | .displaced => s
    | _ =>
      if h.side = s.twinSide then ({ s with twin := { s.twin with cause := 1, queue := [], hellod := false } }).moveTwin .alone
      else match commonLevel s.sec.cl (s.sec.cl - 1) h.cl h.clmin with
      | none => ({ s with twin := { s.twin with cause := 2, queue := [], hellod := false } }).moveTwin .alone
      | some l =>
        let first := s.twin.st == TwinSt.pairing
        let s := if first then s else s.beginPairing
        if s.twin.hellod then s
        else
          let s := { s with twin := { s.twin with hellod := true, level := l, peerBeds := h.beds, peerDigests := h.digests, cause := 0 } }
          (if first then s.sendTwin (.hello s.hello) else s).sendCopy)

/-- BEAT (R518, R537): a beat on the twin link ends DEGRADED and SUSPECT; after a queue overflow a full copy follows. -/
def execTwinBeat (n count upd : Nat) (s : State) : Out1 :=
  .next (s.twinRow n fun s =>
    let t := s.twin
    let s := { s with twin := { t with
      peerUpdate := upd % 4, linkMiss := 0, linkBeating := true, linkAt := s.now
      graceTo := if upd % 4 = 1 then s.now + 5000000 else t.graceTo } }
    let _ := count
    match t.st with
    | .degraded | .suspect => if t.overflow then s.beginPairing else (s.moveTwin .paired).flushDeltas
    | .paired => if t.overflow then s.beginPairing else s
    | _ => s)

/-- DELTA (R514, R522): applied in order and acknowledged; after a takeover ignored and counted. -/
def execTwinDelta (n : Nat) (recs : List (Nat × Delta)) (s : State) : Out1 :=
  .next (s.twinRow n fun s =>
    match s.twin.st with
    | .solo => { s with twin := { s.twin with late := s.twin.late + recs.length } }
    | .alone | .displaced => s
    | _ => (s.applyDeltas recs).ackDeltas)

/-- DELTA_ACK (R514, R521). -/
def execTwinDeltaAck (n k : Nat) (s : State) : Out1 :=
  .next (s.twinRow n fun s =>
    let next := (k + 1) % 2 ^ 32
    let t := s.twin
    let s := { s with twin := { t with
      queue := t.queue.filter fun (x : Nat × Delta) => decide (next ≤ x.1)
      syncOut := t.syncOut || (t.st == TwinSt.pairing && t.hellod && decide (t.syncAt ≤ next)) } }
    s.checkPaired)

/-- LOG (R523): the entry joins the peer log. -/
def execTwinLog (n : Nat) (entry : List Byte) (s : State) : Out1 :=
  .next (s.twinRow n fun s =>
    let t := s.twin
    { s with twin := { t with peerLog := mset [] t.peerLog t.peerHead (slice entry 0 32), peerHead := (t.peerHead + 1) % 1024 } })

/-- SYNC_BEGIN (R521). -/
def execTwinSyncBegin (n : Nat) (s : State) : Out1 :=
  .next (s.twinRow n fun s =>
    if s.twin.st = .pairing then
      { s with twin := { s.twin with syncing := true, syncIn := false, applied := 0, stale := s.mirrorsOf none } }
    else s)

/-- SYNC_END (R521): mirror entries the copy did not name are freed; the end is acknowledged. -/
def execTwinSyncEnd (n : Nat) (s : State) : Out1 :=
  .next (s.twinRow n fun s =>
    if !s.twin.syncing then s
    else
      let s := s.twin.stale.foldl State.freeMirror s
      let s := { s with twin := { s.twin with syncing := false, syncIn := true, stale := [] } }
      s.ackDeltas.checkPaired)

/-- TAKEN (R521, R522): this device is displaced. -/
def execTwinTaken (n : Nat) (s : State) : Out1 :=
  .next (s.twinRow n fun s => ({ s with twin := { s.twin with queue := [], adopt := [] } }).moveTwin .displaced)

/-! ### Heartbeats (R517, R518, R537) -/

/-- TWIN_BEAT_TICK (R517): every 1 ms the device's beat count rises, and BEAT goes out. -/
def execTwinBeatTick (s : State) : Out1 :=
  .next (let t := s.twin
    if s.ready && s.boot.computeEnd.isNone && decide (t.beatAt + 100000 ≤ s.now) then
      let s := { s with twin := { t with beat := (t.beat + 1) % 2 ^ 32, beatAt := s.now / 100000 * 100000 } }
      if s.twinPort.isSome then s.sendTwin (.beat s.twin.beat s.updateStatus) else s
    else s)

/-- What three misses in a row make of the state (R518). While the host path's third miss is due in this very A-cycle the twin
link's three misses leave the state alone: a beat or that miss then decides between DEGRADED and SUSPECT. -/
def State.judgeMisses (s : State) : State :=
  let t := s.twin
  let link := decide (3 ≤ t.linkMiss)
  let host := decide (3 ≤ t.hostMiss)
  let all := (!t.linkBeating || link) && (!t.hostBeating || host) && (t.linkBeating || t.hostBeating)
  let due := t.hostMiss == 2 && decide (t.hostAt + 100000 < s.now) && decide (t.graceTo < s.now)
  match t.st with
  | .paired => if all then s.moveTwin .suspect else if link && t.hostBeating && !due then s.moveTwin .degraded else s
  | .degraded => if all then s.moveTwin .suspect else s
  | _ => s

/-- A write of TWIN.PEER_BEAT (R517): a value that differs from the last is a beat on the host path. -/
def State.hostBeat (s : State) (v : Nat) : State :=
  let t := s.twin
  if v = t.peerBeat then s
  else State.judgeMisses { s with twin := { t with peerBeat := v, hostMiss := 0, hostBeating := true, hostAt := s.now } }

/-- PEER_BEAT (R517, R524). -/
def execPeerBeat (f : Nat) (v : Word) (s : State) : Out1 := .next (if s.pfOpen f then s.hostBeat (bitsAt v.toNat 0 32) else s)

/-- BEAT_MISS (R476, R518, R537): a path's 1 ms timer expires, restarts, and counts a miss unless the twin is handing over. -/
def execBeatMiss (host : Bool) (s : State) : Out1 :=
  .next (let t := s.twin
    let live := match t.st with | .paired => true | .degraded => true | .suspect => true | _ => false
    if !s.ready || !live || decide (s.now ≤ (if host then t.hostAt else t.linkAt) + 100000) then s
    else
      let k := if s.now ≤ t.graceTo then 0 else 1
      let s := { s with twin :=
        if host then { t with hostAt := s.now, hostMiss := t.hostMiss + k } else { t with linkAt := s.now, linkMiss := t.linkMiss + k } }
      s.judgeMisses)

/-! ### Takeover, attachment, detachment (R519, R521, R522, R524) -/

/-- Adopt one mirror entry (R519): WARM keeps its pages, else the session needs a prefill from position 0. -/
def State.adoptSession (s : State) (i : Nat) : State :=
  let e := s.ses i
  let s := { s with rx := s.rx.filter fun r => !(r.mirror && r.index == i) }
  if e.warm then
    (s.updSes i fun e => { e with mirror := false, st := .idle, lastEntry := noEntry, lastActive := s.now, tail := [] }).dropAbove i e.c
  else
    let g := s.geo i
    let none_ := List.replicate g.nent 0
    let s :=
      if e.listAddr = 0 then
        match s.arenaTake e.bed (64 + 4 * g.nent) with
        | some (a, s) => ((s.writeDev a (listBytes g 0 (s.sesNumber i) none_)).1).updSes i fun e => { e with listAddr := a }
        | none => s
      else s.swap i none_
    s.updSes i fun e => { e with
      mirror := false, st := .idle, priorC := e.c, c := 0, needsPrefill := true, lastHash := [], lastEntry := noEntry, tail := []
      tailInexact := false, tailSaturated := false, lastActive := s.now }

/-- Adopt a bed's mirror entries and release the twin's HELD tokens (R519). -/
def State.adoptBed (s : State) (b : Nat) : State :=
  let s := (s.mirrorsOf (some b)).foldl State.adoptSession s
  let mine := s.twin.peerHeld.filter fun (x : Nat × Int) => x.1 / 4096 == b
  let s := mine.foldl (fun s x => s.updTenant b (x.1 % 4096) fun t => { t with held := ((t.held : Int) - x.2).toNat }) s
  { s with twin := { s.twin with
    peerHeld := s.twin.peerHeld.filter fun (x : Nat × Int) => x.1 / 4096 != b, adopt := s.twin.adopt.filter (· != b) } }

/-- A TWIN.CTRL write is ignored (R519, R524). -/
def State.refuseTwin (s : State) : State := { s with twin := { s.twin with refused := true }, mark := { s.mark with twin := true } }

/-- TWIN.CTRL.TAKEOVER (R519, R522): SOLO, TAKEN on every twin port that is UP; a bed with a running step adopts at its next
seal. -/
def State.takeover (s : State) : State :=
  match s.twin.st with
  | .suspect | .degraded =>
    let ports := (List.range 24).filter fun n => s.role n == 1 && (s.port n).st == .up
    let s := ports.foldl (fun s n => s.emit (.twinMsg n .taken)) s
    let s := ({ s with twin := { s.twin with queue := [] } }).moveTwin .solo
    let beds := bedNums.filter fun b => !(s.mirrorsOf (some b)).isEmpty || s.twin.peerHeld.any fun (x : Nat × Int) => x.1 / 4096 == b
    beds.foldl (fun s b =>
      if (s.bed b).step.isSome then { s with twin := { s.twin with adopt := s.twin.adopt ++ [b] } } else s.adoptBed b) s
  | _ => s.refuseTwin

/-- TWIN.CTRL.ATTACH (R521): ignored where the board has no twin seated (R566). -/
def State.attach (s : State) : State := if s.twin.st = .alone ∧ s.pins.twinPres then s.beginPairing else s.refuseTwin

/-- TWIN.CTRL.DETACH (R521): from DISPLACED it only ends that; from any other state the mirror entries and the frames of warm
pages are freed, and streams of warm pages close. -/
def State.detach (s : State) : State :=
  let was := s.twin.st
  let s := if was = .displaced then s else
    let s := (s.tx.filter (·.warm)).foldl (fun s t => s.abortStream t.num Status.cancelled.code t.lastC) s
    (s.mirrorsOf none).foldl State.freeMirror s
  ({ s with twin := { s.twin with queue := [], hellod := false, syncing := false, overflow := false, adopt := [], stale := [] } }).moveTwin .alone

/-- TAKEOVER (R519). -/
def execTakeover (f : Nat) (s : State) : Out1 := .next (if s.pfOpen f then s.takeover else s)

/-- ATTACH (R521). -/
def execAttach (f : Nat) (s : State) : Out1 := .next (if s.pfOpen f then s.attach else s)

/-- DETACH (R521). -/
def execDetach (f : Nat) (s : State) : Out1 := .next (if s.pfOpen f then s.detach else s)

end Sys2Proof.Machine
end

