-- ==== Sys2Proof/Machine/Seal.lean ====
section
/-!
DEFINITION. The seal (R482–R484): outcomes, publications, records, and what waits for a seal.
-/
namespace Sys2Proof.Machine

/-! ### Outcomes (R315) -/

/-- The flags of token row `m` of a bed's step: of that row of every matrix whose rows are token rows, on every nib (R53). -/
def State.rowFlags (s : State) (b : Nat) (regs : List Nat) (m : Nat) : Nat :=
  (s.bedNibs b).foldl (fun f p => regs.foldl (fun f r => f ||| mget 0 (s.nib p).rowFl (2 ^ 24 * r + m)) f) 0

/-- A step whose sequences have the flags of all their rows (R53, R54). -/
def State.flagged (s : State) (b : Nat) (t : Step) : Step :=
  let regs := 8 :: match (mget none (s.bed b).models t.handle).bind fun m => m.slots.find? fun x => x.1 == t.slot with
    | some x => x.2.rowRegs
    | none => []
  { t with seqs := t.seqs.map fun q =>
      let has (bit : Nat) : List Nat := (List.range q.new).filter fun k => bitAt (s.rowFlags b regs (q.row0 + k)) bit
      { q with inexact := (q.inexact ++ has 0).eraseDups, saturated := (q.saturated ++ has 1).eraseDups } }

/-- A sequence's outcome: the first that applies (R276, R311, R314, R54, R321). -/
def State.sealOutcome (s : State) (q : Seq) (r : Req) : Status :=
  let e := s.ses q.index
  if q.changed then .pageListChanged
  else if e.cancelSeen && decide (e.cancelAt < s.acyc) then .cancelled
  else if e.deadline != 0 && decide (e.deadline < s.now) then .deadlineMissed
  else if q.last && q.token == some none then .noCandidate
  else if r.inexact || !q.inexact.isEmpty then .inexactInfo
  else .ok

/-- Whether an outcome commits the sequence: OK, INEXACT_INFO, NO_CANDIDATE. -/
def commits (o : Status) : Bool := o == .ok || o == .inexactInfo || o == .noCandidate

/-! ### Publications (R285, R303, R313, R316, R374) -/

/-- The tokens a sequence's positions hold: the request's own, or the one a DECODE step took (R374). -/
def seqTokens (e : Session) (r : Req) (q : Seq) : List Nat :=
  if r.kind = .decode then [e.lastToken] else (r.tokens.drop (q.pos0 - e.admitC)).take q.new

/-- Insert the blocks a seal fills, ascending, and pass on the hash and the flags of the tail (R281, R282, R285, R316). `k` is
the first block's index, `pre` the tail's length before, `lr` the retrieval length the step was published under (R420). -/
def State.sealBlocks (s : State) (q : Seq) (r : Req) (lr k pre : Nat) : Nat → List (List Nat) → State
  | _, [] => s
  | j, blk :: rest =>
    let i := q.index
    let e := s.ses i
    let hit (l : List Nat) : Bool := l.any fun t => (pre + t) / 256 == j
    let ix := hit q.inexact || (j == 0 && e.tailInexact)
    let sat := hit q.saturated || (j == 0 && e.tailSaturated)
    if blk.length < 256 then s.updSes i fun e => { e with tail := blk, tailInexact := ix, tailSaturated := sat }
    else
      let h := blockHash r.salt (s.pkgOf i).modelDigest e.lastHash blk
      let may := !e.noPrefix && (!(r.retr || q.retr) || decide (256 * (k + j + 1) ≤ lr))
      let s := if may then s.pfxInsert i (k + j) h (bytesEnts (s.geo i).nent (q.list.drop 64)) ix sat else s
      let s := s.updSes i fun e => { e with lastHash := h, tail := [] }
      let s := if rest.isEmpty then s.updSes i fun e => { e with tailInexact := false, tailSaturated := false } else s
      s.sealBlocks q r lr k pre (j + 1) rest

/-- The flags of the tail, where its tokens are not known: it enters no block of the index (R285, R316; log 142). -/
def State.sealTail (s : State) (q : Seq) (r : Req) : State :=
  s.updSes q.index fun e =>
    let pre := q.pos0 % 256
    let ends := pre + q.new
    let hit (l : List Nat) (was : Bool) : Bool := (ends % 256 != 0 && l.any fun t => (pre + t) / 256 == ends / 256) || (ends < 256 && was)
    { e with
      noPrefix := true, tailInexact := hit q.inexact e.tailInexact, tailSaturated := hit q.saturated e.tailSaturated
      tail := if ends < 256 then [] else (seqTokens e r q).drop (256 * (ends / 256) - pre) }

/-- The step's positions commit: frames SEALED, C advances, blocks enter the index (R285, R316). -/
def State.commitSeq (s : State) (lr : Nat) (q : Seq) (r : Req) : State :=
  let i := q.index
  let g := s.geo i
  let e := s.ses i
  let es := bytesEnts g.nent (q.list.drop 64)
  let s := (q.pages.flatMap g.pageUnits).foldl (fun s u =>
    let x := es.getD u 0
    s.updFrame (entLp x) (entFrame x) fun f => if f.st = .reserved then { f with st := .sealed } else f) s
  let s := s.updSes i fun e => { e with c := q.pos0 + q.new, lastSeal := s.now }
  if e.tail.length != q.pos0 % 256 then s.sealTail q r
  else
    let toks := e.tail ++ seqTokens e r q
    s.sealBlocks q r lr (q.pos0 / 256) e.tail.length 0 (blocksOf (toks.length / 256) toks ++ [toks.drop (toks.length / 256 * 256)])

/-- What a sampled token, or the lack of a candidate, writes (R316, R321, R374): LAST_TOKEN, a DECODE's output byte place. -/
def State.publishToken (s : State) (q : Seq) (r : Req) (o : Status) : State :=
  let i := q.index
  match q.token with
  | none => s
  | some none => s.updSes i fun e => { e with lastToken := 0xFFFFFFFF }
  | some (some t) =>
    if o = .deadlineMissed then s
    else
      let s := s.updSes i fun e => { e with lastToken := t }
      if r.kind = .decode then
        let lost := s.replyLost r.outSpace (r.outAddr + 4 * r.gen) (leBytes 4 t)
        (s.reply (s.ses i).bed r.outSpace (r.outAddr + 4 * r.gen) (leBytes 4 t)).updReq i fun r => { r with
          gen := r.gen + 1, lost := r.lost || lost }
      else s

/-- Whether a committing sequence ends its request (R374). -/
def endsRequest (q : Seq) (r : Req) (o : Status) : Bool :=
  if r.kind = .decode then
    o == .noCandidate || decide (r.new ≤ r.gen + 1) || (match q.token with | some (some t) => t == r.stop | _ => false)
  else q.last

/-- A DECODE's seal has committed its token: ADMIT_C is the new length, and what a rollback restores is of it (R295, R313, R374). -/
def State.advanceAdmit (s : State) (i : Nat) : State :=
  let e := s.ses i
  (s.updSes i fun e => { e with admitC := e.c }).updReq i fun r => { r with
    savedHash := e.lastHash, savedEntry := e.lastEntry, savedTail := e.tail, savedInexact := e.tailInexact
    savedSaturated := e.tailSaturated }

/-- The publications of one sequence (R303, R312–R316, R328, R374, R520). Answers its outcome and whether its request ends. What KEEP_ON_LATE
keeps is committed as for OK, its full blocks entering the prefix index with it (R285, R313; log 203). -/
def State.publishSeq (s : State) (lr : Nat) (q : Seq) : (Status × Bool) × State :=
  let i := q.index
  match s.reqOf i with
  | none => ((.ok, false), s)
  | some r =>
    let e := s.ses i
    let o := s.sealOutcome q r
    let s := s.charge i q.new
    let s := s.updReq i fun r => { r with
      charged := r.charged + q.new, done := r.done + q.new, inexact := r.inexact || !q.inexact.isEmpty
      saturated := r.saturated || !q.saturated.isEmpty }
    if commits o then
      let fin := endsRequest q r o
      let s := (s.commitSeq lr q r).publishToken q r o
      let s := if r.kind = .decode then s.advanceAdmit i else s
      let s := if r.kind = .prefill ∧ e.admitC = 0 then s.updSes i fun e => { e with needsPrefill := false, priorC := 0 } else s
      let r' := (s.reqOf i).getD r
      let e := s.ses i
      let s := s.settleAll i (.commit e.c e.lastToken o.code (b2n r'.inexact + 2 * b2n r'.saturated) 0) e.c fin
      ((o, fin), if fin then s else (s.updSes i fun e => { e with st := .queued }).sesDelta i)
    else
      let s := s.settleAll i (.abort o.code e.admitC) 0 true
      let s := match o with
        | .deadlineMissed => if e.keepOnLate then (s.commitSeq lr q r).dropAbove i (q.pos0 + q.new) else s.rollback i
        | .cancelled => s.rollback i
        | _ => s.keepHash i
      ((o, true), s)

/-- Publications of every sequence, in length-table order. -/
def State.publishSeqs (s : State) (lr : Nat) : List Seq → List (Seq × Status × Bool) × State
  | [] => ([], s)
  | q :: qs =>
    let ((o, f), s) := s.publishSeq lr q
    let (l, s) := s.publishSeqs lr qs
    ((q, o, f) :: l, s)

/-! ### Records (R376, R378, R383) -/

/-- The record of a sequence's request, where it ends; a request that goes on and has been cancelled in this A-cycle ends now
(R314). -/
def State.recordSeq (s : State) (x : Seq × Status × Bool) : State :=
  let i := x.1.index
  if x.2.2 then s.endRequest i (s.reqRecord i x.2.1)
  else if (s.ses i).cancelSeen then s.dropRequest i .cancelled
  else s

/-- The record of an expert STEP, after those of its requests (R376, R383). -/
def State.recordStep (s : State) (t : Step) (l : List (Seq × Status × Bool)) : State :=
  match t.ref with
  | none => s
  | some p =>
    let good := (l.filter fun x => commits x.2.1).length
    s.finish p {
      r0 := good, r1 := l.length - good, inexact := t.seqs.any (fun q => !q.inexact.isEmpty)
      saturated := t.seqs.any (fun q => !q.saturated.isEmpty) }

/-! ### After the records (R420, R479, R480, R503, R519, R535) -/

/-- A pending divider takes effect (R480): the event names it on every function. A DIV_REQ that changes in the seal's own A-cycle waits
for the next seal (R560). -/
def State.applyDivider (s : State) : State :=
  let d := s.clk.pend
  if d = 0 ∨ s.clk.seen = some s.acyc then s
  else
    ({ s with clk := { s.clk with
      div := d, pend := 0, changes := s.clk.changes + 1
      source := if d = 4 then 0 else if s.therm.divReq = d then 1 else 2 } }).event s.allFns { kind := .throttle, r0 := d }

/-- A staging commit that waits for this bed's seal (R420, R483). -/
def State.sealCommit (s : State) (b : Nat) : State :=
  if s.stage.pending && s.stage.mode == 1 && s.stage.bed == b then s.applyCommit else s

/-- The last effects of the A-cycle's seals (R420, R480, R483): a commit whose time has come follows every bed's seal, and a pending
divider follows that commit. -/
def State.sealClock (s : State) : State :=
  if s.stage.pending && s.stage.mode == 2 && decide (s.stage.at_ ≤ s.now) && bedNums.any s.sealable then s else s.commitTime.applyDivider

/-- The pages a streamed request's chunk has committed spill to LPDDR, but for those of its last chunk where they are shipped without KEEP
(R291; log 112). -/
def State.spillChunk (s : State) (x : Seq × Status × Bool) : State :=
  let i := x.1.index
  let ships := x.2.2 && s.tx.any fun t => t.streamed && !t.target.keep && !t.finished && t.session == s.sesNumber i
  let full := if ships then [] else (x.1.pages.filter fun p => decide (256 * (p + 1) ≤ (s.ses i).c))
  full.foldl (fun s p =>
    let us := s.spillUnits i p (s.entries i)
    if us.isEmpty then s else (s.planCopies i true us).getD s) s

/-- A handover in progress pauses the bed at this seal (R535). -/
def State.sealPause (s : State) (b : Nat) : State :=
  if !s.sec.pausing then s
  else { s.updBed b fun bd => { bd with paused := true } with sec := { s.sec with firstPause := some (s.sec.firstPause.getD s.now) } }

/-- The effects of a seal, in the order of R483, then what R503 and R519 hold for after it. -/
def State.seal (s : State) (b : Nat) (t : Step) : State :=
  let streamed := t.seqs.filter fun q => match s.reqOf q.index with | some r => r.streamed | none => false
  let t := s.flagged b t
  let (l, s) := s.publishSeqs t.lr t.seqs
  let s := s.updBed b fun bd => { bd with step := none, sealed := some s.acyc }
  let s := (l.foldl State.recordSeq s).recordStep t l
  let s := t.seqs.foldl (fun s q => s.drain (s.sesNumber q.index)) s
  let s := (s.bedNibs b).foldl (fun s p => s.updNib p fun n => if n.st = .running then { n with st := n.restState } else n) s
  let s := { s with lastSeal := mset 0 s.lastSeal b s.now }
  let s := (s.sealCommit b).sealClock
  let s := s.armReady b
  let s := if s.twin.adopt.contains b then s.adoptBed b else s
  let s := s.sealPause b
  let s := (l.filter fun x => commits x.2.1 && streamed.any fun q => q.index == x.1.index).foldl State.spillChunk s
  s.emptyChans

/-- A bed's step seals where it can. -/
def State.sealStep (s : State) (b : Nat) : State :=
  match (s.bed b).step with
  | none => s
  | some t => if s.sealable b then s.seal b t else s

/-- Steps that may seal do so in this A-cycle, whatever is commanded, in ascending bed number (R482, R484). -/
def State.sealSteps (s : State) : State := (mkeys (fun _ (bd : Bed) => bd.step.isSome) s.beds).foldl State.sealStep s

/-- SEAL (R482, R483). -/
def execStepSeal (b : Nat) (s : State) : Out1 := .next (s.sealStep b)

end Sys2Proof.Machine
end

