-- ==== Sys2Proof/Machine/Sideband.lean ====
section
/-!
DEFINITION. The sideband (R562–R566) and the test port (R546, R567).
-/
namespace Sys2Proof.Machine

/-- Whether the sideband answers: PWRGD_CORE asserted with REFCLK present (R562). -/
def State.sbOn (s : State) : Bool := s.pins.pwrgdCore && s.pins.refclk

/-- A sideband read: an SMBus block read leads with its count, an I3C private read does not (R562, R563). -/
def State.sbRead (s : State) (bs : List Byte) : State :=
  if !s.sbOn then s.emit .sbNak
  else s.emit (.sideband (if s.pins.sbMode then bs else leBytes 1 bs.length ++ bs))

/-- FUSE.ID (R573): 0 until step 2 has completed. -/
def State.fuseId (s : State) : Nat :=
  if s.boot.fuses then pack [(16, s.flash.part), (1, b2n s.flash.check), (3, s.flash.stepping), (4, s.flash.fields)] else 0

/-- FUSE.SERIAL (R573). -/
def State.fuseSerial (s : State) : Nat := if s.boot.fuses then s.flash.serial else 0

/-- IDENT (R563). -/
def execSbIdent (s : State) : Out1 :=
  .next (s.sbRead (leBytes 2 s.fuseId ++ leBytes 2 s.sec.cl ++ leBytes 8 s.fuseSerial))

/-- STATUS (R563). -/
def execSbStatus (s : State) : Out1 :=
  .next (s.sbRead (leBytes 1 s.boot.done ++
    leBytes 1 (pack [(1, b2n s.pins.thermtrip), (1, b2n s.clk.lost), (1, b2n s.belowMin), (1, b2n s.pins.twinPres), (1, b2n s.alert)]) ++
    leBytes 2 s.therm.events))

/-- TEMP (R563). -/
def execSbTemp (s : State) : Out1 := .next (s.sbRead (leBytes 2 s.therm.die ++ leBytes 1 s.therm.field ++ [0]))

/-- THERM.HBM (R568). -/
def State.hbmTemps (s : State) : Nat := pack (s.therm.hbm.map fun t => (16, t))

/-- HBM_TEMP (R563). -/
def execSbHbmTemp (s : State) : Out1 := .next (s.sbRead (leBytes 8 s.hbmTemps))

/-- POWER (R563). -/
def execSbPower (s : State) : Out1 := .next (s.sbRead (leBytes 2 s.therm.watts ++ leBytes 2 s.therm.amps))

/-- Whether a sideband write is taken: an SMBus write with a wrong PEC is ignored (R562). -/
def State.sbWrites (s : State) (pec : Bool) : Bool := s.pins.sbMode || pec

/-- EVENTS_CLEAR (R563, R565). -/
def execEventsClear (v : Nat) (pec : Bool) (s : State) : Out1 :=
  .next (if !s.sbOn then s.emit .sbNak else if s.sbWrites pec then s.clearEvents (v % 65536) else s)

/-- WARM_RESET (R563, R564). -/
def execSbWarmReset (v : Nat) (pec : Bool) (s : State) : Out1 :=
  .next (if !s.sbOn then s.emit .sbNak else if s.sbWrites pec && v == 0xC7 then s.warmReset else s)

/-! ### The test port -/

/-- The TAP controller of IEEE 1149.1. -/
def TapSt.next (t : TapSt) (tms : Bool) : TapSt :=
  match t, tms with
  | .reset, true => .reset | .reset, false => .idle
  | .idle, true => .selDr | .idle, false => .idle
  | .selDr, true => .selIr | .selDr, false => .capDr
  | .capDr, true => .ex1Dr | .capDr, false => .shDr
  | .shDr, true => .ex1Dr | .shDr, false => .shDr
  | .ex1Dr, true => .updDr | .ex1Dr, false => .pauDr
  | .pauDr, true => .ex2Dr | .pauDr, false => .pauDr
  | .ex2Dr, true => .updDr | .ex2Dr, false => .shDr
  | .updDr, true => .selDr | .updDr, false => .idle
  | .selIr, true => .reset | .selIr, false => .capIr
  | .capIr, true => .ex1Ir | .capIr, false => .shIr
  | .shIr, true => .ex1Ir | .shIr, false => .shIr
  | .ex1Ir, true => .updIr | .ex1Ir, false => .pauIr
  | .pauIr, true => .ex2Ir | .pauIr, false => .pauIr
  | .ex2Ir, true => .updIr | .ex2Ir, false => .shIr
  | .updIr, true => .selDr | .updIr, false => .idle

/-- Whether the instruction in force is BYPASS, all ones (IEEE 1149.1). -/
def Tap.inBypass (t : Tap) : Bool := !t.ir.isEmpty && t.ir.all id

/-- The last bits shifted into the instruction register. The spec does not give the register's length (R567). -/
def lastBits (l : List Bool) : List Bool := l.drop (l.length - Config.jtagBits)

/-- One rising edge of TCK: what TDO drives, none for high impedance, and the port after it. What a register the spec does
not describe shifts out is free. -/
def Tap.edge (t : Tap) (draw : Nat) (tms tdi : Bool) : Option Bool × Tap :=
  let move (x : Tap) : Tap :=
    let n := t.st.next tms
    let x := { x with st := n }
    match n with
    | .reset => { x with ir := [], irShift := [], dr := [] }
    | .updIr => { x with ir := lastBits x.irShift, irShift := [] }
    | .capDr => { x with bypass := false, dr := [] }
    | _ => x
  match t.st with
  | .shIr => (some (Config.jtagOut draw), move { t with irShift := t.irShift ++ [tdi] })
  | .shDr =>
    if t.inBypass then (some t.bypass, move { t with bypass := tdi })
    else (some (Config.jtagOut draw), move { t with dr := t.dr ++ [tdi] })
  | _ => (none, move t)

/-- JTAG_TCK (R546, R567): ignored, with TDO at high impedance, unless a debug token has opened the port. TRST# resets it. -/
def execJtagTck (tms tdi trst : Bool) (s : State) : Out1 :=
  .next (if !s.sec.debug then s.emit (.tdo none)
    else if trst then { s with tap := {} }.emit (.tdo none)
    else
      let (o, t) := s.tap.edge s.draws tms tdi
      { s with tap := t, draws := s.draws + 1 }.emit (.tdo o))

end Sys2Proof.Machine
end

