-- ==== Sys2Proof/Machine/Regs.lean ====
section
/-!
DEFINITION. Register space and device memory as the host reaches them (R387–R392, R399, R445, R471, R485–R495, R524, R541,
R549, R568–R579): reads, writes and their effects, the TIME.NOW latch, BAR4, and requests that are not served.
-/
namespace Sys2Proof.Machine

/-! ### Reading: one 64-bit register at a PF BAR0 offset; none where the offset is reserved (R571) -/

/-- BOOT.STATUS (R486–R492). -/
def State.bootStatus (s : State) : Nat :=
  let b := s.boot
  let ms := (if b.st = .busy then s.ref - b.started else b.elapsed) / 4800000
  pack [(4, b.done), (2, b.st.code), (1, b2n b.refused), (1, b2n s.belowMin), (8, b.cause), (8, b.code), (24, b.detail), (16, ms)]

/-- The BOOT block. -/
def State.bootReg (s : State) : Nat → Option Nat
  | 0x00 => some s.boot.step
  | 0x08 => some s.bootStatus
  | 0x10 => some (65536 * b2n s.boot.computeEnd.isSome)
  | 0x18 => some s.boot.linkSel
  | 0x20 => some s.bootNibs
  | 0x28 => some 0
  | _ => none

/-- The FUSE block (R573). -/
def State.fuseReg (s : State) (o : Nat) : Option Nat :=
  if o = 0 then some s.fuseId
  else if o = 8 then some s.fuseSerial
  else if 0x100 ≤ o ∧ o < 0x1A0 then
    let i := (o - 0x100) / 8
    some (if s.boot.fuses then sumNat ((List.range 64).map fun j => if s.flash.defects.contains (64 * i + j) then 2 ^ j else 0) else 0)
  else none

/-- The THERM block (R568). -/
def State.thermReg (s : State) : Nat → Option Nat
  | 0x00 => some (pack [(16, s.therm.die), (2, s.therm.field)])
  | 0x08 => some s.hbmTemps
  | 0x10 => some (pack [(16, s.therm.watts), (16, s.therm.amps), (3, s.therm.divReq)])
  | 0x18 => some s.therm.events
  | 0x20 => some s.therm.alertMask
  | 0x28 => some (pack [(1, b2n s.pins.twinPres), (1, b2n s.pins.sbMode), (2, s.pins.sbAddr), (1, b2n s.pins.pwrgdCore),
      (1, b2n s.pins.pwrgdMem), (1, b2n s.pins.pwrgdIo)])
  | _ => none

/-- The recovery mailbox, while the ROM exposes it (R541). -/
def State.recReg (s : State) (o : Nat) : Option Nat :=
  if !s.boot.mailbox then none
  else if o = 0 then some 0
  else if o = 8 then some (pack [(2, s.sec.recSt), (6, 0), (8, s.sec.recCode), (8, s.sec.recDetail), (1, b2n s.sec.recVerified)])
  else if o = 0x10 then some s.sec.recOffset
  else if o = 0x18 then some s.sec.recLength
  else if 0x4000 ≤ o ∧ o < 0x8000 then some (leNat (mgetRange 0 s.sec.recBuf (o - 0x4000) 8))
  else none

/-- Seconds left in the health window, the current one counted (R549; log 59). -/
def State.windowLeft (s : State) : Nat :=
  if s.sec.upd = .window then cdiv (s.sec.windowStart + 100000000 * s.sec.windowSecs - s.now) 100000000 else 0

/-- The SEC block (R549). -/
def State.secReg (s : State) : Nat → Option Nat
  | 0x00 => some (pack [(3, s.sec.upd.code), (1, s.sec.running), (1, b2n s.flash.trial.isSome), (1, b2n s.sec.selftest),
      (1, b2n s.sec.debug), (1, 0), (8, s.sec.cl), (8, s.sec.lastCode), (8, s.sec.attempts)])
  | 0x08 => some s.sec.licIn
  | 0x10 => some (s.cfgAt licenceReg)
  | 0x18 => some s.flash.svn
  | 0x20 => some s.flash.life
  | 0x28 => some s.windowLeft
  | _ => none

/-- The BED block of bed `b` (R399). -/
def State.bedBlock (s : State) (b o : Nat) : Option Nat :=
  let bd := s.bed b
  if o = 0x00 then some (pack [(3, bd.st.code), (5, 0), (8, bd.faultCode), (1, b2n bd.armed),
    (1, b2n (s.stage.pending && s.stage.mode == 1 && s.stage.bed == b))])
  else if o = 0x08 then some (2 * b2n bd.intrEn)
  else if o = 0x10 then some (pack [(4, bd.x0), (3, bd.y0), (4, bd.w - 1), (3, bd.h - 1)])
  else if 0x18 ≤ o ∧ o ≤ 0x48 then some (s.cfgAt (bedReg b o))
  else if o = 0x50 then some bd.win
  else if o = 0x100 then some bd.sq0Base
  else if o = 0x108 then some bd.cq0Base
  else if o = 0x110 then some bd.q0cfg
  else if 0x200 ≤ o ∧ o < 0x400 then
    let m := mget {} bd.cqMod ((o - 0x200) / 8)
    some (pack [(8, m.count), (16, m.time)])
  else none

/-- The TIME block (R485). -/
def State.timeReg (s : State) (o : Nat) : Option Nat :=
  if o = 0 then some s.now
  else if o = 0x10 then some (s.cfgAt limitsReg)
  else if o = 0x18 then some (s.cfgAt throttleReg)
  else if o = 0x20 then some (pack [(3, s.clk.div), (3, s.clk.pend), (2, s.clk.source), (8, 0), (16, s.clk.changes)])
  else if 0x1000 ≤ o ∧ o < 0x1100 then some (mget 0 s.lastSeal ((o - 0x1000) / 8))
  else none

/-- Frame-table entries in a channel (HBM.CH_STATE.FRAMES). -/
def State.framesIn (s : State) (c : Nat) : Nat :=
  ((s.tierFrames (decide (128 ≤ c))).filter fun x => placeOf (65536 * x.2.addr) == .chan c).length

/-- The HBM block or the LP block (R445, R493). -/
def State.tierReg (s : State) (lp : Bool) (o : Nat) : Option Nat :=
  let n := if lp then 32 else 128
  let c := (if lp then 128 else 0) + o % 0x800 / 8
  let ch := s.chan c
  if o < 8 * n then some (pack [(2, ch.st.code), (3, ch.cause), (3, 0), (22, s.framesIn c)])
  else if 0x1000 ≤ o ∧ o < 0x1000 + 8 * n then some ch.errCorr
  else if 0x1800 ≤ o ∧ o < 0x1800 + 8 * n then some ch.errUncorr
  else if 0x2000 ≤ o ∧ o < 0x2000 + 8 * n then
    some (pack [(6, ch.rdMargin), (2, 0), (6, ch.wrMargin), (2, 0), (8, ch.vref), (8, 0), (4, ch.result)])
  else if o = 0x3000 then some (s.cfgAt (ctrlReg lp))
  else if o = 0x3008 then some (s.cfgAt (retire0Reg lp))
  else if o = 0x3010 ∧ ¬ lp then some (s.cfgAt retire1Reg)
  else if o = 0x3018 then some 0
  else if o = 0x3020 ∧ ¬ lp then some (pack [(1, b2n (s.copyWhole false)), (1, b2n (s.copyWhole true)), (14, 0), (32, s.msys.repaired)])
  else none

/-- The LINK block of port `n` (R471). -/
def State.linkBlock (s : State) (n o : Nat) : Option Nat :=
  let p := s.port n
  match o with
  | 0x00 => some (pack [(3, p.st.code), (3, p.cause.code), (4, p.active), (6, 0), (8, p.level), (16, p.peer)])
  | 0x08 => some (s.cfgAt (linkReg n 0x08))
  | 0x10 => some 0
  | 0x18 => some p.errCorr
  | 0x20 => some p.errUncorr
  | 0x28 => some p.replay
  | 0x30 => some p.rxDrop
  | 0x40 => some (s.cfgAt (linkReg n 0x40))
  | 0x48 => some (s.cfgAt (linkReg n 0x48))
  | 0x50 => some (s.cfgAt (linkReg n 0x50))
  | 0x100 => if n = 0 then some (s.cfgAt nodeReg) else none
  | _ => none

/-- DMA.CH, DMA.ABANDON and DMA.BYTES of channel `c` (R578). -/
def State.dmaReg (s : State) (c o : Nat) : Option Nat :=
  let d := s.dmaCh c
  let owner := bedNums.find? fun b => s.bedExists b && bitAt (s.dmaMask b) c
  match o with
  | 0x00 => some (pack [(5, owner.getD 0), (1, b2n owner.isSome), (1, b2n (s.eweidOn && decide (60 ≤ c))), (1, b2n d.job.isSome)])
  | 0x08 => some d.abandon
  | 0x10 => some d.bytes
  | _ => none

/-- SAMP.STATE and SAMP.JOBS of sampler `k` (R578). -/
def State.sampReg (s : State) (k o : Nat) : Option Nat :=
  match o with
  | 0x00 =>
    let x : Samp := mget {} s.samp k
    some (pack [(1, b2n x.retired), (1, b2n x.job.isSome), (5, match x.job with | some j => j.1 | none => 0)])
  | 0x08 => some (mget {} s.samp k).jobs
  | _ => none

/-- The TWIN block, with both logs (R523, R524). -/
def State.twinReg (s : State) (o : Nat) : Option Nat :=
  let t := s.twin
  let unpaired := (bedNums.filter fun b => bitAt s.twinBeds b && !s.pairedBed b).foldl (fun a b => a + 2 ^ b) 0
  let word (l : SMap (List Byte)) (x : Nat) : Nat := leField (mget [] l (x / 32)) (x % 32) 8
  if o = 0x00 then some (pack [(3, t.st.code), (3, t.cause), (1, b2n t.refused), (1, 0), (8, t.level), (2, t.peerUpdate), (14, 0),
    (16, t.late)])
  else if o = 0x08 then some (s.cfgAt twinCfgReg)
  else if o = 0x10 then some 0
  else if o = 0x18 then some t.beat
  else if o = 0x20 then some t.peerBeat
  else if o = 0x28 then some (pack [(10, t.logHead), (6, 0), (10, t.peerHead), (6, 0), (32, t.written)])
  else if o = 0x30 then some unpaired
  else if 0x8000 ≤ o ∧ o < 0x10000 then some (word t.log (o - 0x8000))
  else if 0x10000 ≤ o ∧ o < 0x18000 then some (word t.peerLog (o - 0x10000))
  else none

/-- A tag's 512 bits (R72). -/
def Tag.bits (t : Tag) : Nat :=
  pack (((List.range 16).map fun r => (10, ofInt 10 (mget 0 t.rowExp r))) ++
    ((List.range 16).map fun c => (10, ofInt 10 (mget 0 t.colExp c))) ++ [(8, t.wconst)] ++
    ((List.range 16).map fun r => (1, b2n (mget false t.inexact r))) ++
    ((List.range 16).map fun r => (1, b2n (mget false t.saturated r))) ++ [(1, b2n t.zero), (3, t.owner)])

/-- A script slot descriptor's register (R106). -/
def SlotDesc.bits (d : SlotDesc) : Nat :=
  pack [(13, d.start), (14, d.length), (9, d.segBase), (10, d.segSize), (2, d.st.code), (8, d.cl)]

/-- A handle entry's register (R106). -/
def Handle.bits (h : Handle) : Nat :=
  pack [(16, h.offset), (17, h.length), (1, b2n h.valid), (1, b2n h.scriptWrite), (1, b2n h.asyncWrite), (1, b2n h.asyncRead)]

/-- The reticle field of a nib (R14). -/
def fieldOf (p : Nat) : Nat := p % 40 / 20 + 2 * (p / 40 / 16)

/-- The NIB block of physical nib `p` (R106, R572). -/
def State.nibReg (s : State) (p o : Nat) : Option Nat :=
  let n := s.nib p
  let live (v : Nat) : Option Nat := some (match n.st with | .disabled => 0 | .fenced => 0 | _ => v)
  if o = 0x00 then some (pack [(11, p), (5, 0), (6, p % 40), (2, 0), (5, p / 40), (1, 0), (2, fieldOf p)])
  else if o = 0x08 then some (pack [(3, n.st.code), (3, n.activeSlot), (2, 0), (8, n.faultCode), (4, n.faultUnit), (12, 0),
    (13, n.faultBundle)])
  else if o = 0x10 then some n.faultCycle
  else if o = 0x18 then some (pack [(4, n.faultAddr.bank), (12, n.faultAddr.row), (6, n.faultAddr.tally), (6, n.faultAddr.handle)])
  else if o = 0x20 then some n.errCorr
  else if o = 0x28 then some n.errUncorr
  else if o = 0x30 then some n.asyncDrop
  else if 0x100 ≤ o ∧ o < 0x140 then live (mget {} n.slots ((o - 0x100) / 8)).bits
  else if 0x200 ≤ o ∧ o < 0x400 then
    let t := mget {} n.tallies ((o - 0x200) / 8)
    live (pack [(24, t.count), (1, b2n t.waiting)])
  else if 0x1000 ≤ o ∧ o < 0x2000 then live (n.handle ((o - 0x1000) / 0x200) (o % 0x200 / 8)).bits
  else if 0x2000 ≤ o ∧ o < 0x3000 then live (bitsAt (mget {} n.tags ((o - 0x2000) / 64)).bits (8 * (o % 64)) 64)
  else none

/-- The register at PF BAR0 offset `o`, a multiple of 8 (R570); none where it is reserved. -/
def State.regAt (s : State) (o : Nat) : Option Nat :=
  if o < 0x1000 then s.bootReg o
  else if o = 0x1000 then some (pack [(1, b2n s.clk.lock), (1, b2n s.clk.lost), (3, s.clk.div), (1, b2n s.pins.refclk)])
  else if 0x2000 ≤ o ∧ o < 0x3000 then s.fuseReg (o - 0x2000)
  else if 0x3000 ≤ o ∧ o < 0x4000 then s.thermReg (o - 0x3000)
  else if 0x8000 ≤ o ∧ o < 0x10000 then s.recReg (o - 0x8000)
  else if 0x100000 ≤ o ∧ o < 0x101000 then s.secReg (o - 0x100000)
  else if o = 0x108000 then some ((s.now - s.boot.qmbStart) / 100000 % 2 ^ 32)
  else if o = 0x108008 then some s.boot.qmbCause
  else if o = 0x200000 then some (pack [(1, b2n s.stage.checked), (1, b2n s.stage.pending), (2, s.stage.mode), (5, s.stage.bed),
    (7, 0), (16, s.stage.commits)])
  else if o = 0x200008 then some s.stage.at_
  else if 0x208000 ≤ o ∧ o < 0x288000 then s.bedBlock ((o - 0x208000) / 0x4000) ((o - 0x208000) % 0x4000)
  else if 0x300000 ≤ o ∧ o < 0x302000 then s.timeReg (o - 0x300000)
  else if 0x400000 ≤ o ∧ o < 0x404000 then s.tierReg false (o - 0x400000)
  else if 0x600000 ≤ o ∧ o < 0x604000 then s.tierReg true (o - 0x600000)
  else if 0x800000 ≤ o ∧ o < 0x980000 then s.linkBlock ((o - 0x800000) / 0x10000) (o % 0x10000)
  else if o = 0xC00000 then some (pack [(3, s.pcie.speed), (5, s.pcie.width), (1, b2n s.pcie.flit)])
  else if o = 0xC00008 then some s.pcie.badAccess
  else if o = 0xC00010 then some s.pcie.numVfs
  else if 0xC10000 ≤ o ∧ o < 0xC11000 then s.dmaReg ((o - 0xC10000) / 0x40) (o % 0x40)
  else if 0xC40000 ≤ o ∧ o < 0xC40080 then s.sampReg ((o - 0xC40000) / 0x20) (o % 0x20)
  else if o = kvxReg0 ∨ o = kvxReg1 then some (s.cfgAt o)
  else if o = 0xC60000 then some s.fenceDrop
  else if o = 0xC60008 then some s.meshCorr
  else if o = 0xC60010 then some s.meshUncorr
  else if 0xC70000 ≤ o ∧ o < 0xC88000 then s.twinReg (o - 0xC70000)
  else if 0x1000000 ≤ o ∧ o < 0x3800000 then s.nibReg ((o - 0x1000000) / 0x8000) (o % 0x8000)
  else none

/-! ### RC fields (R11, R12, R569) -/

/-- A read of bytes `a` up to `b` of the register at `o`, and what it leaves (R12, R569, R576): an RC field it covers any byte
of is read and cleared, and a staged register reads as it stood before a commit of this C-cycle. -/
def State.readReg (s : State) (o a b : Nat) : Nat × State :=
  let old : State := { s with cfg := s.mark.cfg.getD s.cfg }
  match rcBytes o with
  | some (lo, hi) =>
    if a < hi ∧ lo < b then (((old.rcSet o (s.rcRead o)).regAt o).getD 0, s.rcClear o) else ((old.regAt o).getD 0, s)
  | none => ((old.regAt o).getD 0, s)

/-! ### Reaching registers (R389–R391, R412, R570, R579) -/

/-- The PF BAR0 offset of a register a function names: its own for the PF, through the bed view for a VF (R391). -/
def State.pfOffset (s : State) (f o : Nat) : Option Nat :=
  if f = 0 then some o
  else if o < 0x4000 then some (bedReg f o)
  else if o < 0x5000 then some (0x300000 + (o - 0x4000))
  else if o < 0x80000 then none
  else (s.physical f ((o - 0x80000) / 64)).map fun p => 0x1000000 + 0x8000 * p + o % 64

/-- Bytes of a function's BAR; 0 where it has none (R390). -/
def State.barBytes (s : State) (f bar : Nat) : Nat :=
  match bar with
  | 0 => if f = 0 then 0x4000000 else 0x100000
  | 2 => 0x10000
  | 4 => (if f = 0 then (s.fn 0).barGiB else s.pcie.vfBarGiB) * 0x40000000
  | _ => 0

/-- Whether a request lies within the BAR (R579). -/
def State.inBar (s : State) (f bar off len : Nat) : Bool := decide (off + len ≤ s.barBytes f bar)

/-- Whether the device answers on PCI Express at all: step 0 is complete and no trip has stopped its lanes (R489, R561). -/
def State.answers (s : State) : Bool := s.boot.up && !s.pins.thermtrip

/-- Whether a function's BAR0 answers at an offset, up to `hi` (R389, R390, R412, R474): the bring-up window from step 0, the
rest from READY. -/
def State.bar0Open (s : State) (f hi : Nat) : Bool :=
  s.fnOn f && !s.inD3 f && (s.ready || (f == 0 && decide (hi ≤ 0x10000)))

/-- A request that is not served (R579): a read is answered with Unsupported Request, a write is logged through AER. -/
def State.unserved (s : State) (f : Nat) (write : Bool) : State := if write then s.emit (.aer f) else s.emit (.unsupported f)

/-- The registers from `o` read in ascending order, bytes `lo` up to `hi` of BAR0 (R569); RC fields they cover are cleared. -/
def State.readRegs (s : State) (f lo hi : Nat) : List Nat → List Byte × State
  | [] => ([], s)
  | o :: os =>
    let a := lo - o
    let b := min hi (o + 8) - o
    match s.pfOffset f o with
    | none =>
      let (r, s) := s.readRegs f lo hi os
      (List.replicate (b - a) 0 ++ r, s)
    | some q =>
      let (v, s) := s.readReg q a b
      let (r, s) := s.readRegs f lo hi os
      (((leBytes 8 v).take b).drop a ++ r, s)

/-- A read of BAR0 (R12, R485, R569, R571). A 32-bit read of TIME.NOW's low half loads the function's latch, one of its high
half returns it. -/
def State.readBar0 (s : State) (f off len : Nat) : State :=
  if !s.answers then s
  else if !s.inBar f 0 off len then s.unserved f false
  else if !s.bar0Open f (off + len) then s.emit (.unsupported f)
  else
    let time := s.pfOffset f (off - off % 8) == some 0x300000 && len == 4
    if time && off % 8 == 0 then
      (s.updFn f fun x => { x with latch := some (s.now / 2 ^ 32) }).emit (.readReply f (leBytes 4 s.now))
    else if time && off % 8 == 4 then s.emit (.readReply f (leBytes 4 ((s.fn f).latch.getD (s.now / 2 ^ 32))))
    else
      let base := off - off % 8
      let (bs, s) := s.readRegs f off (off + len) ((List.range (cdiv (off + len - base) 8)).map fun i => base + 8 * i)
      s.emit (.readReply f bs)

/-- Vectors of a function's MSI-X table (R386). -/
def vectors (f : Nat) : Nat := if f = 0 then 2048 else 64

/-- Eight bytes of BAR2 at a multiple of 8 (R390): the MSI-X table from 0x8000, its pending bits from 0x4000; doorbells read as 0
(log 201). -/
def State.bar2At (s : State) (f o : Nat) : Nat :=
  let x := s.fn f
  if 0x8000 ≤ o ∧ o < 0x8000 + 16 * vectors f then
    let m := mget {} x.vecs ((o - 0x8000) / 16)
    if o % 16 = 0 then m.addr else m.data + 2 ^ 32 * b2n m.masked
  else if 0x4000 ≤ o ∧ o < 0x4000 + vectors f / 8 then
    sumNat ((List.range 64).map fun i => if x.pendingVec.contains (8 * (o - 0x4000) + i) then 2 ^ i else 0)
  else 0

/-- Whether a function's BAR2 answers (R389, R390, R412). -/
def State.bar2Open (s : State) (f : Nat) : Bool := s.ready && s.fnOn f && !s.inD3 f

/-- A read of BAR2 (R390). -/
def State.readBar2 (s : State) (f off len : Nat) : State :=
  if !s.answers then s
  else if !s.inBar f 2 off len then s.unserved f false
  else if !s.bar2Open f then s.emit (.unsupported f)
  else
    let base := off - off % 8
    let bs := (List.range (cdiv (off + len - base) 8)).flatMap fun i => leBytes 8 (s.bar2At f (base + 8 * i))
    s.emit (.readReply f ((bs.drop (off - base)).take len))

/-- The size field of a Resizable BAR Control register: 2 to this power MiB. -/
def barCode (gib : Nat) : Nat := 10 + Nat.log2 gib

/-- The value of a configuration register (R386; log 201): MSI-X Message Control, or a Resizable BAR Control register, which the PF has. -/
def State.configAt (s : State) (f : Nat) : RegPlace → Option Nat
  | .msixControl => some (vectors f - 1 + 2 ^ 14 * b2n (s.fn f).fnMask + 2 ^ 15 * b2n (s.fn f).msixOn)
  | .barSize => if f = 0 then some (4 + 2 ^ 5 + 2 ^ 8 * barCode (s.fn 0).barGiB) else none
  | .vfBarSize => if f = 0 then some (4 + 2 ^ 5 + 2 ^ 8 * barCode s.pcie.vfBarGiB) else none
  | _ => none

/-- A read of a configuration register: configuration space answers in D3hot too (R389). -/
def State.readConfig (s : State) (f : Nat) (r : RegPlace) (len : Nat) : State :=
  if !s.answers then s
  else if !s.fnOn f then s.emit (.unsupported f)
  else s.emit (.readReply f (leBytes len ((s.configAt f r).getD 0)))

/-- RC_FIELD_READ (R12, R386, R390, R569): a read of any registers, of 1 byte or more. -/
def execRcFieldRead (f : Nat) (r : RegPlace) (len : Nat) (s : State) : Out1 :=
  .next (match r with
    | .bar0 off => s.readBar0 f off len
    | .bar2 off => s.readBar2 f off len
    | r => s.readConfig f r len)

/-- TIME_NOW_LOW_READ (R485): a 32-bit read of TIME.NOW's low half, in the PF's BAR0 or in a VF's bed view. -/
def execTimeNowLowRead (f : Nat) (s : State) : Out1 := .next (s.readBar0 f (if f = 0 then 0x300000 else 0x4000) 4)

/-! ### Writing -/

/-- The value of a register after a write of its low half, its high half or both. -/
def mergeHalves (old v : Nat) (lo hi : Bool) : Nat :=
  (if lo then v % 2 ^ 32 else old % 2 ^ 32) + 2 ^ 32 * (if hi then v / 2 ^ 32 % 2 ^ 32 else old / 2 ^ 32)

/-- A write of BOOT.FENCE with GO (R505). -/
def State.bootFence (s : State) (v : Nat) : State :=
  let p := bitsAt v 0 11
  if !bitAt v 13 || !s.runs then s
  else match bitsAt v 11 2 with
    | 1 => if s.nibOn p && decide (p < 1280) then s.fence p else s
    | 2 => if s.boot.done < 4 then s else { s with flash := { s.flash with nibMarks := s.flash.nibMarks.filter (· != p) } }
    | _ => s

/-- A write of BOOT.RESET (R495). -/
def State.bootReset (s : State) (v : Nat) : State :=
  if bitsAt v 8 8 ≠ 0xC7 then s
  else match bitsAt v 0 2 with
    | 1 =>
      if s.ready && s.boot.computeEnd.isNone then
        let s := s.computeReset
        { s with boot := { s.boot with qmbCause := 2 } }
      else s
    | 2 => s.warmReset
    | _ => s

/-- A write in the bring-up window (R486–R495, R541, R568). -/
def State.writeWindow (s : State) (o : Nat) (lo hi : Bool) (v : Nat) : State :=
  if o = 0x00 then (if lo then s.startBoot (bitsAt v 0 4) else s)
  else if o = 0x08 then (if lo && bitAt v 6 then { s with boot := { s.boot with refused := s.boot.refused && s.mark.boot } } else s)
  else if o = 0x10 then (if lo then s.bootReset v else s)
  else if o = 0x18 then (if lo then { s with boot := { s.boot with linkSel := bitsAt v 0 24 } } else s)
  else if o = 0x28 then (if lo then s.bootFence v else s)
  else if o = 0x3018 then (if lo then s.clearEvents (v % 65536) else s)
  else if o = 0x3020 then (if lo then s.noteAlert { s with therm := { s.therm with alertMask := bitsAt v 0 6 } } else s)
  else if !s.boot.mailbox then s
  else if o = 0x8000 then (if lo then s.recCommand v else s)
  else if o = 0x8010 then (if lo then { s with sec := { s.sec with recOffset := bitsAt v 0 26 } } else s)
  else if o = 0x8018 then (if lo then { s with sec := { s.sec with recLength := bitsAt v 0 15 } } else s)
  else if 0xC000 ≤ o ∧ o < 0x10000 then
    let bs := leBytes 8 (mergeHalves (leNat (mgetRange 0 s.sec.recBuf (o - 0xC000) 8)) v lo hi)
    { s with sec := { s.sec with recBuf := msetRange 0 s.sec.recBuf (o - 0xC000) bs } }
  else s

/-- A write in bed `b`'s block (R399, R400): staged registers ignore it. A reset in the same write wins over INTR_EN (R576). -/
def State.writeBed (s : State) (b o : Nat) (lo hi : Bool) (v : Nat) : State :=
  let bd := s.bed b
  if o = 0x08 then
    if lo then
      let s := s.setIntr b (bitAt v 1)
      if bitAt v 0 then s.resetBed b else s
    else s
  else if o = 0x50 then s.updBed b fun bd => { bd with win := mergeHalves bd.win v lo hi % 2 ^ 48 / 65536 * 65536 }
  else if o = 0x100 ∧ ¬ bitAt bd.q0cfg 16 then s.updBed b fun bd => { bd with sq0Base := mergeHalves bd.sq0Base v lo hi / 4096 * 4096 }
  else if o = 0x108 ∧ ¬ bitAt bd.q0cfg 16 then s.updBed b fun bd => { bd with cq0Base := mergeHalves bd.cq0Base v lo hi / 4096 * 4096 }
  else if o = 0x110 then (if lo then s.writeQ0 b (v % 2 ^ 32) else s)
  else if 0x200 ≤ o ∧ o < 0x400 then
    if lo then s.updBed b fun bd => { bd with
      cqMod := mset {} bd.cqMod ((o - 0x200) / 8) { count := bitsAt v 0 8, time := bitsAt v 8 16 } }
    else s
  else s

/-- A write of TWIN.CTRL (R519, R521, R524). Without the key it is ignored, and says so (log 66). -/
def State.twinCtrl (s : State) (v : Nat) : State :=
  if bitsAt v 8 8 ≠ 0xC7 then s.refuseTwin
  else
    let s := if bitAt v 0 then s.takeover else s
    let s := if bitAt v 1 then s.attach else s
    if bitAt v 2 then s.detach else s

/-- A write of HBM.RETRAIN or LP.RETRAIN (R445). -/
def State.retrainReg (s : State) (lp : Bool) (v : Nat) : State :=
  if bitAt v 8 then s.retrainWrite lp (bitsAt v 0 7) (bitAt v 7) else s

/-- A write of a register at PF BAR0 offset `o`: its low half, its high half or both, `v` laid out as 64 bits (R569, R571). What
is staged or read-only ignores it. -/
def State.writeReg (s : State) (o : Nat) (lo hi : Bool) (v : Nat) : State :=
  if o < 0x10000 then s.writeWindow o lo hi v
  else if 0x208000 ≤ o ∧ o < 0x288000 then s.writeBed ((o - 0x208000) / 0x4000) ((o - 0x208000) % 0x4000) lo hi v
  else if !lo then s
  else if o = 0x403018 then s.retrainReg false v
  else if o = 0x603018 then s.retrainReg true v
  else if 0x800000 ≤ o ∧ o < 0x980000 ∧ o % 0x10000 = 0x10 then
    if bitAt v 0 then s.retrainGo ((o - 0x800000) / 0x10000) else s
  else if o = 0xC70000 then (if bitAt v 6 then { s with twin := { s.twin with refused := s.twin.refused && s.mark.twin } } else s)
  else if o = 0xC70010 then s.twinCtrl v
  else if o = 0xC70020 then s.hostBeat (v % 2 ^ 32)
  else s

/-- Offsets of its bed's block that a VF may write (R399). -/
def vfMayWrite (o : Nat) : Bool :=
  o == 0x08 || o == 0x50 || o == 0x100 || o == 0x108 || o == 0x110 || (decide (0x200 ≤ o) && decide (o < 0x400))

/-- A write of BAR2's MSI-X table (R390, R402): 4 or 8 aligned bytes; the pending bits are read-only. A vector unmasked sends its pending
message. -/
def State.writeBar2 (s : State) (f off len : Nat) (v : Word) : State :=
  if !s.answers then s
  else if !s.inBar f 2 off len then s.unserved f true
  else if !s.bar2Open f then s.emit (.unsupported f)
  else
    let o := off - off % 8
    if (len = 4 ∨ len = 8) ∧ off % len = 0 ∧ 0x8000 ≤ o ∧ o < 0x8000 + 16 * vectors f then
      let hi := len == 8 || off % 8 == 4
      let x := if len = 8 then v.toNat else v.toNat % 2 ^ 32 * (if hi then 2 ^ 32 else 1)
      let w := mergeHalves (s.bar2At f o) x (len == 8 || !hi) hi
      let put (m : Msix) : Msix := if o % 16 = 0 then { m with addr := w / 4 * 4 } else { m with data := w % 2 ^ 32, masked := bitAt w 32 }
      (s.updFn f fun y => { y with vecs := mupd {} y.vecs ((o - 0x8000) / 16) put }).sendPending f
    else s

/-- A write of a configuration register (R386, R402; log 201): MSI-X Enable and Function Mask, or a size of 1 to 64 GiB. -/
def State.writeConfig (s : State) (f : Nat) (r : RegPlace) (v : Nat) : State :=
  let size := bitsAt v 8 6
  if !s.answers then s
  else if !s.fnOn f then s.emit (.unsupported f)
  else match r with
    | .msixControl => (s.updFn f fun x => { x with msixOn := bitAt v 15, fnMask := bitAt v 14 }).sendPending f
    | .barSize => if f = 0 ∧ 10 ≤ size ∧ size ≤ 16 then s.updFn 0 fun x => { x with barGiB := 2 ^ (size - 10) } else s
    | .vfBarSize => if f = 0 ∧ 10 ≤ size ∧ size ≤ 16 then { s with pcie := { s.pcie with vfBarGiB := 2 ^ (size - 10) } } else s
    | _ => s

/-- A write of BAR0 (R391, R399, R569, R571, R579). A write that is not 4 or 8 bytes and aligned counts where it meets a
register; at reserved offsets nothing counts (log 67). -/
def State.writeBar0 (s : State) (f off len : Nat) (v : Word) : State :=
  if !s.answers then s
    else if !s.inBar f 0 off len then s.unserved f true
    else if !s.bar0Open f (off + len) then s.emit (.unsupported f)
    else
      let base := off - off % 8
      if (len = 4 ∨ len = 8) ∧ off % len = 0 then
        let hi := len == 8 || off % 8 == 4
        let x := if len = 8 then v.toNat else v.toNat % 2 ^ 32 * (if hi then 2 ^ 32 else 1)
        if f ≠ 0 ∧ ¬ vfMayWrite base then s
        else match s.pfOffset f base with
          | some o => s.writeReg o (len == 8 || !hi) hi x
          | none => s
      else
        let hit := (List.range (cdiv (off + len - base) 8)).any fun i => match s.pfOffset f (base + 8 * i) with
          | some o => (s.regAt o).isSome
          | none => false
        if hit then { s with pcie := { s.pcie with badAccess := s.pcie.badAccess + 1 } } else s

/-- REGISTER_WRITE (R386, R390, R391, R399, R569, R571, R579). -/
def execRegisterWrite (f : Nat) (r : RegPlace) (len : Nat) (v : Word) (s : State) : Out1 :=
  .next (match r with
    | .bar0 off => s.writeBar0 f off len v
    | .bar2 off => s.writeBar2 f off len v
    | r => s.writeConfig f r v.toNat)

/-! ### BAR4 (R29, R387, R388, R392, R425) -/

/-- Whether bytes from `a` on meet a capture area of a bed's steps (R275, R392). -/
def State.inCapture (s : State) (a n : Nat) : Bool :=
  bedNums.any fun b => (capAreas (s.bed b)).any fun r => decide (a < r.1 + r.2) && decide (r.1 < a + n)

/-- Whether a function's access to device memory is accepted (R392): the PF's by R29, a VF's in its bed's arena, the system area apart
(R431), or in its frames; none in a capture area. -/
def State.bar4Ok (s : State) (f a n : Nat) : Bool :=
  let bd := s.bed f
  let own := (bd.arenaBase, bd.arenaSize) :: ((s.tierFrames false ++ s.tierFrames true).filterMap fun x =>
    if x.2.bed = f then some (65536 * x.2.addr, frameBytes x.2.size) else none)
  let sys := (sysPieces bd).any fun r => decide (a < r.1 + r.2) && decide (r.1 < a + n)
  s.rangeOk a n && !s.inCapture a n && (f == 0 || (!sys &&  (List.range n).all fun i => own.any fun r => decide (r.1 ≤ a + i) && decide (a + i < r.1 + r.2)))

/-- A BAR4 access that is rejected (R379, R392). -/
def State.bar4Reject (s : State) (f : Nat) (write : Bool) : State :=
  let s := if write then s else s.emit (.completerAbort f)
  (s.emit (.aer f)).event [0] { kind := .fenceDrop, r0 := min 0xFFFFFFFF s.fenceDrop }

/-- Whether a BAR4 request reaches device memory (R389, R390, R412). -/
def State.bar4Open (s : State) (f : Nat) : Bool := s.ready && s.fnOn f && !s.inD3 f

/-- BAR4_READ (R387, R392). -/
def execBar4Read (f off len : Nat) (s : State) : Out1 :=
  .next (
    let a := (s.bed f).win + off
    if !s.answers then s
    else if !s.inBar f 4 off len then s.unserved f false
    else if !s.bar4Open f then s.emit (.unsupported f)
    else if !s.bar4Ok f a len then s.bar4Reject f false
    else match s.readDev a len with
      | (.ok bs, s) => s.emit (.readReply f bs)
      | (.error x, s) => ((s.emit (.completerAbort f)).emit (.aer f)).uncorrRead x)

/-- The packets of whole rows a write to window addresses becomes, each within one nib's window (R24, R77, R86, R96): bytes
that cover part of a row bring the row's others, and each packet names a tally the spec leaves open (log 71). -/
def State.windowPkts (s : State) (cw a : Nat) (bs : List Byte) : Nat → List (Nat × Nat × List Row)
  | 0 => []
  | n + 1 =>
    match placeOf cw with
    | .pad p r =>
      let lo := max cw a
      let part := (bs.drop (lo - a)).take (cw + 32 - lo)
      let old := rowBytes ((s.nib p).peek r)
      let row := rowOf (old.take (lo - cw) ++ part ++ old.drop (lo - cw + part.length))
      match s.windowPkts (cw + 32) a bs n with
      | (p', r', rows) :: ks => if p' = p ∧ r' = r + 1 then (p, r, row :: rows) :: ks else (p, r, [row]) :: (p', r', rows) :: ks
      | [] => [(p, r, [row])]
    | _ => []

/-- A write to nibs' windows enters the asynchronous plane at the PCI Express controller (R18, R19, R24). -/
def State.sendWindow (s : State) (a : Nat) (bs : List Byte) : State :=
  (s.windowPkts (a / 32 * 32) a bs (cdiv (a % 32 + bs.length) 32)).foldl (fun s k =>
    let (t, s) := s.free 6
    { s with mesh := s.mesh ++ [(.pcie, {
      bed := (s.bedOf k.1).getD 0, nib := k.1, slot := 0, handle := none, index := k.2.1, tally := t.toNat, rows := k.2.2
      reach := s.acyc + meshTime (MUnit.router .pcie) k.1 })] }) s

/-- BAR4_WRITE (R96, R388, R392, R425). -/
def execBar4Write (f off : Nat) (bytes : List Byte) (poisoned : Bool) (s : State) : Out1 :=
  .next (
    let a := (s.bed f).win + off
    if !s.answers then s
    else if !s.inBar f 4 off bytes.length then s.unserved f true
    else if !s.bar4Open f then s.emit (.unsupported f)
    else if poisoned then s.emit (.aer f)
    else if !s.bar4Ok f a bytes.length then s.bar4Reject f true
    else
      let k := 0x010000000000 - a
      let (s, ds) := if bytes.take k = [] then (s, []) else s.writeDev a (bytes.take k)
      let s := if bytes.drop k = [] then s else s.sendWindow (a + (bytes.take k).length) (bytes.drop k)
      if ds.isEmpty then s else (s.emit (.aer f)).dropEvents ds)

/-- UNSERVED_MEMORY_REQUEST (R579): a request whose bytes do not all lie within one BAR of the function. -/
def execUnservedMemoryRequest (f bar off len : Nat) (write : Bool) (s : State) : Out1 :=
  .next (if !s.answers || s.inBar f bar off len then s else s.unserved f write)

end Sys2Proof.Machine
end

