-- ==== Sys2Proof/Machine/Dispatch.lean ====
section
/-!
DEFINITION. The meaning of each command: one arm per constructor of Instr, each one direct call.
-/
namespace Sys2Proof.Machine

def exec (i : Instr) (s : State) : Host.Outcome State Fault Refusal :=
  match i with
  | .nop bed q => Sys2Proof.Machine.execNop bed q s
  | .queueCreate bed q => Sys2Proof.Machine.execQueueCreate bed q s
  | .queueDelete bed q => Sys2Proof.Machine.execQueueDelete bed q s
  | .modelLoad bed q => Sys2Proof.Machine.execModelLoad bed q s
  | .scriptLoad bed q => Sys2Proof.Machine.execScriptLoad bed q s
  | .sessionOpen bed q => Sys2Proof.Machine.execSessionOpen bed q s
  | .sessionClose bed q => Sys2Proof.Machine.execSessionClose bed q s
  | .prefill bed q => Sys2Proof.Machine.execPrefill bed q s
  | .admitCmd bed q => Sys2Proof.Machine.execAdmit bed q s
  | .stepCmd bed q => Sys2Proof.Machine.execStepCmd bed q s
  | .decode bed q => Sys2Proof.Machine.execDecode bed q s
  | .cancel bed q => Sys2Proof.Machine.execCancel bed q s
  | .kvExport bed q => Sys2Proof.Machine.execKvExport bed q s
  | .kvImport bed q => Sys2Proof.Machine.execKvImport bed q s
  | .listSwap bed q => Sys2Proof.Machine.execListSwap bed q s
  | .prefixPin bed q => Sys2Proof.Machine.execPrefixPin bed q s
  | .stageWrite bed q => Sys2Proof.Machine.execStageWrite bed q s
  | .stageCheck bed q => Sys2Proof.Machine.execStageCheck bed q s
  | .stageCommit bed q => Sys2Proof.Machine.execStageCommit bed q s
  | .bedCreate bed q => Sys2Proof.Machine.execBedCreate bed q s
  | .bedDestroy bed q => Sys2Proof.Machine.execBedDestroy bed q s
  | .tenantSet bed q => Sys2Proof.Machine.execTenantSet bed q s
  | .updateWrite bed q => Sys2Proof.Machine.execUpdateWrite bed q s
  | .updateVerify bed q => Sys2Proof.Machine.execUpdateVerify bed q s
  | .updateActivate bed q => Sys2Proof.Machine.execUpdateActivate bed q s
  | .updateConfirm bed q => Sys2Proof.Machine.execUpdateConfirm bed q s
  | .licenceInstall bed q => Sys2Proof.Machine.execLicenceInstall bed q s
  | .attest bed q => Sys2Proof.Machine.execAttest bed q s
  | .floorPlanRead bed q => Sys2Proof.Machine.execFloorPlanRead bed q s
  | .sqTail fn q v => Sys2Proof.Machine.execSqTail fn q v s
  | .cqHead fn q v => Sys2Proof.Machine.execCqHead fn q v s
  | .exportDb fn v => Sys2Proof.Machine.execExportDb fn v s
  | .packetFetch bed q inp => Sys2Proof.Machine.execPacketFetch bed q inp s
  | .holdRecordWrite bed q => Sys2Proof.Machine.execHoldRecordWrite bed q s
  | .moderationTimer bed q => Sys2Proof.Machine.execModerationTimer bed q s
  | .bedReset fn bed => Sys2Proof.Machine.execBedReset fn bed s
  | .intrEn fn bed en => Sys2Proof.Machine.execIntrEn fn bed en s
  | .q0Enable fn bed v => Sys2Proof.Machine.execQ0Enable fn bed v s
  | .q0Disable fn bed v => Sys2Proof.Machine.execQ0Disable fn bed v s
  | .registerWrite fn place len v => Sys2Proof.Machine.execRegisterWrite fn place len v s
  | .rcFieldRead fn place len => Sys2Proof.Machine.execRcFieldRead fn place len s
  | .timeNowLowRead fn => Sys2Proof.Machine.execTimeNowLowRead fn s
  | .bar4Read fn off len => Sys2Proof.Machine.execBar4Read fn off len s
  | .bar4Write fn off bytes poisoned => Sys2Proof.Machine.execBar4Write fn off bytes poisoned s
  | .unservedMemoryRequest fn bar off len write => Sys2Proof.Machine.execUnservedMemoryRequest fn bar off len write s
  | .vfFlr n => Sys2Proof.Machine.execVfFlr n s
  | .pfFlr => Sys2Proof.Machine.execPfFlr s
  | .d3hotEntry fn => Sys2Proof.Machine.execD3hotEntry fn s
  | .d0Return fn => Sys2Proof.Machine.execD0Return fn s
  | .coldReset power => Sys2Proof.Machine.execColdReset power s
  | .perstRelease speed width flit => Sys2Proof.Machine.execPerstRelease speed width flit s
  | .powerGoodLoss io mem core => Sys2Proof.Machine.execPowerGoodLoss io mem core s
  | .bringUpStep1 locked => Sys2Proof.Machine.execBringUpStep1 locked s
  | .bringUpStep2 => Sys2Proof.Machine.execBringUpStep2 s
  | .bringUpStep3 nibs perimeter => Sys2Proof.Machine.execBringUpStep3 nibs perimeter s
  | .bringUpStep4 a b scribes => Sys2Proof.Machine.execBringUpStep4 a b scribes s
  | .bringUpStep5 nibs routers samplers => Sys2Proof.Machine.execBringUpStep5 nibs routers samplers s
  | .bringUpStep6 hbm lp => Sys2Proof.Machine.execBringUpStep6 hbm lp s
  | .bringUpStep7 ports => Sys2Proof.Machine.execBringUpStep7 ports s
  | .bringUpStep8 => Sys2Proof.Machine.execBringUpStep8 s
  | .bringUpStep9 => Sys2Proof.Machine.execBringUpStep9 s
  | .bootStepTimeout => Sys2Proof.Machine.execBootStepTimeout s
  | .computeReset fn => Sys2Proof.Machine.execComputeReset fn s
  | .bootWarmReset fn => Sys2Proof.Machine.execBootWarmReset fn s
  | .fenceNow fn p => Sys2Proof.Machine.execFenceNow fn p s
  | .clearRetirementMark fn p => Sys2Proof.Machine.execClearRetirementMark fn p s
  | .hbmRetrainWait fn lp ch => Sys2Proof.Machine.execHbmRetrainWait fn lp ch s
  | .hbmRetrainMigrate fn lp ch => Sys2Proof.Machine.execHbmRetrainMigrate fn lp ch s
  | .memoryRetrainEnd lp r => Sys2Proof.Machine.execMemoryRetrainEnd lp r s
  | .phyCalibrationDrift lp ch => Sys2Proof.Machine.execPhyCalibrationDrift lp ch s
  | .memoryScrub lp ch => Sys2Proof.Machine.execMemoryScrub lp ch s
  | .frameCopyComplete index page => Sys2Proof.Machine.execFrameCopyComplete index page s
  | .kvSpill bed => Sys2Proof.Machine.execKvSpill bed s
  | .linkRetrain fn port => Sys2Proof.Machine.execLinkRetrain fn port s
  | .laneAlignmentLoss port lane => Sys2Proof.Machine.execLaneAlignmentLoss port lane s
  | .retrainComplete port lanes => Sys2Proof.Machine.execRetrainComplete port lanes s
  | .linkTrainingTimeout port => Sys2Proof.Machine.execLinkTrainingTimeout port s
  | .idleFrame port raw => Sys2Proof.Machine.execIdleFrame port raw s
  | .dataFrame port raw => Sys2Proof.Machine.execDataFrame port raw s
  | .negotiate port raw => Sys2Proof.Machine.execNegotiate port raw s
  | .negotiateRepeat port => Sys2Proof.Machine.execNegotiateRepeat port s
  | .replayTimer port => Sys2Proof.Machine.execReplayTimer port s
  | .nakRepeatTimer port => Sys2Proof.Machine.execNakRepeatTimer port s
  | .remoteWrite port => Sys2Proof.Machine.execRemoteWrite port s
  | .levelChange port cl clmin seq => Sys2Proof.Machine.execLevelChange port cl clmin seq s
  | .ethernetFrame port raw => Sys2Proof.Machine.execEthernetFrame port raw s
  | .shipperSend stream => Sys2Proof.Machine.execShipperSend stream s
  | .actOpen port => Sys2Proof.Machine.execActOpen port s
  | .openAck port => Sys2Proof.Machine.execOpenAck port s
  | .actPage port => Sys2Proof.Machine.execActPage port s
  | .layerDone port => Sys2Proof.Machine.execLayerDone port s
  | .actCommit port => Sys2Proof.Machine.execActCommit port s
  | .actAbort port => Sys2Proof.Machine.execActAbort port s
  | .actAck port => Sys2Proof.Machine.execActAck port s
  | .actNack port => Sys2Proof.Machine.execActNack port s
  | .actClose port => Sys2Proof.Machine.execActClose port s
  | .actRefuse port => Sys2Proof.Machine.execActRefuse port s
  | .ackDelayTimer port stream => Sys2Proof.Machine.execAckDelayTimer port stream s
  | .nackGapTimer port stream => Sys2Proof.Machine.execNackGapTimer port stream s
  | .ackTimeout stream => Sys2Proof.Machine.execAckTimeout stream s
  | .exportLinkWaitExpiry stream => Sys2Proof.Machine.execExportLinkWaitExpiry stream s
  | .holdLimit obj => Sys2Proof.Machine.execHoldLimit obj s
  | .twinHello port h => Sys2Proof.Machine.execTwinHello port h s
  | .twinBeat port count upd => Sys2Proof.Machine.execTwinBeat port count upd s
  | .twinDelta port recs => Sys2Proof.Machine.execTwinDelta port recs s
  | .twinDeltaAck port n => Sys2Proof.Machine.execTwinDeltaAck port n s
  | .twinLog port entry => Sys2Proof.Machine.execTwinLog port entry s
  | .twinSyncBegin port => Sys2Proof.Machine.execTwinSyncBegin port s
  | .twinSyncEnd port => Sys2Proof.Machine.execTwinSyncEnd port s
  | .twinTaken port => Sys2Proof.Machine.execTwinTaken port s
  | .twinBeatTick => Sys2Proof.Machine.execTwinBeatTick s
  | .peerBeat fn v => Sys2Proof.Machine.execPeerBeat fn v s
  | .beatMiss host => Sys2Proof.Machine.execBeatMiss host s
  | .takeover fn => Sys2Proof.Machine.execTakeover fn s
  | .attach fn => Sys2Proof.Machine.execAttach fn s
  | .detach fn => Sys2Proof.Machine.execDetach fn s
  | .stepDescriptorPublish bed lists => Sys2Proof.Machine.execStepDescriptorPublish bed lists s
  | .stepStart bed => Sys2Proof.Machine.execStepStart bed s
  | .stepSeal bed => Sys2Proof.Machine.execStepSeal bed s
  | .pageWriter bed seq layer prog => Sys2Proof.Machine.execPageWriter bed seq layer prog s
  | .samplerJob k bed seq logits => Sys2Proof.Machine.execSamplerJob k bed seq logits s
  | .stepWatchdog bed => Sys2Proof.Machine.execStepWatchdog bed s
  | .dmaProgressTimeout c => Sys2Proof.Machine.execDmaProgressTimeout c s
  | .deadlineExpiry index => Sys2Proof.Machine.execDeadlineExpiry index s
  | .sessionIdleExpiry index => Sys2Proof.Machine.execSessionIdleExpiry index s
  | .stageCommitTime => Sys2Proof.Machine.execStageCommitTime s
  | .front p => Sys2Proof.Machine.execFront p s
  | .nibPass p => Sys2Proof.Machine.execNibPass p s
  | .prescan p => Sys2Proof.Machine.execPrescan p s
  | .accClear p => Sys2Proof.Machine.execAccClear p s
  | .accShift p => Sys2Proof.Machine.execAccShift p s
  | .accRead p => Sys2Proof.Machine.execAccRead p s
  | .accCombine p => Sys2Proof.Machine.execAccCombine p s
  | .vload p => Sys2Proof.Machine.execVload p s
  | .vstore p => Sys2Proof.Machine.execVstore p s
  | .vop p => Sys2Proof.Machine.execVop p s
  | .vcvt p => Sys2Proof.Machine.execVcvt p s
  | .vquant p => Sys2Proof.Machine.execVquant p s
  | .vred p => Sys2Proof.Machine.execVred p s
  | .vsfu p => Sys2Proof.Machine.execVsfu p s
  | .sendSched p => Sys2Proof.Machine.execSendSched p s
  | .sendAsync p => Sys2Proof.Machine.execSendAsync p s
  | .readRawSend p => Sys2Proof.Machine.execReadRawSend p s
  | .transpose p => Sys2Proof.Machine.execTranspose p s
  | .gather p => Sys2Proof.Machine.execGather p s
  | .nibWait p => Sys2Proof.Machine.execNibWait p s
  | .waitComplete p => Sys2Proof.Machine.execWaitComplete p s
  | .waitTimeout p => Sys2Proof.Machine.execWaitTimeout p s
  | .tallyClear p => Sys2Proof.Machine.execTallyClear p s
  | .nibLoop p => Sys2Proof.Machine.execNibLoop p s
  | .nibPhase p => Sys2Proof.Machine.execNibPhase p s
  | .nibSync p => Sys2Proof.Machine.execNibSync p s
  | .barrierRelease bed => Sys2Proof.Machine.execBarrierRelease bed s
  | .barrierTimeout p => Sys2Proof.Machine.execBarrierTimeout p s
  | .elasticPhaseTimeout p => Sys2Proof.Machine.execElasticPhaseTimeout p s
  | .endStep p => Sys2Proof.Machine.execEndStep p s
  | .nibIdle p => Sys2Proof.Machine.execNibIdle p s
  | .matmul p => Sys2Proof.Machine.execMatmul p s
  | .macFinish p => Sys2Proof.Machine.execMacFinish p s
  | .attend p => Sys2Proof.Machine.execAttend p s
  | .macroExt p => Sys2Proof.Machine.execMacroExt p s
  | .gatedVisitStart p => Sys2Proof.Machine.execGatedVisitStart p s
  | .attSpan p => Sys2Proof.Machine.execAttSpan p s
  | .mergeLocal p => Sys2Proof.Machine.execMergeLocal p s
  | .mergeIn p => Sys2Proof.Machine.execMergeIn p s
  | .attendSend p => Sys2Proof.Machine.execAttendSend p s
  | .attendFinish p => Sys2Proof.Machine.execAttendFinish p s
  | .asyncWriteArrival a => Sys2Proof.Machine.execAsyncWriteArrival a s
  | .scratchpadScrub p bank => Sys2Proof.Machine.execScratchpadScrub p bank s
  | .scrubForcedGrant p bank => Sys2Proof.Machine.execScrubForcedGrant p bank s
  | .loadSegment p slot seg rows bad => Sys2Proof.Machine.execLoadSegment p slot seg rows bad s
  | .loadGapTimer p slot => Sys2Proof.Machine.execLoadGapTimer p slot s
  | .loadTimeout bed handle => Sys2Proof.Machine.execLoadTimeout bed handle s
  | .handover => Sys2Proof.Machine.execHandover s
  | .handoverPauseTimeout => Sys2Proof.Machine.execHandoverPauseTimeout s
  | .handoverRetry => Sys2Proof.Machine.execHandoverRetry s
  | .selfTest ok => Sys2Proof.Machine.execSelfTest ok s
  | .selftestTimeout => Sys2Proof.Machine.execSelftestTimeout s
  | .healthWindowExpiry => Sys2Proof.Machine.execHealthWindowExpiry s
  | .lifeHourTick => Sys2Proof.Machine.execLifeHourTick s
  | .recWrite => Sys2Proof.Machine.execRecWrite s
  | .recVerify => Sys2Proof.Machine.execRecVerify s
  | .recInstall => Sys2Proof.Machine.execRecInstall s
  | .throttleRequest r => Sys2Proof.Machine.execThrottleRequest r s
  | .divReqFall r => Sys2Proof.Machine.execDivReqFall r s
  | .thermtrip r => Sys2Proof.Machine.execThermtrip r s
  | .hbmHot r => Sys2Proof.Machine.execHbmHot r s
  | .sensorFailure sensor => Sys2Proof.Machine.execSensorFailure sensor s
  | .pllLoss => Sys2Proof.Machine.execPllLoss s
  | .twinPres present => Sys2Proof.Machine.execTwinPres present s
  | .sbIdent => Sys2Proof.Machine.execSbIdent s
  | .sbStatus => Sys2Proof.Machine.execSbStatus s
  | .sbTemp => Sys2Proof.Machine.execSbTemp s
  | .sbHbmTemp => Sys2Proof.Machine.execSbHbmTemp s
  | .sbPower => Sys2Proof.Machine.execSbPower s
  | .eventsClear v pec => Sys2Proof.Machine.execEventsClear v pec s
  | .sbWarmReset v pec => Sys2Proof.Machine.execSbWarmReset v pec s
  | .powerGoodAssertion sbMode sbAddr => Sys2Proof.Machine.execPowerGoodAssertion sbMode sbAddr s
  | .pcieLinkRetraining speed width flit => Sys2Proof.Machine.execPcieLinkRetraining speed width flit s
  | .vfEnable num => Sys2Proof.Machine.execVfEnable num s
  | .scribeRetirement k => Sys2Proof.Machine.execScribeRetirement k s
  | .samplerRetirement k => Sys2Proof.Machine.execSamplerRetirement k s
  | .jtagTck tms tdi trst => Sys2Proof.Machine.execJtagTck tms tdi trst s

end Sys2Proof.Machine
end

