-- ==== Sys2Proof/Machine/NibTick.lean ====
section
/-!
DEFINITION. What an A-cycle does in the nibs whatever is commanded (R67, R80, R87, R110, R153): work under way reads and
sends, scheduled writes and granted rows land, tallies count, and each script whose bundle has issued goes on.
-/
namespace Sys2Proof.Machine

/-- The A-cycle a piece of work acts next in. -/
def Act.due : Act → Nat
  | .fault d .. => d | .bedFault d .. => d | .scrub d .. => d | .result d _ => d | .front d .. => d | .pass d .. => d
  | .prescan d .. => d | .send d .. => d | .raw d .. => d | .transpose d .. => d | .gather d .. => d | .gput d .. => d
  | .mat d _ => d | .scan d .. => d | .fronts d .. => d | .stream d .. => d | .readout d _ => d | .comb d _ => d
  | .combGate d .. => d | .outRow d _ => d | .fin d .. => d | .attend d .. => d | .span d .. => d

/-- Whether a piece of work is a result on its way: it lands after everything else of its A-cycle (R153). -/
def Act.lands : Act → Bool
  | .result .. => true
  | _ => false

/-- A step of a nib's own work. -/
def State.byNib (s : State) (p : Nat) (f : Nib → Nib × Option Act) : State × Option Act :=
  let (n, a) := f (s.nib p)
  (s.setNib p n, a)

/-- A piece of work acts in its due A-cycle. -/
def State.actStep (s : State) (p : Nat) (a : Act) : State × Option Act :=
  match a with
  | .fault _ code unit addr => (s.nibFault p code unit addr (code == Status.uncorrectable.code), none)
  | .bedFault _ code unit addr => (s.bedFaultAt p code unit addr true, none)
  | .scrub _ row d =>
    -- a write that has landed since the scrub's read cancels its write-back (log 84)
    (s.updNib p fun n => if mget 0 n.padUpset row = 0 then n else n.padWrite row d (n.padFlag row), none)
  | .result _ l =>
    let (n, ok) := (s.nib p).landing s.acyc l
    if ok then (s.setNib p n, none) else (s.nibFault p Status.saturatedWindow.code 2, none)
  | .front _ arr f m row got land => s.byNib p fun n => n.frontStep s.acyc arr f m row got land
  | .pass _ arr f md ws row0 n0 sh rows slot set m sc half =>
    s.byNib p fun n => n.passStep s.acyc arr f md ws row0 n0 sh rows slot set m sc half
  | .prescan _ slot fa fb ash aidx nb pair ra cb => s.byNib p fun n => n.prescanStep s.acyc slot fa fb ash aidx nb pair ra cb
  | .send _ r row0 rows tindex flit got fl => s.sendStep p r row0 rows tindex flit got fl
  | .raw _ r slot first count tindex k => s.rawStep p r slot first count tindex k
  | .transpose _ bits src dst got fl => s.byNib p fun n => n.transposeStep s.acyc bits src dst got fl
  | .gather _ x g j idx => s.gatherStep p x g j idx
  | .gput _ row d tally fl => s.byNib p fun n => n.gputStep s.acyc row d tally fl
  | .mat _ r => s.matStep p r
  | .scan _ r j cm ra => s.scanStep p r j cm ra
  | .fronts _ r blk => s.byNib p fun n => n.frontsStep s.acyc r blk
  | .stream _ r blk row sc half => s.streamStep p r blk row sc half
  | .readout _ r => s.readStep p r
  | .comb _ r => s.combStep p r
  | .combGate _ r t => (s.updNib p fun n => n.gateWaits t, some (.combGate (s.acyc + 1) r t))
  | .outRow _ r => s.byNib p fun n => n.outStep s.acyc r
  | .fin _ f x row last => s.finStep p f x row last
  | .attend _ a v started => s.attStep p a v started
  | .span _ a v j => s.spanStep p a v j

/-- Whether work goes on in a nib of this state: a fault stops all but the scrub's write-back (R104). -/
def Act.alive (a : Act) (st : NibSt) : Bool := a.scrubs || st == .running

/-- One piece of work acts, and what it becomes waits for its own A-cycle. -/
def State.runAct (s : State) (p : Nat) (a : Act) : State :=
  if !a.alive (s.nib p).st then s
  else
    let (s, next) := s.actStep p a
    match next with
    | none => s
    | some b => if b.alive (s.nib p).st then s.addAct p b else s

/-- Take the pieces of work that satisfy `f` from a nib, oldest first, and let them act. -/
def State.runActs (s : State) (p : Nat) (f : Act → Bool) : State :=
  let now := (s.nib p).acts.filter f
  if now.isEmpty then s
  else now.foldl (fun s a => s.runAct p a) (s.updNib p fun n => { n with acts := n.acts.filter fun a => !f a })

/-- Everything due in a nib in this A-cycle but results, until none is left; no chain of work within one A-cycle is longer than
eight. -/
def State.workActs (s : State) (p : Nat) : Nat → State
  | 0 => s
  | k + 1 =>
    if (s.nib p).acts.any fun a => decide (a.due ≤ s.acyc) && !a.lands then
      (s.runActs p fun a => decide (a.due ≤ s.acyc) && !a.lands).workActs p k
    else s

/-- Everything due in a nib in this A-cycle: reads and sends first, then the results that are usable from the next. Nibs act in
ascending order, so that of two nibs of a bed that fault in one A-cycle the lower records its own fault (log 173). -/
def State.nibActs (s : State) (p : Nat) : State :=
  (s.workActs p 8).runActs p fun a => decide (a.due ≤ s.acyc) && a.lands

/-- A scheduled-plane flit with an error at the next router it enters (R149, R151): corrected and counted, or the bed faults (R152,
R154; log 93). -/
def State.flitStep (s : State) (p : Nat) (w : PendWrite) : State :=
  match houseRead (rowBytes w.data) w.err with
  | (some bs, c) =>
    let s := if c then { s with meshCorr := s.meshCorr + 1 } else s
    s.updNib p fun n => { n with wq := n.wq.map fun x => if x = w then { x with data := rowOf bs, err := 0 } else x }
  | (none, _) =>
    ({ s with meshUncorr := s.meshUncorr + 1 }.updNib p fun n => { n with wq := n.wq.erase w }).bedFaultAt p
      Status.uncorrectable.code 3 (padAddr w.row)

/-- The flits under way to a nib that enter a router with an error in this A-cycle, their target's 2 A-cycles before they land at the
latest (R149, R151). -/
def State.nibFlits (s : State) (p : Nat) : State :=
  ((s.nib p).wq.filter fun w => w.flit && w.err != 0).foldl (fun s w => s.flitStep p w) s

/-- A running script at the end of an A-cycle (R110, R152, R154): an unreadable bundle faults in the A-cycle it would issue
in; a bundle all of whose slots have issued makes way. -/
def State.nibScript (s : State) (p : Nat) : State :=
  let n := s.nib p
  if n.st != .running || n.hold == .ended then s
  else match n.bundle with
    -- a bundle that has issued, held by an IDLE, a WAIT or a barrier, is not fetched again
    | (none, _) => if n.issuedAny || n.hold != .none then s else s.nibFault p Status.uncorrectable.code 0 {} true
    | (some _, _) =>
      if n.bundleDone && n.mayAdvance (s.acyc + 1) then s.updNib p fun n => n.fetched.advance else s

/-- Scheduled writes that land in this A-cycle, then the asynchronous grants (R80, R81). -/
def Nib.landAll (n : Nib) (now : Nat) : Nib :=
  let due := n.wq.filter fun w => decide (w.due ≤ now)
  let n := due.foldl Nib.land { n with wq := n.wq.filter fun w => decide (now < w.due) }
  n.grants now

/-- Rows that landed become visible in the next A-cycle (R87); true: COUNT would pass its top (R91). -/
def Tally.step (t : Tally) : Tally × Bool :=
  let c := t.count + t.inc
  ({ t with count := min c (2 ^ 24 - 1), fresh := t.inc, inc := 0 }, decide (2 ^ 24 ≤ c))

/-- All tallies of a nib, and the first that overflows. -/
def Nib.countAll (n : Nib) : Nib × Option Nat :=
  let full := n.tallies.find? fun t => t.2.step.2
  ({ n with tallies := mmap {} (fun _ t => t.step.1) n.tallies }, full.map (·.1))

/-- The nibs' part of an A-cycle: work, scripts, landings; the A-cycle is not yet over. -/
def State.nibsRun (s : State) : State :=
  let ps := s.nibs.map (·.1)
  let s := ps.foldl State.nibFlits s
  let s := ps.foldl State.nibActs s
  let s := ps.foldl State.nibScript s
  { s with nibs := mmap {} (fun _ n => n.landAll s.acyc) s.nibs }

/-- The tallies as the next A-cycle sees them; an overflow faults the bed in it (R87, R91). -/
def State.nibsCount (s : State) : State :=
  let full := s.nibs.filterMap fun e => (e.2.countAll).2.map fun t => (e.1, t)
  let s := { s with nibs := mmap {} (fun _ n => n.countAll.1) s.nibs }
  full.foldl (fun s x => s.bedFaultAt x.1 Status.tallyOverflow.code 8 { tally := x.2 }) s

end Sys2Proof.Machine
end

