-- ==== Sys2Proof/Machine/Tick.lean ====
section
/-!
DEFINITION. One A-cycle with no command (R31, R154, R472, R473): clocks advance, nibs do the work they have under way, and
resets whose time has come end.
-/
namespace Sys2Proof.Machine

/-- A bed reset ends (R384, R397, R410, R411, R414, R508). -/
def State.endReset (s : State) (b : Nat) : State :=
  let bd := s.bed b
  let s := s.updBed b fun bd => { bd with resetEnd := none, resetFlr := false }
  if bd.st = .destroying then s.finishDestroy b
  else (if bd.resetFlr then s.removeQueues b else s).afterReset b

/-- Resets that end by this A-cycle, the beds' in order, then a compute reset (R410, R495). -/
def State.endResets (s : State) : State :=
  let due := mkeys (fun _ (bd : Bed) => match bd.resetEnd with | some t => decide (t ≤ s.acyc) | none => false) s.beds
  let s := due.foldl State.endReset s
  match s.boot.computeEnd with
  | some t => if t ≤ s.acyc then { s with boot := { s.boot with computeEnd := none } } else s
  | none => s

/-- What falls in an A-cycle that no command has brought (R32, R414, R420, R482): steps that can seal do, a commit whose time has come
applies, resets that waited for a seal start, and steps that may start do (log 196). -/
def State.falls (s : State) : State := s.sealSteps.commitTime.askedResets.startSteps

/-- An A-cycle's work is done, and the next A-cycle has the divider's length (R480). A C-cycle is 8 cycles of the root PLL (R12, R472;
log 191). -/
def State.advance (s : State) : State :=
  let s := s.nibsRun
  let s := { s with
    acyc := s.acyc + 1, root := s.root + s.clk.cur, ref := s.ref + s.clk.cur, clk := { s.clk with cur := s.clk.div }
    mark := if (s.root + s.clk.cur) / 8 = s.root / 8 then s.mark else s.markNow }
  s.nibsCount.samplersEnd.resetNibs.endResets.careChannels

/-- An A-cycle passes; with the clocks stopped, a REFCLK period (R472, R488). -/
def State.tick (s : State) : State :=
  if !s.runs then { s with ref := s.ref + 48, mark := s.markNow } else s.falls.advance

end Sys2Proof.Machine
end

