-- ==== Sys2Proof/Safety.lean ====
section
/-!
DEFINITION. The terms the claims use: what has left the package stays sent, which parts of the device a command changes, and
when a nib issues a slot.
-/
namespace Sys2Proof.Machine

/-- A state the claims start from: its device memory is canonical (Memory.wf). -/
def State.Sound (s : State) : Prop := Memory.wf s.mem = true

/-- Nothing that has left the package in `s` is missing, or in another order, in `t`. -/
def State.Extends (s t : State) : Prop := s.out <+: t.out

/-- `t` differs from `s` in nib `p` alone: every other nib and every other part of the device is unchanged. -/
def State.OnlyNib (s t : State) (p : Nat) : Prop := t = { s with nibs := t.nibs } ∧ ∀ q, q ≠ p → t.nib q = s.nib q

/-- `t` differs from `s` in bed `b` alone. -/
def State.OnlyBed (s t : State) (b : Nat) : Prop := t = { s with beds := t.beds } ∧ ∀ c, c ≠ b → t.bed c = s.bed c

/-- `t` differs from `s` in port `n` alone. -/
def State.OnlyPort (s t : State) (n : Nat) : Prop := t = { s with ports := t.ports } ∧ ∀ m, m ≠ n → t.port m = s.port m

/-- `t` differs from `s` in session entry `i` alone. -/
def State.OnlySes (s t : State) (i : Nat) : Prop :=
  t = { s with sessions := t.sessions } ∧ ∀ j, j ≠ i → t.ses j = s.ses j

/-- Nib `p` runs, and slot `k` of its current bundle, which holds `w`, has not issued and lies in no shadow iteration
(R103, R108, R135). -/
structure State.Ready (s : State) (p k w : Nat) : Prop where
  runs : s.runs = true
  running : (s.nib p).st = .running
  fresh : (s.nib p).issued k = false
  lit : (s.nib p).shadowed = false
  bundle : ∃ b, (s.nib p).bundle.1 = some b ∧ slotWord b k = w

/-- `t` is `s` after nib `p` issued its VECTOR slot for register `vd` to be `l` from A-cycle `usable` on: the result is on its way,
and where it lands it changes that register alone (R53, R107, R153). -/
def State.ResultIn (s t : State) (p usable vd : Nat) (l : List Lane) : Prop :=
  s.OnlyNib t p ∧ ∃ fl, t.nib p = { s.nib p with
      issuedV := true, acts := (s.nib p).acts ++ [.result (usable - 1) (.vreg vd 0 32 l fl)] } ∧
    ∀ (n : Nib) (now : Nat), let m := (n.landing now (.vreg vd 0 32 l fl)).1
      m = { n with vregs := m.vregs, vfl := m.vfl } ∧ m.vreg vd = l ∧
      ∀ v, v ≠ vd → m.vreg v = n.vreg v ∧ m.vflag v = n.vflag v

/-- What R122's table gives in a lane for function code `fn`. -/
def vopLane (fn : Nat) (imm a b c : Lane) : Option Lane :=
  match fn with
  | 0x00 => some (fadd a b) | 0x01 => some (fsub a b) | 0x02 => some (fmul a b) | 0x03 => some (fma a b c)
  | 0x04 => some (fmin a b) | 0x05 => some (fmax a b)
  | 0x06 => some (if flt a b then 0xFFFFFFFF#32 else 0) | 0x07 => some (if feq a b then 0xFFFFFFFF#32 else 0)
  | 0x08 => some (if c = 0 then b else a)
  | 0x10 => some (a + b) | 0x11 => some (a - b) | 0x12 => some (a &&& b) | 0x13 => some (a ||| b) | 0x14 => some (a ^^^ b)
  | 0x15 => some (a <<< (b.toNat % 32)) | 0x16 => some (a >>> (b.toNat % 32)) | 0x18 => some imm
  | 0x20 => some (fadd a imm) | 0x21 => some (fmul a imm)
  | _ => none

end Sys2Proof.Machine
end

