-- ==== Sys2Proof/Certificates/Slice0/Obligations.lean ====
section
/-!
DEFINITION. What is claimed of the model. Each claim names the rules of spec/ it formalises.
-/

open Sys2Proof Sys2Proof.Machine

/-! ## The queue and the clock -/

/-- A step takes the command at the front of the queue and runs it with the queue's rest; and every command of every state has
an answer that is a next state: the device never stops on a command (R4). -/
def Obligations.StepRunsFront : Prop :=
  (∀ (c : Instr) (r : List Instr) (s : State), s.pending = c :: r → step s = exec c { s with pending := r }) ∧
  (∀ (c : Instr) (s : State), ∃ t, exec c s = .next t) ∧ ∀ s : State, ∃ t, step s = .next t

/-! ## Vector unit -/

/-- VOP gives in every lane of VD what R122's table gives for FN, from the operands as they stand at its issue; the result is
usable 4 A-cycles later for FMA, add, subtract and multiply and 2 for the others, and no other register changes. -/
def Obligations.VopLanes : Prop :=
  ∀ (s : State) (p w : Nat), s.Ready p 1 w → slotOp w = 0x03 → (vopLane (fld w 37 32) 0 0 0 0).isSome →
    let lat := if fld w 37 32 ∈ [0x00, 0x01, 0x02, 0x03, 0x20, 0x21] then 4 else 2
    ∃ t l, exec (.vop p) s = .next t ∧ s.ResultIn t p (s.acyc + lat) (fld w 57 53) l ∧
      ∀ i, i < 64 → ∃ a b c, ((s.nib p).vreg (fld w 52 48))[i]? = some a ∧ ((s.nib p).vreg (fld w 47 43))[i]? = some b ∧
        ((s.nib p).vreg (fld w 42 38))[i]? = some c ∧ l[i]? = vopLane (fld w 37 32) (BitVec.ofNat 32 (fld w 31 0)) a b c

/-- VCVT and VSFU write their result into VD and change no other register: VCVT converts each lane to the format OFMT, 3 A-cycles
later (R119, R153), VSFU applies its special function to each lane, 7 A-cycles later for exp2, 19 for sine and cosine and 11 for
the others (R61, R121, R153). -/
def Obligations.VectorUnary : Prop :=
  ∀ (s : State) (p w : Nat), s.Ready p 1 w →
    let va := (s.nib p).vreg (fld w 52 48)
    let vd := fld w 57 53
    (∀ f, slotOp w = 0x04 → SFmt.ofCode (fld w 47 44) = some f → ∃ t, exec (.vcvt p) s = .next t ∧
      s.ResultIn t p (s.acyc + 3) vd (va.map fun x => BitVec.ofNat 32 (convert f (fSrc x)).1)) ∧
    (∀ f, slotOp w = 0x07 → sfuFn (fld w 47 45) = some f → ∃ t, exec (.vsfu p) s = .next t ∧
      s.ResultIn t p (s.acyc + if fld w 47 45 = 0 then 7 else if fld w 47 45 < 4 then 11 else 19) vd (va.map f))

/-- VQUANT quantises lanes 0–31 and 32–63 of VA as two blocks: their elements, packed from lane 0 with zeros beyond, go to
VD, and the two scale bytes to bits [7:0] and [15:8] of lane 0 of VS, whose other bits and lanes stay. VRED writes its
result, the reduction of the 64 lanes of VA, into every lane of VD (R99, R123). The results are usable 6 and 8 A-cycles later
(R153), and no other register changes. -/
def Obligations.VquantAndVred : Prop :=
  (∀ (s : State) (p w : Nat) (r : Lane), s.Ready p 1 w → slotOp w = 0x06 → vred (fld w 47 46) ((s.nib p).vreg (fld w 52 48)) = some r →
    ∃ t, exec (.vred p) s = .next t ∧ s.ResultIn t p (s.acyc + 8) (fld w 57 53) (List.replicate 64 r)) ∧
  ∀ (s : State) (p w : Nat) (f : Fmt), s.Ready p 1 w → slotOp w = 0x05 → quantFmt (fld w 47 44) = some f →
    let n := s.nib p
    let vd := fld w 57 53
    let vs := fld w 43 39
    let src := (n.vreg (fld w 52 48)).map fSrc
    let q0 := quantise f (src.take 32)
    let q1 := quantise f (src.drop 32)
    ∃ t fd fs, exec (.vquant p) s = .next t ∧ s.OnlyNib t p ∧
      t.nib p = { n with issuedV := true, acts := n.acts ++ [
        .result (s.acyc + 5) (.vreg vd 0 32 (packLanes f.bits (q0.elems ++ q1.elems)) fd),
        .result (s.acyc + 5) (.vreg vs 0 16 [BitVec.ofNat 32 (256 * q1.scale + q0.scale)] fs)] } ∧
      ∀ (m : Nib) (now : Nat),
        let d := (m.landing now (.vreg vd 0 32 (packLanes f.bits (q0.elems ++ q1.elems)) fd)).1
        let e := (m.landing now (.vreg vs 0 16 [BitVec.ofNat 32 (256 * q1.scale + q0.scale)] fs)).1
        d = { m with vregs := d.vregs, vfl := d.vfl } ∧ d.vreg vd = packLanes f.bits (q0.elems ++ q1.elems) ∧
        (∀ v, v ≠ vd → d.vreg v = m.vreg v) ∧
        e = { m with vregs := e.vregs, vfl := e.vfl } ∧ (∀ v, v ≠ vs → e.vreg v = m.vreg v) ∧
        e.vreg vs = BitVec.ofNat 32 (((m.vreg vs).headD 0).toNat / 65536 * 65536 + (256 * q1.scale + q0.scale) % 65536) ::
          (m.vreg vs).drop 1

/-- VLOAD brings the eight rows at the address it names, as they stand in this A-cycle, into VD 4 A-cycles later, lane 8i + j
from word j of row i; VSTORE hands VS to the scheduled port as eight rows that land two A-cycles later, and changes no register
(R80, R98, R121, R153). Neither changes a row in this A-cycle. -/
def Obligations.VectorMemory : Prop :=
  ∀ (s : State) (p w : Nat), s.Ready p 1 w → (s.nib p).padUpset = [] →
    let n := s.nib p
    let a := n.ra (fld w 52 21)
    let row (i : Nat) : Nat := (n.hrow a.handle a.index + i) % 65536
    (slotOp w = 0x01 → ∃ t l, exec (.vload p) s = .next t ∧ s.ResultIn t p (s.acyc + 4) (fld w 57 53) l ∧
      ∀ i j, i < 8 → j < 8 → l[8 * i + j]? = some (BitVec.ofNat 32 ((mget 0 n.pad (row i)).toNat / 2 ^ (32 * j)))) ∧
    (slotOp w = 0x02 → ∃ t, exec (.vstore p) s = .next t ∧ s.OnlyNib t p ∧
      t.nib p = { n with issuedV := true, wq := (t.nib p).wq } ∧
      ∃ l, (t.nib p).wq = n.wq ++ l ∧ l.length = 8 ∧ ∀ i, i < 8 → ∃ x, l[i]? = some x ∧ x.due = s.acyc + 2 ∧ x.row = row i ∧
        ∀ j, j < 8 → (n.vreg (fld w 57 53))[8 * i + j]? = some (BitVec.ofNat 32 (x.data.toNat / 2 ^ (32 * j))))

/-! ## Accumulator store -/

/-- ACC CLEAR sets ZERO of its slot, clears the slot's INEXACT and SATURATED bits in the next A-cycle, and leaves the window and
every other slot as they are. ACC SHIFT, 3 A-cycles later, raises ROW_EXP of its slot row by D while it stays at most 511, and
leaves the other rows' windows, the column terms, ZERO, the elements of other slot rows and every other slot; where ROW_EXP
would pass 511 the nib faults with SATURATED_WINDOW (R73, R74, R153). -/
def Obligations.AccumulatorClearShift : Prop :=
  ∀ (s : State) (p w : Nat), s.Ready p 0 w → slotOp w = 0x04 →
    let n := s.nib p
    let slot := fld w 57 52
    let r := fld w 51 48
    let d := fld w 44 38
    (fld w 47 45 = 0 → ∃ t, exec (.accClear p) s = .next t ∧ s.OnlyNib t p ∧
      t.nib p = { n with issuedM := true, acts := n.acts ++ [.result s.acyc (.clear slot)] } ∧
      ∀ (m : Nib) (now : Nat), let m' := (m.landing now (.clear slot)).1
        m' = { m with tags := m'.tags } ∧ m'.tag slot = { m.tag slot with zero := true, inexact := [], saturated := [] } ∧
        ∀ u, u < 64 → u ≠ slot → m'.tag u = m.tag u) ∧
    (fld w 47 45 = 1 → mget 0 (n.tag slot).rowExp r + (d : Nat) ≤ 511 →
      ∃ t, exec (.accShift p) s = .next t ∧ s.OnlyNib t p ∧
      t.nib p = { n with issuedM := true, acts := n.acts ++ [.result (s.acyc + 2) (.shift slot r d)] } ∧
      ∀ (m : Nib) (now : Nat), mget 0 (m.tag slot).rowExp r + (d : Nat) ≤ 511 →
        let m' := (m.landing now (.shift slot r d)).1
        m' = { m with tags := m'.tags, acc := m'.acc, accUpset := m'.accUpset, errCorr := m'.errCorr, acts := m'.acts } ∧
        (∀ i, mget 0 (m'.tag slot).rowExp i = mget 0 (m.tag slot).rowExp i + if i = r then (d : Int) else 0) ∧
        (m'.tag slot).colExp = (m.tag slot).colExp ∧ (m'.tag slot).wconst = (m.tag slot).wconst ∧
        (m'.tag slot).zero = (m.tag slot).zero ∧ (∀ u, u < 64 → u ≠ slot → m'.tag u = m.tag u) ∧
        ∀ k, k < 256 * slot + 16 * r ∨ 256 * slot + 16 * r + 16 ≤ k → mget 0 m'.acc k = mget 0 m.acc k) ∧
    (∀ b, fld w 47 45 = 1 → 511 < mget 0 (n.tag slot).rowExp r + (d : Nat) → s.bedOf p = some b →
      ∃ t, exec (.accShift p) s = .next t ∧ (t.nib p).st = .faulted ∧ (t.nib p).faultCode = 0x4E ∧ (t.nib p).faultUnit = 2 ∧
        (t.nib p).acc = n.acc ∧ (t.nib p).tags = n.tags)

/-- ACC READ converts the 16 elements of a slot row, finite zeros where ZERO is set, into lanes 16·Q to 16·Q + 15 of VD in the
format OFMT, zero-extended, 5 A-cycles later; VD's other lanes and every other register stay (R73, R119, R153). -/
def Obligations.AccumulatorRead : Prop :=
  ∀ (s : State) (p w : Nat) (f : SFmt), s.Ready p 0 w → slotOp w = 0x04 → fld w 47 45 = 2 →
    SFmt.ofCode (fld w 37 34) = some f → (s.nib p).accUpset = [] →
    let n := s.nib p
    let slot := fld w 57 52
    let r := fld w 51 48
    let vd := fld w 33 29
    let q := fld w 28 27
    let elem (c : Nat) : Acc := if (n.tag slot).zero then 0 else mget 0 n.acc (256 * slot + 16 * r + c)
    let l := (List.range 16).map fun c => BitVec.ofNat 32 (convert f (accSrc ((n.tag slot).window r c) (elem c))).1
    ∃ t fl, exec (.accRead p) s = .next t ∧ s.OnlyNib t p ∧
      t.nib p = { n with issuedM := true, acts := n.acts ++ [.result (s.acyc + 4) (.vreg vd (16 * q) 32 l fl)] } ∧
      ∀ (m : Nib) (now : Nat), let m' := (m.landing now (.vreg vd (16 * q) 32 l fl)).1
        m' = { m with vregs := m'.vregs, vfl := m'.vfl } ∧ (∀ v, v ≠ vd → m'.vreg v = m.vreg v ∧ m'.vflag v = m.vflag v) ∧
        ∀ i, i < 64 → (m'.vreg vd)[i]? = if i / 16 = q then l[i % 16]? else (m.vreg vd)[i]?

/-- ACC COMBINE with windows that agree adds the incoming row of 16 elements to the slot row by the addition table of R51, 3
A-cycles later, and leaves every element outside that row, the window and every other slot; with terms that differ the nib faults
with WINDOW_MISMATCH in the A-cycle of its issue and the elements stay (R73, R75, R120, R153). -/
def Obligations.AccumulatorCombine : Prop :=
  ∀ (s : State) (p w : Nat), s.Ready p 0 w → slotOp w = 0x04 → fld w 47 45 = 3 → (s.nib p).padUpset = [] →
    let n := s.nib p
    let slot := fld w 57 52
    let r := fld w 51 48
    let a := n.ra24 (fld w 37 14) 9
    let raw := (List.range 9).map fun i => mget 0 n.pad ((n.hrow a.handle a.index + i) % 65536)
    (rawTerms (raw.getD 8 0) = (n.tag slot).terms r →
      ∃ t fl, exec (.accCombine p) s = .next t ∧ s.OnlyNib t p ∧
      t.nib p = { n with issuedM := true, acts := n.acts ++ [.result (s.acyc + 2) (.combine slot r (rawElems raw) fl)] } ∧
      ∀ (m : Nib) (now : Nat), m.accUpset = [] →
        let m' := (m.landing now (.combine slot r (rawElems raw) fl)).1
        let elem (k : Nat) : Acc := if (m.tag slot).zero ∧ k / 256 = slot then 0 else mget 0 m.acc k
        m' = { m with acc := m'.acc, accUpset := m'.accUpset, tags := m'.tags } ∧
        (∀ c, c < 16 → ∃ x, (rawElems raw)[c]? = some x ∧ mget 0 m'.acc (256 * slot + 16 * r + c) =
          (AState.add (AState.ofAcc (elem (256 * slot + 16 * r + c))) (AState.ofAcc x)).1.toAcc) ∧
        (∀ k, k < 256 * slot + 16 * r ∨ 256 * slot + 16 * r + 16 ≤ k → mget 0 m'.acc k = elem k) ∧
        (m'.tag slot).terms r = (m.tag slot).terms r ∧ (m'.tag slot).zero = false ∧
        ∀ u, u < 64 → u ≠ slot → m'.tag u = m.tag u) ∧
    (∀ b, s.bedOf p = some b → rawTerms (raw.getD 8 0) ≠ (n.tag slot).terms r →
      ∃ t, exec (.accCombine p) s = .next t ∧ (t.nib p).st = .faulted ∧ (t.nib p).faultCode = 0x4D ∧
        (t.nib p).faultCycle = s.stepCycle b ∧ ∀ k, mget 0 (t.nib p).acc k = mget 0 n.acc k)

/-! ## Arrays -/

/-- FRONT reads its scale row in its own A-cycle and its weight rows from the next on, and the array has the set for rows read 35
A-cycles later; PRESCAN clears its slot and reads its scales from the next A-cycle on, or, for a reduction of no blocks, opens the
window 7 A-cycles later; a per-tensor FMT_A reads none and takes its shape register's ASCALE (R39); PASS reads its first streamed row, or the first half of a wide one, and its scale row in this A-cycle:
the row's block partials are placed into row 0 of SLOT after the array's latency, and the other rows follow every c A-cycles
(R68, R69, R73, R117, R118, R153). None of them changes a row, a register or an element in this A-cycle. A placement, when it
lands, gives each element of its slot row what R49 makes of it and leaves the others. -/
def Obligations.ArrayIssue : Prop :=
  (∀ (s : State) (p w : Nat), s.Ready p 0 w → (s.nib p).padUpset = [] →
    let n := s.nib p
    (∀ f, slotOp w = 0x01 → Fmt.ofCode (fld w 54 51) = some f →
      let a := n.ra (fld w 50 19)
      let row := n.hrow a.handle a.index
      ∃ t, exec (.front p) s = .next t ∧ s.OnlyNib t p ∧
        t.nib p = { n with issuedM := true, acts := n.acts ++
          [.front (s.acyc + 1) (fld w 57 55) f (n.frontMode (fld w 57 55) f) row [mget 0 n.pad row] (s.acyc + 34)] }) ∧
    (∀ fa fb, slotOp w = 0x03 → Fmt.ofCode (fld w 51 48) = some fa → Fmt.ofCode (fld w 47 44) = some fb →
      let nb := (n.shape (fld w 2 0)).nb
      let cb := colMaxima (mget 0 n.pad (n.hrow (fld w 21 16) (fld w 15 3)))
      let slot := fld w 57 52
      ∃ t, exec (.prescan p) s = .next t ∧ s.OnlyNib t p ∧
        t.nib p = { n with issuedM := true, acts := n.acts ++ [.result s.acyc (.clear slot)] ++
          (if nb = 0 then [.result (s.acyc + 6) (.window slot fa fb 0 (List.replicate 16 0) (List.replicate 16 0))]
           else if fa = .fpE4M3 ∨ fa = .fpE5M2 then [.result (s.acyc + (nb + 1) / 2 + 6) (.window slot fa fb nb
             (List.replicate 16 ((fa.scaleExp (n.shape (fld w 2 0)).ascale).getD 0)) cb)]
           else [.prescan (s.acyc + 1) slot fa fb (fld w 43 38) (fld w 37 22) nb 0 (List.replicate 16 none) cb]) }) ∧
    (∀ f ws, slotOp w = 0x02 → Fmt.ofCode (fld w 54 51) = some f → mget none n.arrays (fld w 57 55) = some ws →
      let rows := fld w 20 12 + 1
      let rb := f.blockRows
      let arr := fld w 57 55
      let md := arrMode f ws.fmt
      let a := n.ra24 (fld w 50 27) (rows * rb)
      let slot := fld w 11 6
      let row0 := n.hrow a.handle a.index
      let i0 := a.index / rb
      let sc := mget 0 n.pad (n.hrow (fld w 26 21) (i0 / 32))
      let first := mget 0 n.pad (row0 % 65536)
      let pass (due m : Nat) (sc : Row) (half : List Row) : Act :=
        .pass due arr f md ws row0 i0 (fld w 26 21) rows slot (bitAt w 5) m sc half
      ∃ t fl, exec (.nibPass p) s = .next t ∧ s.OnlyNib t p ∧
        t.nib p = { n with
          issuedM := true, tags := (t.nib p).tags
          acts := n.acts ++ if rb = 2 then [pass (s.acyc + 1) 0 sc [first]]
            else .result (s.acyc + md.latency - 1) (.place slot 0 arr (bitAt w 5)
                (rowPartials f (rowByte sc (i0 % 32)).toNat (blockCodes f [first]) ws) fl) ::
              if rows = 1 then [] else [pass (s.acyc + md.cycles) 1 sc []] } ∧
        ∀ u, u < 64 → (t.nib p).tag u = { n.tag u with
          owner := if (List.range (cdiv rows 16)).any (fun j => (slot + j) % 64 == u) then arr else (n.tag u).owner })) ∧
  ∀ (m : Nib) (now slot row arr fl : Nat) (set : Bool) (ps : List Partial), slot < 64 → row < 16 → ps.length = 16 →
    m.accUpset = [] →
    let m' := (m.landing now (.place slot row arr set ps fl)).1
    let elem (k : Nat) : Acc := if (m.tag slot).zero ∧ k / 256 = slot then 0 else mget 0 m.acc k
    (∀ c x, ps[c]? = some x → mget 0 m'.acc (256 * slot + 16 * row + c) =
      (placeInto set (if set then 0 else elem (256 * slot + 16 * row + c)) x ((m.tag slot).window row c)).1) ∧
    (∀ k, k < 256 * slot + 16 * row ∨ 256 * slot + 16 * row + 16 ≤ k → mget 0 m'.acc k = elem k) ∧
    (m'.tag slot).owner = arr ∧ (m'.tag slot).zero = false ∧ ∀ u, u < 64 → u ≠ slot → m'.tag u = m.tag u

/-! ## Mover -/

/-- A send of rows over a scheduled route: the first flit's rows, at most two, land at the route's target 6 + H + 3S A-cycles
later, from index TINDEX of its handle, and the other flits follow one in each A-cycle (R125, R147, R153). READ_RAW_SEND sends
its first slot row as the nine rows of R120 in five flits. Nothing else changes. -/
def Obligations.ScheduledSends : Prop :=
  ∀ (s : State) (p w b q : Nat), s.Ready p 2 w → (s.nib p).padUpset = [] → (s.nib p).accUpset = [] →
    (s.nib p).scriptUpset = [] → s.bedOf p = some b → s.physical b ((s.nib p).route (fld w 57 52)).nib = some q →
    let n := s.nib p
    let r := n.route (fld w 57 52)
    let lat := 6 + hops p q + 3 * crossings p q
    let lands (x i : Nat) (l : List Row) (fl : Nat) : List PendWrite := l.zipIdx.map fun d =>
      { due := x + lat, row := ((s.nib q).rowIn r.slot r.handle i + d.2) % 65536, data := d.1, fl := fl, flit := true }
    let only (t : State) : Prop := t = { s with nibs := t.nibs } ∧ (∀ k, k ≠ p → k ≠ q → t.nib k = s.nib k) ∧
      (q ≠ p → t.nib q = { s.nib q with wq := (t.nib q).wq }) ∧
      t.nib p = { n with issuedX := true, acts := (t.nib p).acts, wq := (t.nib p).wq }
    (slotOp w = 0x01 →
      let rows := fld w 11 8 + 1
      let a := n.ra24 (fld w 51 28) rows
      let row0 := n.hrow a.handle a.index
      let k := min 2 rows
      ∃ t, exec (.sendSched p) s = .next t ∧ only t ∧
        (t.nib q).wq = (s.nib q).wq ++ lands s.acyc (fld w 27 12)
          ((List.range k).map fun i => mget 0 n.pad ((row0 + i) % 65536)) (n.padFlags row0 k) ∧
        (t.nib p).acts = n.acts ++
          if 2 < rows then [.send (s.acyc + 1) { r with async := false } row0 rows (fld w 27 12) 1 [] 0] else []) ∧
    (slotOp w = 0x03 → r.async = false →
      let slot := fld w 51 46
      let k := fld w 45 42
      let count := fld w 41 38 + 1
      let elems := if (n.tag slot).zero then List.replicate 16 0 else mgetRange 0 n.acc (256 * slot + 16 * k) 16
      let raw := rawRows elems ((n.tag slot).terms k)
      ∃ t, exec (.readRawSend p) s = .next t ∧ only t ∧
        (t.nib p).acts = (n.acts ++ if count = 1 then [] else [.raw (s.acyc + 5) r slot k count (fld w 37 22) 1]) ∧
        (t.nib q).wq = (s.nib q).wq ++ (List.range 5).flatMap fun j =>
          lands (s.acyc + j) (fld w 37 22 + 2 * j) ((raw.drop (2 * j)).take 2) ((n.tag slot).flags k))

/-- Sends over an asynchronous route: a packet of all the rows enters the mesh towards the route's slot, handle, index and
tally, for SEND_ASYNC once every row has been read, two in each A-cycle, and for READ_RAW_SEND one packet for each slot row
(R101, R114, R125). It can be at its target one A-cycle a hop and three a stitch after it enters (R18). Nothing else changes. -/
def Obligations.AsynchronousSends : Prop :=
  ∀ (s : State) (p w b q : Nat), s.Ready p 2 w → (s.nib p).padUpset = [] → (s.nib p).accUpset = [] →
    (s.nib p).scriptUpset = [] → s.bedOf p = some b → s.physical b ((s.nib p).route (fld w 57 52)).nib = some q →
    let n := s.nib p
    let r := n.route (fld w 57 52)
    let pkt (i x : Nat) (l : List Row) (fl : Nat) : MUnit × AsyncPkt := (.nib p, {
      bed := b, nib := q, slot := r.slot, handle := some r.handle, index := i, tally := r.tally, rows := l, fl := fl
      reach := x + hops p q + 3 * crossings p q })
    let only (t : State) : Prop := t = { s with nibs := t.nibs, mesh := t.mesh } ∧ (∀ k, k ≠ p → t.nib k = s.nib k) ∧
      t.nib p = { n with issuedX := true, acts := (t.nib p).acts }
    (slotOp w = 0x02 →
      let rows := fld w 11 8 + 1
      let a := n.ra24 (fld w 51 28) rows
      let row0 := n.hrow a.handle a.index
      let k := min 2 rows
      let got := (List.range k).map fun i => mget 0 n.pad ((row0 + i) % 65536)
      ∃ t, exec (.sendAsync p) s = .next t ∧ only t ∧
        t.mesh = s.mesh ++ (if 2 < rows then [] else [pkt (fld w 27 12) (s.acyc + 4) got (n.padFlags row0 k)]) ∧
        (t.nib p).acts = n.acts ++ if 2 < rows then
          [.send (s.acyc + 1) { r with async := true } row0 rows (fld w 27 12) 1 got (n.padFlags row0 k)] else []) ∧
    (slotOp w = 0x03 → r.async = true →
      let slot := fld w 51 46
      let k := fld w 45 42
      let count := fld w 41 38 + 1
      let elems := if (n.tag slot).zero then List.replicate 16 0 else mgetRange 0 n.acc (256 * slot + 16 * k) 16
      ∃ t, exec (.readRawSend p) s = .next t ∧ only t ∧
        t.mesh = s.mesh ++ [pkt (fld w 37 22) (s.acyc + 8) (rawRows elems ((n.tag slot).terms k)) ((n.tag slot).flags k)] ∧
        (t.nib p).acts = n.acts ++ if count = 1 then [] else [.raw (s.acyc + 5) r slot k count (fld w 37 22) 1])

/-- TRANSPOSE of n × n elements reads its first row in this A-cycle and one in each that follows; with the last, element i of
target row j is element j of source row i, and the rows land four A-cycles later, in x + n + 3 (R101, R124, R153; the landings'
common A-cycle is the model's choice, log 42). GATHER starts with its list's first index (R102, R124). -/
def Obligations.TransposeAndGather : Prop :=
  ∀ (s : State) (p w : Nat), s.Ready p 2 w →
    let n := s.nib p
    (slotOp w = 0x04 → n.padUpset = [] →
      let bits := 4 * 2 ^ fld w 57 56
      let k := 256 / bits
      let a := n.ra24 (fld w 55 32) k
      let d := n.ra24 (fld w 31 8) k
      let src := n.hrow a.handle a.index
      let dst := n.hrow d.handle d.index
      (∃ t fl, exec (.transpose p) s = .next t ∧ s.OnlyNib t p ∧
        t.nib p = { n with issuedX := true, acts := n.acts ++
          [.transpose (s.acyc + 1) bits src dst [mget 0 n.pad (src % 65536)] fl] }) ∧
      ∀ (m : Nib) (now fl : Nat) (got : List Row), m.padUpset = [] → got.length < k →
        let all := got ++ [mget 0 m.pad ((src + got.length) % 65536)]
        (got.length + 1 < k → ∃ fl', m.transposeStep now bits src dst got fl =
          (m, some (.transpose (now + 1) bits src dst all fl'))) ∧
        (got.length + 1 = k → ∃ l, m.transposeStep now bits src dst got fl = ({ m with wq := m.wq ++ l }, none) ∧
          l.length = k ∧ ∀ j, j < k → ∃ x, l[j]? = some x ∧ x.due = now + 4 ∧ x.row = (dst + j) % 65536 ∧
            ∀ i, i < k → ∃ r, all[i]? = some r ∧ bitsAt x.data.toNat (bits * i) bits = bitsAt r.toNat (bits * j) bits)) ∧
    (slotOp w = 0x05 →
      let count := fld w 9 0 + 1
      let a := n.ra24 (fld w 45 22) (cdiv count 8)
      ∃ t, exec (.gather p) s = .next t ∧ s.OnlyNib t p ∧
        t.nib p = { n with issuedX := true, acts := n.acts ++ [.gather s.acyc {
          src := fld w 57 52, dst := fld w 51 46, list := a.handle, tally := fld w 21 16, group := fld w 15 10 + 1
          count := count, index := a.index } 0 0 none] })

/-! ## The CONTROL slot -/

/-- LOOP, PHASE, IDLE and MACRO_EXT change nothing but the sequencing of their own nib: LOOP opens a loop of COUNT iterations,
of which those at or above the run-time count are shadows; PHASE opens a phase of its KIND and LENGTH in this A-cycle; IDLE N
holds the next bundle until N + 1 A-cycles after this one; MACRO_EXT acts as NOP (R127, R128, R131, R135, R157). -/
def Obligations.SequencingControl : Prop :=
  ∀ (s : State) (p w : Nat),
    let n := s.nib p
    (s.Ready p 3 w → slotOp w = 0x03 → ∃ t, exec (.nibLoop p) s = .next t ∧ s.OnlyNib t p ∧
      t.nib p = { n with issuedC := true, loops := {
        level := fld w 57 56, start := n.pc + 1, len := fld w 55 43, count := fld w 42 27 + 1
        run := if bitAt w 26 then ((n.shape (fld w 25 23)).field (fld w 22 20) + 2 ^ fld w 19 16 - 1) / 2 ^ fld w 19 16
          else fld w 42 27 + 1
        iter := 0 } :: n.loops }) ∧
    (s.Ready p 3 w → slotOp w = 0x04 → ∃ t, exec (.nibPhase p) s = .next t ∧ s.OnlyNib t p ∧
      t.nib p = { n with issuedC := true
                         phase := { n.phase with
                           elastic := bitAt w 57, start := s.acyc, len := fld w 56 33 + 1, closed := false } }) ∧
    (s.Ready p 3 w → slotOp w = 0x07 → ∃ t, exec (.nibIdle p) s = .next t ∧ s.OnlyNib t p ∧
      t.nib p = { n with issuedC := true, hold := .idle (s.acyc + (fld w 57 34 + 1) + 1) }) ∧
    (s.Ready p 0 w → slotOp w = 0x3F → ∃ t, exec (.macroExt p) s = .next t ∧ s.OnlyNib t p ∧
      t.nib p = { n with issuedM := true })

/-- WAIT marks its tally WAITING and holds the script on TALLY, E, L and CONSUME from this A-cycle; TALLY_CLEAR leaves in
COUNT only the rows whose increment falls in this A-cycle; neither changes another tally (R88, R90). -/
def Obligations.TallyControl : Prop :=
  ∀ (s : State) (p w : Nat), s.Ready p 3 w →
    let n := s.nib p
    let tl := fld w 57 52
    (slotOp w = 0x01 → ∃ t, exec (.nibWait p) s = .next t ∧ s.OnlyNib t p ∧
      t.nib p = { n with issuedC := true, tallies := (t.nib p).tallies, phase := (t.nib p).phase
                         hold := .wait tl (fld w 51 28) (fld w 27 4 + 1) s.acyc (bitAt w 3) } ∧
      mget {} (t.nib p).tallies tl = { mget {} n.tallies tl with waiting := true } ∧
      (∀ u, u ≠ tl → mget {} (t.nib p).tallies u = mget {} n.tallies u) ∧
      (t.nib p).phase = { n.phase with closed := (t.nib p).phase.closed }) ∧
    (slotOp w = 0x02 → ∃ t, exec (.tallyClear p) s = .next t ∧ s.OnlyNib t p ∧
      t.nib p = { n with issuedC := true, tallies := (t.nib p).tallies } ∧
      mget {} (t.nib p).tallies tl = { mget {} n.tallies tl with count := (mget {} n.tallies tl).fresh } ∧
      ∀ u, u ≠ tl → mget {} (t.nib p).tallies u = mget {} n.tallies u)

/-- SYNC closes the phase, and the KVQ records written in it are done (R269); with BARRIER it signals the bed barrier, and its
next bundle waits for the release. END ends the script, and once every nib of the bed has ended, the step is done D A-cycles later (R140, R141, R144). -/
def Obligations.SyncAndEnd : Prop :=
  ∀ (s : State) (p w : Nat), s.Ready p 3 w →
    let n := s.nib p
    (slotOp w = 0x05 → ∃ t, exec (.nibSync p) s = .next t ∧ s.OnlyNib t p ∧
      t.nib p = { n with
        issuedC := true, phase := { n.phase with closed := true, kvq := [] }, kvqDone := (t.nib p).kvqDone
        signalled := if bitAt w 57 then true else n.signalled
        hold := if bitAt w 57 then .barrier s.acyc (fld w 56 33 + 1) none else n.hold } ∧
      ∀ h, mget 0 (t.nib p).kvqDone h = mget 0 n.kvqDone h + if h ∈ n.phase.kvq then 1 else 0) ∧
    (∀ b, slotOp w = 0x06 → s.bedOf p = some b → ∃ t, exec (.endStep p) s = .next t ∧
      t = { s with nibs := t.nibs, beds := t.beds } ∧ (∀ q, q ≠ p → t.nib q = s.nib q) ∧
      t.nib p = { n with
        issuedC := true, hold := .ended, errCorr := if n.bundle.2 then n.errCorr + 1 else n.errCorr } ∧
      (∀ c, c ≠ b → t.bed c = s.bed c) ∧
      t.bed b = if ((t.bedNibs b).all fun q => (t.nib q).hold == .ended) then
          { s.bed b with step := (s.bed b).step.map fun x => { x with doneAt := some (s.acyc + barrierD (s.bed b)) } }
        else s.bed b)

/-! ## Macro-instructions -/

/-- A MATMUL's head starts the macro's walk and changes nothing else of the nib: with no prologue its first visit, where its tile
is live, starts F A-cycles later, or, where visits are gated, stands at its gate, ready from the next A-cycle; a prologue's first
row is due once its fixed part has passed, and a GATHER stage's gathers start before that (R157, R159, R180, R183, R185, R212,
R215). FINISH is due to read its first held row and ATTEND its first entry (R195, R196). In an elastic phase, its own bundle's PHASE
opening it or an earlier one, the bundle after the last extension word is held until the macro completes (R110, R131, R159). A macro
whose epilogue ends in a KVQ is noted with the phase (R269). -/
def Obligations.MacroHeads : Prop :=
  ∀ (s : State) (p w : Nat), s.Ready p 0 w → (s.nib p).padUpset = [] → (s.nib p).scriptUpset = [] →
    let n := s.nib p
    let ctl := n.slotAt n.pc 3
    let elastic := if slotOp ctl = 4 then bitAt ctl 57 else n.phase.elastic
    let stop (k : Nat) : Option Nat := if elastic then some (n.pc + k) else none
    let kvq (on : Bool) (h : Nat) : PhaseSt := match (n.descriptor h).2.getLast? with
      | some st => if on ∧ st.op = 9 then { n.phase with kvq := st.h1 :: n.phase.kvq } else n.phase
      | none => n.phase
    (∀ m, slotOp w = 0x20 → n.matmul w = some m →
      let r : MatRun := { mat := m, order := tileOrder m.tr m.tc }
      let gated := m.tg && m.kmode != 2
      ∃ t as, exec (.matmul p) s = .next t ∧ s.OnlyNib t p ∧
        t.nib p = { n with
          issuedM := true, stopAt := stop 4, rawLand := 0, acts := n.acts ++ as, phase := kvq (m.epi && m.kmode != 1) m.edh } ∧
        (m.pro = false → as = n.nextVisit r 0 (if gated then s.acyc + 1 else s.acyc + m.f)) ∧
        (m.pro = false → 0 < m.tt * m.kc → m.live (n.shape m.sreg) (r.order.getD (m.visit 0).1 (0, 0)) = true →
          as = if gated then [.mat s.acyc { r with ph := .gate, vstart := s.acyc + 1 }]
            else [.mat s.acyc { r with ph := .ready, vstart := s.acyc + m.f }]) ∧
        (m.pro = true → (∀ st, (n.descriptor m.pdh).2.head? = some st → st.op ≠ 12) →
          as = [.mat (s.acyc + proRowAt m (n.descriptor m.pdh).2 0) { r with ph := .pro, vstart := s.acyc }]) ∧
        ∀ st, m.pro = true → (n.descriptor m.pdh).2.head? = some st → st.op = 12 →
          as = n.gatherActs s.acyc m (n.descriptor m.pdh).1 st ++ [.mat (s.acyc + 1) { r with ph := .gather }]) ∧
    (slotOp w = 0x21 →
      let f := finOf w
      let d := if f.epi then n.descriptor f.edh else (0, [])
      let e := (epiLatency f.ofmt f.epi d.1 d.2).1
      let q := (epiLatency f.ofmt f.epi d.1 d.2).2
      ∃ t, exec (.macFinish p) s = .next t ∧ s.OnlyNib t p ∧
        t.nib p = { n with issuedM := true, stopAt := stop 0, phase := kvq f.epi f.edh, acts := n.acts ++ [
          .fin (s.acyc + 12 + cdiv (f.np * q) 64) f s.acyc 0 (s.acyc + cdiv (f.mp * f.np) 64 * q + 12 + e)] }) ∧
    (slotOp w = 0x22 → ∃ t, exec (.attend p) s = .next t ∧ s.OnlyNib t p ∧
      t.nib p = { n with
        issuedM := true, stopAt := stop 1, rawLand := 0, acts := n.acts ++ [.attend (s.acyc + 1) (n.attendOf w) 0 false] })

/-! ## Nib events -/

/-- A pending WAIT whose count is met completes: the script goes on, the tally is no longer WAITING, and COUNT drops by E
where CONSUME is set, and stays otherwise (R88, R89). -/
def Obligations.WaitCompletes : Prop :=
  ∀ (s : State) (p tl e l x : Nat) (c : Bool), s.runs = true → (s.nib p).st = .running →
    (s.nib p).hold = .wait tl e l x c → e ≤ (mget {} (s.nib p).tallies tl).count →
    ∃ t, exec (.waitComplete p) s = .next t ∧ s.OnlyNib t p ∧
      t.nib p = { s.nib p with hold := .none, tallies := (t.nib p).tallies } ∧
      mget {} (t.nib p).tallies tl = { mget {} (s.nib p).tallies tl with
        waiting := false, count := (mget {} (s.nib p).tallies tl).count - if c then e else 0 } ∧
      ∀ u, u ≠ tl → mget {} (t.nib p).tallies u = mget {} (s.nib p).tallies u

/-- A nib that faults is FAULTED and holds the fault's code, unit and address, the bundle it stood at and the A-cycle counted
from the step's start; it has nothing under way but a scrub's write-back. The stop of a bed stops each of its running nibs with
BED_FAULT, which keeps its stores, and no other nib (R103, R104, R106, R154). -/
def Obligations.NibFaultRecords : Prop :=
  ∀ (s : State) (p b code unit : Nat) (a : FaultAddr), s.bedOf p = some b →
    let n := (s.nibFault p code unit a).nib p
    n.st = .faulted ∧ n.faultCode = code ∧ n.faultUnit = unit ∧ n.faultAddr = a ∧
    n.faultBundle = (s.nib p).bundleAddr (s.nib p).pc % 8192 ∧ n.faultCycle = s.stepCycle b ∧
    n.hold = .none ∧ (∀ x, x ∈ n.acts → x.scrubs = true) ∧ n.wq = [] ∧
    (∀ q, q ∈ s.bedNibs b → (s.nib q).st = .running →
      (s.stopNibs b).nib q = { s.nib q with
        st := .faulted, faultCode := 0x4F, hold := .none, acts := (s.nib q).acts.filter Act.scrubs, wq := [] }) ∧
    ∀ q, q ∉ s.bedNibs b ∨ (s.nib q).st ≠ .running → (s.stopNibs b).nib q = s.nib q

/-- The timers of a nib that runs: a WAIT still unmet in A-cycle t + L + 1, an elastic phase whose closing sync point has not
begun by then, or in t + LENGTH + 1 does not begin, and a barrier SYNC without a release by s + LIMIT + 1 fault the nib with
TALLY_TIMEOUT (R88, R138, R142, R154). Where one nib of the bed alone has not signalled, the expiry is counted for it, and the
second in an epoch fences it instead (R505). -/
def Obligations.NibTimeouts : Prop :=
  ∀ (s : State) (p b : Nat), s.runs = true → (s.nib p).st = .running → s.bedOf p = some b →
    let n := s.nib p
    let faults (s t : State) (unit : Nat) (a : FaultAddr) : Prop :=
      t = s.nibFault p 0x41 unit a ∧ (t.nib p).st = .faulted ∧ (t.nib p).faultCode = 0x41 ∧ (t.nib p).faultUnit = unit ∧
      (t.nib p).faultAddr = a ∧ (t.nib p).faultCycle = s.stepCycle b ∧ (t.nib p).hold = .none
    (∀ tl e l x c, n.hold = .wait tl e l x c → (mget {} n.tallies tl).count < e → x + l + 1 ≤ s.acyc →
      ∃ t, exec (.waitTimeout p) s = .next t ∧ faults s t 8 { tally := tl }) ∧
    (n.phase.elastic = true → n.phase.closed = false → (n.phase.start + n.phase.len + 1 < s.acyc ∨
        n.phase.start + n.phase.len + 1 = s.acyc ∧ n.syncBegins = false) →
      ∃ t, exec (.elasticPhaseTimeout p) s = .next t ∧ faults s t 9 {}) ∧
    (∀ x l, n.hold = .barrier x l none → x + l + 1 ≤ s.acyc →
      (s.loneSilent b = none → ∃ t, exec (.barrierTimeout p) s = .next t ∧ faults s t 8 {}) ∧
      (∀ q, s.loneSilent b = some q → (s.nib q).loneBarrier = 0 → ∃ t, exec (.barrierTimeout p) s = .next t ∧
        faults (s.updNib q fun m => { m with loneBarrier := 1 }) t 8 {}) ∧
      (∀ q k, s.loneSilent b = some q → q ≠ p → (s.nib q).loneBarrier = k + 1 → ∃ t, exec (.barrierTimeout p) s = .next t ∧
        (t.nib q).st = .fenced ∧ q ∈ t.flash.nibMarks ∧ (t.nib p).st = .faulted ∧ (t.nib p).faultCode = 0x41))

/-- A SYNC with BARRIER signals the bed barrier in its A-cycle. The barrier releases once every nib of the bed has signalled:
with `a` the A-cycle in which the last one did, every nib's next bundle issues in a + D; no other nib changes; and D lies
between 6 and 40 (R141). A gate opens from the A-cycle before its visit is ready, once its tally's COUNT is met: COUNT drops by
the rows expected, the tally waits no longer, and the visit, the combine or the tile-list entry starts in max(rv, gv + 1)
(R185, R193, R197). -/
def Obligations.BarriersAndGates : Prop :=
  (∀ (s : State) (b a : Nat), s.runs = true → s.bedNibs b ≠ [] → (s.bedNibs b).Nodup →
     (∀ p, p ∈ s.bedNibs b → (s.nib p).st = .running ∧ (s.nib p).signalled = true ∧
       ∃ x l, (s.nib p).hold = .barrier x l none ∧ x ≤ a) →
     (∃ p l, p ∈ s.bedNibs b ∧ (s.nib p).hold = .barrier a l none) →
     ∃ t, exec (.barrierRelease b) s = .next t ∧ t = { s with nibs := t.nibs } ∧
       (∀ p, p ∉ s.bedNibs b → t.nib p = s.nib p) ∧
       ∀ p, p ∈ s.bedNibs b → ∃ x l, (s.nib p).hold = .barrier x l none ∧
         t.nib p = { s.nib p with signalled := false, hold := .barrier x l (some (a + barrierD (s.bed b))) }) ∧
  (∀ (s : State) (p w : Nat), s.Ready p 3 w → slotOp w = 0x05 → bitAt w 57 = true →
    ∃ t, exec (.nibSync p) s = .next t ∧ (t.nib p).signalled = true ∧ (t.nib p).hold = .barrier s.acyc (fld w 56 33 + 1) none) ∧
  (∀ bd : Bed, 1 ≤ bd.w → 1 ≤ bd.h → bd.x0 + bd.w ≤ 10 → bd.y0 + bd.h ≤ 8 → 6 ≤ barrierD bd ∧ barrierD bd ≤ 40) ∧
  ∀ (s : State) (p tl e rv : Nat) (l r : List Act) (g : Act), s.runs = true → (s.nib p).st = .running →
    (s.nib p).acts = l ++ g :: r → (∀ x, x ∈ l → (s.nib p).gateAt x = none) → (s.nib p).gateAt g = some (tl, e, rv) →
    rv ≤ s.acyc + 1 → e ≤ (mget {} (s.nib p).tallies tl).count →
    ∃ t go, exec (.gatedVisitStart p) s = .next t ∧ s.OnlyNib t p ∧
      t.nib p = { s.nib p with acts := l ++ go ++ r, tallies := (t.nib p).tallies } ∧
      (∀ d m, g = .mat d m → go = [.mat (max rv (s.acyc + 1)) { m with ph := .ready, vstart := max rv (s.acyc + 1) }]) ∧
      (∀ d m tl', g = .combGate d m tl' → go = ({ m with base := max rv (s.acyc + 1) } : ReadRun).start) ∧
      (∀ d a v o, g = .attend d a v o → go = [.attend (max rv (s.acyc + 1)) a v true]) ∧
      mget {} (t.nib p).tallies tl = { mget {} (s.nib p).tallies tl with
        count := (mget {} (s.nib p).tallies tl).count - e, waiting := false } ∧
      ∀ v, v ≠ tl → mget {} (t.nib p).tallies v = mget {} (s.nib p).tallies v

/-- The entry an ATTEND stands at runs with its operation, and the walk goes on to the next entry: SPAN opens the partial
where FIRST is set and starts with its first reference tile, and the arrays the ATTEND names hold key and value sets; MERGE_LOCAL ends the partial at K0[5:0], and a row that had seen no key
there leaves the reference of the row at SLOT; MERGE_IN changes no other partial's references; SEND starts to send every raw slot
row of the partial over RROUTE, the next entry following once they have gone, one each 5 A-cycles; FINISH drops the partial and
keeps the others (R197, R236, R239, R245, R246, R247; the entries' lengths are the model's choice, log 187). Each changes its own
nib alone. -/
def Obligations.TileListEntries : Prop :=
  ∀ (s : State) (p op v d : Nat) (o : Bool) (a : Att) (e : TileEnt) (l r : List Act), s.entry p op = some (a, v, e) →
    (s.nib p).acts = l ++ .attend d a v o :: r → (∀ x, x ∈ l → ∀ d a v o, x ≠ .attend d a v o) →
    let n := s.nib p
    let ad := n.attDescOf a
    let opened (m : Nib) (slot : Nat) : Nib := { m with
      prow := (m.openPartial ad.d slot e.qr).prow, tags := (m.openPartial ad.d slot e.qr).tags }
    n.entryBad a ad e = false → n.padUpset = [] → n.accUpset = [] → n.scriptUpset = [] →
    (op = 0 → ∃ t, exec (.attSpan p) s = .next t ∧ s.OnlyNib t p ∧
      t.nib p = { (if e.first then opened n e.slot else n) with
        acts := l ++ .span s.acyc a v 0 :: r, arrays := (t.nib p).arrays } ∧
      ∀ i, if i ∈ arrayList a.arrays then ∃ ws, mget none (t.nib p).arrays i = some ws ∧ ws.fmt = kvFmt ad.kv4 ∧
          ws.scales.length = 16 ∧ ws.cols.length = 16
        else mget none (t.nib p).arrays i = mget none n.arrays i) ∧
    (op = 1 → ∃ t, exec (.mergeLocal p) s = .next t ∧ s.OnlyNib t p ∧
      (t.nib p).pad = n.pad ∧ (t.nib p).tallies = n.tallies ∧
      (∀ i, i < 512 → mget none (t.nib p).prow (512 * (e.k0 % 64) + i) = none) ∧
      ∀ i, i < e.qr → e.k0 % 64 ≠ e.slot → mget none n.prow (512 * (e.k0 % 64) + i) = none →
        mget none (t.nib p).prow (512 * e.slot + i) = mget none n.prow (512 * e.slot + i)) ∧
    (op = 2 → ∃ t, exec (.mergeIn p) s = .next t ∧ s.OnlyNib t p ∧ (t.nib p).pad = n.pad ∧ (t.nib p).tallies = n.tallies ∧
      ∀ k, k / 512 ≠ e.slot → mget none (t.nib p).prow k = mget none n.prow k) ∧
    (op = 3 → ∃ t, exec (.attendSend p) s = .next t ∧ s.OnlyNib t p ∧
      t.nib p = { n with
        acts := l ++ .attend (s.acyc + 5 * rawCount ad.d e.qr) a (v + 1) false :: r ++
          [.raw s.acyc (n.route ad.rroute) e.slot 0 (rawCount ad.d e.qr) (9 * (e.k0 % 4096 * rawCount ad.d e.qr)) 0]
        rawLand := if (n.route ad.rroute).async then n.rawLand else
          max n.rawLand (s.acyc + 5 * (rawCount ad.d e.qr - 1) + 10 + s.routeTime p (n.route ad.rroute)) }) ∧
    (op = 4 → ∃ t, exec (.attendFinish p) s = .next t ∧ s.OnlyNib t p ∧ (t.nib p).tallies = n.tallies ∧
      (∀ i, i < 512 → mget none (t.nib p).prow (512 * e.slot + i) = none) ∧
      ∀ k, k / 512 ≠ e.slot → mget none (t.nib p).prow k = mget none n.prow k)

/-! ## The asynchronous port -/

/-- A packet that the fence and the nib accept, and whose banks have room, enters the arrival buffers row by row, each with its
tally; one under way on the mesh leaves it, once its route has taken it there (R18, R25, R79, R96). A row a nib's mover sent to a
handle is known for it until its grant (R159). Nothing else changes. -/
def Obligations.AsyncArrival : Prop :=
  ∀ (s : State) (u : MUnit) (k : AsyncPkt) (b row : Nat), s.runs = true → s.bedOf k.nib = some b → s.unitOk u b = true →
    (s.nib k.nib).resetTo ≤ s.acyc → s.nibOn k.nib = true → (s.nib k.nib).accepts k = some row → k.err = 0 →
    (∀ bank, bank < 16 → let new := (k.rows.zipIdx.filter fun x => (row + x.2) % 16 == bank).length
      new = 0 ∨ (s.nib k.nib).waiting bank + new ≤ 8) →
    let p := k.nib
    let n' := { s.nib p with abuf := (s.nib p).abuf ++ k.rows.zipIdx.map fun x =>
      { row := (row + x.2) % 65536, data := x.1, tally := k.tally, fl := k.fl
        sent := match u, k.handle with | .nib q, some h => some (q, h) | _, _ => none } }
    exec (.asyncWriteArrival (.ext u k)) s = .next (s.setNib p n') ∧
    ∀ i, s.mesh[i]? = some (u, k) → k.reach ≤ s.acyc →
      exec (.asyncWriteArrival (.inflight i)) s = .next { s.setNib p n' with mesh := s.mesh.eraseIdx i }

/-- Where a bank's asynchronous port is idle in this A-cycle, no gather's read due at it, its scrub takes the port, reads the bank's next row and goes on to the
following one: a clean row is left alone; a row with a correctable error is counted and written back corrected in the following
A-cycle. A forced grant does the same while rows wait, and remembers its A-cycle (R78, R85). -/
def Obligations.ScratchpadScrubs : Prop :=
  ∀ (s : State) (p bank : Nat), s.runs = true → s.nibOn p = true → bank < 16 → mget none (s.nib p).portAt bank ≠ some s.acyc →
    let n := s.nib p
    let i := mget 0 n.scrubPtr bank
    let row := 16 * i + bank
    let next := mset 0 n.scrubPtr bank ((i + 1) % 4096)
    let after (n m : Nib) (bs : Option (List Byte)) : Prop :=
      m.portAt = mset none n.portAt bank (some s.acyc) ∧ (∀ j, j ≠ bank → mget 0 m.portTurn j = mget 0 n.portTurn j) ∧
      m = match bs with
        | none => { n with scrubPtr := next, portAt := m.portAt, portTurn := m.portTurn }
        | some bs => { n with scrubPtr := next, errCorr := n.errCorr + 1, portAt := m.portAt
                              portTurn := m.portTurn, acts := n.acts ++ [.scrub (s.acyc + 1) row (rowOf bs)] }
    ∀ bs, (bs = none ∧ mget 0 n.padUpset row = 0 ∨ mget 0 n.padUpset row ≠ 0 ∧
        ∃ d, bs = some d ∧ houseRead (rowBytes (mget 0 n.pad row)) (mget 0 n.padUpset row) = (some d, true)) →
      (n.waiting bank = 0 → (∀ x r, x ∈ n.acts → n.gatherRow s.acyc x = some r → r % 16 ≠ bank) →
        ∃ t, exec (.scratchpadScrub p bank) s = .next t ∧ s.OnlyNib t p ∧ after n (t.nib p) bs) ∧
      ((∀ x, mget none n.forcedAt bank = some x → x + 4096 ≤ s.acyc) →
        ∃ t, exec (.scrubForcedGrant p bank) s = .next t ∧ s.OnlyNib t p ∧
          after { n with forcedAt := mset none n.forcedAt bank (some s.acyc) } (t.nib p) bs)

/-! ## Loading -/

/-- A segment that reaches a LOADING slot writes its bundles from START + 128·SEG, sets its bit of the arrival bitmap, and
changes no other bundle; the segment that completes the bitmap makes the nib report what its bundles' digest shows
(R501, R502). -/
def Obligations.LoadSegmentArrives : Prop :=
  ∀ (s : State) (p slot seg : Nat) (rows : List Row),
    let n := s.nib p
    let d := mget {} n.slots slot
    s.runs = true → s.nibOn p = true → d.st = .loading → seg < d.segs → d.report ≠ .ready → (s.loadOf p slot).isSome →
    let want := min 128 (d.length - 128 * seg)
    let bitmap := if bitAt d.bitmap seg then d.bitmap else d.bitmap + 2 ^ seg
    ∃ u, s.OnlyNib u p ∧
      u.nib p = { n with script := (u.nib p).script, scriptUpset := (u.nib p).scriptUpset
                         slots := mset {} n.slots slot { d with bitmap := bitmap, lastSeg := seg } } ∧
      (∀ i, i < want → mget 0 (u.nib p).script (d.start + 128 * seg + i) = rows.getD i 0) ∧
      (∀ a, a < d.start + 128 * seg ∨ d.start + 128 * seg + want ≤ a → mget 0 (u.nib p).script a = mget 0 n.script a) ∧
      (bitmap ≠ 2 ^ d.segs - 1 → exec (.loadSegment p slot seg rows false) s = .next u) ∧
      (bitmap = 2 ^ d.segs - 1 → exec (.loadSegment p slot seg rows false) s = .next (u.report p slot
        (if shake256 32 ((mgetRange 0 (u.nib p).script d.start d.length).flatMap rowBytes) = d.digest then .ready
         else .digestBad)))

/-- A nib whose slot is still incomplete 2 ms after the round's last segment reports GAPS, and a load that has not succeeded
500 ms after its first segment fails (R502, R504). -/
def Obligations.LoadTimers : Prop :=
  ∀ (s : State), s.runs = true →
    (∀ p slot b l, s.loadOf p slot = some (b, l) → s.nibOn p = true → (mget {} (s.nib p).slots slot).st = .loading →
      (mget {} (s.nib p).slots slot).report = .none → l.lastSent + 200000 < s.now →
      exec (.loadGapTimer p slot) s = .next (State.loadRound (s.setNib p { s.nib p with
        slots := mset {} (s.nib p).slots slot { mget {} (s.nib p).slots slot with report := .gaps } }) b l)) ∧
    (∀ b h l, (s.bed b).loads.find? (fun l => l.handle == h) = some l → l.ready = false → l.first + 50000000 < s.now →
      exec (.loadTimeout b h) s = .next (s.failLoad b l))

/-! ## Queues -/

/-- The packet a queue has taken, of the opcode asked for, is handed to its command, and the queue may take the next; where
the queue holds none, or one of another opcode, the command changes nothing (R357, R366). -/
def Obligations.TakenPacket : Prop :=
  ∀ (s : State) (b q op : Nat) (u : Queue) (f : State → Pkt → State), s.runs = true → s.boot.computeEnd = none →
    s.sec.pausing = false → mget none (s.bed b).queues q = some u →
    (∀ k, u.taken = some k → k.ref.op = op → ∃ t, s.command b q op f = f t k ∧ s.OnlyBed t b ∧
      t.bed b = { s.bed b with queues := (t.bed b).queues } ∧
      mget none (t.bed b).queues q = some { u with taken := none } ∧
      ∀ r, r ≠ q → mget none (t.bed b).queues r = mget none (s.bed b).queues r) ∧
    ((∀ k, u.taken = some k → k.ref.op ≠ op) → s.command b q op f = s)

/-- A packet that completes while its ring can take its record, and no record waits before it, has its record written at the
ring's next place with the pass's PHASE, its own tag and status and the session it concerns, and the place after it is next; a QUIET
record that does not fail sends no message (R359, R378; log 12). The oldest record that waits for a queue is written as soon as it can
be, and a queue whose first unannounced record is older than its moderation TIME sends its message, and both its moderation counts
begin again (R360, R402). -/
def Obligations.CompletionRecords : Prop :=
  (∀ (s : State) (p : PktRef) (r : Rec) (u : Queue), mget none (s.bed p.bed).queues p.q = some u → u.cqHbm = false →
     s.canWrite p.bed p.q = true → (∀ h, h ∈ (s.bed p.bed).held → h.q ≠ p.q) → p.quiet = true →
     r.event = false → r.status = 0 ∨ r.status = 0x40 →
     let rec_ : Rec := { r with
       tag := p.tag, sq := p.q, sqHead := u.head, session := if r.session = 0 then p.session else r.session, time := s.stamp }
     let t := s.complete p r
     t.out = s.out ++ [.hostWrite p.bed (u.cqBase + 32 * u.cqTail) (rec_.bytes u.phase)] ∧
     mget none (t.bed p.bed).queues p.q = some { u with
       cqTail := (u.cqTail + 1) % u.cqSize, phase := if (u.cqTail + 1) % u.cqSize = 0 then !u.phase else u.phase } ∧
     t = { s with out := t.out, beds := t.beds } ∧ ∀ c, c ≠ p.bed → t.bed c = s.bed c) ∧
  ∀ (s : State) (b q : Nat),
    (∀ h hs, s.runs = true → s.canWrite b q = true → takeHeld q (s.bed b).held = some (h, hs) →
      h.q = q ∧ hs.length + 1 = (s.bed b).held.length ∧
      exec (.holdRecordWrite b q) s = .next (State.settleDelete (State.writeRecord (s.setBed b { s.bed b with held := hs })
        b q h.body h.quiet) b q)) ∧
    (∀ u x, mget none (s.bed b).queues q = some u → u.since = some x → (mget {} (s.bed b).cqMod q).time ≠ 0 →
      x + 100 * (mget {} (s.bed b).cqMod q).time < s.now → exec (.moderationTimer b q) s = .next (s.queueMessage b q) ∧
      ∃ u', mget none ((s.queueMessage b q).bed b).queues q = some u' ∧
        u' = { u with count := 0, since := none, unsent := !(s.hostOpen b && (s.bed b).intrEn) })

/-- NOP completes with no effect. QUEUE_CREATE makes a queue that does not exist, with the fields of its arguments, and
QUEUE_DELETE discards the unfetched packets of one that does, as many as its slots allow; the queue goes once its fetched packets
have completed (R364, R370). The packets of a ring in host memory are counted by the headers that come with the command (log 151). -/
def Obligations.QueueCommands : Prop :=
  ∀ (s t : State) (b q : Nat) (k : Pkt),
    (s.take b q 0x01 = some (k, t) → exec (.nop b q) s = .next (t.finish k.ref {})) ∧
    (s.take b q 0x02 = some (k, t) → mget none (t.bed b).queues (bitsAt k.a1 16 6) = none →
      exec (.queueCreate b q) s = .next (State.finish (t.setBed b { t.bed b with
        queues := mset none (t.bed b).queues (bitsAt k.a1 16 6) (some {
          sqBase := k.a0, sqSlots := if bitsAt k.a1 0 16 = 0 then 65536 else bitsAt k.a1 0 16, sqHbm := bitAt k.a1 22
          weight := bitsAt k.a1 23 8, cqBase := k.a2, cqSize := if bitsAt k.a3 0 16 = 0 then 65536 else bitsAt k.a3 0 16
          cqHbm := bitAt k.a3 27, vector := bitsAt k.a3 16 11 }) }) k.ref {})) ∧
    (∀ u, s.take b q 0x03 = some (k, t) → mget none (t.bed b).queues (bitsAt k.a0 0 6) = some u → u.deleting = none →
      let x := t.unfetched u k.ring
      exec (.queueDelete b q) s = .next (State.settleDelete (x.2.setBed b { t.bed b with
        queues := mset none (t.bed b).queues (bitsAt k.a0 0 6)
          (some { u with deleting := some k.ref, discarded := x.1, tail := u.head }) }) b (bitsAt k.a0 0 6)) ∧
      x.2.beds = t.beds ∧ (u.waiting = 0 → x = (0, t)) ∧ (u.waiting ≠ 0 → u.sqHbm = false →
        1 ≤ x.1 ∧ x.1 ≤ u.waiting ∧ x.2 = t ∧ ((∀ h, h ∈ k.ring → bitsAt (leNat (slice h 0 64)) 64 12 = 0) →
          u.waiting ≤ k.ring.length → x.1 = u.waiting)))

/-- A doorbell of a function that is reached moves its queue's index and nothing else: SQ_TAIL to a place the scribe has not
passed, which also lets a stopped queue fetch again, and CQ_HEAD to a record that has been written (R359, R363, R364, R388).
EXPORT_DB moves the consumer index of a stream of its own function that goes to host memory, forward by at most what has been
produced (R355, R363). -/
def Obligations.Doorbells : Prop :=
  (∀ (s : State) (f q : Nat) (v : Word) (u : Queue), s.ready = true → s.fnOn f = true → s.inD3 f = false →
     mget none (s.bed f).queues q = some u → u.gone = false →
     let x := v.toNat % 65536
     let set (u : Queue) : State := s.setBed f { s.bed f with queues := mset none (s.bed f).queues q (some u) }
     (u.deleting = none → x < u.sqSlots →
       (u.tail + u.sqSlots - u.head) % u.sqSlots ≤ (x + u.sqSlots - u.head) % u.sqSlots →
       exec (.sqTail f q v) s = .next (set { u with tail := x, stopped := false })) ∧
     (x < u.cqSize → (x + u.cqSize - u.cqHead) % u.cqSize ≤ (u.cqTail + u.cqSize - u.cqHead) % u.cqSize →
       exec (.cqHead f q v) s = .next (set { u with cqHead := x }))) ∧
  ∀ (s : State) (f : Nat) (v : Word) (x : TxStream), s.ready = true → s.fnOn f = true → s.inD3 f = false →
    s.txAt (v.toNat % 2 ^ 32) = some x → x.bed = f → x.via = .host → v.toNat / 2 ^ 32 % 65536 < x.target.nslots →
    let n := x.target.nslots
    let step := (v.toNat / 2 ^ 32 % 65536 + n - x.cons % n) % n
    step ≠ 0 → step ≤ x.prod - x.cons →
      exec (.exportDb f v) s = .next (s.updTx (v.toNat % 2 ^ 32) fun y => { y with cons := y.cons + step, fullSince := none })

/-- A packet whose header can be read, whose queue has its turn and that lies in its ring passes to its command when it fails
no check of R366: the queue's head moves past the packet, which is counted among the fetched ones, and the queue has taken it.
The turn is that of a queue that may be fetched from: the queue fetched from last while it has given fewer packets than its weight,
else another where one may. A packet whose reserve does not fit is not fetched, and no queue of the bed is fetched from while its
reserve does not fit (R357, R358, R361, R366, R382; the order of the turns is the model's, log 193). -/
def Obligations.PacketFetched : Prop :=
  ∀ (s : State) (b q : Nat) (inp : FetchIn) (u : Queue) (h p : List Byte), mget none (s.bed b).queues q = some u →
    s.fetchQueue b = some q → u.sqHbm = false → inp.header = some h → inp.payload = some p →
    let k0 := parseHeader b q s.ids s.now (slice h 0 64)
    s.canFetch b q u = true ∧
    (∀ c, (s.bed b).fetchTurn.1 = c → c ≠ q → ∀ w, mget none (s.bed b).queues c = some w → s.canFetch b c w = true →
      w.weight ≤ (s.bed b).fetchTurn.2) ∧
    ((k0.fence = true → ∀ x, x ∈ (s.bed b).fetched → x.q ≠ q) →
      let need := heldPlain (s.bed b) + (s.bed b).reserve + reserveOf k0.ref.op
      (s.holdRoom b < need → ∃ t, exec (.packetFetch b q inp) s = .next t ∧
        t = (s.updBed b fun bd => { bd with stuck := reserveOf k0.ref.op }) ∧
        ∀ c j, exec (.packetFetch b c j) t = .next t) ∧
      (need ≤ s.holdRoom b → 1 + k0.plen ≤ u.waiting → 1 + k0.plen ≤ u.sqSlots - 1 → k0.dbytes = 0 →
        (k0.ref.op ≠ 0x10 ∧ k0.ref.op ≠ 0x11 ∨ k0.dspace = 0) →
        let k := { k0 with payload := slice p 0 (64 * k0.plen), data := [], pkg := inp.pkg, ring := inp.ring }
        let s1 : State := { s with ids := s.ids + 1 }
        let s2 := s1.updBed b fun bd => { bd with
          fetched := bd.fetched ++ [k.ref], reserve := bd.reserve + reserveOf k.ref.op, stuck := 0, fetchTurn := bd.turnOf q }
        let s3 := (s2.updQueue b q fun u => { u with fenced := false, hostWait := false }).updQueue b q fun u =>
          { u with head := (u.head + 1 + k.plen) % u.sqSlots }
        s3.firstCheck (slice h 0 64) k true true true = none →
        exec (.packetFetch b q inp) s = .next (s3.updQueue b q fun u => { u with taken := some k })))

/-! ## Sessions and requests -/

/-- SESSION_OPEN makes the lowest free entry a session of the tenant, the model and MAX_LEN its packet names, IDLE, with an
empty list in the arena and the next INCARNATION. SESSION_CLOSE closes a session with no request at once; a request in flight
is cancelled first. CANCEL ends a QUEUED request at once and lands in the entry of a RUNNING one (R294, R295, R299, R314). -/
def Obligations.SessionCommands : Prop :=
  ∀ (s t : State) (b q : Nat) (k : Pkt),
    (∀ m i a u, s.take b q 0x20 = some (k, t) →
      let maxLen := bitsAt k.a0 20 21
      let g : Geo := ⟨m.pkg.layers, npmOf maxLen, fppOf m.pkg (t.bed b).fsize, (t.bed b).fsize⟩
      let inc := if t.ses i = {} then 0 else ((t.ses i).inc + 1) % 2 ^ 14
      (t.tenant b (bitsAt k.a0 0 12)).valid = true → (t.bed b).loaded (bitsAt k.a0 12 8) = some m →
      t.openSessions b < t.quota b → t.freeEntry = some i → t.arenaTake b (64 + 4 * g.nent) = some (a, u) →
      ∃ v, exec (.sessionOpen b q) s = .next (State.finish (State.sesDelta v i) k.ref { session := sesNum i inc }) ∧
        State.OnlySes (u.writeDev a (wholeCws (listBytes g 0 (sesNum i inc) (List.replicate g.nent 0)))).1 v i ∧
        v.ses i = { inc := inc, st := .idle, bed := b, tenant := bitsAt k.a0 0 12, model := bitsAt k.a0 12 8, maxLen := maxLen
                    listAddr := a, layers := g.layers, fpp := g.fpp, lastActive := u.now, idleLimit := bitsAt k.a1 0 32 }) ∧
    (∀ i, s.take b q 0x21 = some (k, t) → t.sesOk b k.session = some i → t.beingClosed i = false →
      (t.reqOf i = none → exec (.sessionClose b q) s =
        .next (State.closeNow (t.setSes i { t.ses i with closeRef := some k.ref }) i)) ∧
      (∀ r, t.reqOf i = some r → exec (.sessionClose b q) s =
        .next (State.cancelReq (t.updReq i fun r => { r with closing := some k.ref }) i none))) ∧
    (∀ i r u, s.take b q 0x38 = some (k, t) → t.sesOk b k.session = some i → t.reqOf i = some r → r.ref.tag = k.a0 →
      u = (t.updReq i fun r => { r with cancels := r.cancels ++ [k.ref] }) →
      (r.kind ≠ .kvImport → (u.ses i).st = .queued → exec (.cancel b q) s = .next (u.dropRequest i .cancelled)) ∧
      (r.kind = .kvImport → exec (.cancel b q) s = .next (u.endImport i .cancelled)) ∧
      (r.kind ≠ .kvImport → (u.ses i).st ≠ .queued → (u.ses i).cancelSeen = false →
        exec (.cancel b q) s = .next (u.setSes i { u.ses i with cancelSeen := true, cancelAt := u.acyc })))

/-- A PREFILL, ADMIT or DECODE that passes the eleven stages is QUEUED: its entry holds the tag, the deadline and the tokens
reserved, the tenant's record the reservation, and its request joins the bed's as the builder will take it. Stated for a
request whose pages are in HBM already, that reuses no prefix block, exports nothing and has no deadline, in a bed without a
twin (R295, R302, R304, R305). -/
def Obligations.AdmissionQueues : Prop :=
  ∀ (s t : State) (b q op i : Nat) (k : Pkt) (c : Instr) (kind : ReqKind) (m : Model) (x : Tenant) (held : Nat),
    (c, op, kind) ∈ [(Instr.prefill b q, 0x31, ReqKind.prefill), (.admitCmd b q, 0x30, .admission), (.decode b q, 0x33, .decode)] →
    s.take b q op = some (k, t) → (t.bed b).st = .ready → (t.bed b).armed = true →
    ¬ (t.twin.st = .displaced ∧ t.pairedBed b = true) → t.mirrors b = false →
    let a := reqArgs k
    let e := t.ses i
    let at_ := (sections k.ref.op k.payload a).2.2.2.1
    let tokens : List Nat := if kind = .decode then [] else
      (List.range a.new).map fun j => if a.indirect then leField k.data (4 * j) 4 else leField k.payload (at_ + 4 * j) 4
    t.sesOk b k.session = some i → a.samp = false → a.exported = false → a.segn = 0 → a.pfx = 0 → a.deadline = 0 →
    (kind = .decode → t.licensed 1 = true) → (a.retr = true → t.licensed 3 = true) →
    mget none (t.bed b).models e.model = some m → m.slots ≠ [] → e.needsPrefill = false →
    (∀ y, y ∈ tokens → y < (t.pkgOf i).vocab) → (kind = .decode → e.lastToken ≠ 0xFFFFFFFF) →
    e.st = .idle → t.beingClosed i = false → (∀ y, y ∈ t.imports → y.index ≠ i) → t.activeSessions < 4096 →
    e.c + a.new ≤ e.maxLen → a.new ≠ 0 → kind = .decode ∨ a.new ≤ m.maxRows →
    (m.pick a.bulk (if kind = .decode then 1 else a.new) (e.c + a.new)).isSome = true →
    admitCheck (t.tenant b e.tenant) a.new t.now = some (x, held) → kind = .decode ∨ e.noPrefix = true ∨ e.c % 256 ≠ 0 →
    (∀ u, u ∈ (t.geo i).span (e.c / 256) (cdiv (e.c + a.new) 256) → entHere ((t.entries i).getD u 0) = true) →
    (∀ y, y ∈ t.entries i → entHere y = true → entLp y = false) →
    ∃ u, exec c s = .next u ∧ u = { t with beds := u.beds, sessions := u.sessions } ∧ (∀ j, j ≠ i → u.ses j = t.ses j) ∧
      u.ses i = { e with held := held, admitC := e.c, deadline := 0, st := .queued, reqTag := k.ref.tag, cancelSeen := false
                         keepOnLate := a.keepOnLate, streamed := false } ∧
      u.tenant b e.tenant = x ∧
      (u.bed b).reqs = (t.bed b).reqs ++ [{
        ref := k.ref, kind := kind, index := i, tokens := tokens, new := a.new, stop := a.stop, retr := a.retr, bulk := a.bulk
        stepped := a.stepped && kind == .admission, cost := a.cost, outAddr := k.daddr, outSpace := k.dspace
        salt := (t.tenant b e.tenant).salt, savedHash := e.lastHash, savedEntry := e.lastEntry, savedTail := e.tail
        savedInexact := e.tailInexact, savedSaturated := e.tailSaturated, order := (t.bed b).orders }]

/-- KV_EXPORT of a committed session opens a stream over its target, with one batch of the committed pages that settles with
COMMIT. KV_IMPORT makes an idle session wait, QUEUED, for the sender its packet names. LIST_SWAP of the current list whose
entries pass every check publishes the list and answers the new GEN (R278, R279, R324, R343, R348). PREFIX_PIN answers how many
blocks of the chain it found and how many it changed (R286). -/
def Obligations.SessionData : Prop :=
  ∀ (s t : State) (b q : Nat) (k : Pkt),
    (∀ i, s.take b q 0x50 = some (k, t) → t.sesOk b k.session = some i →
      let x := target (slice k.payload 0 64)
      let e := t.ses i
      let o := t.openStream i x (some k.ref) false (t.viaOf b x)
      x.kind ≠ 0 → t.targetOk x (npmOf e.maxLen) = true → (x.eweid = true → e.eweid = true) → t.targetLicence x = true →
      e.st = .idle → t.beingClosed i = false → (x.eweid = true → e.maxLen ≤ 32768) →
      exec (.kvExport b q) s = .next (State.settle (State.readList (o.2.openBatch o.1 e.listGen 0
        ((o.2.listAt (t.geo i) e.listAddr).getD []) (committedItems (t.geo i).layers x.firstPage e.c) []) i)
        o.1 (.commit e.c e.lastToken 0 0 0) e.c true)) ∧
    (∀ i, s.take b q 0x51 = some (k, t) → t.sesOk b k.session = some i → (t.ses i).st = .idle → t.beingClosed i = false →
      ∃ u, exec (.kvImport b q) s = .next u ∧ u = { t with sessions := u.sessions, beds := u.beds, imports := u.imports } ∧
        (∀ j, j ≠ i → u.ses j = t.ses j) ∧
        u.ses i = { t.ses i with st := .queued, noPrefix := true, reqTag := k.ref.tag, admitC := (t.ses i).c } ∧
        (∀ c, c ≠ b → u.bed c = t.bed c) ∧
        u.bed b = { t.bed b with reqs := (t.bed b).reqs ++ [{ ref := k.ref, kind := .kvImport, index := i }] } ∧
        u.imports = t.imports ++ [{
          index := i, bed := b, ref := k.ref, transport := bitsAt k.a0 0 2, port := bitsAt k.a0 2 5, node := bitsAt k.a0 16 16
          ip := leBytes 8 k.a1 ++ leBytes 8 k.a2, taken := t.now }]) ∧
    (∀ i u, s.take b q 0x52 = some (k, t) → t.sesOk b k.session = some i → t.beingClosed i = false →
      let body := if k.plen = 0 then k.data else k.payload
      let g := t.geo i
      let es := bytesEnts g.nent (body.drop 64)
      bitsAt k.a0 0 32 = (t.ses i).listGen → (listHead g (bitsAt k.a0 0 32) k.session).drop 4 = slice body 4 12 →
      t.firstBad i es = none → t.publish i es = some u →
      exec (.listSwap b q) s = .next (State.finish (u.sesDelta i) k.ref { session := k.session, r0 := (u.ses i).listGen })) ∧
    (∀ m, s.take b q 0x53 = some (k, t) → (t.tenant b (bitsAt k.a0 0 12)).valid = true →
      (t.bed b).loaded (bitsAt k.a0 12 8) = some m →
      let toks := (List.range (16 * k.plen)).map fun j => leField k.payload (4 * j) 4
      let r := t.pinChain b (t.tenant b (bitsAt k.a0 0 12)).salt m.pkg.modelDigest (bitAt k.a0 20) [] (blocksOf (k.plen / 16) toks)
      exec (.prefixPin b q) s = .next (State.finish (r.2.2.2.delta b (.pin b r.2.2.1 (bitAt k.a0 20))) k.ref { r0 := r.1, r1 := r.2.1 }))

/-! ## Steps -/

/-- A step descriptor is published from the requests that wait, in the builder's order, each entered under its capture, with
the plan's shape registers and the planner's lists, where these pass its checks. An expert STEP whose sequences, generations, slot
and shape registers pass, NROWS in field M of the token-row registers, and whose lists, its own or the planner's, pass, becomes the
bed's next descriptor, or waits while another is; where every sequence is left out it completes, and with the record of the first
list that fails, otherwise. The descriptor's captures are its own (R2, R32, R162, R163, R251, R254, R275, R308, R309, R375, R376). -/
def Obligations.StepsBuilt : Prop :=
  (∀ (s : State) (b slot rows : Nat) (bulk : Bool) (p : ShapePlan) (w : Want) (ws : List Want) (lists : List TileList)
      (qs : List Seq) (u : State), s.mayPublish b = true →
    let v := (s.dropLate b).fetchPages b
    let ready := (v.chunksFit (wsReserve (v.bed b) - wsUsed (v.bed b)) ((v.waiting b).filter fun r => !r.prefetch)).map v.want
    let step : Step := { slot := slot, handle := w.handle, bulk := bulk, nrows := rows, buckets := p.buckets
                         shapes := planShapes p rows, lists := lists, seqs := qs, at_ := u.acyc, lr := u.retrievalLen b }
    v.buildFrom b (v.bed b).interactive ready = some (bulk, slot, p, w :: ws) →
    v.enterAll p 0 (byBucket p bulk (w :: ws)) = (qs, rows, u) → qs ≠ [] → u.tileFault b p step = none →
    shapesAbove p step.shapes = false → bscaleDiffers p step.shapes = false →
    ∃ t, exec (.stepDescriptorPublish b lists) s = .next t ∧ u.OnlyBed t b ∧
      t.bed b = { u.bed b with
        interactive := if bulk then 0 else if ready.any (·.bulk) then (v.bed b).interactive + 1 else 0
        next := some step, arena := (u.bed b).arena.filter fun x => qs.all fun q => q.cap != x.1 }) ∧
  ∀ (s t u : State) (b q handle : Nat) (k : Pkt) (m : Model) (p : ShapePlan) (qs : List Seq), s.take b q 0x32 = some (k, t) →
    (t.bed b).st = .ready → (t.bed b).armed = true →
    let d := stepData k.data
    let l := lenTab d.lt
    let ents := (List.range l.nseq).map (seqEntry d.lt)
    let ids := ents.map fun e => t.sesOk b (bitsAt e 0 32)
    let ws := (ents.zip ids).filterMap fun x => match x.2 with
      | some i => (t.reqOf i).map fun r => t.wantGiven r handle m.pkg.layers d.lt x.1
      | none => none
    let made (qs : List Seq) : Step := d.step p k.ref handle (t.retrievalLen b) qs
    let planned := made ((ents.zip ws).map fun x =>
      { index := x.2.index, row0 := bitsAt x.1 32 24, new := x.2.rows, pos0 := x.2.pos, bucket := bitsAt x.1 154 3
        pfx := x.2.pfx, segs := x.2.segs, retr := x.2.retr })
    let sh := planned.shapes
    (t.licensed 3 = true ∨ ∀ e, e ∈ ents → bitAt e 153 = false) →
    (∀ j, j < l.nseq → t.entryBad b d.lt j = false ∧
      ∃ i, ids.getD j none = some i ∧ (t.ses i).listGen = d.gens.getD j 0 ∧ (t.ses i).model = handle) →
    (t.bed b).planOf d.slot = some (handle, m, p) →
    (∀ x, x ∈ sh.zipIdx → x.1.m ≤ p.max x.2 0 ∧ x.1.n ≤ p.max x.2 1 ∧ x.1.k ≤ p.max x.2 2 ∧ x.1.aux0 ≤ p.max x.2 3 ∧
      x.1.aux1 ≤ p.max x.2 4) →
    (∀ x, x ∈ p.loops → cdiv ((sh.getD x.1 {}).field x.2.1) (2 ^ x.2.2.1) ≤ x.2.2.2) →
    (∀ x, x ∈ d.shapes → x.nb = cdiv x.k 32) → (∀ x, x ∈ p.bscale → (d.shapes.getD x.1 {}).bscale = x.2) →
    (∀ j x, sh[j]? = some x → x = if j ∈ p.rowRegs then { d.shapes.getD j {} with m := l.nrows } else d.shapes.getD j {}) ∧
    (l.nrows = sumNat ((List.range l.nseq).map (entryRows d.lt)) →
    (d.lists = true → listsInside d.tl = true) →
    match t.tileFault b p planned with
    | some f => exec (.stepCmd b q) s = .next (t.finish k.ref (t.tileRecord k planned f))
    | none => ((t.bed b).next ≠ none → exec (.stepCmd b q) s = .next s) ∧ ((t.bed b).next = none →
        t.enterGiven (ents.map fun e => (bitsAt e 32 24, bitsAt e 154 3)) ws = (qs, u) →
        (qs = [] → exec (.stepCmd b q) s = .next (u.finish k.ref { r0 := 0, r1 := l.nseq })) ∧
        (qs ≠ [] → ∃ v, exec (.stepCmd b q) s = .next v ∧ u.OnlyBed v b ∧
          v.bed b = { u.bed b with
            interactive := (t.bed b).interactive, next := some { made qs with at_ := u.acyc }
            arena := (u.bed b).arena.filter fun x => qs.all fun q => q.cap != x.1 })))

/-- The published descriptor's step starts where none runs, from the A-cycle after its publish and the last seal on: the bed's
nibs stand at the first bundle of its slot, with its row information and tile lists in their scratchpads and their accumulators,
registers and tallies as they were, and its A-cycle and time are noted. A seal ends the step, publishes and records in its order.
A free sampler's job, of the bed and sequence whose turn it is, on its V logits (log 218), selects the token of the sequence's last position and occupies the
sampler for the A-cycles R317 gives it. A page writer writes
its layer's pages, the layer is done, and after the last layer the live list is read again (R32, R33, R130, R161, R269, R276, R317,
R320, R407, R482, R483). -/
def Obligations.StepsRun : Prop :=
  ∀ (s : State) (b : Nat),
    (∀ t, s.runs = true → (s.bed b).st = .ready → (s.bed b).paused = false → s.sec.pausing = false → s.boot.computeEnd = none →
      (s.bed b).step = none → (s.bed b).next = some t → t.at_ < s.acyc → (∀ c, (s.bed b).sealed = some c → c < s.acyc) →
      (s.bedNibs b).Nodup →
      ∃ u, exec (.stepStart b) s = .next u ∧ u = { s with beds := u.beds, nibs := u.nibs } ∧
        (∀ c, c ≠ b → u.bed c = s.bed c) ∧
        u.bed b = { s.bed b with next := none, step := some { t with start := s.acyc, startT := s.now } } ∧
        (∀ p, p ∉ s.bedNibs b → u.nib p = s.nib p) ∧
        ∀ p, p ∈ s.bedNibs b → (u.nib p).st = .running ∧ (u.nib p).activeSlot = t.slot ∧ (u.nib p).pc = 0 ∧
          (u.nib p).hold = .none ∧ (u.nib p).acc = (s.nib p).acc ∧ (u.nib p).vregs = (s.nib p).vregs ∧
          (u.nib p).tallies = (s.nib p).tallies ∧ (u.nib p).acts = (s.nib p).acts.filter Act.scrubs ∧
          ∃ lg, (s.bedNibs b)[lg]? = some p ∧
            (u.nib p).pad = (Nib.withPlan { s.nib p with activeSlot := t.slot, pc := 0, loops := [] } t lg).pad) ∧
    (∀ t, (s.bed b).step = some t → s.sealable b = true → exec (.stepSeal b) s = .next (s.seal b t)) ∧
    (∀ t j x r n logits, (s.bed b).step = some t → t.seqs[j]? = some x → s.runs = true → n < 4 →
      (mget {} s.samp n).retired = false → (mget {} s.samp n).job = none → s.samplerBed = some b → s.samplerWaits b = some j → s.reqOf x.index = some r →
      logits.length = (s.pkgOf x.index).vocab →
      ∃ u, exec (.samplerJob n b j logits) s = .next u ∧ u = { s with beds := u.beds, samp := u.samp, sampTurn := u.sampTurn } ∧
        (∀ c, c ≠ b → u.bed c = s.bed c) ∧
        u.bed b = { s.bed b with step := some { t with
          seqs := t.seqs.set j { x with
            token := some (sampleToken logits r.sampling (x.pos0 + x.new)), tokenAt := s.acyc + samplerCycles logits r.sampling } } } ∧
        u.sampTurn = (b, if s.sampTurn.1 = b ∧ s.sampTurn.2 < max 1 (bitsAt (s.cfgAt (bedReg b 0x30)) 16 8) then
          s.sampTurn.2 + 1 else 1) ∧
        mget {} u.samp n = { mget {} s.samp n with job := some (b, s.acyc + samplerCycles logits r.sampling) } ∧
        ∀ m, m ≠ n → mget {} u.samp m = mget {} s.samp m) ∧
    (∀ t j x layer prog c fl u, (s.bed b).step = some t → t.seqs[j]? = some x → s.runs = true → (s.bed b).st = .ready →
      layer ∉ x.layers → layer < (s.geo x.index).layers → s.sourcesOk b prog (s.pkgOf x.index) x = true →
      (List.range 64).find? (s.dmaFree b) = some c →
      s.writePages (s.geo x.index) (s.pkgOf x.index) (bytesEnts (s.geo x.index).nent (x.list.drop 64)) layer prog x
        (s.sesNumber x.index) x.pages = (.ok fl, u) →
      let has (bit : Nat) : List Nat := ((fl.filter fun y => bitAt y.2 bit).map (·.1)).eraseDups
      let v := prog.release.foldl (fun (s : State) y => s.releaseRow b c y) (u.updDma c fun d => { d with
        bed := b, moved := u.now, bytes := min (d.bytes + x.pages.length * pageBytes (s.pkgOf x.index)) (2 ^ 64 - 1) })
      let w := v.updSeq b j fun y => { y.take prog with
        layers := layer :: y.layers, inexact := (y.inexact ++ has 0).eraseDups, saturated := (y.saturated ++ has 1).eraseDups }
      let z := (w.carriers x.index).foldl (fun (s : State) y => s.eligible y.1 layer x.pages) w
      exec (.pageWriter b j layer prog) s = .next (if x.layers.length + 1 < (s.geo x.index).layers then z
        else let live := z.listKept x
          State.drain (live.2.updSeq b j fun y => { y with changed := y.changed || !live.1 }) (live.2.sesNumber x.index)))

/-- The limits of steps, requests, sessions and DMA programs: a step that has not sealed within STEP_WD faults its bed with
TALLY_TIMEOUT, unit 10; a STEPPED request whose deadline passes while QUEUED misses it; an IDLE session past its limit closes
with the SESSION_EXPIRED event, and one that is not IDLE never expires; a DMA program without progress for DMA_PROG gives its channel up and is counted (R298, R312,
R477, R478). -/
def Obligations.StepAndSessionLimits : Prop :=
  ∀ (s : State), s.runs = true →
    (∀ b t, (s.bed b).step = some t → t.startT + 100000 * bitsAt (s.cfgAt limitsReg) 0 16 < s.now →
      exec (.stepWatchdog b) s = .next (s.bedFault b Status.tallyTimeout.code 10 0 0 0)) ∧
    (∀ i r, s.reqOf i = some r → r.stepped = true → (s.ses i).st = .queued → (s.ses i).deadline ≠ 0 → (s.ses i).deadline < s.now →
      (stepIndices (s.bed (s.ses i).bed).next).contains i = false → exec (.deadlineExpiry i) s = .next (s.missDeadline i)) ∧
    (∀ i, (s.ses i).st = .idle → (s.ses i).mirror = false → (s.ses i).idleLimit ≠ 0 →
      (s.ses i).lastActive + 100000000 * (s.ses i).idleLimit < s.now →
      heldPlain (s.bed (s.ses i).bed) + (s.bed (s.ses i).bed).reserve < s.holdRoom (s.ses i).bed →
      exec (.sessionIdleExpiry i) s = .next ((s.closeNow i).event [(s.ses i).bed]
        { kind := .sessionExpired, session := s.sesNumber i, bed := (s.ses i).bed })) ∧
    (∀ i, (s.ses i).st ≠ .idle → exec (.sessionIdleExpiry i) s = .next s) ∧
    (∀ c n, (s.dmaCh c).job = some (.ship n) → (s.dmaCh c).moved + 100 * bitsAt (s.cfgAt limitsReg) 16 16 < s.now →
      ∃ u : State, exec (.dmaProgressTimeout c) s = .next ((u.endStream n Status.exportTimeout.code 0).assignDma) ∧
        u = { s with dma := u.dma } ∧
        u.dmaCh c = { s.dmaCh c with job := none, abandon := (s.dmaCh c).abandon + 1 } ∧
        ∀ e, e ≠ c → u.dmaCh e = s.dmaCh e) ∧
    (∀ c i p k, (s.dmaCh c).job = some (.copy i p) → (s.dmaCh c).moved + 100 * bitsAt (s.cfgAt limitsReg) 16 16 < s.now →
      s.copies.find? (fun x => x.index == i && x.page == p) = some k →
      ∃ u : State, exec (.dmaProgressTimeout c) s = .next ((u.failCopy k .tallyTimeout).assignDma) ∧ u = { s with dma := u.dma } ∧
        u.dmaCh c = { s.dmaCh c with job := none, abandon := (s.dmaCh c).abandon + 1 } ∧
        ∀ e, e ≠ c → u.dmaCh e = s.dmaCh e)

/-! ## Staging, beds, loads and reports -/

/-- STAGE_WRITE puts its records into the shadow bank and clears CHECKED. STAGE_CHECK of a set without conflict sets CHECKED.
STAGE_COMMIT of a checked set applies it at once in mode 0 and leaves it pending in modes 1 and 2; a mode-2 commit applies once
the timebase has reached its value, after any bed's seal that falls in the A-cycle (R415, R416, R417, R419, R420). -/
def Obligations.StagingCommands : Prop :=
  (∀ (s t : State) (b q : Nat) (k : Pkt),
    (s.take b q 0x60 = some (k, t) →
      let rs := stageRecords k.payload (4 * k.plen)
      rs ≠ [] → t.stage.pending = false →
      (∀ r, r ∈ rs → r.1 % 8 = 0 ∧ t.stageable r.1 = true ∧ ∀ f, f ∈ stagedReserved r.1 → bitsAt r.2 f.1 f.2 = 0) →
      ∃ u, exec (.stageWrite b q) s = .next (State.finish u k.ref {}) ∧
        u = { t with shadow := u.shadow, stage := { t.stage with checked := false } } ∧
        (∀ o, (∀ r, r ∈ rs → r.1 ≠ o) → mget none u.shadow o = mget none t.shadow o) ∧
        ∀ r, rs.getLast? = some r → mget none u.shadow r.1 = some (BitVec.ofNat 64 r.2)) ∧
    (s.take b q 0x61 = some (k, t) → t.checkSet = none →
      exec (.stageCheck b q) s = .next (State.finish { t with stage := { t.stage with checked := true } } k.ref {})) ∧
    (s.take b q 0x62 = some (k, t) → t.sec.upd ≠ .window → t.stage.checked = true → t.stage.pending = false →
      (bitsAt k.a0 0 2 = 0 → exec (.stageCommit b q) s = .next (State.applyCommit { t with stage := { t.stage with
        pending := true, mode := 0, bed := 0, at_ := 0, ref := some k.ref } })) ∧
      (bitsAt k.a0 0 2 = 1 →
        exec (.stageCommit b q) s = .next { t with stage := { t.stage with
          pending := true, mode := 1, bed := bitsAt k.a0 4 5, at_ := 0, ref := some k.ref } }) ∧
      (bitsAt k.a0 0 2 = 2 → t.now < k.a1 →
        exec (.stageCommit b q) s = .next { t with stage := { t.stage with
          pending := true, mode := 2, bed := 0, at_ := k.a1, ref := some k.ref } }))) ∧
  ∀ (s : State), s.runs = true → s.stage.pending = true → s.stage.mode = 2 → s.stage.at_ ≤ s.now →
    ((∀ b, b < 32 → s.sealable b = false) → exec .stageCommitTime s = .next s.applyCommit) ∧
    ∀ b, b < 32 → s.sealable b = true → exec .stageCommitTime s = .next s

/-- BED_CREATE of a bed that does not exist, whose description lies in its ranges and conflicts with nothing, makes the bed and
answers its number. BED_DESTROY of a READY or FAULTED bed starts the reset that ends in its removal, or leaves it asked for while a
seal falls in the A-cycle (R414). TENANT_SET of a tenant not
yet valid starts its record with a full bucket, of a valid one keeps its refilled bucket, and an invalidation clears it. FLOOR_PLAN_READ and ATTEST answer the record
and the report of their own layout, with their length, or fail where part of the reply was lost (R301, R425, R434, R395, R396, R397, R418, R496, R548). -/
def Obligations.BedAndTenantCommands : Prop :=
  ∀ (s t : State) (b q : Nat) (k : Pkt),
    (∀ u, s.take b q 0x70 = some (k, t) →
      let n := bitsAt k.a0 0 5
      let w := leField k.payload 0 64
      let rect : Bed := { x0 := bitsAt w 0 4, y0 := bitsAt w 4 3, w := bitsAt w 7 4 + 1, h := bitsAt w 11 3 + 1 }
      let get (o : Nat) : Nat := match (bedSettings n w).find? fun x => x.1 == o with
        | some x => x.2
        | none => t.cfgAt o
      (3 < n → t.licensed 2 = true) → t.bedExists n = false → rect.x0 + rect.w ≤ 10 → rect.y0 + rect.h ≤ 8 →
      bitsAt w 32 18 ≠ 0 → bitsAt w 32 18 ≤ 200000 → bitsAt w 236 12 ≠ 0 → bitsAt w 256 16 ≠ 0 →
      firstConflict (t.liveSet.claims (t.twinPorts t.liveSet)) (Settings.claims
        { get := get, beds := t.liveSet.beds ++ [(n, rect.x0, rect.y0, rect.w, rect.h)] } (t.twinPorts t.liveSet)) = none →
      (rectNibs rect).any t.nibOn = true →
      sumNat (t.liveSet.beds.map fun x => t.quota x.1) + bitsAt w 32 18 ≤ 200000 → t.makeBed n w = some u →
      exec (.bedCreate b q) s = .next (u.finish k.ref { r0 := n })) ∧
    (s.take b q 0x71 = some (k, t) →
      let n := bitsAt k.a0 0 5
      (t.bed n).st = .ready ∨ (t.bed n).st = .faulted →
      let u := t.setBed n { t.bed n with destroy := some k.ref }
      exec (.bedDestroy b q) s = .next (if u.sealable n then u.setBed n { u.bed n with asked := max (u.bed n).asked 3 }
        else u.startReset n false true)) ∧
    (s.take b q 0x72 = some (k, t) →
      let n := bitsAt k.a0 0 12
      let tb := bitsAt k.a0 16 5
      let mode := bitsAt k.a0 14 2
      let old := t.tenant tb n
      let v : State := if mode = 2 ∨ old.valid = true then t else { t with draws := t.draws + 1 }
      let x : Tenant := {
        level := (bitsAt k.a1 32 32 * 100000000 : Nat), last := t.now, rate := bitsAt k.a1 0 32, burst := bitsAt k.a1 32 32
        valid := true, unlimited := bitAt k.a0 13
        salt := if mode = 2 then k.a2 + 2 ^ 64 * k.a3 else Config.random t.draws % 2 ^ 128 }
      let y : Tenant := { refill old t.now with
        rate := bitsAt k.a1 0 32, burst := bitsAt k.a1 32 32, unlimited := bitAt k.a0 13
        salt := if mode = 2 then k.a2 + 2 ^ 64 * k.a3 else old.salt }
      (∀ z, bitAt k.a0 12 = true → (old.valid = false ∧ z = x) ∨ (old.valid = true ∧ mode ≠ 1 ∧ z = y) →
        ∃ u, exec (.tenantSet b q) s = .next (State.finish (u.delta tb (.tenant tb n z)) k.ref {}) ∧ v.OnlyBed u tb ∧
          u.tenant tb n = z ∧ ∀ m, m ≠ n → u.tenant tb m = t.tenant tb m) ∧
      (bitAt k.a0 12 = false →
        (∀ e, e ∈ t.sessions → e.2.st ≠ .free → e.2.bed = tb → e.2.tenant = n → e.2.mirror = true) →
        ∃ u, exec (.tenantSet b q) s = .next (State.finish (u.delta tb (.tenant tb n {})) k.ref {}) ∧ t.OnlyBed u tb ∧
          u.tenant tb n = {} ∧ ∀ m, m ≠ n → u.tenant tb m = t.tenant tb m)) ∧
    (s.take b q 0xB0 = some (k, t) → (t.floorPlan (bitAt k.a0 0) b).length ≤ k.dbytes →
      let bs := t.floorPlan (bitAt k.a0 0) b
      exec (.floorPlanRead b q) s = .next (State.finish (t.reply k.ref.bed k.dspace k.daddr bs) k.ref
        (if t.replyLost k.dspace k.daddr bs then { status := Status.uncorrectable.code }
          else { r0 := bs.length, r1 := t.boot.epoch }))) ∧
    (s.take b q 0xA0 = some (k, t) → (t.attestation b k).length ≤ k.dbytes →
      let bs := t.attestation b k
      let u : State := { t with draws := t.draws + (t.measured b).length + 1 }
      exec (.attest b q) s = .next (State.finish (u.reply k.ref.bed k.dspace k.daddr bs) k.ref
        (if u.replyLost k.dspace k.daddr bs then { status := Status.uncorrectable.code } else { r0 := bs.length, r1 := 0 })))

/-- MODEL_LOAD and SCRIPT_LOAD in a READY bed, under a free handle, of a well-formed package whose variant for the bed passes
every check and finds room, start the load; SCRIPT_LOAD puts its image into the slot its packet names (R199, R370, R501). -/
def Obligations.LoadsStart : Prop :=
  ∀ (s t u : State) (b q h : Nat) (k : Pkt) (m : Package) (v : Variant) (script : Bool) (c : Instr),
    (script = false ∧ c = .modelLoad b q ∧ s.take b q 0x10 = some (k, t)) ∨
      (script = true ∧ c = .scriptLoad b q ∧ s.take b q 0x11 = some (k, t)) →
    let n := k.ref.bed
    let w : Variant := if script then { v with slots := v.slots.map fun x => (bitsAt k.a0 8 3, x.2) } else v
    (t.bed n).st = .ready → k.pkg = some m → packageOk m script = true →
    (if bitsAt k.a0 0 8 = 0xFF then (t.bed n).freeHandle else some (bitsAt k.a0 0 8)) = some h → t.variantFor n m = some v →
    (∀ l, l ∈ (t.bed n).loads → l.handle ≠ h) → (∀ x, x ∈ w.slots → slotBusy (t.bed n) x.1 = false) →
    (script = false → t.noRoom n m = false) → t.checkLoad n w m.fixedFold = none →
    (loaderReport w m.fixedFold).length ≤ bitsAt k.a2 0 32 →
    t.beginLoad n (some k.ref) h m w k.a1 (bitsAt k.a2 0 32) k.dspace = some u → exec c s = .next u

/-! ## Firmware, licences and recovery -/

/-- UPDATE_WRITE stores its bytes in the staging slot; UPDATE_VERIFY of a bundle that passes the seven checks answers its CL and
leaves the update VERIFIED, and of one that fails a check answers which; UPDATE_ACTIVATE starts the copy, with the health window it asks for; UPDATE_CONFIRM makes the trial
image the active one, and raises the security version where the manifest says so. LICENCE_INSTALL stores or removes a record
that passes its checks and answers the licensed features (R531, R532, R533, R534, R539, R542, R543). -/
def Obligations.UpdateCommands : Prop :=
  ∀ (s t : State) (b q : Nat) (k : Pkt),
    (s.take b q 0x80 = some (k, t) → t.sec.upd = .empty ∨ t.sec.upd = .writing ∨ t.sec.upd = .verified →
      ∃ u, exec (.updateWrite b q) s = .next (State.endUpdate u k.ref .ok) ∧
        u = { t with flash := { t.flash with staging := u.flash.staging, coverage := u.flash.coverage }
                     sec := { t.sec with upd := .writing } } ∧
        (∀ i, i < (slice k.data 0 k.dbytes).length →
          some (mget 0 u.flash.staging (k.a0 + i)) = (slice k.data 0 k.dbytes)[i]?) ∧
        ∀ i, i < k.a0 ∨ k.a0 + (slice k.data 0 k.dbytes).length ≤ i → mget 0 u.flash.staging i = mget 0 t.flash.staging i) ∧
    (s.take b q 0x81 = some (k, t) → t.sec.upd = .writing ∨ t.sec.upd = .verified →
      exec (.updateVerify b q) s = .next (match t.verifyFail [1, 2, 3, 4, 5, 6, 7] with
        | none => State.endUpdate { t with sec := { t.sec with upd := .verified } } k.ref .ok 0 (manifest t.flash.staging 3 1)
        | some c => State.endUpdate { t with sec := { t.sec with upd := .writing } } k.ref (verifyStatus c) c)) ∧
    (s.take b q 0x82 = some (k, t) → t.sec.upd = .verified → t.oldScripts (manifest t.flash.staging 3 1) = false →
      t.twin.peerUpdate = 0 →
      exec (.updateActivate b q) s = .next { t with sec := { t.sec with
        upd := .copying, activate := some k.ref, windowSecs := if k.a0 = 0 then 300 else bitsAt k.a0 0 12, attempts := 0
        back := none } }) ∧
    (∀ slot, s.take b q 0x83 = some (k, t) → t.sec.upd = .window → t.sec.selftest = true → t.flash.trial = some slot →
      let m := t.flash.image slot
      exec (.updateConfirm b q) s = .next (State.endUpdate { t with
        flash := { t.flash with
          active := slot, trial := none, oldStore := none, seq := t.flash.seq + 1
          svn := if manifest m 9 1 = 1 then max t.flash.svn (manifest m 4 1) else t.flash.svn }
        sec := { t.sec with upd := .empty } } k.ref .ok)) ∧
    (s.take b q 0x90 = some (k, t) →
      let r := slice k.payload 0 1344
      let l : Licence := { bytes := r.take 64 }
      let list := if bitAt (leField r 16 1) 7 then t.flash.licences.filter fun x => x.id != l.id
        else if t.flash.licences.any fun x => x.id == l.id then t.flash.licences.map fun x => if x.id = l.id then l else x
        else t.flash.licences ++ [l]
      let u : State := { t with flash := { t.flash with licences := list } }
      exec (.licenceInstall b q) s = .next (match t.licenceFail r with
        | none => State.finish { u with sec := { t.sec with licIn := u.licensedBits } } k.ref { r0 := u.licensedBits }
        | some st => t.reject k.ref st))

/-- The handover: its start copies the bundle to the other slot and stops intake, and once every bed has paused the trial image
resumes; an attempt whose beds have not all paused 15 ms after the first is given up, and tried again 100 ms later; a failed or
missing self-test and an expired health window hand back. The operating hour counts. The recovery mailbox writes, verifies and
installs (R534, R535, R539, R540, R541, R544). -/
def Obligations.HandoverAndRecovery : Prop :=
  ∀ (s : State),
    (s.runs = true → s.sec.upd = .copying →
      ∃ u, exec .handover s = .next (State.startPause u) ∧ u.sec = { s.sec with upd := .handover } ∧
        u.flash.image (1 - s.flash.active) = s.flash.staging ∧ u.flash.trial = some (1 - s.flash.active) ∧
        u = { s with flash := u.flash, sec := u.sec }) ∧
    (s.runs = true → s.sec.upd = .handover → s.sec.pausing = true → s.allPaused = true →
      (s.sec.back = none → exec .handover s = .next s.toTrial) ∧
      ∀ c, s.sec.back = some c → exec .handover s = .next (s.toActive c)) ∧
    (∀ x, s.runs = true → s.sec.pausing = true → s.sec.firstPause = some x → s.allPaused = false → x + 1500000 < s.now →
      s.sec.attempts < 15 →
      exec .handoverPauseTimeout s = .next { s.resume with sec := { s.resume.sec with
        attempts := s.sec.attempts + 1, retryAt := some s.now } }) ∧
    (∀ x, s.runs = true → s.sec.upd = .handover → s.sec.pausing = false → s.sec.retryAt = some x → x + 10000000 < s.now →
      exec .handoverRetry s = .next s.startPause) ∧
    (s.runs = true → s.sec.upd = .window →
      (s.sec.selftest = false → exec (.selfTest true) s = .next { s with sec := { s.sec with selftest := true } } ∧
        exec (.selfTest false) s = .next (s.handBack 2)) ∧
      (s.sec.selftest = false → s.sec.windowStart + 1000000000 < s.now → exec .selftestTimeout s = .next (s.handBack 2)) ∧
      (s.sec.windowStart + 100000000 * s.sec.windowSecs < s.now → exec .healthWindowExpiry s = .next (s.handBack 1))) ∧
    (s.runs = true → s.boot.beds = true → s.sec.lifeAt + 360000000000 ≤ s.now →
      exec .lifeHourTick s = .next { s with
        flash := { s.flash with life := min (s.flash.life + 1) (2 ^ 32 - 1), seq := s.flash.seq + 1 }
        sec := { s.sec with lifeAt := s.sec.lifeAt + 360000000000 } }) ∧
    (s.recBusy 1 = true → 1 ≤ s.sec.recLength → s.sec.recLength ≤ 16384 → s.sec.recOffset % 64 = 0 →
      s.sec.recOffset + s.sec.recLength ≤ 0x4000000 →
      ∃ u, exec .recWrite s = .next u ∧ u.sec = { s.sec with
          upd := .writing, recVerified := false, recSt := 2, recCode := 0, recDetail := 0 } ∧
        (∀ i, i < s.sec.recLength → mget 0 u.flash.staging (s.sec.recOffset + i) = mget 0 s.sec.recBuf i) ∧
        u = { s with sec := u.sec, flash := { s.flash with staging := u.flash.staging, coverage := u.flash.coverage } }) ∧
    (s.recBusy 2 = true → exec .recVerify s = .next (match s.verifyFail [1, 2, 3, 4, 6, 7] with
      | none => { s with sec := { s.sec with recVerified := true, recSt := 2, recCode := 0, recDetail := 0 } }
      | some c => { s with sec := { s.sec with
          recVerified := false, recSt := 3, recCode := (verifyStatus c).code, recDetail := c } })) ∧
    (s.recBusy 3 = true → s.sec.recVerified = true →
      let m := s.flash.staging
      exec .recInstall s = .next { s with
        flash := { s.flash with
          slotA := m, slotB := m, active := 0, trial := none, seq := s.flash.seq + 1
          svn := if manifest m 9 1 = 1 then max s.flash.svn (manifest m 4 1) else s.flash.svn }
        sec := { s.sec with recSt := 2, recCode := 0, recDetail := 0 } })

/-! ## Functions, resets and register space -/

/-- BED.CTRL and BED.Q0_CFG: a reset of a READY or FAULTED bed starts, or is asked for while a seal falls in the A-cycle; INTR_EN
takes the bit written, and 1 sends the messages that waited; queue 0 comes up from its registers with its indices at 0, and goes with
ENABLE. A VF's FLR resets its bed and the function; the PF's resets every bed and drops a pending commit. D3hot keeps every state and
D0 sends what is owed; VF Enable, which starts the functions it takes away anew, and a retraining of the PCI Express link show in
their registers (R384, R389, R394, R400, R403, R409, R410, R414, R421, R578). -/
def Obligations.FunctionsAndBedControl : Prop :=
  ∀ (s : State),
    (∀ f b, s.mayTouch f b = true → (s.bed b).st = .ready ∨ (s.bed b).st = .faulted →
      exec (.bedReset f b) s = .next (if s.sealable b then s.setBed b { s.bed b with asked := max (s.bed b).asked 1 }
        else s.startReset b (s.keepSessions b) false)) ∧
    (∀ f b en, s.mayTouch f b = true → s.bedExists b = true ∨ b = 0 →
      let t := s.setBed b { s.bed b with intrEn := en }
      exec (.intrEn f b en) s = .next (if en then t.sendOwed b else t)) ∧
    (∀ f b (v : Word), s.mayTouch f b = true → s.bedExists b = true ∨ b = 0 →
      let bd := s.bed b
      (bitAt v.toNat 16 = true → bitAt bd.q0cfg 16 = false → q0Ok bd v.toNat = true →
        ∃ t, exec (.q0Enable f b v) s = .next t ∧ s.OnlyBed t b ∧ ∃ u, mget none (t.bed b).queues 0 = some u ∧
          u.head = 0 ∧ u.tail = 0 ∧ u.cqHead = 0 ∧ u.cqTail = 0 ∧ u.phase = true ∧ u.sqBase = bd.sq0Base ∧ u.cqBase = bd.cq0Base ∧
          u.sqSlots = 2 ^ bitsAt v.toNat 0 5 ∧ u.cqSize = 2 ^ bitsAt v.toNat 8 5 ∧ u.sqHbm = bitAt v.toNat 5 ∧
          u.cqHbm = bitAt v.toNat 13 ∧ u.weight = bitsAt v.toNat 24 8 ∧ u.vector = 0) ∧
      (bitAt v.toNat 16 = false → bitAt bd.q0cfg 16 = true →
        exec (.q0Disable f b v) s =
          .next (State.updQueue (s.setBed b { bd with q0cfg := bd.q0cfg - 65536 }) b 0 fun u => { u with gone := true, tail := u.head }))) ∧
    (∀ n, n ≠ 0 → s.fnOn n = true → s.ready = true →
      exec (.vfFlr n) s = .next (State.resetFn (s.resetBedFlr n) n)) ∧
    (s.ready = true → ∃ t, exec .pfFlr s = .next { t with pcie := { t.pcie with fns := [], numVfs := 0 } } ∧
      t = bedNums.foldl State.resetBedFlr
        { s with stage := { s.stage with pending := false, ref := none, mode := 0, bed := 0, at_ := 0 } }) ∧
    (∀ f, s.fnOn f = true → ∃ t, exec (.d3hotEntry f) s = .next t ∧ t = { s with pcie := { s.pcie with fns := t.pcie.fns } } ∧
      t.fn f = { s.fn f with d3 := true } ∧ ∀ g, g ≠ f → t.fn g = s.fn g) ∧
    (∀ f, let t := s.updFn f fun x => { x with d3 := false }
      (t.fn f).d3 = false ∧ (∀ g, g ≠ f → t.fn g = s.fn g) ∧ exec (.d0Return f) s =
        .next (((if f = 0 then List.range 32 else [f]).filter fun b => t.fnOn b && !t.inD3 b).foldl State.sendOwed t)) ∧
    (∀ n, s.boot.up = true → ∃ t : State,
      exec (.vfEnable n) s = .next (((List.range 32).filter fun b => t.fnOn b && !t.inD3 b).foldl State.sendOwed t) ∧
      t = { s with pcie := { s.pcie with numVfs := n, fns := t.pcie.fns } } ∧
      ∀ f, f < 32 → t.fn f = if n < f ∧ f ≤ s.pcie.numVfs then {} else s.fn f) ∧
    (∀ speed width flit, s.boot.up = true → exec (.pcieLinkRetraining speed width flit) s =
      .next { s with pcie := { s.pcie with speed := speed, width := width, flit := flit } })

/-- Accesses of the PF: an aligned write of a register writes its halves, BED.WIN among them, and one of another size or alignment
counts as a bad access and writes nothing; a read answers the register's bytes, and a read-to-clear count goes but for what its own
C-cycle added; a read of TIME.NOW's low half loads the latch. A function's MSI-X table, its MSI-X control and the size of the PF's BAR4
take what is written to them (R386, R390, R402; their layout is the model's, log 201). BAR4 reads and writes reach device memory at the window, and an
aligned row written to a nib's window enters the asynchronous plane. A request outside its BAR is answered with Unsupported
Request (R12, R577, R24, R387, R392, R425, R485, R569, R571, R579). -/
def Obligations.RegisterAccess : Prop :=
  ∀ (s : State), s.answers = true → s.ready = true → s.inD3 0 = false →
    (∀ off (v : Word), off + 8 ≤ 0x4000000 → off % 8 = 0 →
      exec (.registerWrite 0 (.bar0 off) 8 v) s = .next (s.writeReg off true true v.toNat)) ∧
    (∀ off (v : Word), off + 4 ≤ 0x4000000 → off % 4 = 0 → exec (.registerWrite 0 (.bar0 off) 4 v) s =
      .next (if off % 8 = 0 then s.writeReg off true false (v.toNat % 2 ^ 32)
        else s.writeReg (off - 4) false true (v.toNat % 2 ^ 32 * 2 ^ 32))) ∧
    (∀ b (v : Word), b < 32 → exec (.registerWrite 0 (.bar0 (bedReg b 0x50)) 8 v) s =
      .next (s.updBed b fun bd => { bd with win := v.toNat % 2 ^ 48 / 65536 * 65536 })) ∧
    (∀ off (v : Word), off + 2 ≤ 0x4000000 → off % 8 = 0 → (s.regAt off).isSome →
      exec (.registerWrite 0 (.bar0 off) 2 v) s = .next { s with pcie := { s.pcie with badAccess := s.pcie.badAccess + 1 } }) ∧
    (∀ k (v : Word), k < 2048 → ∃ t : State, exec (.registerWrite 0 (.bar2 (0x8000 + 16 * k)) 8 v) s = .next (t.sendPending 0) ∧
      t = { s with pcie := { s.pcie with fns := t.pcie.fns } } ∧ (∀ f, f ≠ 0 → t.fn f = s.fn f) ∧
      t.fn 0 = { s.fn 0 with vecs := (t.fn 0).vecs } ∧ (∀ j, j ≠ k → mget {} (t.fn 0).vecs j = mget {} (s.fn 0).vecs j) ∧
      mget {} (t.fn 0).vecs k = { mget {} (s.fn 0).vecs k with addr := v.toNat / 4 * 4 }) ∧
    (∀ (v : Word), ∃ t : State, exec (.registerWrite 0 .msixControl 2 v) s = .next (t.sendPending 0) ∧
      t = { s with pcie := { s.pcie with fns := t.pcie.fns } } ∧ (∀ f, f ≠ 0 → t.fn f = s.fn f) ∧
      t.fn 0 = { s.fn 0 with msixOn := bitAt v.toNat 15, fnMask := bitAt v.toNat 14 }) ∧
    (∀ (v : Word), 10 ≤ bitsAt v.toNat 8 6 → bitsAt v.toNat 8 6 ≤ 16 → ∃ t : State,
      exec (.registerWrite 0 .barSize 4 v) s = .next t ∧ t = { s with pcie := { s.pcie with fns := t.pcie.fns } } ∧
      (∀ f, f ≠ 0 → t.fn f = s.fn f) ∧ t.fn 0 = { s.fn 0 with barGiB := 2 ^ (bitsAt v.toNat 8 6 - 10) }) ∧
    (∀ off, off + 8 ≤ 0x4000000 → off % 8 = 0 →
      let old : State := { s with cfg := s.mark.cfg.getD s.cfg }
      (rcBytes off = none →
        exec (.rcFieldRead 0 (.bar0 off) 8) s = .next (s.emit (.readReply 0 (leBytes 8 ((old.regAt off).getD 0))))) ∧
      (rcBytes off ≠ none → ∃ t,
        exec (.rcFieldRead 0 (.bar0 off) 8) s =
          .next (State.emit t (.readReply 0 (leBytes 8 (((old.rcSet off (s.rcRead off)).regAt off).getD 0)))) ∧
        t.rcGet off = s.rcGet off - mget 0 s.mark.counts off)) ∧
    (let c := s.pcie.badAccess
     let m := mget 0 s.mark.counts 0xC00008
     ∃ t, exec (.rcFieldRead 0 (.bar0 0xC00008) 8) s = .next t ∧
       t.out = s.out ++ [.readReply 0 (leBytes 8 (min (2 ^ 32 - 1) (min c m)))] ∧
       t = { s with out := t.out, mark := t.mark, pcie := { s.pcie with badAccess := c - m } }) ∧
    (∃ t, exec (.timeNowLowRead 0) s = .next t ∧ t.out = s.out ++ [.readReply 0 (leBytes 4 s.now)] ∧
      (t.fn 0).latch = some (s.now / 2 ^ 32) ∧ t = { s with out := t.out, pcie := { s.pcie with fns := t.pcie.fns } }) ∧
    (∀ off len bs t, s.inBar 0 4 off len = true → s.bar4Ok 0 ((s.bed 0).win + off) len = true →
      s.readDev ((s.bed 0).win + off) len = (.ok bs, t) → exec (.bar4Read 0 off len) s = .next (t.emit (.readReply 0 bs))) ∧
    (∀ off bytes t, s.inBar 0 4 off bytes.length = true → bytes ≠ [] → (s.bed 0).win + off + bytes.length ≤ 0x010000000000 →
      s.bar4Ok 0 ((s.bed 0).win + off) bytes.length = true → s.writeDev ((s.bed 0).win + off) bytes = (t, []) →
      exec (.bar4Write 0 off bytes false) s = .next t) ∧
    (∀ off bytes p row, s.inBar 0 4 off 32 = true → bytes.length = 32 → p < 1280 → row < 65536 →
      (s.bed 0).win + off = 0x010000000000 + 0x400000 * p + 32 * row → s.bar4Ok 0 ((s.bed 0).win + off) 32 = true →
      exec (.bar4Write 0 off bytes false) s = .next { s with
        draws := s.draws + 1
        mesh := s.mesh ++ [(.pcie, {
          bed := (s.bedOf p).getD 0, nib := p, slot := 0, handle := none, index := row, tally := (s.free 6).1.toNat
          rows := [rowOf bytes], reach := s.acyc + meshTime (MUnit.router .pcie) p })] }) ∧
    ∀ f bar off len, s.inBar f bar off len = false →
      exec (.unservedMemoryRequest f bar off len false) s = .next (s.emit (.unsupported f)) ∧
      exec (.unservedMemoryRequest f bar off len true) s = .next (s.emit (.aer f))

/-! ## Power, resets and bring-up -/

/-- A cold reset loses everything but the flash, the fuses and the pins, and a warm one keeps the PCI Express link and the sensors'
readings too; an image on trial then falls back to the store kept. PERST# released with power good and REFCLK present completes
step 0. A lost power-good input stops the device; all three asserted start a cold reset, and the straps are sampled as PWRGD_CORE
rises. A compute reset cancels a pending commit, clears INTR_EN of every bed, resets every bed, and counts the packets it discards from the asynchronous plane at
their nibs (R105, R409, R412, R489, R495, R540, R555, R556, R558). -/
def Obligations.PowerAndResets : Prop :=
  ∀ (s : State),
    let trial := decide (s.sec.upd = .handover ∨ s.sec.upd = .window)
    let flash : Flash := if trial then { s.flash with
      trial := none, store := s.flash.oldStore.getD s.flash.store, oldStore := none
      storeVersion := if s.flash.oldStore.isSome then s.flash.oldVersion else s.flash.storeVersion } else s.flash
    let cold (pins : Pins) : State := {
      pending := s.pending, out := s.out, ref := s.ref, draws := s.draws, ids := s.ids, pins := pins, flash := flash
      boot := { up := false, fallback := trial || s.boot.fallback } }
    (exec (.coldReset true) s = .next (cold { s.pins with
      pwrgdIo := false, pwrgdMem := false, pwrgdCore := false, thermtrip := false }) ∧
     exec (.coldReset false) s = .next (cold { s.pins with perst := true })) ∧
    (∀ speed width flit, s.powered = true → s.pins.refclk = true → s.boot.up = false →
      exec (.perstRelease speed width flit) s = .next { s with
        pins := { s.pins with perst := false }, boot := { s.boot with up := true }
        pcie := { s.pcie with speed := speed, width := width, flit := flit } }) ∧
    (∀ io mem core, io = true ∨ mem = true ∨ core = true → exec (.powerGoodLoss io mem core) s = .next (cold { s.pins with
      pwrgdIo := s.pins.pwrgdIo && !io, pwrgdMem := s.pins.pwrgdMem && !mem, pwrgdCore := s.pins.pwrgdCore && !core
      thermtrip := s.pins.thermtrip && (s.pins.pwrgdCore && !core) })) ∧
    (∀ mode addr, s.powered = false → exec (.powerGoodAssertion mode addr) s = .next (cold { s.pins with
      pwrgdIo := true, pwrgdMem := true, pwrgdCore := true
      sbMode := if s.pins.pwrgdCore then s.pins.sbMode else mode
      sbAddr := if s.pins.pwrgdCore then s.pins.sbAddr else addr })) ∧
    (∀ f, s.bootOpen f = true → s.ready = true → s.boot.computeEnd = none →
      let c := s.cancelCommit
      ∃ v : State, v = { c with beds := v.beds } ∧
      (∀ b, v.bed b = if b < 32 ∧ (c.bedExists b = true ∨ b = 0) then { c.bed b with intrEn := false } else c.bed b) ∧
      let u := (bedNums.filter v.bedExists).foldl State.resetBed v
      ∃ t e, exec (.computeReset f) s = .next t ∧ u.acyc + 4097 ≤ e ∧ e < u.acyc + 4097 + 30000000 ∧
        t = { u with mesh := [], nibs := t.nibs, draws := u.draws + 1
                     boot := { u.boot with computeEnd := some e, qmbCause := 2 } } ∧
        ∀ p, let k := (u.mesh.filter fun x => x.2.nib == p).length
          t.nib p = if k = 0 then u.nib p else { u.nib p with asyncDrop := (u.nib p).asyncDrop + k }) ∧
    ∀ f, s.bootOpen f = true →
      ∃ t, exec (.bootWarmReset f) s = .next t ∧ (∀ g, (t.fn g).latch = none ∧ (t.fn g).d3 = (s.fn g).d3) ∧ t = {
        pending := s.pending, out := s.out, ref := s.ref, draws := s.draws, ids := s.ids, pins := s.pins, flash := flash
        boot := { qmbCause := if s.boot.mailbox && s.sec.recCmd == 3 && s.sec.recSt == 2 then 5 else 1
                  fallback := trial || s.boot.fallback }
        pcie := { s.pcie with badAccess := 0, fns := t.pcie.fns }
        therm := { die := s.therm.die, field := s.therm.field, hbm := s.therm.hbm, watts := s.therm.watts, amps := s.therm.amps } }

/-- Each running bring-up step that finds what it needs ends IDLE with DONE its number: the PLL locks and the timebase starts at
0; the fuses are read; nibs beyond repair are disabled; the ROM starts the active slot and the quill loads at least 4 scribes;
the mesh comes up; the channels train and memory is zero; ports train; licences come into force; READY with epoch 1. A step past
its limit fails with CAUSE 1 (R486, R487, R488, R489, R490, R491, R493, R500). -/
def Obligations.BringUpSteps : Prop :=
  ∀ (s : State),
    let ended (t : State) (n detail : Nat) : Prop :=
      t.boot.st = .idle ∧ t.boot.done = n ∧ t.boot.detail = detail % 2 ^ 24 ∧ t.boot.elapsed = s.ref - s.boot.started
    (s.booting 1 = true → ∃ t, exec (.bringUpStep1 true) s = .next t ∧ ended t 1 0 ∧ t.clk = { lock := true } ∧ t.now = 0 ∧ t.acyc = 0) ∧
    (s.booting 2 = true → s.flash.check = true → ∃ t, exec .bringUpStep2 s = .next t ∧ ended t 2 0 ∧ t.boot.fuses = true ∧
      t = { s with boot := t.boot }) ∧
    (∀ nibs, s.booting 3 = true → let bad := nibs.eraseDups.filter (· < 1280)
      ∃ t, exec (.bringUpStep3 nibs false) s = .next t ∧ ended t 3 bad.length ∧ t = { s with boot := t.boot, nibs := t.nibs } ∧
        (∀ p, p ∈ bad → (t.nib p).st = .disabled) ∧ ∀ p, p ∉ bad → t.nib p = s.nib p) ∧
    (∀ a b bad slot, s.booting 4 = true → romPick s.flash.active a b = .ok slot → (bad.eraseDups.filter (· < 32)).length ≤ 28 →
      ∃ t, exec (.bringUpStep4 a b bad) s = .next t ∧ ended t 4 (32 - (bad.eraseDups.filter (· < 32)).length) ∧
        t.sec.running = slot ∧ t.sec.cl = manifest (s.flash.image slot) 3 1 ∧ t.scribesOut = bad.eraseDups.filter (· < 32) ∧
        t.boot.drawnEpoch = Config.random s.draws % 2 ^ 64 ∧ t.draws = s.draws + 1) ∧
    (∀ nibs samplers, s.booting 5 = true → ∃ t, exec (.bringUpStep5 nibs [] samplers) s = .next t ∧ ended t 5 0 ∧
      t.boot.meshUp = true ∧ t = { s with boot := t.boot, nibs := t.nibs, samp := t.samp } ∧
      (∀ p, p < 1280 → p ∈ s.flash.defects ∨ p ∈ nibs ∨ p ∈ s.flash.nibMarks → (t.nib p).st = .disabled) ∧
      ∀ k, k < 4 → ((mget {} t.samp k).retired = true ↔ (mget {} s.samp k).retired = true ∨ k ∈ samplers)) ∧
    (∀ hbm lp, s.booting 6 = true → s.flash.store = [] → s.cfg = [] → (∀ r, r ∈ hbm → r.code = 0) → hbm.length = 128 →
      ∃ t, exec (.bringUpStep6 hbm lp) s = .next t ∧ ended t 6 0 ∧ t.boot.memUp = true ∧ t.mem = [] ∧ t.memUpset = [] ∧
        t.frames = [] ∧ t.lpFrames = [] ∧ ∀ c, c < 128 → (t.chan c).st = .active) ∧
    (∀ ports, s.booting 7 = true →
      let t := ((List.range 24).filter (bitAt (s.applyStore linkStored).boot.linkSel)).foldl (fun (u : State) n =>
        u.bootPort n ((ports.find? fun x => x.1 == n).map fun x => x.2)) (s.applyStore linkStored)
      exec (.bringUpStep7 ports) s = .next (t.endBoot 7 ((List.range 24).filter fun n => (t.port n).st == .up).length)) ∧
    (s.booting 8 = true → s.flash.store = [] → ∃ t, exec .bringUpStep8 s = .next t ∧ t.boot.st = .idle ∧ t.boot.done = 8 ∧
      t.cfgAt licenceReg = t.sec.licIn ∧ t.boot.detail = t.sec.licIn % 2 ^ 24 ∧ t.sec.lifeEight = s.flash.life ∧
      (let floor := 4 + s.cfgAt throttleReg % 4
       t.clk.div = floor ∧ t.clk.pend = if max s.therm.divReq floor = floor then 0 else max s.therm.divReq floor)) ∧
    (s.booting 9 = true → s.boot.fallback = false → ∃ t, exec .bringUpStep9 s = .next t ∧ ended t 9 0 ∧ t.boot.beds = true ∧
      t.boot.epoch = 1 ∧ t.sec.lifeAt = s.now) ∧
    (s.boot.up = true → s.boot.st = .busy → s.boot.memUp = false →
      s.boot.started / 48 + 100000 * stepLimit s.boot.step < s.ref / 48 →
      exec .bootStepTimeout s = .next { s with boot := { s.boot with
        st := .failed, done := s.boot.step - 1, cause := 1, code := 0, detail := 0, elapsed := s.ref - s.boot.started } })

/-! ## What goes out of service, and the memory system -/

/-- BOOT.FENCE fences a working nib, and clears a mark without enabling its nib. A scribe or sampler that goes out of service
raises the epoch. A channel's retraining starts, waits or empties it as asked, and its end takes the new result; a scrub
goes on to the channel's next codeword and writes a correction back (R436, R442, R443, R444, R445, R500, R505, R509). -/
def Obligations.RetirementAndMemory : Prop :=
  ∀ (s : State),
    (∀ f p, s.bootOpen f = true → s.runs = true →
      (s.nibOn p = true → exec (.fenceNow f p) s = .next (s.fence p)) ∧
      (4 ≤ s.boot.done → ∃ t, exec (.clearRetirementMark f p) s = .next t ∧
        t = { s with flash := { s.flash with nibMarks := t.flash.nibMarks } } ∧
        ∀ q, q ∈ t.flash.nibMarks ↔ q ∈ s.flash.nibMarks ∧ q ≠ p)) ∧
    (∀ k, s.ready = true → k < 32 → k ∉ s.scribesOut →
      exec (.scribeRetirement k) s = .next (State.raiseEpoch { s with scribesOut := k :: s.scribesOut } 0 0xFFFFFFFF k)) ∧
    (∀ k, s.ready = true → k < 4 → (mget {} s.samp k).retired = false →
      exec (.samplerRetirement k) s = .next (State.raiseEpoch
        { s with samp := mset {} s.samp k { mget {} s.samp k with retired := true } } 0 0xFFFFFFFF k)) ∧
    (∀ f lp ch, s.pfOpen f = true →
      exec (.hbmRetrainWait f lp ch) s = .next (s.queueRetrain lp ch false) ∧
      exec (.hbmRetrainMigrate f lp ch) s = .next (s.queueRetrain lp ch true).emptyChans) ∧
    (∀ lp ch, s.ready = true → exec (.phyCalibrationDrift lp ch) s = .next (s.queueRetrain lp ch false)) ∧
    (∀ lp ch, ch < (if lp then 32 else 128) → (s.chan (ch + if lp then 128 else 0)).st = .active → s.msys.now lp = none →
      s.msys.retrainQ = [] → ∃ t, s.queueRetrain lp ch false = t ∧ t = { s with msys := t.msys, chans := t.chans } ∧
        t.msys.now lp = some (ch, s.now) ∧ (t.chan (ch + if lp then 128 else 0)).st = .retraining) ∧
    (∀ lp q x r, s.runs = true → s.msys.now lp = some (q, x) → r.code = 0 → s.msys.retrainQ = [] →
      let c := q + if lp then 128 else 0
      ∃ t, exec (.memoryRetrainEnd lp r) s = .next t ∧ t = { s with msys := t.msys, chans := t.chans } ∧ t.msys.now lp = none ∧
        t.chan c = { s.chan c with
          st := .active, rdMargin := r.rd % 64, wrMargin := r.wr % 64, vref := r.vref % 256, result := 0 } ∧
        ∀ d, d ≠ c → t.chan d = s.chan d) ∧
    (∀ lp q, s.runs = true → s.boot.memUp = true → bitAt (s.cfgAt (ctrlReg lp)) 24 = true → q < (if lp then 32 else 128) →
      let c := q + if lp then 128 else 0
      let a := chanBase c + 32 * (s.chan c).scrubPtr
      let next := s.updChan c fun ch => { ch with scrubPtr := (ch.scrubPtr + 1) % (chanSize c / 32) }
      (s.chan c).st = .active ∨ (s.chan c).st = .retiring →
      (∀ d, s.codeword a = (some d, false) → exec (.memoryScrub lp q) s = .next next) ∧
      (∀ d, s.codeword a = (some d, true) → exec (.memoryScrub lp q) s = .next ((next.countCorr a).putOne a d)) ∧
      (∀ x, s.codeword a = (none, x) → exec (.memoryScrub lp q) s = .next (next.uncorrEvent a)))

/-- A finished copy of a page whose units can be read is written to its target frames and published by a swap, and its channel
is free. A bed whose free frames fall below its low mark first evicts prefix entries, then spills the pages of idle sessions,
oldest seal first, towards the high mark (R287, R288, R289). -/
def Obligations.CopiesAndSpills : Prop :=
  ∀ (s : State), s.runs = true →
    (∀ i p k l u v, s.copies.find? (fun k => k.index == i && k.page == p) = some k →
      (s.dma.any fun d => d.2.job == some (.copy i p)) = true → p ∉ s.writtenPages i → s.copyMoot k = false → k.toLp = false →
      s.readUnits (s.geo i) (s.entries i) k.moves = (.ok l, u) →
      (l.foldl (fun (s : State) (x : Nat × List Byte) => match s.frame k.toLp x.1 with
        | some f => (s.writeDev (65536 * f.addr) x.2).1
        | none => s) u).publishCopy k = some v →
      exec (.frameCopyComplete i p) s = .next (State.emptyChans (State.prefetched (State.endCopyJob
        { v with copies := v.copies.filter fun x => !(x.index == i && x.page == p) } i p
        (k.moves.length * frameBytes (s.geo i).fsize)) i))) ∧
    (∀ b, (s.bed b).st = .ready →
      let hbm := bitsAt (s.cfgAt (bedReg b 0x28)) 0 22
      let high := hbm * bitsAt (s.cfgAt (bedReg b 0x40)) 40 8 / 256
      s.freeOutside b < hbm * bitsAt (s.cfgAt (bedReg b 0x40)) 32 8 / 256 →
      let t := s.evictTo b high s.pfx.length
      exec (.kvSpill b) s = .next (((mkeys (fun _ (e : Session) => e.st == .idle && e.bed == b) t.sessions).foldr t.sealInsert
        []).foldl (fun s i => s.spillPages b i high (List.range (s.geo i).npm)) t))

/-! ## Links -/

/-- Ports train and retrain: a write of LINK.RETRAIN.GO, a lane that loses alignment and a replay limit retrain a port that is UP;
a port whose lanes work sends its NEGOTIATE and comes up on them once the peer's has come; a training past its limit fails. Until the port is UP its
NEGOTIATE repeats every µs; unacknowledged frames are replayed 2 µs after the last progress, and a standing gap's NAK repeats
(R456, R457, R458, R462, R464, R465). -/
def Obligations.PortTraining : Prop :=
  ∀ (s : State) (n : Nat), s.runs = true →
    (s.ready = true → s.inD3 0 = false →
      ((s.port n).st = .up → exec (.linkRetrain 0 n) s = .next (s.startRetrain n .none)) ∧
      ((s.port n).st = .failed ∨ (s.port n).st = .down → s.role n ≠ 3 →
        exec (.linkRetrain 0 n) s = .next (s.startTraining n 50000000))) ∧
    (∀ lane, (s.port n).st = .up → bitAt (s.port n).active lane = true →
      exec (.laneAlignmentLoss n lane) s = .next (s.startRetrain n .none)) ∧
    (∀ cause, ∃ t, s.startRetrain n cause = t ∧ t = { s with ports := t.ports, tx := t.tx } ∧ (∀ m, m ≠ n → t.port m = s.port m) ∧
      t.port n = { s.port n with st := .retraining, cause := cause, trainStart := s.now, trainLimit := 1000000, wasUp := true
                                 nego := none, working := 0, negoAt := s.now, fruitless := 0 }) ∧
    ((s.port n).training = true →
      (∀ lanes, s.role n = 2 ∨ (s.port n).working = 0 ∧ (lanes &&& s.lanesAllowed n) = 0 →
        exec (.retrainComplete n lanes) s = .next (s.portUp n lanes)) ∧
      (∀ lanes, s.role n ≠ 2 → (s.port n).working ≠ 0 → (s.port n).nego.isSome →
        exec (.retrainComplete n lanes) s = .next (s.portUp n (s.port n).working)) ∧
      (∀ lanes, s.role n ≠ 2 → (s.port n).working = 0 → (lanes &&& s.lanesAllowed n) ≠ 0 →
        ∃ u, s.OnlyPort u n ∧ u.port n = { s.port n with working := lanes &&& s.lanesAllowed n } ∧
          ((s.port n).nego = none → exec (.retrainComplete n lanes) s = .next (State.sendNegotiate u n)) ∧
          ((s.port n).nego.isSome → exec (.retrainComplete n lanes) s =
            .next ((State.sendNegotiate u n).portUp n (lanes &&& s.lanesAllowed n)))) ∧
      ((s.port n).trainStart + (s.port n).trainLimit < s.now → exec (.linkTrainingTimeout n) s =
        .next (s.failPort n (if (s.port n).working = 0 then .noSignal else .lanes) (s.port n).wasUp)) ∧
      (s.role n ≤ 1 → (s.port n).working ≠ 0 → (s.port n).negoAt + 100 < s.now →
        exec (.negotiateRepeat n) s = .next (s.sendNegotiate n))) ∧
    ((s.port n).st = .up → (s.port n).replayBuf ≠ [] → (s.port n).progress + 200 < s.now →
      ((s.port n).fruitless < 8 → exec (.replayTimer n) s = .next (s.replay n)) ∧
      (8 ≤ (s.port n).fruitless → exec (.replayTimer n) s = .next (s.startRetrain n .replayLimit))) ∧
    (∀ x, (s.port n).st = .up → (s.port n).gap = some x → x + 200 < s.now →
      ∃ u, exec (.nakRepeatTimer n) s = .next (State.sendIdle u n true) ∧ s.OnlyPort u n ∧
        u.port n = { s.port n with gap := some s.now })

/-- Frames: an accepted frame's acknowledgement, credits and NAK take effect, and one whose codewords cannot be corrected is discarded
and counted; a DATA frame in order enters its channel's receive buffer (where it continues no message it is dropped and its credit
returns) and one out of order is answered with one NAK for its gap; an accepted NEGOTIATE body is kept, a malformed one counted,
and one that cannot agree fails the port. A remote write goes to the asynchronous plane towards its nib, or is dropped and
counted; an offered higher level waits for its SEQ; an Ethernet frame's datagram waits for the shipper, or the frame is dropped
and counted (R18, R450, R453, R454, R455, R456, R459, R460, R466, R470). -/
def Obligations.FramesArrive : Prop :=
  ∀ (s : State) (n : Nat), s.runs = true →
    let p := s.port n
    let add (c : Nat) : Nat := c + 1
    let cr (x : Vc) (v : Nat) : Vc := { x with credits := x.credits + (v + 65536 - x.crSeen) % 65536, crSeen := v }
    let news (f : RxFrame) : Port :=
      let k := (p.replayBuf.takeWhile fun x => decide ((f.ack + 4096 - x.seq) % 4096 < 1024)).length
      { p with
        replayBuf := p.replayBuf.drop k, progress := if k = 0 then p.progress else s.now
        fruitless := if k = 0 then p.fruitless else 0, vc0 := cr p.vc0 f.cr0, vc1 := cr p.vc1 f.cr1, vc2 := cr p.vc2 f.cr2 }
    let quiet (f : RxFrame) : Prop :=
      p.vc0.txq = [] ∧ p.vc1.txq = [] ∧ p.vc2.txq = [] ∧ (f.nak = false ∨ (news f).replayBuf = [])
    let clean (raw : List Byte) (t : Nat) (f : RxFrame) : Prop :=
      s.role n ≤ 1 ∧ ∃ bs, decodeFrame 8 raw = (some bs, 0) ∧ parseFrame bs = f ∧ f.ok = true ∧ f.type = t
    (∀ raw f, p.st = .up → clean raw 0 f → quiet f →
      ∃ t, exec (.idleFrame n raw) s = .next t ∧ s.OnlyPort t n ∧ t.port n = news f) ∧
    (∀ raw f t, p.st = .up → s.receive n 0 raw = (some f, t) → exec (.idleFrame n raw) s = .next (t.frameNews n f)) ∧
    (∀ raw, p.st = .up → s.role n ≤ 1 → decodeFrame 8 raw = (none, 0) →
      ∃ t, exec (.idleFrame n raw) s = .next t ∧ exec (.dataFrame n raw) s = .next t ∧ s.OnlyPort t n ∧
        t.port n = { p with errUncorr := add p.errUncorr }) ∧
    (∀ raw f, p.st = .up → clean raw 1 f → quiet f →
      let q := news f
      let x := q.vc f.vc
      let part := (if f.som then [] else x.rxPart) ++ f.body.take f.len
      let frames := (if f.som then 0 else x.rxFrames) + 1
      let y : Vc :=
        if f.som || x.rxOpen then
          (if f.eom then { x with rxq := x.rxq ++ [(frames, part)], rxPart := [], rxFrames := 0, rxOpen := false }
           else { x with rxPart := part, rxFrames := frames, rxOpen := true })
        else { x with crGiven := (x.crGiven + 1) % 65536 }
      (f.seq = p.rxSeq → ∃ t, exec (.dataFrame n raw) s = .next t ∧ s.OnlyPort t n ∧ t.port n = { q.setVc f.vc y with
        rxSeq := (p.rxSeq + 1) % 4096, gap := none
        level := match p.offer with | some (k, l) => if k = f.seq then l else p.level | none => p.level
        offer := match p.offer with | some (k, l) => if k = f.seq then none else some (k, l) | none => none }) ∧
      (f.seq ≠ p.rxSeq → p.gap = none →
        ∃ v, exec (.dataFrame n raw) s = .next (State.sendIdle v n true) ∧ s.OnlyPort v n ∧ v.port n = { q with gap := some s.now }) ∧
      (f.seq ≠ p.rxSeq → p.gap ≠ none → ∃ t, exec (.dataFrame n raw) s = .next t ∧ s.OnlyPort t n ∧ t.port n = q)) ∧
    (∀ raw f, p.training = true → clean raw 2 f →
      let w := leField f.body 0 16
      let g : Nego := { node := bitsAt w 0 16, cl := bitsAt w 16 8, clmin := bitsAt w 24 8, role := bitsAt w 32 8
                        lanes := bitsAt w 40 4, epoch := bitsAt w 64 64 }
      (bitsAt w 44 20 ≠ 0 ∨ (∃ x, x ∈ f.body.drop 16 ∧ x ≠ 0) → ∃ t, exec (.negotiate n raw) s = .next t ∧ s.OnlyPort t n ∧
        t.port n = { p with errUncorr := add p.errUncorr }) ∧
      (bitsAt w 44 20 = 0 → (∀ x, x ∈ f.body.drop 16 → x = 0) →
        (∀ c, s.negoFault n g = some c → exec (.negotiate n raw) s = .next (s.failPort n c true)) ∧
        (∀ c, s.negoFault n g = some c → p.active = 0 →
          ∃ t, exec (.negotiate n raw) s = .next (State.linkEvent t n .linkDown) ∧ s.OnlyPort t n ∧
            t.port n = { p with st := .failed, cause := c, wasUp := false, everFailed := true, nego := none }) ∧
        (s.negoFault n g = none → ∃ t, exec (.negotiate n raw) s = .next t ∧ s.OnlyPort t n ∧
          t.port n = { p with nego := some g }))) ∧
    (∀ k m r, p.vc1.rxq = (k, m) :: r →
      let q := { p with vc1 := { p.vc1 with rxq := r, crGiven := (p.vc1.crGiven + k) % 65536 } }
      let w := leField m 0 16
      let rows := bitsAt w 47 6 + 1
      (∀ d, s.boot.computeEnd = none → bitsAt w 53 75 = 0 → m.length = 16 + 32 * rows → s.bedMayUse (bitsAt w 0 5) n = true →
        s.physical (bitsAt w 0 5) (bitsAt w 5 11) = some d →
        ∃ t, exec (.remoteWrite n) s = .next { t with mesh := s.mesh ++ [(.port n, {
            bed := bitsAt w 0 5, nib := d, slot := bitsAt w 16 3, handle := some (bitsAt w 19 6), index := bitsAt w 25 16
            tally := bitsAt w 41 6, rows := rowsOf rows (m.drop 16), reach := s.acyc + meshTime (MUnit.router (.port n)) d })] } ∧
          s.OnlyPort t n ∧ t.port n = q) ∧
      (s.boot.computeEnd.isSome ∨ bitsAt w 53 75 ≠ 0 ∨ m.length ≠ 16 + 32 * rows ∨ s.bedMayUse (bitsAt w 0 5) n = false ∨
          s.physical (bitsAt w 0 5) (bitsAt w 5 11) = none →
        ∃ t, exec (.remoteWrite n) s = .next t ∧ s.OnlyPort t n ∧ t.port n = { q with rxDrop := add q.rxDrop })) ∧
    (∀ cl clmin seq, s.boot.computeEnd = none → p.st = .up → s.role n ≤ 1 →
      let q := match p.vc2.rxq with
        | [] => p
        | (k, _) :: r => { p with vc2 := { p.vc2 with rxq := r, crGiven := (p.vc2.crGiven + k) % 65536 } }
      let l := min s.sec.cl cl
      ∃ t, exec (.levelChange n cl clmin seq) s = .next t ∧ s.OnlyPort t n ∧
        t.port n = if s.sec.cl - 1 ≤ l ∧ clmin ≤ l ∧ q.level < l then { q with offer := some (seq % 4096, l) } else q) ∧
    (∀ raw, s.role n = 2 → p.st = .up →
      (∀ d, s.ethAccept n raw = some d → ∃ t, exec (.ethernetFrame n raw) s = .next t ∧ s.OnlyPort t n ∧
        t.port n = { p with ethRx := p.ethRx ++ [d] }) ∧
      (s.ethAccept n raw = none → ∃ t, exec (.ethernetFrame n raw) s = .next t ∧ s.OnlyPort t n ∧
        t.port n = { p with rxDrop := add p.rxDrop }))

/-! ## The shipper -/

/-- The sender: a stream whose port is there does what comes next, and first of all sends its OPEN; a layer whose last page has gone
has its LAYER_DONE, and where none is due the eligible page with the lowest layer and page of all open batches goes; acknowledgements take messages from those kept, a NACK sends the ones it names again, OPEN_ACK gives an Ethernet
stream its level, a REFUSE ends it with the peer's status. ACK_TIMEOUT without progress sends the oldest message again, past
RETRY_LIMIT it ends the stream, and a port gone for too long ends it with LINK_DOWN; its record then says what it sent (R325, R327,
R331, R332, R336, R337, R338, R345). -/
def Obligations.SenderSide : Prop :=
  ∀ (s : State), s.runs = true → s.boot.computeEnd = none →
    let ends (u : State) (t : TxStream) (st detail : Nat) (o : Out1) : Prop :=
      ∀ p, t.ref = some p → t.failure = none → u.inFlight p = false → ∃ v : State, v.tx = u.tx.filter (fun x => x.num != t.num) ∧
        o = .next (v.finish p { status := st, exported := true, detail := detail, session := t.session
                                r0 := t.pages, r1 := t.resent, r2 := t.lastC, r3 := t.num })
    let again (u : State) (t : TxStream) (m : SentMsg) (o : Out1) : Prop :=
      ∀ bs v, m.resends < t.retryLimit → u.buildMsg t { m with resends := m.resends + 1 } = (.ok bs, v) →
        o = .next (State.sendTx (v.updTx t.num fun x => { x with
          resent := x.resent + 1
          unacked := x.unacked.map fun y => if y.seq = m.seq then { m with resends := m.resends + 1 } else y }) t bs)
    (∀ num t, s.txAt num = some t → t.finished = false → t.downSince = none →
      exec (.shipperSend num) s = .next (s.shipNext t) ∧
      (t.seq = 0 → t.target.eweid = false →
        let sent (l : List SentMsg) : State := s.updTx num fun x => { x with
          seq := x.seq + 1, unacked := l, progress := if x.unacked.isEmpty then s.now else x.progress }
        (∀ k, t.via = .ruxel k → exec (.shipperSend num) s =
          .next ((sent []).sendMessage k 0 t.bed (actMessage 1 s.sec.cl num 0 t.target.remote 0 0 0 0 0 (s.openBody t)))) ∧
        ∀ k, t.via = .eth k → t.unacked = [] → (∀ x, x ∈ s.tx → x.num = num → x.unacked = []) → exec (.shipperSend num) s =
          .next (State.emit (sent [{ seq := 0, batch := 0, kind := .open_ }]) (.ethFrame k (s.ethFrame k num t.target.destMac
            t.target.destIp t.udpSrc t.udpPort (actMessage 1 t.level num 0 t.target.remote 0 0 0 0 0 (s.openBody t)))))) ∧
      (∀ x b l p, t.seq ≠ 0 → (∀ k, t.via = .eth k → t.acked = true) → (∀ y, y ∈ t.batches → y.closed = false → y.layerDue = none) →
        t.batches.find? (fun y => !y.closed) = some x → x.items ≠ [] ∨ x.settle = none → t.nextItem = some (b, l, p) →
        exec (.shipperSend num) s = .next (s.sendItem t b l p) ∧ b ∈ t.batches ∧ b.closed = false ∧ b.items.head? = some (l, p) ∧
          ∀ y i, y ∈ t.batches → y.closed = false → y.items.head? = some i → ¬(i.1 < l ∨ i.1 = l ∧ i.2 < p)) ∧
      ∀ k b l c, t.seq ≠ 0 → t.target.eweid = false → t.via = .ruxel k →
        t.batches.find? (fun b => !b.closed && b.layerDue.isSome) = some b → b.layerDue = some (l, c) → ∃ v, exec (.shipperSend num) s = .next v ∧
          v = State.updBatch ((s.updTx num fun x => { x with
              seq := x.seq + 1, unacked := [], progress := if x.unacked.isEmpty then s.now else x.progress }).sendMessage k 0 t.bed
            (actMessage 4 t.level num t.seq t.target.remote l 0 b.num 0 0 (leBytes 4 c))) num b.num
              fun x => { x with doneLayers := l :: x.doneLayers }) ∧
    (∀ num t m l, s.txAt num = some t → t.unacked = m :: l → t.downSince = none → t.progress + 100 * t.ackTimeout < s.now →
      t.finished = false → again (s.updTx num fun x => { x with progress := s.now }) { t with progress := s.now } m
          (exec (.ackTimeout num) s) ∧
        (t.retryLimit ≤ m.resends → ends s t Status.exportTimeout.code 0 (exec (.ackTimeout num) s))) ∧
    (∀ num t d, s.txAt num = some t → t.downSince = some d → t.finished = false → d + 100 * t.ackTimeout * t.retryLimit < s.now →
      exec (.exportLinkWaitExpiry num) s = .next (s.endStream num Status.linkDown.code 0) ∧
      ends s t Status.linkDown.code 0 (exec (.exportLinkWaitExpiry num) s)) ∧
    ∀ n bs src u m t, s.frontAct n = some (bs, src, u) →
      (parseAct bs = some m ∨ parseAct bs = none ∧ s.role n = 2 ∧ parseEweid bs = some m) → u.txFrom n m src = some t →
      u.txAt t.num = some t →
      (∀ k, m.type = 2 → t.via = .eth k → leField m.payload 0 1 ≤ t.level → t.level ≤ leField m.payload 0 1 + 1 →
        exec (.openAck n) s = .next (u.updTx t.num fun x => { x with
          acked := true, level := if x.acked then x.level else leField m.payload 0 1, progress := u.now
          unacked := x.unacked.filter fun y => y.kind != .open_ })) ∧
      (∀ k, m.type = 2 → t.via = .ruxel k → exec (.openAck n) s = .next (u.updTx t.num fun x => { x with acked := true })) ∧
      (m.type = 7 → let k := leField m.payload 0 4
        let left := t.unacked.filter fun y => decide (k ≤ y.seq) || (y.kind == .open_ && !t.acked)
        exec (.actAck n) s = .next (State.streamDone (State.dropBatches (u.updTx t.num fun x => { x with
          unacked := left, lowest := max x.lowest k, progress := if x.lowest < k then u.now else x.progress }) t.num) t.num) ∧
        (t.endAfter = false → t.streamed = false → ∃ v, exec (.actAck n) s = .next v ∧ v.txAt t.num = some { t with
          unacked := left, lowest := max t.lowest k, progress := if t.lowest < k then u.now else t.progress
          batches := t.batches.filter fun b => !b.closed || left.any fun y => y.batch == b.num })) ∧
      (m.type = 8 →
        let named := t.unacked.filter fun x => (List.range (m.payload.length / 8)).any fun i =>
          decide (leField m.payload (8 * i) 4 ≤ x.seq) &&
          decide (x.seq < leField m.payload (8 * i) 4 + leField m.payload (8 * i + 4) 4)
        exec (.actNack n) s = .next (named.foldl (fun (s : State) x => s.resend t.num x.seq) u) ∧
        ∀ x, named = [x] → t.unacked.find? (fun y => y.seq == x.seq) = some x → again u t x (exec (.actNack n) s)) ∧
      (m.type = 10 → exec (.actRefuse n) s = .next (u.endStream t.num Status.peerRefused.code (leField m.payload 0 1)) ∧
        ends u t Status.peerRefused.code (leField m.payload 0 1) (exec (.actRefuse n) s))

/-- The receiver: an OPEN whose session waits for this sender, whose model, level and length agree and whose frames can be
reserved is answered with OPEN_ACK, and the stream runs; one that does not agree is refused with the status. A PAGE's bytes and a
LAYER_DONE are held; a COMMIT waits for the pages it counts and then gives the session its length, an ABORT discards what is held
and CLOSE ends the import, in their order on a Ruxel link. An acknowledgement is due 20 µs after the first message left without
one, a NACK 10 µs after a gap opens. A sender silent for HOLD_LIMIT loses its import, and a full host ring its export (R335, R336,
R337, R340, R341, R342, R344, R345, R355). -/
def Obligations.ReceiverSide : Prop :=
  ∀ (s : State), s.runs = true → s.boot.computeEnd = none →
    let ended (w : State) (i : Nat) (st : Status) : State :=
      let u : State := { w with
        imports := w.imports.filter fun x => x.index != i
        rx := w.rx.filter fun r => !(r.index == i && !r.mirror) }
      let v := u.dropAbove i (w.ses i).c
      v.endRequest i { (v.reqRecord i st) with r1 := 0, r3 := 0 }
    (∀ n bs src u m, s.frontAct n = some (bs, src, u) → parseAct bs = some m →
      (m.type = 1 → (∀ r, r ∈ u.rx → r.from_ m.stream (u.portVia n) src = false ∨ r.discarded = true) →
        let r : RxStream := {
          num := m.stream, via := u.portVia n, src := src, level := m.cl, next := 1, lastMsg := u.now
          udp := bitsAt (u.cfgAt kvxReg0) 0 16, hold := bitsAt (u.cfgAt kvxReg0) 48 16
          unackedSince := if u.role n = 2 then some u.now else none, unackedCount := b2n (u.role n == 2) }
        (∀ st, u.judgeOpen n m src = .error st →
          exec (.actOpen n) s = .next (u.sendBack r m.session 0x0A [BitVec.ofNat 8 st.code])) ∧
        ∀ i mir l f v, u.judgeOpen n m src = .ok (i, mir, l, f, v) →
          let r' := { r with bed := (v.ses i).bed, index := i, level := l, frames := f, mirror := mir }
          let w := v.dropRx r'
          exec (.actOpen n) s = .next (State.sendBack { w with
            rx := w.rx ++ [r']
            imports := w.imports.map fun (x : Import) => if x.index = i ∧ !mir then { x with stream := some m.stream } else x }
            r' m.session 2 (leBytes 1 l))) ∧
      (∀ r, u.rx.find? (fun r => r.from_ m.stream (u.portVia n) src) = some r → u.role n ≠ 2 → r.discarded = false →
        let i := r.index
        let upd (f : RxStream → RxStream) : State := 
          let on (x : RxStream) : RxStream :=
            if x.from_ m.stream (u.portVia n) src = true then f { x with lastMsg := u.now, next := m.seq + 1 } else x
          { u with rx := u.rx.map on }
        (m.type = 3 → m.layer < (u.pkgOf i).layers → m.page < (u.geo i).npm → m.off + m.payload.length ≤ pageBytes (u.pkgOf i) →
          exec (.actPage n) s = .next (upd fun x => x.setBatch { x.batch m.batch with
            chunks := (List.range (cdiv m.payload.length 1024)).foldl (fun l k => putChunk
              (m.layer, m.page, m.off + 1024 * k, (m.payload.drop (1024 * k)).take 1024) l) (x.batch m.batch).chunks })) ∧
        (m.type = 4 → (r.batch m.batch).commit = none → exec (.layerDone n) s = .next (upd fun x => x.setBatch { x.batch m.batch with
          layerDone := (x.batch m.batch).layerDone + 1 })) ∧
        (m.type = 5 →
          let w := upd fun x => x.setBatch { x.batch m.batch with commit := some m.payload }
          let c := leField m.payload 0 4
          ((r.batch m.batch).layerDone < leField m.payload 10 2 → exec (.actCommit n) s = .next w) ∧
          ∀ v, leField m.payload 10 2 ≤ (r.batch m.batch).layerDone → (r.batch m.batch).chunks = [] → w.edit i (w.entries i) = some v →
            exec (.actCommit n) s = .next (State.updSes (v.updRx r fun x => { x with
              batches := x.batches.filter fun b => b.num != m.batch }) i fun e =>
                if r.mirror then { e with warmC := c, warm := decide (e.c ≤ c) }
                else { e with
                  c := c, admitC := c, lastToken := leField m.payload 4 4
                  tailInexact := e.tailInexact || bitAt (leField m.payload 9 1) 0
                  tailSaturated := e.tailSaturated || bitAt (leField m.payload 9 1) 1 })) ∧
        (m.type = 6 → exec (.actAbort n) s = .next (State.updSes (upd fun x => { x with
          batches := x.batches.filter fun b => b.num != m.batch }) i fun e =>
            if r.mirror then { e with warmC := leField m.payload 4 4 }
            else { e with c := leField m.payload 4 4, admitC := leField m.payload 4 4 })) ∧
        (m.type = 9 → r.mirror = false → exec (.actClose n) s = .next (ended (upd fun x => x) i .ok)))) ∧
    (∀ n num r, s.rxOver n num = [r] →
      (∀ x, r.unackedSince = some x → x + 2000 < s.now → exec (.ackDelayTimer n num) s = .next (State.emit
        (s.updRx r fun r => { r with unackedSince := none, unackedCount := 0 }) (.ethFrame n (s.ethFrame n num (slice r.src 0 6)
          (slice r.src 6 16) r.udp r.udp (actMessage 7 r.level num 0 (s.sesNumber r.index) 0 0 0 0 0 (leBytes 4 r.next)))))) ∧
      (let due (g : SeqGap) : Bool := match g.nacked with | some t => decide (t + 10000 < s.now) | none => decide (g.since + 1000 < s.now)
        let gs := (r.gaps.filter due).take 64
        gs ≠ [] → exec (.nackGapTimer n num) s = .next (State.sendBack (s.updRx r fun r => { r with
          gaps := r.gaps.map fun g => if g ∈ gs then { g with nacked := some s.now } else g }) r
            (s.sesNumber r.index) 8 (gs.flatMap fun g => leBytes 4 g.first ++ leBytes 4 g.count)))) ∧
    (∀ num r, s.rx.filter (fun r => r.num == num && !r.discarded) = [r] → r.lastMsg + 100000 * r.hold < s.now → r.mirror = false →
      let u := ended s r.index .exportTimeout
      exec (.holdLimit (.batch num)) s = .next (if r.batches = [] then u else { u with
        rx := (u.dropRx r).rx ++ [{ r with discarded := true, batches := [] }] })) ∧
    (∀ i x, s.imports.find? (fun (x : Import) => x.index == i) = some x → x.stream = none → x.taken + s.holdLimit < s.now →
      exec (.holdLimit (.noOpen i)) s = .next (ended s i .exportTimeout)) ∧
    (∀ num t f, s.txAt num = some t → t.fullSince = some f → t.finished = false → f + 100000 * t.holdLimit < s.now →
      exec (.holdLimit (.ring num)) s = .next (s.endStream num Status.exportTimeout.code 0))

/-! ## Twins -/

/-- The messages of the twin protocol, on a port in the twin role: HELLO pairs where the sides differ and a level is common, and
is followed by the full copy; BEAT ends DEGRADED and SUSPECT; deltas are applied in order and acknowledged, and dropped and
counted after a takeover; DELTA_ACK lets acknowledged deltas go; LOG joins the peer log; SYNC_BEGIN and SYNC_END frame the copy;
TAKEN displaces this device (R511, R512, R514, R518, R521, R522, R523). -/
def Obligations.TwinMessages : Prop :=
  ∀ (s : State) (n : Nat), s.runs = true → s.boot.computeEnd = none → s.role n = 1 →
    let u := s.popControl n
    let w := u.twin
    (∀ h l, w.st = .pairing → h.side ≠ u.twinSide → commonLevel u.sec.cl (u.sec.cl - 1) h.cl h.clmin = some l → w.hellod = false →
      let v : State := { u with twin := { w with hellod := true, level := l, peerBeds := h.beds, peerDigests := h.digests, cause := 0 } }
      exec (.twinHello n h) s = .next (v.sendTwin (.hello v.hello)).sendCopy) ∧
    (∀ h, w.st = .pairing → h.side = u.twinSide → exec (.twinHello n h) s =
      .next (State.moveTwin { u with twin := { w with cause := 1, queue := [], hellod := false } } .alone)) ∧
    (∀ count upd, w.overflow = false →
      let v : State := { u with twin := { w with
        peerUpdate := upd % 4, linkMiss := 0, linkBeating := true, linkAt := u.now
        graceTo := if upd % 4 = 1 then u.now + 5000000 else w.graceTo } }
      (w.st = .degraded ∨ w.st = .suspect → exec (.twinBeat n count upd) s = .next (v.moveTwin .paired).flushDeltas) ∧
      (w.st = .paired → exec (.twinBeat n count upd) s = .next v)) ∧
    (∀ recs, w.st = .pairing ∨ w.st = .paired ∨ w.st = .degraded ∨ w.st = .suspect →
      exec (.twinDelta n recs) s = .next (u.applyDeltas recs).ackDeltas) ∧
    (∀ b k tok, w.st = .pairing ∨ w.st = .paired ∨ w.st = .degraded ∨ w.st = .suspect →
      let v : State := u.updTenant b k fun x => if x.unlimited then x else { x with level := x.level - (tok * 100000000 : Nat) }
      exec (.twinDelta n [(w.applied, .charge b k tok)]) s = .next
        (State.sendTwin { v with twin := { v.twin with applied := w.applied + 1 } } (.deltaAck ((w.applied + 2 ^ 32) % 2 ^ 32)))) ∧
    (∀ recs, w.st = .solo → exec (.twinDelta n recs) s =
      .next { u with twin := { w with late := w.late + recs.length } }) ∧
    (∀ k, k < 2 ^ 32 - 1 → w.st ≠ .pairing → ∃ t, exec (.twinDeltaAck n k) s = .next t ∧ t = { u with twin := { w with
      queue := w.queue.filter fun x => decide (k + 1 ≤ x.1) } }) ∧
    (∀ e, exec (.twinLog n e) s = .next { u with twin := { w with
      peerLog := mset [] w.peerLog w.peerHead (slice e 0 32), peerHead := (w.peerHead + 1) % 1024 } }) ∧
    (w.st = .pairing → exec (.twinSyncBegin n) s = .next { u with twin := { w with
      syncing := true, syncIn := false, applied := 0, stale := u.mirrorsOf none } }) ∧
    (w.syncing = true → w.stale = [] → exec (.twinSyncEnd n) s =
      .next (State.ackDeltas { u with twin := { w with syncing := false, syncIn := true, stale := [] } }).checkPaired) ∧
    exec (.twinTaken n) s = .next (State.moveTwin { u with twin := { w with queue := [], adopt := [] } } .displaced)

/-- The host's side of twins: the beat count rises every ms and goes out where the link carries it; a new value of PEER_BEAT is a
beat of the host path; a timer that expires counts a miss, and three of every path that beats make the device SUSPECT. TAKEOVER
acts from SUSPECT or DEGRADED alone, ATTACH from ALONE alone and with a twin seated, and DETACH ends in ALONE. A change of
TWIN_PRES# sets its event bit and raises a TWIN event on the PF (R517, R518, R519, R521, R524, R566). -/
def Obligations.TwinControl : Prop :=
  ∀ (s : State),
    (s.ready = true → s.boot.computeEnd = none → s.twin.beatAt + 100000 ≤ s.now →
      let u : State := { s with twin := { s.twin with beat := (s.twin.beat + 1) % 2 ^ 32, beatAt := s.now / 100000 * 100000 } }
      exec .twinBeatTick s = .next (if s.twinPort.isSome then u.sendTwin (.beat u.twin.beat u.updateStatus) else u)) ∧
    (∀ v : Word, s.pfOpen 0 = true →
      (v.toNat % 2 ^ 32 ≠ s.twin.peerBeat → exec (.peerBeat 0 v) s = .next (State.judgeMisses { s with twin := { s.twin with
        peerBeat := v.toNat % 2 ^ 32, hostMiss := 0, hostBeating := true, hostAt := s.now } })) ∧
      (v.toNat % 2 ^ 32 = s.twin.peerBeat → exec (.peerBeat 0 v) s = .next s)) ∧
    (s.ready = true → s.twin.graceTo < s.now →
      (s.twin.st = .paired → s.twin.linkAt + 100000 < s.now → s.twin.linkMiss < 2 → s.twin.linkBeating = true →
        exec (.beatMiss false) s = .next { s with twin := { s.twin with linkAt := s.now, linkMiss := s.twin.linkMiss + 1 } }) ∧
      (s.twin.st = .degraded → s.twin.hostAt + 100000 < s.now → s.twin.hostMiss = 2 → s.twin.hostBeating = true →
        3 ≤ s.twin.linkMiss → exec (.beatMiss true) s =
          .next (State.moveTwin { s with twin := { s.twin with hostAt := s.now, hostMiss := 3 } } .suspect))) ∧
    (s.pfOpen 0 = true →
      (s.twin.st ≠ .suspect → s.twin.st ≠ .degraded →
        exec (.takeover 0) s = .next { s with
          twin := { s.twin with refused := true }, mark := { s.mark with twin := true } }) ∧
      (s.twin.st = .suspect ∨ s.twin.st = .degraded → s.twin.peerHeld = [] → (∀ b, s.mirrorsOf (some b) = []) →
        (∀ p, s.role p = 1 → (s.port p).st ≠ .up) →
        exec (.takeover 0) s = .next (State.moveTwin { s with twin := { s.twin with queue := [] } } .solo)) ∧
      (s.twin.st = .alone → s.pins.twinPres = true → exec (.attach 0) s = .next s.beginPairing) ∧
      (s.twin.st ≠ .alone ∨ s.pins.twinPres = false →
        exec (.attach 0) s = .next { s with
          twin := { s.twin with refused := true }, mark := { s.mark with twin := true } }) ∧
      (s.twin.st = .displaced → exec (.detach 0) s = .next (State.moveTwin { s with twin := { s.twin with
        queue := [], hellod := false, syncing := false, overflow := false, adopt := [], stale := [] } } .alone)) ∧
      ∃ t, exec (.detach 0) s = .next t ∧ t.twin.st = .alone) ∧
    (∀ b, s.pins.twinPres = b → exec (.twinPres b) s = .next s) ∧
    ∀ b, s.pins.twinPres ≠ b →
      ∃ u : State, u.pins = { s.pins with twinPres := b } ∧ bitAt u.therm.events 4 = true ∧
        u = { s with pins := u.pins, therm := { s.therm with events := u.therm.events }, mark := u.mark, out := u.out } ∧
        exec (.twinPres b) s = .next (u.event [0]
          { kind := .twin, status := if u.twinPort.isSome then 0 else Status.linkDown.code, r0 := u.twin.st.code })

/-! ## Temperature, the sideband and the test port -/

/-- Readings reach the THERM block; a rise of what they request takes effect at once and a fall one step at a time, 100 ms after
every requesting condition stood clear. THERMTRIP# asserts at 110 °C on the die or 105 °C in a stack; hot stacks refresh twice as
often; a failed sensor sets its event; a lost PLL stops the clocks (R474, R559, R560, R561, R568). -/
def Obligations.ThermalAndClocks : Prop :=
  ∀ (s : State) (r : Readings),
    (∃ t, s.sense r = t ∧ t.therm.die = temp16 r.die ∧ t.therm.field = r.field % 4 ∧ t.therm.hbm = r.hbm.map temp16 ∧
      t.therm.watts = r.watts % 65536 ∧ t.therm.amps = r.amps % 65536 ∧ t.therm.divReq = s.therm.divReq ∧ t.clk = s.clk) ∧
    (exec (.throttleRequest r) s = .next (State.noteBelow
      (if s.therm.divReq < divOf s.therm.stuck r then (s.sense r).setDivReq (divOf s.therm.stuck r) else s.sense r) r)) ∧
    (∀ d, ∃ t, s.setDivReq d = t ∧ t.therm.divReq = d ∧ t.therm.below = none ∧ bitAt t.therm.events 0 = true ∧
      t.clk = { s.clk with
        pend := if max d (4 + s.cfgAt throttleReg % 4) = s.clk.div then 0 else max d (4 + s.cfgAt throttleReg % 4)
        seen := some s.acyc }) ∧
    (let t := (s.sense r).noteBelow r
      ∀ x, t.therm.below = some x → t.runs = true → t.therm.stuck = false → 4 < t.therm.divReq → x + 10000000 < t.now →
        exec (.divReqFall r) s = .next (State.noteBelow (t.setDivReq (t.therm.divReq - 1)) r)) ∧
    ((880 ≤ r.die ∨ 840 ≤ r.hot) → ∃ t, exec (.thermtrip r) s = .next t ∧ t.pins = { s.pins with thermtrip := true } ∧
      t.runs = false) ∧
    (∃ t, exec (.hbmHot r) s = .next t ∧ t.clk = s.clk ∧
      ((∃ x, x ∈ r.hbm ∧ 680 ≤ x) → bitAt t.therm.events 1 = true ∧ t.therm.hotStacks ≠ 0)) ∧
    (∀ k, s.therm.stuck = true → k ∉ s.therm.failedSensors → ∃ t, exec (.sensorFailure k) s = .next t ∧
      t.therm.failedSensors = k :: s.therm.failedSensors ∧ bitAt t.therm.events 5 = true ∧ t.therm.divReq = s.therm.divReq) ∧
    (s.clk.lock = true → ∃ t, exec .pllLoss s = .next t ∧ t.clk = { s.clk with lock := false, lost := true } ∧ t.runs = false ∧
      t.boot.st = .failed ∧ t.boot.cause = 2 ∧ bitAt t.therm.events 3 = true)

/-- The sideband: each read answers its own layout, led by a count on SMBus; EVENTS_CLEAR clears the events written with 1
but for those set in its own C-cycle, and a WARM_RESET with its key resets the device; a write with a wrong PEC does nothing. The test port is closed without a debug token,
and with one shifts as IEEE 1149.1 says (R562, R563, R564, R565, R567). -/
def Obligations.SidebandAndTestPort : Prop :=
  ∀ (s : State),
    (s.sbOn = true → let bs (l : List Byte) : List Byte := if s.pins.sbMode then l else leBytes 1 l.length ++ l
      exec .sbIdent s = .next (s.emit (.sideband (bs (leBytes 2 s.fuseId ++ leBytes 2 s.sec.cl ++ leBytes 8 s.fuseSerial)))) ∧
      exec .sbStatus s = .next (s.emit (.sideband (bs (leBytes 1 s.boot.done ++ leBytes 1 (b2n s.pins.thermtrip + 2 * b2n s.clk.lost +
        4 * b2n s.belowMin + 8 * b2n s.pins.twinPres + 16 * b2n s.alert) ++ leBytes 2 s.therm.events)))) ∧
      exec .sbTemp s = .next (s.emit (.sideband (bs (leBytes 2 s.therm.die ++ leBytes 1 s.therm.field ++ [0])))) ∧
      exec .sbHbmTemp s = .next (s.emit (.sideband (bs (leBytes 8 s.hbmTemps)))) ∧
      exec .sbPower s = .next (s.emit (.sideband (bs (leBytes 2 s.therm.watts ++ leBytes 2 s.therm.amps)))) ∧
      (∀ v pec, s.pins.sbMode = true ∨ pec = true → ∃ t, exec (.eventsClear v pec) s = .next t ∧
        t = { s with therm := { s.therm with events := t.therm.events } } ∧
        ∀ i, i < 16 → bitAt t.therm.events i = (bitAt s.therm.events i && (!bitAt v i || bitAt s.mark.events i))) ∧
      (∀ pec, s.pins.sbMode = true ∨ pec = true → s.boot.up = true → s.pins.thermtrip = false →
        ∃ t, exec (.sbWarmReset 0xC7 pec) s = .next t ∧ t = s.warmReset ∧ t.boot.up = true ∧ t.boot.done = 0 ∧ t.boot.st = .idle ∧
          t.clk.lock = false ∧ t.mem = [] ∧ t.beds = [] ∧ t.nibs = [] ∧ t.sessions = [] ∧ t.cfg = [] ∧ t.out = s.out) ∧
      (∀ v, s.pins.sbMode = false → exec (.eventsClear v false) s = .next s ∧ exec (.sbWarmReset v false) s = .next s)) ∧
    (s.sbOn = false → ∀ c, c ∈ [Instr.sbIdent, .sbStatus, .sbTemp, .sbHbmTemp, .sbPower] → exec c s = .next (s.emit .sbNak)) ∧
    (∀ tms tdi trst, s.sec.debug = false → exec (.jtagTck tms tdi trst) s = .next (s.emit (.tdo none))) ∧
    (∀ tms tdi, s.sec.debug = true →
      (exec (.jtagTck tms tdi true) s = .next (State.emit { s with tap := {} } (.tdo none))) ∧
      ∃ t, exec (.jtagTck tms tdi false) s = .next t ∧ t.tap.st = s.tap.st.next tms ∧
        (s.tap.st = .shDr → s.tap.inBypass = true → tms = false → t.tap.bypass = tdi ∧ t.out = s.out ++ [.tdo (some s.tap.bypass)]))

/-! ## The clock, reset and memory -/

/-- On an empty queue a step is one A-cycle: the steps that can seal seal, a commit whose time has come applies and
resets that waited for a seal start; then the A-cycle
counter rises by 1 and the root-PLL count by the A-cycle's length, the divider in force before it, and the next A-cycle takes the
divider now in force; with the clocks stopped only REFCLK time passes, and a new C-cycle's marks begin. The queue stays empty (R31,
R33, R472, R473, R480, R482; what a step does on an empty queue is the model's choice, logs 8 and 196). -/
def Obligations.IdleTick : Prop :=
  (∀ (s : State), s.pending = [] →
    (s.runs = true → step s = .next s.falls.advance ∧
      (∀ b t, (s.beds.map (·.1)).Nodup → (s.bed b).step = some t → s.sealable b = true →
        (∀ c, c ≠ b → (s.bed c).step = none) → s.falls = (s.seal b t).commitTime.askedResets.startSteps) ∧
      ((∀ b, s.sealable b = false) → s.stage.mode ≠ 2 → ∃ t, step s = .next t ∧ t.acyc = s.acyc + 1 ∧
        t.root = s.root + s.clk.cur ∧ t.ref = s.ref + s.clk.cur ∧ t.clk = { s.clk with cur := s.clk.div } ∧ t.pending = [] ∧
        s.now ≤ t.now)) ∧
    (s.runs = false → step s = .next { s with ref := s.ref + 48, mark := s.markNow })) ∧
  ∀ (s : State), s.advance.acyc = s.acyc + 1 ∧ s.advance.root = s.root + s.clk.cur ∧ s.advance.ref = s.ref + s.clk.cur ∧
    s.advance.clk = { s.clk with cur := s.clk.div } ∧ s.advance.pending = s.pending

/-- In an iteration of a loop beyond its trip count, every slot of the bundle issues without effect: the nib only marks it issued
(R135). -/
def Obligations.ShadowIterations : Prop :=
  ∀ (s : State) (p w : Nat) (b : Row), s.runs = true → (s.nib p).st = .running → (s.nib p).shadowed = true →
    (s.nib p).bundle.1 = some b →
    (slotWord b 1 = w → (s.nib p).issued 1 = false → slotOp w = 0x03 → exec (.vop p) s = .next (s.setNib p ((s.nib p).setIssued 1))) ∧
    (slotWord b 0 = w → (s.nib p).issued 0 = false → slotOp w = 0x02 → exec (.nibPass p) s = .next (s.setNib p ((s.nib p).setIssued 0))) ∧
    (slotWord b 2 = w → (s.nib p).issued 2 = false → slotOp w = 0x02 → exec (.sendAsync p) s = .next (s.setNib p ((s.nib p).setIssued 2)))

/-- What reset leaves: bring-up step 0 complete and nothing else, with BOOT.STATUS 0; every bed ABSENT, every port DOWN, no command
waiting and nothing sent; the staged limits at their reset values; the divider 4; the update EMPTY; the twin ALONE; and device
memory in its canonical form, with nothing listed (R30, R338, R398, R480, R485, R487, R489, R524, R531). -/
def Obligations.ResetState : Prop :=
  let s := State.reset
  s.pending = [] ∧ s.out = [] ∧ s.mem = [] ∧ s.Sound ∧ s.bootStatus = 0 ∧ s.boot.step = 0 ∧ s.boot.linkSel = 0xFFFFFF ∧
  (∀ b, (s.bed b).st = .absent) ∧ (∀ n, (s.port n).st = .down) ∧ s.clk.lock = false ∧ s.runs = false ∧ s.clk.div = 4 ∧
  s.cfgAt limitsReg = 250 + 2000 * 65536 ∧ bitsAt (s.cfgAt kvxReg0) 0 16 = 0xC0A8 ∧ bitsAt (s.cfgAt kvxReg0) 16 4 = 8 ∧
  bitsAt (s.cfgAt kvxReg0) 32 16 = 200 ∧ bitsAt (s.cfgAt kvxReg0) 48 16 = 1000 ∧ s.sec.upd = .empty ∧ s.twin.st = .alone

/-- Every step keeps device memory in its canonical form: addresses strictly rising, and no entry equal to what an unlisted
address reads as. -/
def Obligations.MemoryStaysCanonical : Prop :=
  ∀ (s t : State), s.Sound → step s = .next t → t.Sound

/-! ## The house code -/

/-- Of the 36-byte codeword of any 32 data bytes, the decoder takes the codeword itself as clean, restores it from any error in one
byte and restores it from any errors in two bytes (R432, R433). -/
def Obligations.HouseCodeCorrects : Prop :=
  ∀ (d : List Byte), d.length = 32 →
    houseDecode (houseEncode d) = .clean ∧
    (∀ i e, i < 36 → e ≠ 0 → houseDecode (xorAt (houseEncode d) i e) = .corrected (houseEncode d)) ∧
    ∀ i j e f, i < j → j < 36 → e ≠ 0 → f ≠ 0 →
      houseDecode (xorAt (xorAt (houseEncode d) i e) j f) = .corrected (houseEncode d)
end

