-- ==== Sys2Proof/Laws/Bytes.lean ====
section
/-!
SUPPORT. Lengths of byte strings: fields, slices, and the reports built from them.
-/
namespace Sys2Proof.Laws

open Sys2Proof Sys2Proof.Machine

@[simp] theorem leBytes_length (n x : Nat) : (leBytes n x).length = n := by
  induction n generalizing x with
  | zero => rfl
  | succ n ih => simp [leBytes, ih]

@[simp] theorem slice_length (bs : List Byte) (o n : Nat) : (slice bs o n).length = n := by
  simp only [slice, List.length_append, List.length_take, List.length_drop, List.length_replicate]
  omega

@[simp] theorem measurement_length (k i l : Nat) (d : List Byte) : (measurement k i l d).length = 64 := by
  simp [measurement]

/-- A list whose entries all give `c` sums to `c` times its length. -/
theorem sum_const {α : Type} (c : Nat) (l : List α) : (l.map fun _ => c).sum = c * l.length := by
  induction l with
  | nil => rfl
  | cons a l ih => simp only [List.map_cons, List.sum_cons, ih, List.length_cons]; rw [Nat.mul_succ]; omega

/-- A report is 4,496 bytes and 64 for each entry (R548). -/
theorem attestation_length (s : State) (b : Nat) (k : Pkt) :
    (s.attestation b k).length = 4496 + 64 * (s.measured b).length := by
  simp [State.attestation, List.length_flatMap, sum_const]
  omega

end Sys2Proof.Laws
end

