-- ==== Sys2Proof/Laws/Map.lean ====
section
/-!
SUPPORT. Laws of sparse maps: a read after a write, and the canonical form.
-/
namespace Sys2Proof.Machine

variable {α : Type}

theorem mget_merase_self (d : α) (m : SMap α) (k : Nat) : mget d (merase m k) k = d := by
  induction m with
  | nil => rfl
  | cons e m ih =>
    obtain ⟨k', v⟩ := e
    by_cases h : k' = k <;> simp [merase, mget, h, ih]

theorem mget_merase_ne (d : α) (m : SMap α) {k j : Nat} (hj : j ≠ k) : mget d (merase m k) j = mget d m j := by
  induction m with
  | nil => rfl
  | cons e m ih =>
    obtain ⟨k', v⟩ := e
    by_cases h : k' = k
    · subst h; simp [merase, mget, ih, Ne.symm hj]
    · simp [merase, mget, h, ih]

theorem mget_minsert_self (d : α) (m : SMap α) (k : Nat) (v : α) : mget d (minsert m k v) k = v := by
  induction m with
  | nil => simp [minsert, mget]
  | cons e m ih =>
    obtain ⟨k', v'⟩ := e
    unfold minsert
    split
    · simp [mget]
    · split
      · simp [mget]
      · rename_i h1 h2; simp [mget, Ne.symm h2, ih]

theorem mget_minsert_ne (d : α) (m : SMap α) {k j : Nat} (v : α) (hj : j ≠ k) :
    mget d (minsert m k v) j = mget d m j := by
  induction m with
  | nil => simp [minsert, mget, Ne.symm hj]
  | cons e m ih =>
    obtain ⟨k', v'⟩ := e
    unfold minsert
    split
    · simp [mget, Ne.symm hj]
    · split
      · rename_i h; subst h; simp [mget, Ne.symm hj]
      · simp [mget, ih]

/-- A read of what was written. -/
@[simp] theorem mget_mset_self [DecidableEq α] (d : α) (m : SMap α) (k : Nat) (v : α) : mget d (mset d m k v) k = v := by
  unfold mset
  split
  · next h => rw [mget_merase_self, h]
  · exact mget_minsert_self ..

/-- A read of another key. -/
theorem mget_mset_ne [DecidableEq α] (d : α) (m : SMap α) {k j : Nat} (v : α) (hj : j ≠ k) :
    mget d (mset d m k v) j = mget d m j := by
  unfold mset
  split
  · exact mget_merase_ne d m hj
  · exact mget_minsert_ne d m v hj

/-- A read after a write. -/
theorem mget_mset [DecidableEq α] (d : α) (m : SMap α) (k j : Nat) (v : α) :
    mget d (mset d m k v) j = if j = k then v else mget d m j := by
  by_cases h : j = k
  · subst h; simp
  · simp [h, mget_mset_ne d m v h]

theorem mget_mupd [DecidableEq α] (d : α) (m : SMap α) (k j : Nat) (f : α → α) :
    mget d (mupd d m k f) j = if j = k then f (mget d m k) else mget d m j := mget_mset ..

/-- A read after consecutive writes, outside them. -/
theorem mget_msetRange_ne [DecidableEq α] (d : α) (m : SMap α) (k : Nat) (vs : List α) {j : Nat}
    (hj : j < k ∨ k + vs.length ≤ j) : mget d (msetRange d m k vs) j = mget d m j := by
  induction vs generalizing m k with
  | nil => rfl
  | cons v vs ih =>
    simp only [List.length_cons] at hj
    rw [msetRange, ih _ _ (by omega), mget_mset_ne _ _ _ (by omega)]

/-- A read after consecutive writes, inside them. -/
theorem mget_msetRange [DecidableEq α] (d : α) (m : SMap α) (k : Nat) (vs : List α) (i : Nat) (hi : i < vs.length) :
    mget d (msetRange d m k vs) (k + i) = vs[i] := by
  induction vs generalizing m k i with
  | nil => simp at hi
  | cons v vs ih =>
    cases i with
    | zero => rw [msetRange, mget_msetRange_ne _ _ _ _ (by omega)]; simp
    | succ i =>
      have := ih (mset d m k v) (k + 1) i (by simpa using hi)
      rw [msetRange, show k + (i + 1) = k + 1 + i by omega, this]; rfl

/-! ### The canonical form -/

theorem mrising_mono {lo lo' : Nat} {m : SMap α} (h : mrising lo m = true) (hl : lo' ≤ lo) : mrising lo' m = true := by
  cases m with
  | nil => rfl
  | cons e m =>
    obtain ⟨k, v⟩ := e
    simp only [mrising, Bool.and_eq_true, decide_eq_true_eq] at h ⊢
    exact ⟨by omega, h.2⟩

theorem merase_rising {lo : Nat} {m : SMap α} (k : Nat) (h : mrising lo m = true) : mrising lo (merase m k) = true := by
  induction m generalizing lo with
  | nil => rfl
  | cons e m ih =>
    obtain ⟨k', v⟩ := e
    simp only [mrising, Bool.and_eq_true, decide_eq_true_eq] at h
    unfold merase
    split
    · exact mrising_mono (ih h.2) (by omega)
    · simp [mrising, h.1, ih h.2]

theorem minsert_rising {lo : Nat} {m : SMap α} {k : Nat} (v : α) (hk : lo ≤ k) (h : mrising lo m = true) :
    mrising lo (minsert m k v) = true := by
  induction m generalizing lo with
  | nil => simp [minsert, mrising, hk]
  | cons e m ih =>
    obtain ⟨k', v'⟩ := e
    simp only [mrising, Bool.and_eq_true, decide_eq_true_eq] at h
    unfold minsert
    split
    · simp [mrising, hk, h.2]; omega
    · split
      · rename_i e; subst e; simp [mrising, h]
      · have := ih (lo := k' + 1) (by omega) h.2
        simp [mrising, h.1, this]

theorem merase_all {p : Nat × α → Bool} {m : SMap α} (k : Nat) (h : m.all p = true) : (merase m k).all p = true := by
  induction m with
  | nil => rfl
  | cons e m ih =>
    obtain ⟨k', v⟩ := e
    simp only [List.all_cons, Bool.and_eq_true] at h
    unfold merase
    split
    · exact ih h.2
    · simp [h.1, ih h.2]

theorem minsert_all {p : Nat × α → Bool} {m : SMap α} {k : Nat} {v : α} (hv : p (k, v) = true) (h : m.all p = true) :
    (minsert m k v).all p = true := by
  induction m with
  | nil => simp [minsert, hv]
  | cons e m ih =>
    obtain ⟨k', v'⟩ := e
    simp only [List.all_cons, Bool.and_eq_true] at h
    unfold minsert
    split
    · simp [hv, h]
    · split
      · simp [hv, h.2]
      · simp [h.1, ih h.2]

/-- A write keeps the canonical form. -/
theorem mset_wf [DecidableEq α] (d : α) {m : SMap α} (k : Nat) (v : α) (h : mwf d m = true) : mwf d (mset d m k v) = true := by
  simp only [mwf, Bool.and_eq_true] at h ⊢
  unfold mset
  split
  · exact ⟨merase_rising k h.1, merase_all k h.2⟩
  · next hv => exact ⟨minsert_rising v (Nat.zero_le k) h.1, minsert_all (by simpa using hv) h.2⟩

theorem mupd_wf [DecidableEq α] (d : α) {m : SMap α} (k : Nat) (f : α → α) (h : mwf d m = true) :
    mwf d (mupd d m k f) = true := mset_wf d k _ h

/-- Consecutive writes keep the canonical form. -/
theorem msetRange_wf [DecidableEq α] (d : α) {m : SMap α} (k : Nat) (vs : List α) (h : mwf d m = true) :
    mwf d (msetRange d m k vs) = true := by
  induction vs generalizing m k with
  | nil => exact h
  | cons v vs ih => exact ih (k + 1) (mset_wf d k v h)

theorem filter_rising {lo : Nat} {m : SMap α} (p : Nat × α → Bool) (h : mrising lo m = true) :
    mrising lo (m.filter p) = true := by
  induction m generalizing lo with
  | nil => rfl
  | cons e m ih =>
    obtain ⟨k, v⟩ := e
    simp only [mrising, Bool.and_eq_true, decide_eq_true_eq] at h
    rw [List.filter_cons]
    split
    · simp [mrising, h.1, ih h.2]
    · exact mrising_mono (ih h.2) (by omega)

/-- Dropping entries keeps the canonical form. -/
theorem mfilter_wf [DecidableEq α] (d : α) {m : SMap α} (p : Nat → α → Bool) (h : mwf d m = true) :
    mwf d (mfilter p m) = true := by
  simp only [mwf, mfilter, Bool.and_eq_true, List.all_eq_true] at h ⊢
  exact ⟨filter_rising _ h.1, fun e he => h.2 e (List.mem_filter.mp he).1⟩

end Sys2Proof.Machine
end

