-- ==== Sys2Proof/Laws/State.lean ====
section
/-!
SUPPORT. One lemma per field per update of State: an update changes its own part and no other; and a part read after an
update.
-/
namespace Sys2Proof.Machine

variable (s : State)

/-! ### setNib -/

@[simp] theorem State.setNib_pending (p : Nat) (v : Nib) : (s.setNib p v).pending = s.pending := rfl
@[simp] theorem State.setNib_out (p : Nat) (v : Nib) : (s.setNib p v).out = s.out := rfl
@[simp] theorem State.setNib_acyc (p : Nat) (v : Nib) : (s.setNib p v).acyc = s.acyc := rfl
@[simp] theorem State.setNib_root (p : Nat) (v : Nib) : (s.setNib p v).root = s.root := rfl
@[simp] theorem State.setNib_ref (p : Nat) (v : Nib) : (s.setNib p v).ref = s.ref := rfl
@[simp] theorem State.setNib_draws (p : Nat) (v : Nib) : (s.setNib p v).draws = s.draws := rfl
@[simp] theorem State.setNib_ids (p : Nat) (v : Nib) : (s.setNib p v).ids = s.ids := rfl
@[simp] theorem State.setNib_pins (p : Nat) (v : Nib) : (s.setNib p v).pins = s.pins := rfl
@[simp] theorem State.setNib_boot (p : Nat) (v : Nib) : (s.setNib p v).boot = s.boot := rfl
@[simp] theorem State.setNib_clk (p : Nat) (v : Nib) : (s.setNib p v).clk = s.clk := rfl
@[simp] theorem State.setNib_therm (p : Nat) (v : Nib) : (s.setNib p v).therm = s.therm := rfl
@[simp] theorem State.setNib_flash (p : Nat) (v : Nib) : (s.setNib p v).flash = s.flash := rfl
@[simp] theorem State.setNib_sec (p : Nat) (v : Nib) : (s.setNib p v).sec = s.sec := rfl
@[simp] theorem State.setNib_pcie (p : Nat) (v : Nib) : (s.setNib p v).pcie = s.pcie := rfl
@[simp] theorem State.setNib_tap (p : Nat) (v : Nib) : (s.setNib p v).tap = s.tap := rfl
@[simp] theorem State.setNib_cfg (p : Nat) (v : Nib) : (s.setNib p v).cfg = s.cfg := rfl
@[simp] theorem State.setNib_shadow (p : Nat) (v : Nib) : (s.setNib p v).shadow = s.shadow := rfl
@[simp] theorem State.setNib_stage (p : Nat) (v : Nib) : (s.setNib p v).stage = s.stage := rfl
@[simp] theorem State.setNib_mark (p : Nat) (v : Nib) : (s.setNib p v).mark = s.mark := rfl
@[simp] theorem State.setNib_mem (p : Nat) (v : Nib) : (s.setNib p v).mem = s.mem := rfl
@[simp] theorem State.setNib_memUpset (p : Nat) (v : Nib) : (s.setNib p v).memUpset = s.memUpset := rfl
@[simp] theorem State.setNib_chans (p : Nat) (v : Nib) : (s.setNib p v).chans = s.chans := rfl
@[simp] theorem State.setNib_msys (p : Nat) (v : Nib) : (s.setNib p v).msys = s.msys := rfl
@[simp] theorem State.setNib_dma (p : Nat) (v : Nib) : (s.setNib p v).dma = s.dma := rfl
@[simp] theorem State.setNib_samp (p : Nat) (v : Nib) : (s.setNib p v).samp = s.samp := rfl
@[simp] theorem State.setNib_sampTurn (p : Nat) (v : Nib) : (s.setNib p v).sampTurn = s.sampTurn := rfl
@[simp] theorem State.setNib_scribesOut (p : Nat) (v : Nib) : (s.setNib p v).scribesOut = s.scribesOut := rfl
@[simp] theorem State.setNib_fenceDrop (p : Nat) (v : Nib) : (s.setNib p v).fenceDrop = s.fenceDrop := rfl
@[simp] theorem State.setNib_meshCorr (p : Nat) (v : Nib) : (s.setNib p v).meshCorr = s.meshCorr := rfl
@[simp] theorem State.setNib_meshUncorr (p : Nat) (v : Nib) : (s.setNib p v).meshUncorr = s.meshUncorr := rfl
@[simp] theorem State.setNib_mesh (p : Nat) (v : Nib) : (s.setNib p v).mesh = s.mesh := rfl
@[simp] theorem State.setNib_beds (p : Nat) (v : Nib) : (s.setNib p v).beds = s.beds := rfl
@[simp] theorem State.setNib_lastSeal (p : Nat) (v : Nib) : (s.setNib p v).lastSeal = s.lastSeal := rfl
@[simp] theorem State.setNib_sessions (p : Nat) (v : Nib) : (s.setNib p v).sessions = s.sessions := rfl
@[simp] theorem State.setNib_frames (p : Nat) (v : Nib) : (s.setNib p v).frames = s.frames := rfl
@[simp] theorem State.setNib_lpFrames (p : Nat) (v : Nib) : (s.setNib p v).lpFrames = s.lpFrames := rfl
@[simp] theorem State.setNib_pfx (p : Nat) (v : Nib) : (s.setNib p v).pfx = s.pfx := rfl
@[simp] theorem State.setNib_oldGens (p : Nat) (v : Nib) : (s.setNib p v).oldGens = s.oldGens := rfl
@[simp] theorem State.setNib_copies (p : Nat) (v : Nib) : (s.setNib p v).copies = s.copies := rfl
@[simp] theorem State.setNib_ports (p : Nat) (v : Nib) : (s.setNib p v).ports = s.ports := rfl
@[simp] theorem State.setNib_tx (p : Nat) (v : Nib) : (s.setNib p v).tx = s.tx := rfl
@[simp] theorem State.setNib_rx (p : Nat) (v : Nib) : (s.setNib p v).rx = s.rx := rfl
@[simp] theorem State.setNib_imports (p : Nat) (v : Nib) : (s.setNib p v).imports = s.imports := rfl
@[simp] theorem State.setNib_twin (p : Nat) (v : Nib) : (s.setNib p v).twin = s.twin := rfl
@[simp] theorem State.setNib_bed_at (p : Nat) (v : Nib) (x : Nat) : (s.setNib p v).bed x = s.bed x := rfl
@[simp] theorem State.setNib_port_at (p : Nat) (v : Nib) (x : Nat) : (s.setNib p v).port x = s.port x := rfl
@[simp] theorem State.setNib_ses_at (p : Nat) (v : Nib) (x : Nat) : (s.setNib p v).ses x = s.ses x := rfl
@[simp] theorem State.setNib_chan_at (p : Nat) (v : Nib) (x : Nat) : (s.setNib p v).chan x = s.chan x := rfl
@[simp] theorem State.setNib_dmaCh_at (p : Nat) (v : Nib) (x : Nat) : (s.setNib p v).dmaCh x = s.dmaCh x := rfl
@[simp] theorem State.setNib_fn_at (p : Nat) (v : Nib) (x : Nat) : (s.setNib p v).fn x = s.fn x := rfl
@[simp] theorem State.setNib_pfxAt_at (p : Nat) (v : Nib) (x : Nat) : (s.setNib p v).pfxAt x = s.pfxAt x := rfl
@[simp] theorem State.setNib_cfgAt_at (p : Nat) (v : Nib) (x : Nat) : (s.setNib p v).cfgAt x = s.cfgAt x := rfl
@[simp] theorem State.setNib_now (p : Nat) (v : Nib) : (s.setNib p v).now = s.now := rfl
@[simp] theorem State.setNib_runs (p : Nat) (v : Nib) : (s.setNib p v).runs = s.runs := rfl

/-! ### setBed -/

@[simp] theorem State.setBed_pending (b : Nat) (v : Bed) : (s.setBed b v).pending = s.pending := rfl
@[simp] theorem State.setBed_out (b : Nat) (v : Bed) : (s.setBed b v).out = s.out := rfl
@[simp] theorem State.setBed_acyc (b : Nat) (v : Bed) : (s.setBed b v).acyc = s.acyc := rfl
@[simp] theorem State.setBed_root (b : Nat) (v : Bed) : (s.setBed b v).root = s.root := rfl
@[simp] theorem State.setBed_ref (b : Nat) (v : Bed) : (s.setBed b v).ref = s.ref := rfl
@[simp] theorem State.setBed_draws (b : Nat) (v : Bed) : (s.setBed b v).draws = s.draws := rfl
@[simp] theorem State.setBed_ids (b : Nat) (v : Bed) : (s.setBed b v).ids = s.ids := rfl
@[simp] theorem State.setBed_pins (b : Nat) (v : Bed) : (s.setBed b v).pins = s.pins := rfl
@[simp] theorem State.setBed_boot (b : Nat) (v : Bed) : (s.setBed b v).boot = s.boot := rfl
@[simp] theorem State.setBed_clk (b : Nat) (v : Bed) : (s.setBed b v).clk = s.clk := rfl
@[simp] theorem State.setBed_therm (b : Nat) (v : Bed) : (s.setBed b v).therm = s.therm := rfl
@[simp] theorem State.setBed_flash (b : Nat) (v : Bed) : (s.setBed b v).flash = s.flash := rfl
@[simp] theorem State.setBed_sec (b : Nat) (v : Bed) : (s.setBed b v).sec = s.sec := rfl
@[simp] theorem State.setBed_pcie (b : Nat) (v : Bed) : (s.setBed b v).pcie = s.pcie := rfl
@[simp] theorem State.setBed_tap (b : Nat) (v : Bed) : (s.setBed b v).tap = s.tap := rfl
@[simp] theorem State.setBed_cfg (b : Nat) (v : Bed) : (s.setBed b v).cfg = s.cfg := rfl
@[simp] theorem State.setBed_shadow (b : Nat) (v : Bed) : (s.setBed b v).shadow = s.shadow := rfl
@[simp] theorem State.setBed_stage (b : Nat) (v : Bed) : (s.setBed b v).stage = s.stage := rfl
@[simp] theorem State.setBed_mark (b : Nat) (v : Bed) : (s.setBed b v).mark = s.mark := rfl
@[simp] theorem State.setBed_mem (b : Nat) (v : Bed) : (s.setBed b v).mem = s.mem := rfl
@[simp] theorem State.setBed_memUpset (b : Nat) (v : Bed) : (s.setBed b v).memUpset = s.memUpset := rfl
@[simp] theorem State.setBed_chans (b : Nat) (v : Bed) : (s.setBed b v).chans = s.chans := rfl
@[simp] theorem State.setBed_msys (b : Nat) (v : Bed) : (s.setBed b v).msys = s.msys := rfl
@[simp] theorem State.setBed_dma (b : Nat) (v : Bed) : (s.setBed b v).dma = s.dma := rfl
@[simp] theorem State.setBed_samp (b : Nat) (v : Bed) : (s.setBed b v).samp = s.samp := rfl
@[simp] theorem State.setBed_sampTurn (b : Nat) (v : Bed) : (s.setBed b v).sampTurn = s.sampTurn := rfl
@[simp] theorem State.setBed_scribesOut (b : Nat) (v : Bed) : (s.setBed b v).scribesOut = s.scribesOut := rfl
@[simp] theorem State.setBed_fenceDrop (b : Nat) (v : Bed) : (s.setBed b v).fenceDrop = s.fenceDrop := rfl
@[simp] theorem State.setBed_meshCorr (b : Nat) (v : Bed) : (s.setBed b v).meshCorr = s.meshCorr := rfl
@[simp] theorem State.setBed_meshUncorr (b : Nat) (v : Bed) : (s.setBed b v).meshUncorr = s.meshUncorr := rfl
@[simp] theorem State.setBed_mesh (b : Nat) (v : Bed) : (s.setBed b v).mesh = s.mesh := rfl
@[simp] theorem State.setBed_nibs (b : Nat) (v : Bed) : (s.setBed b v).nibs = s.nibs := rfl
@[simp] theorem State.setBed_lastSeal (b : Nat) (v : Bed) : (s.setBed b v).lastSeal = s.lastSeal := rfl
@[simp] theorem State.setBed_sessions (b : Nat) (v : Bed) : (s.setBed b v).sessions = s.sessions := rfl
@[simp] theorem State.setBed_frames (b : Nat) (v : Bed) : (s.setBed b v).frames = s.frames := rfl
@[simp] theorem State.setBed_lpFrames (b : Nat) (v : Bed) : (s.setBed b v).lpFrames = s.lpFrames := rfl
@[simp] theorem State.setBed_pfx (b : Nat) (v : Bed) : (s.setBed b v).pfx = s.pfx := rfl
@[simp] theorem State.setBed_oldGens (b : Nat) (v : Bed) : (s.setBed b v).oldGens = s.oldGens := rfl
@[simp] theorem State.setBed_copies (b : Nat) (v : Bed) : (s.setBed b v).copies = s.copies := rfl
@[simp] theorem State.setBed_ports (b : Nat) (v : Bed) : (s.setBed b v).ports = s.ports := rfl
@[simp] theorem State.setBed_tx (b : Nat) (v : Bed) : (s.setBed b v).tx = s.tx := rfl
@[simp] theorem State.setBed_rx (b : Nat) (v : Bed) : (s.setBed b v).rx = s.rx := rfl
@[simp] theorem State.setBed_imports (b : Nat) (v : Bed) : (s.setBed b v).imports = s.imports := rfl
@[simp] theorem State.setBed_twin (b : Nat) (v : Bed) : (s.setBed b v).twin = s.twin := rfl
@[simp] theorem State.setBed_nib_at (b : Nat) (v : Bed) (x : Nat) : (s.setBed b v).nib x = s.nib x := rfl
@[simp] theorem State.setBed_port_at (b : Nat) (v : Bed) (x : Nat) : (s.setBed b v).port x = s.port x := rfl
@[simp] theorem State.setBed_ses_at (b : Nat) (v : Bed) (x : Nat) : (s.setBed b v).ses x = s.ses x := rfl
@[simp] theorem State.setBed_chan_at (b : Nat) (v : Bed) (x : Nat) : (s.setBed b v).chan x = s.chan x := rfl
@[simp] theorem State.setBed_dmaCh_at (b : Nat) (v : Bed) (x : Nat) : (s.setBed b v).dmaCh x = s.dmaCh x := rfl
@[simp] theorem State.setBed_fn_at (b : Nat) (v : Bed) (x : Nat) : (s.setBed b v).fn x = s.fn x := rfl
@[simp] theorem State.setBed_pfxAt_at (b : Nat) (v : Bed) (x : Nat) : (s.setBed b v).pfxAt x = s.pfxAt x := rfl
@[simp] theorem State.setBed_cfgAt_at (b : Nat) (v : Bed) (x : Nat) : (s.setBed b v).cfgAt x = s.cfgAt x := rfl
@[simp] theorem State.setBed_now (b : Nat) (v : Bed) : (s.setBed b v).now = s.now := rfl
@[simp] theorem State.setBed_runs (b : Nat) (v : Bed) : (s.setBed b v).runs = s.runs := rfl

/-! ### setPort -/

@[simp] theorem State.setPort_pending (n : Nat) (v : Port) : (s.setPort n v).pending = s.pending := rfl
@[simp] theorem State.setPort_out (n : Nat) (v : Port) : (s.setPort n v).out = s.out := rfl
@[simp] theorem State.setPort_acyc (n : Nat) (v : Port) : (s.setPort n v).acyc = s.acyc := rfl
@[simp] theorem State.setPort_root (n : Nat) (v : Port) : (s.setPort n v).root = s.root := rfl
@[simp] theorem State.setPort_ref (n : Nat) (v : Port) : (s.setPort n v).ref = s.ref := rfl
@[simp] theorem State.setPort_draws (n : Nat) (v : Port) : (s.setPort n v).draws = s.draws := rfl
@[simp] theorem State.setPort_ids (n : Nat) (v : Port) : (s.setPort n v).ids = s.ids := rfl
@[simp] theorem State.setPort_pins (n : Nat) (v : Port) : (s.setPort n v).pins = s.pins := rfl
@[simp] theorem State.setPort_boot (n : Nat) (v : Port) : (s.setPort n v).boot = s.boot := rfl
@[simp] theorem State.setPort_clk (n : Nat) (v : Port) : (s.setPort n v).clk = s.clk := rfl
@[simp] theorem State.setPort_therm (n : Nat) (v : Port) : (s.setPort n v).therm = s.therm := rfl
@[simp] theorem State.setPort_flash (n : Nat) (v : Port) : (s.setPort n v).flash = s.flash := rfl
@[simp] theorem State.setPort_sec (n : Nat) (v : Port) : (s.setPort n v).sec = s.sec := rfl
@[simp] theorem State.setPort_pcie (n : Nat) (v : Port) : (s.setPort n v).pcie = s.pcie := rfl
@[simp] theorem State.setPort_tap (n : Nat) (v : Port) : (s.setPort n v).tap = s.tap := rfl
@[simp] theorem State.setPort_cfg (n : Nat) (v : Port) : (s.setPort n v).cfg = s.cfg := rfl
@[simp] theorem State.setPort_shadow (n : Nat) (v : Port) : (s.setPort n v).shadow = s.shadow := rfl
@[simp] theorem State.setPort_stage (n : Nat) (v : Port) : (s.setPort n v).stage = s.stage := rfl
@[simp] theorem State.setPort_mark (n : Nat) (v : Port) : (s.setPort n v).mark = s.mark := rfl
@[simp] theorem State.setPort_mem (n : Nat) (v : Port) : (s.setPort n v).mem = s.mem := rfl
@[simp] theorem State.setPort_memUpset (n : Nat) (v : Port) : (s.setPort n v).memUpset = s.memUpset := rfl
@[simp] theorem State.setPort_chans (n : Nat) (v : Port) : (s.setPort n v).chans = s.chans := rfl
@[simp] theorem State.setPort_msys (n : Nat) (v : Port) : (s.setPort n v).msys = s.msys := rfl
@[simp] theorem State.setPort_dma (n : Nat) (v : Port) : (s.setPort n v).dma = s.dma := rfl
@[simp] theorem State.setPort_samp (n : Nat) (v : Port) : (s.setPort n v).samp = s.samp := rfl
@[simp] theorem State.setPort_sampTurn (n : Nat) (v : Port) : (s.setPort n v).sampTurn = s.sampTurn := rfl
@[simp] theorem State.setPort_scribesOut (n : Nat) (v : Port) : (s.setPort n v).scribesOut = s.scribesOut := rfl
@[simp] theorem State.setPort_fenceDrop (n : Nat) (v : Port) : (s.setPort n v).fenceDrop = s.fenceDrop := rfl
@[simp] theorem State.setPort_meshCorr (n : Nat) (v : Port) : (s.setPort n v).meshCorr = s.meshCorr := rfl
@[simp] theorem State.setPort_meshUncorr (n : Nat) (v : Port) : (s.setPort n v).meshUncorr = s.meshUncorr := rfl
@[simp] theorem State.setPort_mesh (n : Nat) (v : Port) : (s.setPort n v).mesh = s.mesh := rfl
@[simp] theorem State.setPort_nibs (n : Nat) (v : Port) : (s.setPort n v).nibs = s.nibs := rfl
@[simp] theorem State.setPort_beds (n : Nat) (v : Port) : (s.setPort n v).beds = s.beds := rfl
@[simp] theorem State.setPort_lastSeal (n : Nat) (v : Port) : (s.setPort n v).lastSeal = s.lastSeal := rfl
@[simp] theorem State.setPort_sessions (n : Nat) (v : Port) : (s.setPort n v).sessions = s.sessions := rfl
@[simp] theorem State.setPort_frames (n : Nat) (v : Port) : (s.setPort n v).frames = s.frames := rfl
@[simp] theorem State.setPort_lpFrames (n : Nat) (v : Port) : (s.setPort n v).lpFrames = s.lpFrames := rfl
@[simp] theorem State.setPort_pfx (n : Nat) (v : Port) : (s.setPort n v).pfx = s.pfx := rfl
@[simp] theorem State.setPort_oldGens (n : Nat) (v : Port) : (s.setPort n v).oldGens = s.oldGens := rfl
@[simp] theorem State.setPort_copies (n : Nat) (v : Port) : (s.setPort n v).copies = s.copies := rfl
@[simp] theorem State.setPort_tx (n : Nat) (v : Port) : (s.setPort n v).tx = s.tx := rfl
@[simp] theorem State.setPort_rx (n : Nat) (v : Port) : (s.setPort n v).rx = s.rx := rfl
@[simp] theorem State.setPort_imports (n : Nat) (v : Port) : (s.setPort n v).imports = s.imports := rfl
@[simp] theorem State.setPort_twin (n : Nat) (v : Port) : (s.setPort n v).twin = s.twin := rfl
@[simp] theorem State.setPort_nib_at (n : Nat) (v : Port) (x : Nat) : (s.setPort n v).nib x = s.nib x := rfl
@[simp] theorem State.setPort_bed_at (n : Nat) (v : Port) (x : Nat) : (s.setPort n v).bed x = s.bed x := rfl
@[simp] theorem State.setPort_ses_at (n : Nat) (v : Port) (x : Nat) : (s.setPort n v).ses x = s.ses x := rfl
@[simp] theorem State.setPort_chan_at (n : Nat) (v : Port) (x : Nat) : (s.setPort n v).chan x = s.chan x := rfl
@[simp] theorem State.setPort_dmaCh_at (n : Nat) (v : Port) (x : Nat) : (s.setPort n v).dmaCh x = s.dmaCh x := rfl
@[simp] theorem State.setPort_fn_at (n : Nat) (v : Port) (x : Nat) : (s.setPort n v).fn x = s.fn x := rfl
@[simp] theorem State.setPort_pfxAt_at (n : Nat) (v : Port) (x : Nat) : (s.setPort n v).pfxAt x = s.pfxAt x := rfl
@[simp] theorem State.setPort_cfgAt_at (n : Nat) (v : Port) (x : Nat) : (s.setPort n v).cfgAt x = s.cfgAt x := rfl
@[simp] theorem State.setPort_now (n : Nat) (v : Port) : (s.setPort n v).now = s.now := rfl
@[simp] theorem State.setPort_runs (n : Nat) (v : Port) : (s.setPort n v).runs = s.runs := rfl

/-! ### setSes -/

@[simp] theorem State.setSes_pending (i : Nat) (v : Session) : (s.setSes i v).pending = s.pending := rfl
@[simp] theorem State.setSes_out (i : Nat) (v : Session) : (s.setSes i v).out = s.out := rfl
@[simp] theorem State.setSes_acyc (i : Nat) (v : Session) : (s.setSes i v).acyc = s.acyc := rfl
@[simp] theorem State.setSes_root (i : Nat) (v : Session) : (s.setSes i v).root = s.root := rfl
@[simp] theorem State.setSes_ref (i : Nat) (v : Session) : (s.setSes i v).ref = s.ref := rfl
@[simp] theorem State.setSes_draws (i : Nat) (v : Session) : (s.setSes i v).draws = s.draws := rfl
@[simp] theorem State.setSes_ids (i : Nat) (v : Session) : (s.setSes i v).ids = s.ids := rfl
@[simp] theorem State.setSes_pins (i : Nat) (v : Session) : (s.setSes i v).pins = s.pins := rfl
@[simp] theorem State.setSes_boot (i : Nat) (v : Session) : (s.setSes i v).boot = s.boot := rfl
@[simp] theorem State.setSes_clk (i : Nat) (v : Session) : (s.setSes i v).clk = s.clk := rfl
@[simp] theorem State.setSes_therm (i : Nat) (v : Session) : (s.setSes i v).therm = s.therm := rfl
@[simp] theorem State.setSes_flash (i : Nat) (v : Session) : (s.setSes i v).flash = s.flash := rfl
@[simp] theorem State.setSes_sec (i : Nat) (v : Session) : (s.setSes i v).sec = s.sec := rfl
@[simp] theorem State.setSes_pcie (i : Nat) (v : Session) : (s.setSes i v).pcie = s.pcie := rfl
@[simp] theorem State.setSes_tap (i : Nat) (v : Session) : (s.setSes i v).tap = s.tap := rfl
@[simp] theorem State.setSes_cfg (i : Nat) (v : Session) : (s.setSes i v).cfg = s.cfg := rfl
@[simp] theorem State.setSes_shadow (i : Nat) (v : Session) : (s.setSes i v).shadow = s.shadow := rfl
@[simp] theorem State.setSes_stage (i : Nat) (v : Session) : (s.setSes i v).stage = s.stage := rfl
@[simp] theorem State.setSes_mark (i : Nat) (v : Session) : (s.setSes i v).mark = s.mark := rfl
@[simp] theorem State.setSes_mem (i : Nat) (v : Session) : (s.setSes i v).mem = s.mem := rfl
@[simp] theorem State.setSes_memUpset (i : Nat) (v : Session) : (s.setSes i v).memUpset = s.memUpset := rfl
@[simp] theorem State.setSes_chans (i : Nat) (v : Session) : (s.setSes i v).chans = s.chans := rfl
@[simp] theorem State.setSes_msys (i : Nat) (v : Session) : (s.setSes i v).msys = s.msys := rfl
@[simp] theorem State.setSes_dma (i : Nat) (v : Session) : (s.setSes i v).dma = s.dma := rfl
@[simp] theorem State.setSes_samp (i : Nat) (v : Session) : (s.setSes i v).samp = s.samp := rfl
@[simp] theorem State.setSes_sampTurn (i : Nat) (v : Session) : (s.setSes i v).sampTurn = s.sampTurn := rfl
@[simp] theorem State.setSes_scribesOut (i : Nat) (v : Session) : (s.setSes i v).scribesOut = s.scribesOut := rfl
@[simp] theorem State.setSes_fenceDrop (i : Nat) (v : Session) : (s.setSes i v).fenceDrop = s.fenceDrop := rfl
@[simp] theorem State.setSes_meshCorr (i : Nat) (v : Session) : (s.setSes i v).meshCorr = s.meshCorr := rfl
@[simp] theorem State.setSes_meshUncorr (i : Nat) (v : Session) : (s.setSes i v).meshUncorr = s.meshUncorr := rfl
@[simp] theorem State.setSes_mesh (i : Nat) (v : Session) : (s.setSes i v).mesh = s.mesh := rfl
@[simp] theorem State.setSes_nibs (i : Nat) (v : Session) : (s.setSes i v).nibs = s.nibs := rfl
@[simp] theorem State.setSes_beds (i : Nat) (v : Session) : (s.setSes i v).beds = s.beds := rfl
@[simp] theorem State.setSes_lastSeal (i : Nat) (v : Session) : (s.setSes i v).lastSeal = s.lastSeal := rfl
@[simp] theorem State.setSes_frames (i : Nat) (v : Session) : (s.setSes i v).frames = s.frames := rfl
@[simp] theorem State.setSes_lpFrames (i : Nat) (v : Session) : (s.setSes i v).lpFrames = s.lpFrames := rfl
@[simp] theorem State.setSes_pfx (i : Nat) (v : Session) : (s.setSes i v).pfx = s.pfx := rfl
@[simp] theorem State.setSes_oldGens (i : Nat) (v : Session) : (s.setSes i v).oldGens = s.oldGens := rfl
@[simp] theorem State.setSes_copies (i : Nat) (v : Session) : (s.setSes i v).copies = s.copies := rfl
@[simp] theorem State.setSes_ports (i : Nat) (v : Session) : (s.setSes i v).ports = s.ports := rfl
@[simp] theorem State.setSes_tx (i : Nat) (v : Session) : (s.setSes i v).tx = s.tx := rfl
@[simp] theorem State.setSes_rx (i : Nat) (v : Session) : (s.setSes i v).rx = s.rx := rfl
@[simp] theorem State.setSes_imports (i : Nat) (v : Session) : (s.setSes i v).imports = s.imports := rfl
@[simp] theorem State.setSes_twin (i : Nat) (v : Session) : (s.setSes i v).twin = s.twin := rfl
@[simp] theorem State.setSes_nib_at (i : Nat) (v : Session) (x : Nat) : (s.setSes i v).nib x = s.nib x := rfl
@[simp] theorem State.setSes_bed_at (i : Nat) (v : Session) (x : Nat) : (s.setSes i v).bed x = s.bed x := rfl
@[simp] theorem State.setSes_port_at (i : Nat) (v : Session) (x : Nat) : (s.setSes i v).port x = s.port x := rfl
@[simp] theorem State.setSes_chan_at (i : Nat) (v : Session) (x : Nat) : (s.setSes i v).chan x = s.chan x := rfl
@[simp] theorem State.setSes_dmaCh_at (i : Nat) (v : Session) (x : Nat) : (s.setSes i v).dmaCh x = s.dmaCh x := rfl
@[simp] theorem State.setSes_fn_at (i : Nat) (v : Session) (x : Nat) : (s.setSes i v).fn x = s.fn x := rfl
@[simp] theorem State.setSes_pfxAt_at (i : Nat) (v : Session) (x : Nat) : (s.setSes i v).pfxAt x = s.pfxAt x := rfl
@[simp] theorem State.setSes_cfgAt_at (i : Nat) (v : Session) (x : Nat) : (s.setSes i v).cfgAt x = s.cfgAt x := rfl
@[simp] theorem State.setSes_now (i : Nat) (v : Session) : (s.setSes i v).now = s.now := rfl
@[simp] theorem State.setSes_runs (i : Nat) (v : Session) : (s.setSes i v).runs = s.runs := rfl

/-! ### updChan -/

@[simp] theorem State.updChan_pending (c : Nat) (f : Chan → Chan) : (s.updChan c f).pending = s.pending := rfl
@[simp] theorem State.updChan_out (c : Nat) (f : Chan → Chan) : (s.updChan c f).out = s.out := rfl
@[simp] theorem State.updChan_acyc (c : Nat) (f : Chan → Chan) : (s.updChan c f).acyc = s.acyc := rfl
@[simp] theorem State.updChan_root (c : Nat) (f : Chan → Chan) : (s.updChan c f).root = s.root := rfl
@[simp] theorem State.updChan_ref (c : Nat) (f : Chan → Chan) : (s.updChan c f).ref = s.ref := rfl
@[simp] theorem State.updChan_draws (c : Nat) (f : Chan → Chan) : (s.updChan c f).draws = s.draws := rfl
@[simp] theorem State.updChan_ids (c : Nat) (f : Chan → Chan) : (s.updChan c f).ids = s.ids := rfl
@[simp] theorem State.updChan_pins (c : Nat) (f : Chan → Chan) : (s.updChan c f).pins = s.pins := rfl
@[simp] theorem State.updChan_boot (c : Nat) (f : Chan → Chan) : (s.updChan c f).boot = s.boot := rfl
@[simp] theorem State.updChan_clk (c : Nat) (f : Chan → Chan) : (s.updChan c f).clk = s.clk := rfl
@[simp] theorem State.updChan_therm (c : Nat) (f : Chan → Chan) : (s.updChan c f).therm = s.therm := rfl
@[simp] theorem State.updChan_flash (c : Nat) (f : Chan → Chan) : (s.updChan c f).flash = s.flash := rfl
@[simp] theorem State.updChan_sec (c : Nat) (f : Chan → Chan) : (s.updChan c f).sec = s.sec := rfl
@[simp] theorem State.updChan_pcie (c : Nat) (f : Chan → Chan) : (s.updChan c f).pcie = s.pcie := rfl
@[simp] theorem State.updChan_tap (c : Nat) (f : Chan → Chan) : (s.updChan c f).tap = s.tap := rfl
@[simp] theorem State.updChan_cfg (c : Nat) (f : Chan → Chan) : (s.updChan c f).cfg = s.cfg := rfl
@[simp] theorem State.updChan_shadow (c : Nat) (f : Chan → Chan) : (s.updChan c f).shadow = s.shadow := rfl
@[simp] theorem State.updChan_stage (c : Nat) (f : Chan → Chan) : (s.updChan c f).stage = s.stage := rfl
@[simp] theorem State.updChan_mark (c : Nat) (f : Chan → Chan) : (s.updChan c f).mark = s.mark := rfl
@[simp] theorem State.updChan_mem (c : Nat) (f : Chan → Chan) : (s.updChan c f).mem = s.mem := rfl
@[simp] theorem State.updChan_memUpset (c : Nat) (f : Chan → Chan) : (s.updChan c f).memUpset = s.memUpset := rfl
@[simp] theorem State.updChan_msys (c : Nat) (f : Chan → Chan) : (s.updChan c f).msys = s.msys := rfl
@[simp] theorem State.updChan_dma (c : Nat) (f : Chan → Chan) : (s.updChan c f).dma = s.dma := rfl
@[simp] theorem State.updChan_samp (c : Nat) (f : Chan → Chan) : (s.updChan c f).samp = s.samp := rfl
@[simp] theorem State.updChan_sampTurn (c : Nat) (f : Chan → Chan) : (s.updChan c f).sampTurn = s.sampTurn := rfl
@[simp] theorem State.updChan_scribesOut (c : Nat) (f : Chan → Chan) : (s.updChan c f).scribesOut = s.scribesOut := rfl
@[simp] theorem State.updChan_fenceDrop (c : Nat) (f : Chan → Chan) : (s.updChan c f).fenceDrop = s.fenceDrop := rfl
@[simp] theorem State.updChan_meshCorr (c : Nat) (f : Chan → Chan) : (s.updChan c f).meshCorr = s.meshCorr := rfl
@[simp] theorem State.updChan_meshUncorr (c : Nat) (f : Chan → Chan) : (s.updChan c f).meshUncorr = s.meshUncorr := rfl
@[simp] theorem State.updChan_mesh (c : Nat) (f : Chan → Chan) : (s.updChan c f).mesh = s.mesh := rfl
@[simp] theorem State.updChan_nibs (c : Nat) (f : Chan → Chan) : (s.updChan c f).nibs = s.nibs := rfl
@[simp] theorem State.updChan_beds (c : Nat) (f : Chan → Chan) : (s.updChan c f).beds = s.beds := rfl
@[simp] theorem State.updChan_lastSeal (c : Nat) (f : Chan → Chan) : (s.updChan c f).lastSeal = s.lastSeal := rfl
@[simp] theorem State.updChan_sessions (c : Nat) (f : Chan → Chan) : (s.updChan c f).sessions = s.sessions := rfl
@[simp] theorem State.updChan_frames (c : Nat) (f : Chan → Chan) : (s.updChan c f).frames = s.frames := rfl
@[simp] theorem State.updChan_lpFrames (c : Nat) (f : Chan → Chan) : (s.updChan c f).lpFrames = s.lpFrames := rfl
@[simp] theorem State.updChan_pfx (c : Nat) (f : Chan → Chan) : (s.updChan c f).pfx = s.pfx := rfl
@[simp] theorem State.updChan_oldGens (c : Nat) (f : Chan → Chan) : (s.updChan c f).oldGens = s.oldGens := rfl
@[simp] theorem State.updChan_copies (c : Nat) (f : Chan → Chan) : (s.updChan c f).copies = s.copies := rfl
@[simp] theorem State.updChan_ports (c : Nat) (f : Chan → Chan) : (s.updChan c f).ports = s.ports := rfl
@[simp] theorem State.updChan_tx (c : Nat) (f : Chan → Chan) : (s.updChan c f).tx = s.tx := rfl
@[simp] theorem State.updChan_rx (c : Nat) (f : Chan → Chan) : (s.updChan c f).rx = s.rx := rfl
@[simp] theorem State.updChan_imports (c : Nat) (f : Chan → Chan) : (s.updChan c f).imports = s.imports := rfl
@[simp] theorem State.updChan_twin (c : Nat) (f : Chan → Chan) : (s.updChan c f).twin = s.twin := rfl
@[simp] theorem State.updChan_nib_at (c : Nat) (f : Chan → Chan) (x : Nat) : (s.updChan c f).nib x = s.nib x := rfl
@[simp] theorem State.updChan_bed_at (c : Nat) (f : Chan → Chan) (x : Nat) : (s.updChan c f).bed x = s.bed x := rfl
@[simp] theorem State.updChan_port_at (c : Nat) (f : Chan → Chan) (x : Nat) : (s.updChan c f).port x = s.port x := rfl
@[simp] theorem State.updChan_ses_at (c : Nat) (f : Chan → Chan) (x : Nat) : (s.updChan c f).ses x = s.ses x := rfl
@[simp] theorem State.updChan_dmaCh_at (c : Nat) (f : Chan → Chan) (x : Nat) : (s.updChan c f).dmaCh x = s.dmaCh x := rfl
@[simp] theorem State.updChan_fn_at (c : Nat) (f : Chan → Chan) (x : Nat) : (s.updChan c f).fn x = s.fn x := rfl
@[simp] theorem State.updChan_pfxAt_at (c : Nat) (f : Chan → Chan) (x : Nat) : (s.updChan c f).pfxAt x = s.pfxAt x := rfl
@[simp] theorem State.updChan_cfgAt_at (c : Nat) (f : Chan → Chan) (x : Nat) : (s.updChan c f).cfgAt x = s.cfgAt x := rfl
@[simp] theorem State.updChan_now (c : Nat) (f : Chan → Chan) : (s.updChan c f).now = s.now := rfl
@[simp] theorem State.updChan_runs (c : Nat) (f : Chan → Chan) : (s.updChan c f).runs = s.runs := rfl

/-! ### updDma -/

@[simp] theorem State.updDma_pending (c : Nat) (f : Dma → Dma) : (s.updDma c f).pending = s.pending := rfl
@[simp] theorem State.updDma_out (c : Nat) (f : Dma → Dma) : (s.updDma c f).out = s.out := rfl
@[simp] theorem State.updDma_acyc (c : Nat) (f : Dma → Dma) : (s.updDma c f).acyc = s.acyc := rfl
@[simp] theorem State.updDma_root (c : Nat) (f : Dma → Dma) : (s.updDma c f).root = s.root := rfl
@[simp] theorem State.updDma_ref (c : Nat) (f : Dma → Dma) : (s.updDma c f).ref = s.ref := rfl
@[simp] theorem State.updDma_draws (c : Nat) (f : Dma → Dma) : (s.updDma c f).draws = s.draws := rfl
@[simp] theorem State.updDma_ids (c : Nat) (f : Dma → Dma) : (s.updDma c f).ids = s.ids := rfl
@[simp] theorem State.updDma_pins (c : Nat) (f : Dma → Dma) : (s.updDma c f).pins = s.pins := rfl
@[simp] theorem State.updDma_boot (c : Nat) (f : Dma → Dma) : (s.updDma c f).boot = s.boot := rfl
@[simp] theorem State.updDma_clk (c : Nat) (f : Dma → Dma) : (s.updDma c f).clk = s.clk := rfl
@[simp] theorem State.updDma_therm (c : Nat) (f : Dma → Dma) : (s.updDma c f).therm = s.therm := rfl
@[simp] theorem State.updDma_flash (c : Nat) (f : Dma → Dma) : (s.updDma c f).flash = s.flash := rfl
@[simp] theorem State.updDma_sec (c : Nat) (f : Dma → Dma) : (s.updDma c f).sec = s.sec := rfl
@[simp] theorem State.updDma_pcie (c : Nat) (f : Dma → Dma) : (s.updDma c f).pcie = s.pcie := rfl
@[simp] theorem State.updDma_tap (c : Nat) (f : Dma → Dma) : (s.updDma c f).tap = s.tap := rfl
@[simp] theorem State.updDma_cfg (c : Nat) (f : Dma → Dma) : (s.updDma c f).cfg = s.cfg := rfl
@[simp] theorem State.updDma_shadow (c : Nat) (f : Dma → Dma) : (s.updDma c f).shadow = s.shadow := rfl
@[simp] theorem State.updDma_stage (c : Nat) (f : Dma → Dma) : (s.updDma c f).stage = s.stage := rfl
@[simp] theorem State.updDma_mark (c : Nat) (f : Dma → Dma) : (s.updDma c f).mark = s.mark := rfl
@[simp] theorem State.updDma_mem (c : Nat) (f : Dma → Dma) : (s.updDma c f).mem = s.mem := rfl
@[simp] theorem State.updDma_memUpset (c : Nat) (f : Dma → Dma) : (s.updDma c f).memUpset = s.memUpset := rfl
@[simp] theorem State.updDma_chans (c : Nat) (f : Dma → Dma) : (s.updDma c f).chans = s.chans := rfl
@[simp] theorem State.updDma_msys (c : Nat) (f : Dma → Dma) : (s.updDma c f).msys = s.msys := rfl
@[simp] theorem State.updDma_samp (c : Nat) (f : Dma → Dma) : (s.updDma c f).samp = s.samp := rfl
@[simp] theorem State.updDma_sampTurn (c : Nat) (f : Dma → Dma) : (s.updDma c f).sampTurn = s.sampTurn := rfl
@[simp] theorem State.updDma_scribesOut (c : Nat) (f : Dma → Dma) : (s.updDma c f).scribesOut = s.scribesOut := rfl
@[simp] theorem State.updDma_fenceDrop (c : Nat) (f : Dma → Dma) : (s.updDma c f).fenceDrop = s.fenceDrop := rfl
@[simp] theorem State.updDma_meshCorr (c : Nat) (f : Dma → Dma) : (s.updDma c f).meshCorr = s.meshCorr := rfl
@[simp] theorem State.updDma_meshUncorr (c : Nat) (f : Dma → Dma) : (s.updDma c f).meshUncorr = s.meshUncorr := rfl
@[simp] theorem State.updDma_mesh (c : Nat) (f : Dma → Dma) : (s.updDma c f).mesh = s.mesh := rfl
@[simp] theorem State.updDma_nibs (c : Nat) (f : Dma → Dma) : (s.updDma c f).nibs = s.nibs := rfl
@[simp] theorem State.updDma_beds (c : Nat) (f : Dma → Dma) : (s.updDma c f).beds = s.beds := rfl
@[simp] theorem State.updDma_lastSeal (c : Nat) (f : Dma → Dma) : (s.updDma c f).lastSeal = s.lastSeal := rfl
@[simp] theorem State.updDma_sessions (c : Nat) (f : Dma → Dma) : (s.updDma c f).sessions = s.sessions := rfl
@[simp] theorem State.updDma_frames (c : Nat) (f : Dma → Dma) : (s.updDma c f).frames = s.frames := rfl
@[simp] theorem State.updDma_lpFrames (c : Nat) (f : Dma → Dma) : (s.updDma c f).lpFrames = s.lpFrames := rfl
@[simp] theorem State.updDma_pfx (c : Nat) (f : Dma → Dma) : (s.updDma c f).pfx = s.pfx := rfl
@[simp] theorem State.updDma_oldGens (c : Nat) (f : Dma → Dma) : (s.updDma c f).oldGens = s.oldGens := rfl
@[simp] theorem State.updDma_copies (c : Nat) (f : Dma → Dma) : (s.updDma c f).copies = s.copies := rfl
@[simp] theorem State.updDma_ports (c : Nat) (f : Dma → Dma) : (s.updDma c f).ports = s.ports := rfl
@[simp] theorem State.updDma_tx (c : Nat) (f : Dma → Dma) : (s.updDma c f).tx = s.tx := rfl
@[simp] theorem State.updDma_rx (c : Nat) (f : Dma → Dma) : (s.updDma c f).rx = s.rx := rfl
@[simp] theorem State.updDma_imports (c : Nat) (f : Dma → Dma) : (s.updDma c f).imports = s.imports := rfl
@[simp] theorem State.updDma_twin (c : Nat) (f : Dma → Dma) : (s.updDma c f).twin = s.twin := rfl
@[simp] theorem State.updDma_nib_at (c : Nat) (f : Dma → Dma) (x : Nat) : (s.updDma c f).nib x = s.nib x := rfl
@[simp] theorem State.updDma_bed_at (c : Nat) (f : Dma → Dma) (x : Nat) : (s.updDma c f).bed x = s.bed x := rfl
@[simp] theorem State.updDma_port_at (c : Nat) (f : Dma → Dma) (x : Nat) : (s.updDma c f).port x = s.port x := rfl
@[simp] theorem State.updDma_ses_at (c : Nat) (f : Dma → Dma) (x : Nat) : (s.updDma c f).ses x = s.ses x := rfl
@[simp] theorem State.updDma_chan_at (c : Nat) (f : Dma → Dma) (x : Nat) : (s.updDma c f).chan x = s.chan x := rfl
@[simp] theorem State.updDma_fn_at (c : Nat) (f : Dma → Dma) (x : Nat) : (s.updDma c f).fn x = s.fn x := rfl
@[simp] theorem State.updDma_pfxAt_at (c : Nat) (f : Dma → Dma) (x : Nat) : (s.updDma c f).pfxAt x = s.pfxAt x := rfl
@[simp] theorem State.updDma_cfgAt_at (c : Nat) (f : Dma → Dma) (x : Nat) : (s.updDma c f).cfgAt x = s.cfgAt x := rfl
@[simp] theorem State.updDma_now (c : Nat) (f : Dma → Dma) : (s.updDma c f).now = s.now := rfl
@[simp] theorem State.updDma_runs (c : Nat) (f : Dma → Dma) : (s.updDma c f).runs = s.runs := rfl

/-! ### updFn -/

@[simp] theorem State.updFn_pending (i : Nat) (g : Fn → Fn) : (s.updFn i g).pending = s.pending := rfl
@[simp] theorem State.updFn_out (i : Nat) (g : Fn → Fn) : (s.updFn i g).out = s.out := rfl
@[simp] theorem State.updFn_acyc (i : Nat) (g : Fn → Fn) : (s.updFn i g).acyc = s.acyc := rfl
@[simp] theorem State.updFn_root (i : Nat) (g : Fn → Fn) : (s.updFn i g).root = s.root := rfl
@[simp] theorem State.updFn_ref (i : Nat) (g : Fn → Fn) : (s.updFn i g).ref = s.ref := rfl
@[simp] theorem State.updFn_draws (i : Nat) (g : Fn → Fn) : (s.updFn i g).draws = s.draws := rfl
@[simp] theorem State.updFn_ids (i : Nat) (g : Fn → Fn) : (s.updFn i g).ids = s.ids := rfl
@[simp] theorem State.updFn_pins (i : Nat) (g : Fn → Fn) : (s.updFn i g).pins = s.pins := rfl
@[simp] theorem State.updFn_boot (i : Nat) (g : Fn → Fn) : (s.updFn i g).boot = s.boot := rfl
@[simp] theorem State.updFn_clk (i : Nat) (g : Fn → Fn) : (s.updFn i g).clk = s.clk := rfl
@[simp] theorem State.updFn_therm (i : Nat) (g : Fn → Fn) : (s.updFn i g).therm = s.therm := rfl
@[simp] theorem State.updFn_flash (i : Nat) (g : Fn → Fn) : (s.updFn i g).flash = s.flash := rfl
@[simp] theorem State.updFn_sec (i : Nat) (g : Fn → Fn) : (s.updFn i g).sec = s.sec := rfl
@[simp] theorem State.updFn_tap (i : Nat) (g : Fn → Fn) : (s.updFn i g).tap = s.tap := rfl
@[simp] theorem State.updFn_cfg (i : Nat) (g : Fn → Fn) : (s.updFn i g).cfg = s.cfg := rfl
@[simp] theorem State.updFn_shadow (i : Nat) (g : Fn → Fn) : (s.updFn i g).shadow = s.shadow := rfl
@[simp] theorem State.updFn_stage (i : Nat) (g : Fn → Fn) : (s.updFn i g).stage = s.stage := rfl
@[simp] theorem State.updFn_mark (i : Nat) (g : Fn → Fn) : (s.updFn i g).mark = s.mark := rfl
@[simp] theorem State.updFn_mem (i : Nat) (g : Fn → Fn) : (s.updFn i g).mem = s.mem := rfl
@[simp] theorem State.updFn_memUpset (i : Nat) (g : Fn → Fn) : (s.updFn i g).memUpset = s.memUpset := rfl
@[simp] theorem State.updFn_chans (i : Nat) (g : Fn → Fn) : (s.updFn i g).chans = s.chans := rfl
@[simp] theorem State.updFn_msys (i : Nat) (g : Fn → Fn) : (s.updFn i g).msys = s.msys := rfl
@[simp] theorem State.updFn_dma (i : Nat) (g : Fn → Fn) : (s.updFn i g).dma = s.dma := rfl
@[simp] theorem State.updFn_samp (i : Nat) (g : Fn → Fn) : (s.updFn i g).samp = s.samp := rfl
@[simp] theorem State.updFn_sampTurn (i : Nat) (g : Fn → Fn) : (s.updFn i g).sampTurn = s.sampTurn := rfl
@[simp] theorem State.updFn_scribesOut (i : Nat) (g : Fn → Fn) : (s.updFn i g).scribesOut = s.scribesOut := rfl
@[simp] theorem State.updFn_fenceDrop (i : Nat) (g : Fn → Fn) : (s.updFn i g).fenceDrop = s.fenceDrop := rfl
@[simp] theorem State.updFn_meshCorr (i : Nat) (g : Fn → Fn) : (s.updFn i g).meshCorr = s.meshCorr := rfl
@[simp] theorem State.updFn_meshUncorr (i : Nat) (g : Fn → Fn) : (s.updFn i g).meshUncorr = s.meshUncorr := rfl
@[simp] theorem State.updFn_mesh (i : Nat) (g : Fn → Fn) : (s.updFn i g).mesh = s.mesh := rfl
@[simp] theorem State.updFn_nibs (i : Nat) (g : Fn → Fn) : (s.updFn i g).nibs = s.nibs := rfl
@[simp] theorem State.updFn_beds (i : Nat) (g : Fn → Fn) : (s.updFn i g).beds = s.beds := rfl
@[simp] theorem State.updFn_lastSeal (i : Nat) (g : Fn → Fn) : (s.updFn i g).lastSeal = s.lastSeal := rfl
@[simp] theorem State.updFn_sessions (i : Nat) (g : Fn → Fn) : (s.updFn i g).sessions = s.sessions := rfl
@[simp] theorem State.updFn_frames (i : Nat) (g : Fn → Fn) : (s.updFn i g).frames = s.frames := rfl
@[simp] theorem State.updFn_lpFrames (i : Nat) (g : Fn → Fn) : (s.updFn i g).lpFrames = s.lpFrames := rfl
@[simp] theorem State.updFn_pfx (i : Nat) (g : Fn → Fn) : (s.updFn i g).pfx = s.pfx := rfl
@[simp] theorem State.updFn_oldGens (i : Nat) (g : Fn → Fn) : (s.updFn i g).oldGens = s.oldGens := rfl
@[simp] theorem State.updFn_copies (i : Nat) (g : Fn → Fn) : (s.updFn i g).copies = s.copies := rfl
@[simp] theorem State.updFn_ports (i : Nat) (g : Fn → Fn) : (s.updFn i g).ports = s.ports := rfl
@[simp] theorem State.updFn_tx (i : Nat) (g : Fn → Fn) : (s.updFn i g).tx = s.tx := rfl
@[simp] theorem State.updFn_rx (i : Nat) (g : Fn → Fn) : (s.updFn i g).rx = s.rx := rfl
@[simp] theorem State.updFn_imports (i : Nat) (g : Fn → Fn) : (s.updFn i g).imports = s.imports := rfl
@[simp] theorem State.updFn_twin (i : Nat) (g : Fn → Fn) : (s.updFn i g).twin = s.twin := rfl
@[simp] theorem State.updFn_nib_at (i : Nat) (g : Fn → Fn) (x : Nat) : (s.updFn i g).nib x = s.nib x := rfl
@[simp] theorem State.updFn_bed_at (i : Nat) (g : Fn → Fn) (x : Nat) : (s.updFn i g).bed x = s.bed x := rfl
@[simp] theorem State.updFn_port_at (i : Nat) (g : Fn → Fn) (x : Nat) : (s.updFn i g).port x = s.port x := rfl
@[simp] theorem State.updFn_ses_at (i : Nat) (g : Fn → Fn) (x : Nat) : (s.updFn i g).ses x = s.ses x := rfl
@[simp] theorem State.updFn_chan_at (i : Nat) (g : Fn → Fn) (x : Nat) : (s.updFn i g).chan x = s.chan x := rfl
@[simp] theorem State.updFn_dmaCh_at (i : Nat) (g : Fn → Fn) (x : Nat) : (s.updFn i g).dmaCh x = s.dmaCh x := rfl
@[simp] theorem State.updFn_pfxAt_at (i : Nat) (g : Fn → Fn) (x : Nat) : (s.updFn i g).pfxAt x = s.pfxAt x := rfl
@[simp] theorem State.updFn_cfgAt_at (i : Nat) (g : Fn → Fn) (x : Nat) : (s.updFn i g).cfgAt x = s.cfgAt x := rfl
@[simp] theorem State.updFn_now (i : Nat) (g : Fn → Fn) : (s.updFn i g).now = s.now := rfl
@[simp] theorem State.updFn_runs (i : Nat) (g : Fn → Fn) : (s.updFn i g).runs = s.runs := rfl

/-! ### updPfx -/

@[simp] theorem State.updPfx_pending (n : Nat) (f : PfxEntry → PfxEntry) : (s.updPfx n f).pending = s.pending := rfl
@[simp] theorem State.updPfx_out (n : Nat) (f : PfxEntry → PfxEntry) : (s.updPfx n f).out = s.out := rfl
@[simp] theorem State.updPfx_acyc (n : Nat) (f : PfxEntry → PfxEntry) : (s.updPfx n f).acyc = s.acyc := rfl
@[simp] theorem State.updPfx_root (n : Nat) (f : PfxEntry → PfxEntry) : (s.updPfx n f).root = s.root := rfl
@[simp] theorem State.updPfx_ref (n : Nat) (f : PfxEntry → PfxEntry) : (s.updPfx n f).ref = s.ref := rfl
@[simp] theorem State.updPfx_draws (n : Nat) (f : PfxEntry → PfxEntry) : (s.updPfx n f).draws = s.draws := rfl
@[simp] theorem State.updPfx_ids (n : Nat) (f : PfxEntry → PfxEntry) : (s.updPfx n f).ids = s.ids := rfl
@[simp] theorem State.updPfx_pins (n : Nat) (f : PfxEntry → PfxEntry) : (s.updPfx n f).pins = s.pins := rfl
@[simp] theorem State.updPfx_boot (n : Nat) (f : PfxEntry → PfxEntry) : (s.updPfx n f).boot = s.boot := rfl
@[simp] theorem State.updPfx_clk (n : Nat) (f : PfxEntry → PfxEntry) : (s.updPfx n f).clk = s.clk := rfl
@[simp] theorem State.updPfx_therm (n : Nat) (f : PfxEntry → PfxEntry) : (s.updPfx n f).therm = s.therm := rfl
@[simp] theorem State.updPfx_flash (n : Nat) (f : PfxEntry → PfxEntry) : (s.updPfx n f).flash = s.flash := rfl
@[simp] theorem State.updPfx_sec (n : Nat) (f : PfxEntry → PfxEntry) : (s.updPfx n f).sec = s.sec := rfl
@[simp] theorem State.updPfx_pcie (n : Nat) (f : PfxEntry → PfxEntry) : (s.updPfx n f).pcie = s.pcie := rfl
@[simp] theorem State.updPfx_tap (n : Nat) (f : PfxEntry → PfxEntry) : (s.updPfx n f).tap = s.tap := rfl
@[simp] theorem State.updPfx_cfg (n : Nat) (f : PfxEntry → PfxEntry) : (s.updPfx n f).cfg = s.cfg := rfl
@[simp] theorem State.updPfx_shadow (n : Nat) (f : PfxEntry → PfxEntry) : (s.updPfx n f).shadow = s.shadow := rfl
@[simp] theorem State.updPfx_stage (n : Nat) (f : PfxEntry → PfxEntry) : (s.updPfx n f).stage = s.stage := rfl
@[simp] theorem State.updPfx_mark (n : Nat) (f : PfxEntry → PfxEntry) : (s.updPfx n f).mark = s.mark := rfl
@[simp] theorem State.updPfx_mem (n : Nat) (f : PfxEntry → PfxEntry) : (s.updPfx n f).mem = s.mem := rfl
@[simp] theorem State.updPfx_memUpset (n : Nat) (f : PfxEntry → PfxEntry) : (s.updPfx n f).memUpset = s.memUpset := rfl
@[simp] theorem State.updPfx_chans (n : Nat) (f : PfxEntry → PfxEntry) : (s.updPfx n f).chans = s.chans := rfl
@[simp] theorem State.updPfx_msys (n : Nat) (f : PfxEntry → PfxEntry) : (s.updPfx n f).msys = s.msys := rfl
@[simp] theorem State.updPfx_dma (n : Nat) (f : PfxEntry → PfxEntry) : (s.updPfx n f).dma = s.dma := rfl
@[simp] theorem State.updPfx_samp (n : Nat) (f : PfxEntry → PfxEntry) : (s.updPfx n f).samp = s.samp := rfl
@[simp] theorem State.updPfx_sampTurn (n : Nat) (f : PfxEntry → PfxEntry) : (s.updPfx n f).sampTurn = s.sampTurn := rfl
@[simp] theorem State.updPfx_scribesOut (n : Nat) (f : PfxEntry → PfxEntry) : (s.updPfx n f).scribesOut = s.scribesOut := rfl
@[simp] theorem State.updPfx_fenceDrop (n : Nat) (f : PfxEntry → PfxEntry) : (s.updPfx n f).fenceDrop = s.fenceDrop := rfl
@[simp] theorem State.updPfx_meshCorr (n : Nat) (f : PfxEntry → PfxEntry) : (s.updPfx n f).meshCorr = s.meshCorr := rfl
@[simp] theorem State.updPfx_meshUncorr (n : Nat) (f : PfxEntry → PfxEntry) : (s.updPfx n f).meshUncorr = s.meshUncorr := rfl
@[simp] theorem State.updPfx_mesh (n : Nat) (f : PfxEntry → PfxEntry) : (s.updPfx n f).mesh = s.mesh := rfl
@[simp] theorem State.updPfx_nibs (n : Nat) (f : PfxEntry → PfxEntry) : (s.updPfx n f).nibs = s.nibs := rfl
@[simp] theorem State.updPfx_beds (n : Nat) (f : PfxEntry → PfxEntry) : (s.updPfx n f).beds = s.beds := rfl
@[simp] theorem State.updPfx_lastSeal (n : Nat) (f : PfxEntry → PfxEntry) : (s.updPfx n f).lastSeal = s.lastSeal := rfl
@[simp] theorem State.updPfx_sessions (n : Nat) (f : PfxEntry → PfxEntry) : (s.updPfx n f).sessions = s.sessions := rfl
@[simp] theorem State.updPfx_frames (n : Nat) (f : PfxEntry → PfxEntry) : (s.updPfx n f).frames = s.frames := rfl
@[simp] theorem State.updPfx_lpFrames (n : Nat) (f : PfxEntry → PfxEntry) : (s.updPfx n f).lpFrames = s.lpFrames := rfl
@[simp] theorem State.updPfx_oldGens (n : Nat) (f : PfxEntry → PfxEntry) : (s.updPfx n f).oldGens = s.oldGens := rfl
@[simp] theorem State.updPfx_copies (n : Nat) (f : PfxEntry → PfxEntry) : (s.updPfx n f).copies = s.copies := rfl
@[simp] theorem State.updPfx_ports (n : Nat) (f : PfxEntry → PfxEntry) : (s.updPfx n f).ports = s.ports := rfl
@[simp] theorem State.updPfx_tx (n : Nat) (f : PfxEntry → PfxEntry) : (s.updPfx n f).tx = s.tx := rfl
@[simp] theorem State.updPfx_rx (n : Nat) (f : PfxEntry → PfxEntry) : (s.updPfx n f).rx = s.rx := rfl
@[simp] theorem State.updPfx_imports (n : Nat) (f : PfxEntry → PfxEntry) : (s.updPfx n f).imports = s.imports := rfl
@[simp] theorem State.updPfx_twin (n : Nat) (f : PfxEntry → PfxEntry) : (s.updPfx n f).twin = s.twin := rfl
@[simp] theorem State.updPfx_nib_at (n : Nat) (f : PfxEntry → PfxEntry) (x : Nat) : (s.updPfx n f).nib x = s.nib x := rfl
@[simp] theorem State.updPfx_bed_at (n : Nat) (f : PfxEntry → PfxEntry) (x : Nat) : (s.updPfx n f).bed x = s.bed x := rfl
@[simp] theorem State.updPfx_port_at (n : Nat) (f : PfxEntry → PfxEntry) (x : Nat) : (s.updPfx n f).port x = s.port x := rfl
@[simp] theorem State.updPfx_ses_at (n : Nat) (f : PfxEntry → PfxEntry) (x : Nat) : (s.updPfx n f).ses x = s.ses x := rfl
@[simp] theorem State.updPfx_chan_at (n : Nat) (f : PfxEntry → PfxEntry) (x : Nat) : (s.updPfx n f).chan x = s.chan x := rfl
@[simp] theorem State.updPfx_dmaCh_at (n : Nat) (f : PfxEntry → PfxEntry) (x : Nat) : (s.updPfx n f).dmaCh x = s.dmaCh x := rfl
@[simp] theorem State.updPfx_fn_at (n : Nat) (f : PfxEntry → PfxEntry) (x : Nat) : (s.updPfx n f).fn x = s.fn x := rfl
@[simp] theorem State.updPfx_cfgAt_at (n : Nat) (f : PfxEntry → PfxEntry) (x : Nat) : (s.updPfx n f).cfgAt x = s.cfgAt x := rfl
@[simp] theorem State.updPfx_now (n : Nat) (f : PfxEntry → PfxEntry) : (s.updPfx n f).now = s.now := rfl
@[simp] theorem State.updPfx_runs (n : Nat) (f : PfxEntry → PfxEntry) : (s.updPfx n f).runs = s.runs := rfl

/-! ### setCfg -/

@[simp] theorem State.setCfg_pending (off : Nat) (v : Word) : (s.setCfg off v).pending = s.pending := rfl
@[simp] theorem State.setCfg_out (off : Nat) (v : Word) : (s.setCfg off v).out = s.out := rfl
@[simp] theorem State.setCfg_acyc (off : Nat) (v : Word) : (s.setCfg off v).acyc = s.acyc := rfl
@[simp] theorem State.setCfg_root (off : Nat) (v : Word) : (s.setCfg off v).root = s.root := rfl
@[simp] theorem State.setCfg_ref (off : Nat) (v : Word) : (s.setCfg off v).ref = s.ref := rfl
@[simp] theorem State.setCfg_draws (off : Nat) (v : Word) : (s.setCfg off v).draws = s.draws := rfl
@[simp] theorem State.setCfg_ids (off : Nat) (v : Word) : (s.setCfg off v).ids = s.ids := rfl
@[simp] theorem State.setCfg_pins (off : Nat) (v : Word) : (s.setCfg off v).pins = s.pins := rfl
@[simp] theorem State.setCfg_boot (off : Nat) (v : Word) : (s.setCfg off v).boot = s.boot := rfl
@[simp] theorem State.setCfg_clk (off : Nat) (v : Word) : (s.setCfg off v).clk = s.clk := rfl
@[simp] theorem State.setCfg_therm (off : Nat) (v : Word) : (s.setCfg off v).therm = s.therm := rfl
@[simp] theorem State.setCfg_flash (off : Nat) (v : Word) : (s.setCfg off v).flash = s.flash := rfl
@[simp] theorem State.setCfg_sec (off : Nat) (v : Word) : (s.setCfg off v).sec = s.sec := rfl
@[simp] theorem State.setCfg_pcie (off : Nat) (v : Word) : (s.setCfg off v).pcie = s.pcie := rfl
@[simp] theorem State.setCfg_tap (off : Nat) (v : Word) : (s.setCfg off v).tap = s.tap := rfl
@[simp] theorem State.setCfg_shadow (off : Nat) (v : Word) : (s.setCfg off v).shadow = s.shadow := rfl
@[simp] theorem State.setCfg_stage (off : Nat) (v : Word) : (s.setCfg off v).stage = s.stage := rfl
@[simp] theorem State.setCfg_mark (off : Nat) (v : Word) : (s.setCfg off v).mark = s.mark := rfl
@[simp] theorem State.setCfg_mem (off : Nat) (v : Word) : (s.setCfg off v).mem = s.mem := rfl
@[simp] theorem State.setCfg_memUpset (off : Nat) (v : Word) : (s.setCfg off v).memUpset = s.memUpset := rfl
@[simp] theorem State.setCfg_chans (off : Nat) (v : Word) : (s.setCfg off v).chans = s.chans := rfl
@[simp] theorem State.setCfg_msys (off : Nat) (v : Word) : (s.setCfg off v).msys = s.msys := rfl
@[simp] theorem State.setCfg_dma (off : Nat) (v : Word) : (s.setCfg off v).dma = s.dma := rfl
@[simp] theorem State.setCfg_samp (off : Nat) (v : Word) : (s.setCfg off v).samp = s.samp := rfl
@[simp] theorem State.setCfg_sampTurn (off : Nat) (v : Word) : (s.setCfg off v).sampTurn = s.sampTurn := rfl
@[simp] theorem State.setCfg_scribesOut (off : Nat) (v : Word) : (s.setCfg off v).scribesOut = s.scribesOut := rfl
@[simp] theorem State.setCfg_fenceDrop (off : Nat) (v : Word) : (s.setCfg off v).fenceDrop = s.fenceDrop := rfl
@[simp] theorem State.setCfg_meshCorr (off : Nat) (v : Word) : (s.setCfg off v).meshCorr = s.meshCorr := rfl
@[simp] theorem State.setCfg_meshUncorr (off : Nat) (v : Word) : (s.setCfg off v).meshUncorr = s.meshUncorr := rfl
@[simp] theorem State.setCfg_mesh (off : Nat) (v : Word) : (s.setCfg off v).mesh = s.mesh := rfl
@[simp] theorem State.setCfg_nibs (off : Nat) (v : Word) : (s.setCfg off v).nibs = s.nibs := rfl
@[simp] theorem State.setCfg_beds (off : Nat) (v : Word) : (s.setCfg off v).beds = s.beds := rfl
@[simp] theorem State.setCfg_lastSeal (off : Nat) (v : Word) : (s.setCfg off v).lastSeal = s.lastSeal := rfl
@[simp] theorem State.setCfg_sessions (off : Nat) (v : Word) : (s.setCfg off v).sessions = s.sessions := rfl
@[simp] theorem State.setCfg_frames (off : Nat) (v : Word) : (s.setCfg off v).frames = s.frames := rfl
@[simp] theorem State.setCfg_lpFrames (off : Nat) (v : Word) : (s.setCfg off v).lpFrames = s.lpFrames := rfl
@[simp] theorem State.setCfg_pfx (off : Nat) (v : Word) : (s.setCfg off v).pfx = s.pfx := rfl
@[simp] theorem State.setCfg_oldGens (off : Nat) (v : Word) : (s.setCfg off v).oldGens = s.oldGens := rfl
@[simp] theorem State.setCfg_copies (off : Nat) (v : Word) : (s.setCfg off v).copies = s.copies := rfl
@[simp] theorem State.setCfg_ports (off : Nat) (v : Word) : (s.setCfg off v).ports = s.ports := rfl
@[simp] theorem State.setCfg_tx (off : Nat) (v : Word) : (s.setCfg off v).tx = s.tx := rfl
@[simp] theorem State.setCfg_rx (off : Nat) (v : Word) : (s.setCfg off v).rx = s.rx := rfl
@[simp] theorem State.setCfg_imports (off : Nat) (v : Word) : (s.setCfg off v).imports = s.imports := rfl
@[simp] theorem State.setCfg_twin (off : Nat) (v : Word) : (s.setCfg off v).twin = s.twin := rfl
@[simp] theorem State.setCfg_nib_at (off : Nat) (v : Word) (x : Nat) : (s.setCfg off v).nib x = s.nib x := rfl
@[simp] theorem State.setCfg_bed_at (off : Nat) (v : Word) (x : Nat) : (s.setCfg off v).bed x = s.bed x := rfl
@[simp] theorem State.setCfg_port_at (off : Nat) (v : Word) (x : Nat) : (s.setCfg off v).port x = s.port x := rfl
@[simp] theorem State.setCfg_ses_at (off : Nat) (v : Word) (x : Nat) : (s.setCfg off v).ses x = s.ses x := rfl
@[simp] theorem State.setCfg_chan_at (off : Nat) (v : Word) (x : Nat) : (s.setCfg off v).chan x = s.chan x := rfl
@[simp] theorem State.setCfg_dmaCh_at (off : Nat) (v : Word) (x : Nat) : (s.setCfg off v).dmaCh x = s.dmaCh x := rfl
@[simp] theorem State.setCfg_fn_at (off : Nat) (v : Word) (x : Nat) : (s.setCfg off v).fn x = s.fn x := rfl
@[simp] theorem State.setCfg_pfxAt_at (off : Nat) (v : Word) (x : Nat) : (s.setCfg off v).pfxAt x = s.pfxAt x := rfl
@[simp] theorem State.setCfg_now (off : Nat) (v : Word) : (s.setCfg off v).now = s.now := rfl
@[simp] theorem State.setCfg_runs (off : Nat) (v : Word) : (s.setCfg off v).runs = s.runs := rfl

/-! ### emit -/

@[simp] theorem State.emit_pending (o : Out) : (s.emit o).pending = s.pending := rfl
@[simp] theorem State.emit_acyc (o : Out) : (s.emit o).acyc = s.acyc := rfl
@[simp] theorem State.emit_root (o : Out) : (s.emit o).root = s.root := rfl
@[simp] theorem State.emit_ref (o : Out) : (s.emit o).ref = s.ref := rfl
@[simp] theorem State.emit_draws (o : Out) : (s.emit o).draws = s.draws := rfl
@[simp] theorem State.emit_ids (o : Out) : (s.emit o).ids = s.ids := rfl
@[simp] theorem State.emit_pins (o : Out) : (s.emit o).pins = s.pins := rfl
@[simp] theorem State.emit_boot (o : Out) : (s.emit o).boot = s.boot := rfl
@[simp] theorem State.emit_clk (o : Out) : (s.emit o).clk = s.clk := rfl
@[simp] theorem State.emit_therm (o : Out) : (s.emit o).therm = s.therm := rfl
@[simp] theorem State.emit_flash (o : Out) : (s.emit o).flash = s.flash := rfl
@[simp] theorem State.emit_sec (o : Out) : (s.emit o).sec = s.sec := rfl
@[simp] theorem State.emit_pcie (o : Out) : (s.emit o).pcie = s.pcie := rfl
@[simp] theorem State.emit_tap (o : Out) : (s.emit o).tap = s.tap := rfl
@[simp] theorem State.emit_cfg (o : Out) : (s.emit o).cfg = s.cfg := rfl
@[simp] theorem State.emit_shadow (o : Out) : (s.emit o).shadow = s.shadow := rfl
@[simp] theorem State.emit_stage (o : Out) : (s.emit o).stage = s.stage := rfl
@[simp] theorem State.emit_mark (o : Out) : (s.emit o).mark = s.mark := rfl
@[simp] theorem State.emit_mem (o : Out) : (s.emit o).mem = s.mem := rfl
@[simp] theorem State.emit_memUpset (o : Out) : (s.emit o).memUpset = s.memUpset := rfl
@[simp] theorem State.emit_chans (o : Out) : (s.emit o).chans = s.chans := rfl
@[simp] theorem State.emit_msys (o : Out) : (s.emit o).msys = s.msys := rfl
@[simp] theorem State.emit_dma (o : Out) : (s.emit o).dma = s.dma := rfl
@[simp] theorem State.emit_samp (o : Out) : (s.emit o).samp = s.samp := rfl
@[simp] theorem State.emit_sampTurn (o : Out) : (s.emit o).sampTurn = s.sampTurn := rfl
@[simp] theorem State.emit_scribesOut (o : Out) : (s.emit o).scribesOut = s.scribesOut := rfl
@[simp] theorem State.emit_fenceDrop (o : Out) : (s.emit o).fenceDrop = s.fenceDrop := rfl
@[simp] theorem State.emit_meshCorr (o : Out) : (s.emit o).meshCorr = s.meshCorr := rfl
@[simp] theorem State.emit_meshUncorr (o : Out) : (s.emit o).meshUncorr = s.meshUncorr := rfl
@[simp] theorem State.emit_mesh (o : Out) : (s.emit o).mesh = s.mesh := rfl
@[simp] theorem State.emit_nibs (o : Out) : (s.emit o).nibs = s.nibs := rfl
@[simp] theorem State.emit_beds (o : Out) : (s.emit o).beds = s.beds := rfl
@[simp] theorem State.emit_lastSeal (o : Out) : (s.emit o).lastSeal = s.lastSeal := rfl
@[simp] theorem State.emit_sessions (o : Out) : (s.emit o).sessions = s.sessions := rfl
@[simp] theorem State.emit_frames (o : Out) : (s.emit o).frames = s.frames := rfl
@[simp] theorem State.emit_lpFrames (o : Out) : (s.emit o).lpFrames = s.lpFrames := rfl
@[simp] theorem State.emit_pfx (o : Out) : (s.emit o).pfx = s.pfx := rfl
@[simp] theorem State.emit_oldGens (o : Out) : (s.emit o).oldGens = s.oldGens := rfl
@[simp] theorem State.emit_copies (o : Out) : (s.emit o).copies = s.copies := rfl
@[simp] theorem State.emit_ports (o : Out) : (s.emit o).ports = s.ports := rfl
@[simp] theorem State.emit_tx (o : Out) : (s.emit o).tx = s.tx := rfl
@[simp] theorem State.emit_rx (o : Out) : (s.emit o).rx = s.rx := rfl
@[simp] theorem State.emit_imports (o : Out) : (s.emit o).imports = s.imports := rfl
@[simp] theorem State.emit_twin (o : Out) : (s.emit o).twin = s.twin := rfl
@[simp] theorem State.emit_nib_at (o : Out) (x : Nat) : (s.emit o).nib x = s.nib x := rfl
@[simp] theorem State.emit_bed_at (o : Out) (x : Nat) : (s.emit o).bed x = s.bed x := rfl
@[simp] theorem State.emit_port_at (o : Out) (x : Nat) : (s.emit o).port x = s.port x := rfl
@[simp] theorem State.emit_ses_at (o : Out) (x : Nat) : (s.emit o).ses x = s.ses x := rfl
@[simp] theorem State.emit_chan_at (o : Out) (x : Nat) : (s.emit o).chan x = s.chan x := rfl
@[simp] theorem State.emit_dmaCh_at (o : Out) (x : Nat) : (s.emit o).dmaCh x = s.dmaCh x := rfl
@[simp] theorem State.emit_fn_at (o : Out) (x : Nat) : (s.emit o).fn x = s.fn x := rfl
@[simp] theorem State.emit_pfxAt_at (o : Out) (x : Nat) : (s.emit o).pfxAt x = s.pfxAt x := rfl
@[simp] theorem State.emit_cfgAt_at (o : Out) (x : Nat) : (s.emit o).cfgAt x = s.cfgAt x := rfl
@[simp] theorem State.emit_now (o : Out) : (s.emit o).now = s.now := rfl
@[simp] theorem State.emit_runs (o : Out) : (s.emit o).runs = s.runs := rfl

/-! ### A part read after an update -/

@[simp] theorem State.updSes_eq (i : Nat) (f : Session → Session) : s.updSes i f = s.setSes i (f (s.ses i)) := rfl

@[simp] theorem State.updPort_eq (n : Nat) (f : Port → Port) : s.updPort n f = s.setPort n (f (s.port n)) := rfl

@[simp] theorem State.updBed_eq (b : Nat) (f : Bed → Bed) : s.updBed b f = s.setBed b (f (s.bed b)) := rfl

@[simp] theorem State.updNib_eq (p : Nat) (f : Nib → Nib) : s.updNib p f = s.setNib p (f (s.nib p)) := rfl

@[simp] theorem State.setNib_nib (p q : Nat) (v : Nib) : (s.setNib p v).nib q = if q = p then v else s.nib q := mget_mset ..
@[simp] theorem State.setBed_bed (b c : Nat) (v : Bed) : (s.setBed b v).bed c = if c = b then v else s.bed c := mget_mset ..
@[simp] theorem State.setPort_port (m n : Nat) (v : Port) : (s.setPort m v).port n = if n = m then v else s.port n := mget_mset ..
@[simp] theorem State.setSes_ses (i j : Nat) (v : Session) : (s.setSes i v).ses j = if j = i then v else s.ses j := mget_mset ..
@[simp] theorem State.updChan_chan (c d : Nat) (f : Chan → Chan) :
    (s.updChan c f).chan d = if d = c then f (s.chan c) else s.chan d := mget_mset ..
@[simp] theorem State.updDma_dmaCh (c d : Nat) (f : Dma → Dma) :
    (s.updDma c f).dmaCh d = if d = c then f (s.dmaCh c) else s.dmaCh d := mget_mset ..
@[simp] theorem State.updFn_fn (i j : Nat) (g : Fn → Fn) :
    (s.updFn i g).fn j = if j = i then g (s.fn i) else s.fn j := mget_mset ..
@[simp] theorem State.updPfx_pfxAt (i j : Nat) (f : PfxEntry → PfxEntry) :
    (s.updPfx i f).pfxAt j = if j = i then f (s.pfxAt i) else s.pfxAt j := mget_mset ..
@[simp] theorem State.emit_out (o : Out) : (s.emit o).out = s.out ++ [o] := rfl
@[simp] theorem State.setCfg_cfgAt (a b : Nat) (v : Word) :
    (s.setCfg a v).cfgAt b = if b = a then v.toNat else s.cfgAt b := by
  unfold State.cfgAt State.setCfg
  by_cases h : b = a
  · subst h; simp
  · unfold mset
    simp only [h, if_false]
    split
    · rw [mget_merase_ne _ _ h]
    · rw [mget_minsert_ne _ _ _ h]

end Sys2Proof.Machine
end

