-- ==== Sys2Proof/Laws/Memory.lean ====
section
/-!
SUPPORT. Laws of device memory: what a read and a write of it may change, that both keep its canonical form, and what they
answer where no codeword is in error.
-/
namespace Sys2Proof.Machine

variable {s t u : State}

/-- `t` differs from `s` in nibs, device memory and the memory system alone, and keeps memory canonical. -/
def State.MemOnly (s t : State) : Prop :=
  t = { s with nibs := t.nibs, mem := t.mem, memUpset := t.memUpset, chans := t.chans, msys := t.msys } ∧
    (Memory.wf s.mem = true → Memory.wf t.mem = true)

theorem State.MemOnly.refl (s : State) : s.MemOnly s := ⟨rfl, id⟩

theorem State.MemOnly.trans (h : s.MemOnly t) (k : t.MemOnly u) : s.MemOnly u := by
  refine ⟨?_, fun w => k.2 (h.2 w)⟩
  rw [k.1, h.1]

theorem State.MemOnly.ite {c : Prop} [Decidable c] (h : s.MemOnly t) (k : s.MemOnly u) : s.MemOnly (if c then t else u) := by
  split <;> assumption

theorem State.updNib_memOnly (p : Nat) (f : Nib → Nib) : s.MemOnly (s.updNib p f) := ⟨rfl, id⟩
theorem State.updChan_memOnly (c : Nat) (f : Chan → Chan) : s.MemOnly (s.updChan c f) := ⟨rfl, id⟩
theorem State.msys_memOnly (m : MemSys) : s.MemOnly { s with msys := m } := ⟨rfl, id⟩

/-- Starting a retraining changes channels and the memory system alone. -/
theorem State.retrainNext_memOnly (lp : Bool) : s.MemOnly (s.retrainNext lp) := by
  unfold State.retrainNext
  dsimp only
  split
  · exact ⟨rfl, id⟩
  · split <;> exact ⟨rfl, id⟩

theorem State.queueRetrain_memOnly (lp : Bool) (c : Nat) (m : Bool) : s.MemOnly (s.queueRetrain lp c m) := by
  unfold State.queueRetrain
  exact .ite (.refl s) ((State.msys_memOnly _).trans (State.retrainNext_memOnly lp))

/-- Counting a correction changes counters, and may start a retraining. -/
theorem State.countCorr_memOnly (a : Nat) : s.MemOnly (s.countCorr a) := by
  unfold State.countCorr
  split
  · exact State.updNib_memOnly _ _
  · dsimp only
    split
    · exact (State.updChan_memOnly _ _).trans (State.queueRetrain_memOnly _ _ _)
    · exact State.updChan_memOnly _ _
  · exact .refl s

theorem State.putOne_memOnly (a : Nat) (bs : List Byte) : s.MemOnly (s.putOne a bs) := by
  unfold State.putOne
  split
  · exact State.updNib_memOnly _ _
  · split
    · exact .refl s
    · exact ⟨rfl, fun w => msetRange_wf _ _ _ w⟩
  · exact .refl s

/-- Storing a codeword keeps memory canonical. -/
theorem State.putCw_memOnly (a : Nat) (bs : List Byte) : s.MemOnly (s.putCw a bs) := by
  unfold State.putCw
  split
  · exact State.putOne_memOnly _ _
  · exact (State.putOne_memOnly _ _).trans (State.putOne_memOnly _ _)

theorem State.rewriteUnit_memOnly (a b n : Nat) : s.MemOnly (s.rewriteUnit a b n) := by
  induction n with
  | zero => exact .refl s
  | succ n ih =>
    unfold State.rewriteUnit
    dsimp only
    split
    · exact ih.trans (State.putOne_memOnly _ _)
    · exact ih

theorem State.countUncorr_memOnly (a : Nat) : s.MemOnly (s.countUncorr a) := by
  unfold State.countUncorr
  split
  · exact State.updChan_memOnly _ _
  · exact .refl s

/-- Serving a codeword of the system area from its other copy changes memory and counters alone. -/
theorem State.fromTwin_memOnly (a : Nat) : s.MemOnly (s.fromTwin a).2 := by
  unfold State.fromTwin
  split
  · exact .refl s
  · next b _ =>
    split
    · exact .refl s
    · next c _ =>
      have h : s.MemOnly (if c then s.countCorr b else s) := .ite (State.countCorr_memOnly _) (.refl s)
      have k := h.trans (State.countUncorr_memOnly a)
      exact k.trans (.ite (.refl _) ((State.rewriteUnit_memOnly _ _ _).trans (State.msys_memOnly _)))

/-- Serving a codeword changes memory and counters alone. -/
theorem State.served_memOnly (a : Nat) : s.MemOnly (s.served a).2 := by
  unfold State.served
  dsimp only
  split
  · exact State.fromTwin_memOnly _
  · exact .ite (State.countCorr_memOnly _) (.refl s)

theorem State.writeCw_memOnly (cw a : Nat) (bs : List Byte) : s.MemOnly (s.writeCw cw a bs).1 := by
  unfold State.writeCw
  dsimp only
  split
  · exact State.putCw_memOnly _ _
  · have h := State.served_memOnly (s := s) cw
    split <;> next e => rw [e] at h; first | exact h | exact h.trans (State.putCw_memOnly _ _)

theorem State.writeCws_memOnly (cw a n : Nat) (bs : List Byte) : s.MemOnly (s.writeCws cw a bs n).1 := by
  induction n generalizing s cw with
  | zero => exact .refl s
  | succ n ih => exact (State.writeCw_memOnly cw a bs).trans (ih (cw + 32))

/-- A write of device memory changes nibs (the scratchpad window), memory and the memory system alone. -/
theorem State.writeDev_memOnly (a : Nat) (bs : List Byte) : s.MemOnly (s.writeDev a bs).1 := State.writeCws_memOnly ..

theorem State.readCws_memOnly (a n : Nat) : s.MemOnly (s.readCws a n).2 := by
  induction n generalizing s a with
  | zero => exact .refl s
  | succ n ih =>
    unfold State.readCws
    have h := State.served_memOnly (s := s) a
    split
    · next e => rw [e] at h; exact h
    · next v e =>
      rw [e] at h
      have h2 := ih (s := v) (a + 32)
      split <;> next h3 => rw [h3] at h2; exact h.trans h2

/-- A read of device memory changes counters, the memory system and what it rewrites from the other copy alone. -/
theorem State.readDev_memOnly (a n : Nat) : s.MemOnly (s.readDev a n).2 := by
  unfold State.readDev
  have h := State.readCws_memOnly (s := s) (a / 32 * 32) (cdiv (a % 32 + n) 32)
  split <;> next e => rw [e] at h; exact h

/-! ### Where no codeword is in error -/

/-- The codeword at `a` lies in a working channel, is clean, and belongs to no system area and no table of tenants. -/
def State.CleanAt (s : State) (a : Nat) : Prop :=
  ∃ c, placeOf a = .chan c ∧ (s.chan c).dead = false ∧ mget 0 s.memUpset a = 0 ∧ s.sysOffset a = none ∧ s.tenantAt a = none

theorem mgetRange_length {α : Type} (d : α) (m : SMap α) (k n : Nat) : (mgetRange d m k n).length = n := by
  induction n generalizing k with
  | zero => rfl
  | succ n ih => simp [mgetRange, ih]

theorem mgetRange_add {α : Type} (d : α) (m : SMap α) (k n j : Nat) :
    mgetRange d m k (n + j) = mgetRange d m k n ++ mgetRange d m (k + n) j := by
  induction n generalizing k with
  | zero => simp [mgetRange]
  | succ n ih =>
    rw [Nat.succ_add, mgetRange, ih, mgetRange, List.cons_append, show k + 1 + n = k + (n + 1) by omega]

theorem mget_absent {α : Type} (d : α) (m : SMap α) (k : Nat) (h : ∀ e, e ∈ m → e.1 ≠ k) : mget d m k = d := by
  induction m with
  | nil => rfl
  | cons e m ih =>
    obtain ⟨k', v⟩ := e
    have h1 : k' ≠ k := h (k', v) (by simp)
    simp [mget, h1, ih fun e he => h e (by simp [he])]

/-- Entries that are not listed. -/
theorem mgetRange_absent {α : Type} (d : α) (m : SMap α) (k n : Nat) (h : ∀ e, e ∈ m → e.1 < k ∨ k + n ≤ e.1) :
    mgetRange d m k n = List.replicate n d := by
  induction n generalizing k with
  | zero => rfl
  | succ n ih =>
    rw [mgetRange, mget_absent d m k fun e he => by have := h e he; omega,
      ih (k + 1) fun e he => by have := h e he; omega, List.replicate_succ]

theorem State.codeword_clean {a : Nat} (h : s.CleanAt a) : s.codeword a = (some (mgetRange 0 s.mem a 32), false) := by
  obtain ⟨c, hc, hd, hu, ho, ht⟩ := h
  simp only [State.codeword, hc, hd, houseRead, State.stored, ho, ht, Option.bind_none]
  rw [if_neg (by decide), if_pos hu]

theorem State.served_clean {a : Nat} (h : s.CleanAt a) : s.served a = (some (mgetRange 0 s.mem a 32), s) := by
  have hf : s.firstPlace a = a := by
    obtain ⟨c, -, -, -, ho, -⟩ := h
    have ht : s.sysTwin a = none := by unfold State.sysTwin; rw [ho]
    unfold State.firstPlace
    rw [ht]
    split <;> rfl
  simp [State.served, hf, State.codeword_clean h]

/-- Clean codewords read as the memory holds them. -/
theorem State.readCws_clean {a n : Nat} (h : ∀ i, i < n → s.CleanAt (a + 32 * i)) :
    s.readCws a n = (.ok (mgetRange 0 s.mem a (32 * n)), s) := by
  induction n generalizing a with
  | zero => rfl
  | succ n ih =>
    have h0 := State.served_clean (h 0 (by omega))
    have h1 := ih (a := a + 32) fun i hi => by have := h (i + 1) (by omega); rwa [show a + 32 * (i + 1) = a + 32 + 32 * i by omega] at this
    simp only [State.readCws]
    rw [show a + 32 * 0 = a by omega] at h0
    simp only [h0, h1]
    rw [show 32 * (n + 1) = 32 + 32 * n by omega, mgetRange_add]

/-- An aligned read of clean codewords. -/
theorem State.readDev_clean {a n : Nat} (ha : a % 32 = 0) (h : ∀ i, i < cdiv n 32 → s.CleanAt (a + 32 * i)) :
    s.readDev a n = (.ok ((mgetRange 0 s.mem a (32 * cdiv n 32)).take n), s) := by
  have ha' : a / 32 * 32 = a := by omega
  unfold State.readDev
  rw [ha', ha, Nat.zero_add, State.readCws_clean h]
  simp

/-- A write of zeros over bytes that are not listed changes nothing. -/
theorem merase_absent {α : Type} (m : SMap α) (k : Nat) (h : ∀ e, e ∈ m → e.1 ≠ k) : merase m k = m := by
  induction m with
  | nil => rfl
  | cons e m ih =>
    obtain ⟨k', v⟩ := e
    have h1 : k' ≠ k := h (k', v) (by simp)
    simp [merase, h1, ih fun e he => h e (by simp [he])]

theorem msetRange_zeros {α : Type} [DecidableEq α] (d : α) (m : SMap α) (k n : Nat)
    (h : ∀ e, e ∈ m → e.1 < k ∨ k + n ≤ e.1) : msetRange d m k (List.replicate n d) = m := by
  induction n generalizing k with
  | zero => rfl
  | succ n ih =>
    rw [List.replicate_succ, msetRange, mset, if_pos rfl, merase_absent m k fun e he => by have := h e he; omega]
    exact ih (k + 1) fun e he => by have := h e he; omega

/-- Outside the first 16 MiB of each HBM channel an address is of no system area. -/
theorem State.sysOffset_none {a : Nat} (h : 0x006000000000 ≤ a ∨ 0x1000000 ≤ a % 0xC0000000) : s.sysOffset a = none := by
  unfold State.sysOffset
  split
  · next c hc =>
    dsimp only
    rw [if_pos]
    rcases h with h | h
    · left
      unfold placeOf at hc
      rw [if_neg (by omega)] at hc
      split at hc
      · cases hc; omega
      · split at hc
        · dsimp only at hc
          split at hc <;> cases hc
        · cases hc
    · exact .inr (.inl h)
  · rfl

/-- Outside the system area a codeword has no second copy. -/
theorem State.sysTwin_none {a : Nat} (h : s.sysOffset a = none) : s.sysTwin a = none := by
  unfold State.sysTwin
  rw [h]

theorem State.putCw_zeros {a : Nat} (h : s.CleanAt a) (ho : s.sysTwin a = none) (hu : s.memUpset = [])
    (hm : ∀ e, e ∈ s.mem → e.1 < a ∨ a + 32 ≤ e.1) : s.putCw a (List.replicate 32 0) = s := by
  obtain ⟨c, hc, hd, -, -, -⟩ := h
  have hz := msetRange_zeros 0 s.mem a 32 hm
  simp only [State.putCw, ho, State.putOne, hc, hd, hu, merase, hz]
  rw [if_neg (by decide), ← hu]

/-- An aligned write of zeros over clean codewords that read 0 changes nothing. -/
theorem State.writeDev_zeros {a n : Nat} (ha : a % 32 = 0) (h : ∀ i, i < n → s.CleanAt (a + 32 * i))
    (hu : s.memUpset = []) (hm : ∀ e, e ∈ s.mem → e.1 < a ∨ a + 32 * n ≤ e.1) : s.writeDev a (List.replicate (32 * n) 0) = (s, []) := by
  have key : ∀ j b, j + b = n → s.writeCws (a + 32 * b) a (List.replicate (32 * n) 0) j = (s, []) := by
    intro j
    induction j with
    | zero => intro b _; rfl
    | succ j ih =>
      intro b hb
      have hw : s.writeCw (a + 32 * b) a (List.replicate (32 * n) 0) = (s, false) := by
        unfold State.writeCw
        have h1 : max (a + 32 * b) a = a + 32 * b := by omega
        have h2 : min (a + 32 * b + 32) (a + (List.replicate (32 * n) (0 : Byte)).length) = a + 32 * b + 32 := by
          rw [List.length_replicate]; omega
        simp only [h1, h2, and_self, if_true, List.drop_replicate, List.take_replicate]
        rw [show min (a + 32 * b + 32 - (a + 32 * b)) (32 * n - (a + 32 * b - a)) = 32 by omega,
          State.putCw_zeros (h b (by omega)) (State.sysTwin_none (h b (by omega)).choose_spec.2.2.2.1) hu fun e he => by have := hm e he; omega]
      have := ih (b + 1) (by omega)
      rw [show a + 32 * (b + 1) = a + 32 * b + 32 by omega] at this
      simp only [State.writeCws, hw, this]
      rfl
  have ha' : a / 32 * 32 = a := by omega
  have hc : cdiv (a % 32 + (List.replicate (32 * n) (0 : Byte)).length) 32 = n := by
    rw [List.length_replicate, ha, cdiv]; omega
  have := key n 0 (by omega)
  rw [show a + 32 * 0 = a by omega] at this
  rw [State.writeDev, ha', hc, this]

end Sys2Proof.Machine
end

