-- ==== Sys2Proof/Laws/Nib.lean ====
section
/-!
SUPPORT. Laws of a nib's issue: what a ready slot, a shadowed one and a slot of another instruction do; and of vector
registers.
-/
namespace Sys2Proof.Machine

/-- A ready slot whose word is selected issues: it is marked, and has its effect. -/
theorem State.issue_ready {s : State} {p k w : Nat} {sel : Nat → Bool} {f : Nat → State → State} {seq : Bool}
    (h : s.Ready p k w) (hs : sel w = true) : s.issue p k sel f seq = f w (s.updNib p fun n => n.setIssued k) := by
  obtain ⟨hr, hn, hf, hl, b, hb, rfl⟩ := h
  simp only [State.issue, hr, hn, hf, hb, hs, hl]
  simp

/-- A slot that holds another instruction does nothing. -/
theorem State.issue_other {s : State} {p k w : Nat} {sel : Nat → Bool} {f : Nat → State → State} {seq : Bool}
    (h : s.Ready p k w) (hs : sel w = false) : s.issue p k sel f seq = s := by
  obtain ⟨hr, hn, hf, hl, b, hb, rfl⟩ := h
  simp only [State.issue, hr, hn, hf, hb, hs]
  simp

/-- Marking a slot issued changes no store and no register. -/
theorem Nib.setIssued_frame (n : Nib) (k : Nat) : n.setIssued k =
    { n with issuedM := (n.setIssued k).issuedM, issuedV := (n.setIssued k).issuedV, issuedX := (n.setIssued k).issuedX
             issuedC := (n.setIssued k).issuedC } := by
  unfold Nib.setIssued; split <;> rfl

theorem lanes64_length (l : List Lane) : (lanes64 l).length = 64 := by simp [lanes64]

theorem Nib.vreg_length (n : Nib) (v : Nat) : (n.vreg v).length = 64 := lanes64_length _

theorem Nib.vreg_setVreg (n : Nib) (v u : Nat) (l : List Lane) (f : Nat × Nat) :
    (n.setVreg v l f).vreg u = if u = v then lanes64 l else n.vreg u := by
  unfold Nib.vreg Nib.setVreg
  simp only [mget_mset]
  split <;> rfl

/-- Updates of one nib compose. -/
theorem State.onlyNib_setNib (s : State) (p : Nat) (v : Nib) : s.OnlyNib (s.setNib p v) p :=
  ⟨rfl, fun q hq => by simp [hq]⟩

/-! ### Reads that marking a slot leaves alone -/

@[simp] theorem Nib.ra_setIssued (n : Nib) (k : Nat) (w : Nat) : (n.setIssued k).ra w = n.ra w := by
  unfold Nib.setIssued; split <;> rfl
@[simp] theorem Nib.ra24_setIssued (n : Nib) (k : Nat) (w r : Nat) : (n.setIssued k).ra24 w r = n.ra24 w r := by
  unfold Nib.setIssued; split <;> rfl
@[simp] theorem Nib.handle_setIssued (n : Nib) (k : Nat) (a b : Nat) : (n.setIssued k).handle a b = n.handle a b := by
  unfold Nib.setIssued; split <;> rfl
@[simp] theorem Nib.rowIn_setIssued (n : Nib) (k : Nat) (a b c : Nat) : (n.setIssued k).rowIn a b c = n.rowIn a b c := by
  unfold Nib.setIssued; split <;> rfl
@[simp] theorem Nib.hrow_setIssued (n : Nib) (k : Nat) (a b : Nat) : (n.setIssued k).hrow a b = n.hrow a b := by
  unfold Nib.setIssued; split <;> rfl
@[simp] theorem Nib.hlen_setIssued (n : Nib) (k : Nat) (a : Nat) : (n.setIssued k).hlen a = n.hlen a := by
  unfold Nib.setIssued; split <;> rfl
@[simp] theorem Nib.slotAt_setIssued (n : Nib) (k : Nat) (a b : Nat) : (n.setIssued k).slotAt a b = n.slotAt a b := by
  unfold Nib.setIssued; split <;> rfl
@[simp] theorem Nib.bundleAt_setIssued (n : Nib) (k : Nat) (a : Nat) : (n.setIssued k).bundleAt a = n.bundleAt a := by
  unfold Nib.setIssued; split <;> rfl
@[simp] theorem Nib.route_setIssued (n : Nib) (k : Nat) (a : Nat) : (n.setIssued k).route a = n.route a := by
  unfold Nib.setIssued; split <;> rfl
@[simp] theorem Nib.counter_setIssued (n : Nib) (k : Nat) (a : Nat) : (n.setIssued k).counter a = n.counter a := by
  unfold Nib.setIssued; split <;> rfl
@[simp] theorem Nib.extWord_setIssued (n : Nib) (k : Nat) (a : Nat) : (n.setIssued k).extWord a = n.extWord a := by
  unfold Nib.setIssued; split <;> rfl
@[simp] theorem Nib.tag_setIssued (n : Nib) (k : Nat) (a : Nat) : (n.setIssued k).tag a = n.tag a := by
  unfold Nib.setIssued; split <;> rfl
@[simp] theorem Nib.vreg_setIssued (n : Nib) (k : Nat) (a : Nat) : (n.setIssued k).vreg a = n.vreg a := by
  unfold Nib.setIssued; split <;> rfl
@[simp] theorem Nib.vflag_setIssued (n : Nib) (k : Nat) (a : Nat) : (n.setIssued k).vflag a = n.vflag a := by
  unfold Nib.setIssued; split <;> rfl
@[simp] theorem Nib.padFlag_setIssued (n : Nib) (k : Nat) (a : Nat) : (n.setIssued k).padFlag a = n.padFlag a := by
  unfold Nib.setIssued; split <;> rfl
@[simp] theorem Nib.shape_setIssued (n : Nib) (k : Nat) (a : Nat) : (n.setIssued k).shape a = n.shape a := by
  unfold Nib.setIssued; split <;> rfl
/-- What a scheduled read of a row delivers: the row as it is stored, corrected where it can be (R80, R433). -/
theorem Nib.peek_eq (n : Nib) (row : Nat) : n.peek row =
    if mget 0 n.padUpset row = 0 then mget 0 n.pad row
    else match (houseRead (rowBytes (mget 0 n.pad row)) (mget 0 n.padUpset row)).1 with
      | some bs => rowOf bs
      | none => mget 0 n.pad row := by
  unfold Nib.peek Nib.readRow
  dsimp only
  split
  · rfl
  · split <;> simp_all
@[simp] theorem Nib.peek_setIssued (n : Nib) (k : Nat) (a : Nat) : (n.setIssued k).peek a = n.peek a := by
  rw [Nib.peek_eq, Nib.peek_eq]; unfold Nib.setIssued; split <;> rfl
@[simp] theorem Nib.macroStop_setIssued (n : Nib) (k e : Nat) : (n.setIssued k).macroStop e = n.macroStop e := by
  unfold Nib.setIssued; split <;> rfl
@[simp] theorem Nib.descBits_setIssued (n : Nib) (k h r : Nat) : (n.setIssued k).descBits h r = n.descBits h r := by
  unfold Nib.descBits; simp only [Nib.peek_setIssued, Nib.hrow_setIssued]
@[simp] theorem Nib.descriptor_setIssued (n : Nib) (k h : Nat) : (n.setIssued k).descriptor h = n.descriptor h := by
  unfold Nib.descriptor; simp only [Nib.descBits_setIssued]
@[simp] theorem Nib.matmul_setIssued (n : Nib) (k h : Nat) : (n.setIssued k).matmul h = n.matmul h := by
  unfold Nib.matmul; simp only [Nib.extWord_setIssued]
@[simp] theorem Nib.attendOf_setIssued (n : Nib) (k h : Nat) : (n.setIssued k).attendOf h = n.attendOf h := by
  unfold Nib.attendOf; simp only [Nib.extWord_setIssued]
@[simp] theorem Nib.entryAt_setIssued (n : Nib) (k : Nat) (a : Att) (v : Nat) : (n.setIssued k).entryAt a v = n.entryAt a v := by
  unfold Nib.entryAt; simp only [Nib.peek_setIssued, Nib.hrow_setIssued]
@[simp] theorem Nib.proCycles_setIssued (n : Nib) (k : Nat) (m : Mat) : (n.setIssued k).proCycles m = n.proCycles m := by
  unfold Nib.proCycles; simp only [Nib.descriptor_setIssued]
@[simp] theorem Nib.pc_setIssued (n : Nib) (k : Nat) : (n.setIssued k).pc = n.pc := by
  unfold Nib.setIssued; split <;> rfl
@[simp] theorem Nib.slotD_setIssued (n : Nib) (k : Nat) : (n.setIssued k).slotD = n.slotD := by
  unfold Nib.setIssued; split <;> rfl
@[simp] theorem Nib.passIn_setIssued (n : Nib) (k a lo hi : Nat) : (n.setIssued k).passIn a lo hi = n.passIn a lo hi := by
  simp only [Nib.passIn, Nib.slotAt_setIssued]
@[simp] theorem Nib.routeBundles_setIssued (n : Nib) (k : Nat) : (n.setIssued k).routeBundles = n.routeBundles := by
  unfold Nib.setIssued; split <;> rfl
theorem Nib.nextPassFmt_setIssued (n : Nib) (k a b : Nat) (fs : List LoopFrame) :
    (n.setIssued k).nextPassFmt a b fs = n.nextPassFmt a b fs := by
  induction fs generalizing b with
  | nil => simp only [Nib.nextPassFmt, Nib.passIn_setIssued, Nib.slotD_setIssued, Nib.routeBundles_setIssued]
  | cons f fs ih => simp only [Nib.nextPassFmt, Nib.passIn_setIssued, ih]
@[simp] theorem Nib.loops_setIssued (n : Nib) (k : Nat) : (n.setIssued k).loops = n.loops := by
  unfold Nib.setIssued; split <;> rfl
@[simp] theorem Nib.frontMode_setIssued (n : Nib) (k a : Nat) (f : Fmt) : (n.setIssued k).frontMode a f = n.frontMode a f := by
  unfold Nib.frontMode
  rw [Nib.nextPassFmt_setIssued, Nib.pc_setIssued, Nib.loops_setIssued]

end Sys2Proof.Machine
end

