-- ==== Sys2Proof/Laws/Rings.lean ====
section
/-!
SUPPORT. Laws of submission rings: reading one changes no more than a read of device memory does, and the packets of a ring in
host memory number between 1 and the slots that wait, as their headers count them.
-/
namespace Sys2Proof.Machine

variable {s : State}

theorem State.ringRead_memOnly (u : Queue) (i n : Nat) : s.MemOnly (s.ringRead u i n).2 := by
  induction n generalizing s i with
  | zero => exact .refl s
  | succ n ih =>
    have h := State.readDev_memOnly (s := s) (u.sqBase + 64 * (i % u.sqSlots)) 64
    unfold State.ringRead
    split
    · rename_i e; rw [e] at h; exact h
    · rename_i e
      rw [e] at h
      have k := ih (s := ‹State›) (i := i + 1)
      split <;> (rename_i e'; rw [e'] at k; exact h.trans k)

theorem State.ringPackets_memOnly (u : Queue) (i w n : Nat) : s.MemOnly (s.ringPackets u i w n).2 := by
  induction n generalizing s i w with
  | zero => exact .refl s
  | succ n ih =>
    unfold State.ringPackets
    split
    · exact .refl s
    · have h := State.ringRead_memOnly (s := s) u i 1
      split
      · rename_i e; rw [e] at h; exact h
      · rename_i e
        rw [e] at h
        exact h.trans (ih _ _)

/-- No packet is counted where no slot waits. -/
theorem State.unfetched_none {u : Queue} {ring : List (List Byte)} (h : u.waiting = 0) : s.unfetched u ring = (0, s) := by
  unfold State.unfetched
  rw [h]
  split
  · rfl
  · cases ring <;> rfl

/-- Counting packets leaves every bed as it is. -/
theorem State.unfetched_beds (u : Queue) (ring : List (List Byte)) : (s.unfetched u ring).2.beds = s.beds := by
  unfold State.unfetched
  split
  · rw [(State.ringPackets_memOnly (s := s) u u.head u.waiting u.waiting).1]
  · rfl

/-- Headers of a ring in host memory count at least one packet where a slot waits, and no more packets than slots. -/
theorem hostPackets_bounds (ring : List (List Byte)) (w : Nat) (h : w ≠ 0) : 1 ≤ hostPackets ring w ∧ hostPackets ring w ≤ w := by
  induction ring generalizing w with
  | nil => simp only [hostPackets, if_neg h]; omega
  | cons x xs ih =>
    simp only [hostPackets, if_neg h]
    generalize bitsAt (leNat (slice x 0 64)) 64 12 = l
    by_cases e : w - (1 + l) = 0
    · rw [e]
      have z : hostPackets xs 0 = 0 := by cases xs <;> rfl
      omega
    · have := ih _ e
      omega

/-- Counting the packets of a ring in host memory changes nothing. -/
theorem State.unfetched_host {u : Queue} {ring : List (List Byte)} (h : u.waiting ≠ 0) (k : u.sqHbm = false) :
    1 ≤ (s.unfetched u ring).1 ∧ (s.unfetched u ring).1 ≤ u.waiting ∧ (s.unfetched u ring).2 = s := by
  have e : s.unfetched u ring = (hostPackets ring u.waiting, s) := by simp [State.unfetched, k]
  rw [e]
  exact ⟨(hostPackets_bounds ring _ h).1, (hostPackets_bounds ring _ h).2, rfl⟩

end Sys2Proof.Machine
end

