-- ==== Sys2Proof/Laws/Ship.lean ====
section
/-!
SUPPORT. Streams: what a change of a stream reads as, and the provisional batches of a received one.
-/
namespace Sys2Proof.Machine

/-- A change that keeps a stream's number shows at that number. -/
theorem State.txAt_updTx (s : State) (num : Nat) (f : TxStream → TxStream) (h : ∀ t, (f t).num = t.num) :
    (s.updTx num f).txAt num = (s.txAt num).map f := by
  unfold State.txAt State.updTx
  dsimp only
  induction s.tx with
  | nil => rfl
  | cons t l ih =>
    by_cases ht : t.num = num
    · simp [ht, h]
    · simp [ht, ih]

/-- A change of one stream leaves every other as it was. -/
theorem State.txAt_updTx_ne (s : State) {num k : Nat} (f : TxStream → TxStream) (h : ∀ t, (f t).num = t.num) (hk : k ≠ num) :
    (s.updTx num f).txAt k = s.txAt k := by
  unfold State.txAt State.updTx
  dsimp only
  induction s.tx with
  | nil => rfl
  | cons t l ih =>
    by_cases ht : t.num = num
    · have : t.num ≠ k := fun e => hk (e.symm.trans ht)
      simp [ht, h, ih, Ne.symm hk]
    · by_cases hq : t.num = k <;> simp [ht, hq, hk, ih]

@[simp] theorem RxStream.setBatch_num (r : RxStream) (b : RxBatch) : (r.setBatch b).num = r.num := rfl
@[simp] theorem RxStream.setBatch_via (r : RxStream) (b : RxBatch) : (r.setBatch b).via = r.via := rfl
@[simp] theorem RxStream.setBatch_src (r : RxStream) (b : RxBatch) : (r.setBatch b).src = r.src := rfl
@[simp] theorem RxStream.setBatch_from (r : RxStream) (b : RxBatch) (n : Nat) (via : Transport) (src : List Byte) :
    (r.setBatch b).from_ n via src = r.from_ n via src := rfl

/-- A batch reads as it was put. -/
@[simp] theorem RxStream.batch_setBatch (r : RxStream) (b : RxBatch) : (r.setBatch b).batch b.num = b := by
  unfold RxStream.batch RxStream.setBatch
  dsimp only
  rw [List.find?_append, List.find?_eq_none.mpr]
  · simp
  · intro x hx
    simpa using (List.mem_filter.mp hx).2

/-- Putting one batch leaves the others. -/
theorem RxStream.batch_setBatch_ne (r : RxStream) (b : RxBatch) {n : Nat} (h : n ≠ b.num) : (r.setBatch b).batch n = r.batch n := by
  unfold RxStream.batch RxStream.setBatch
  dsimp only
  rw [List.find?_append]
  have e : (r.batches.filter fun x => x.num != b.num).find? (fun x => x.num == n) = r.batches.find? fun x => x.num == n := by
    rw [List.find?_filter]
    congr 1
    funext x
    by_cases hx : x.num = n <;> simp [hx, h]
  rw [e]
  cases r.batches.find? fun x => x.num == n <;> simp [Ne.symm h]

/-- A batch of its number is what the number names. -/
theorem RxStream.batch_num (r : RxStream) (n : Nat) : (r.batch n).num = n := by
  unfold RxStream.batch
  cases h : r.batches.find? fun b => b.num == n with
  | none => rfl
  | some b => simpa using List.find?_some h

end Sys2Proof.Machine
end

