-- ==== Sys2Proof/WellFormed.lean ====
section
/-!
DEFINITION. Well-formed commands: every operand names something the part has (R14, R19–R21, R356, R390, R394, R471).
-/
namespace Sys2Proof

/-- Whether an offset lies within the largest BAR (R390). -/
def Machine.RegPlace.wf : Machine.RegPlace → Bool
  | .bar0 off | .bar2 off => decide (off < 67108864)
  | .msixControl | .barSize | .vfBarSize => true

/-- Whether a command's operands lie within the ranges of the part. -/
def Instr.wf (i : Instr) : Bool :=
  match i with
  | .nop bed q => decide (bed < 32) && decide (q < 64)
  | .queueCreate bed q => decide (bed < 32) && decide (q < 64)
  | .queueDelete bed q => decide (bed < 32) && decide (q < 64)
  | .modelLoad bed q => decide (bed < 32) && decide (q < 64)
  | .scriptLoad bed q => decide (bed < 32) && decide (q < 64)
  | .sessionOpen bed q => decide (bed < 32) && decide (q < 64)
  | .sessionClose bed q => decide (bed < 32) && decide (q < 64)
  | .prefill bed q => decide (bed < 32) && decide (q < 64)
  | .admitCmd bed q => decide (bed < 32) && decide (q < 64)
  | .stepCmd bed q => decide (bed < 32) && decide (q < 64)
  | .decode bed q => decide (bed < 32) && decide (q < 64)
  | .cancel bed q => decide (bed < 32) && decide (q < 64)
  | .kvExport bed q => decide (bed < 32) && decide (q < 64)
  | .kvImport bed q => decide (bed < 32) && decide (q < 64)
  | .listSwap bed q => decide (bed < 32) && decide (q < 64)
  | .prefixPin bed q => decide (bed < 32) && decide (q < 64)
  | .stageWrite bed q => decide (bed < 32) && decide (q < 64)
  | .stageCheck bed q => decide (bed < 32) && decide (q < 64)
  | .stageCommit bed q => decide (bed < 32) && decide (q < 64)
  | .bedCreate bed q => decide (bed < 32) && decide (q < 64)
  | .bedDestroy bed q => decide (bed < 32) && decide (q < 64)
  | .tenantSet bed q => decide (bed < 32) && decide (q < 64)
  | .updateWrite bed q => decide (bed < 32) && decide (q < 64)
  | .updateVerify bed q => decide (bed < 32) && decide (q < 64)
  | .updateActivate bed q => decide (bed < 32) && decide (q < 64)
  | .updateConfirm bed q => decide (bed < 32) && decide (q < 64)
  | .licenceInstall bed q => decide (bed < 32) && decide (q < 64)
  | .attest bed q => decide (bed < 32) && decide (q < 64)
  | .floorPlanRead bed q => decide (bed < 32) && decide (q < 64)
  | .sqTail fn q _ => decide (fn < 32) && decide (q < 64)
  | .cqHead fn q _ => decide (fn < 32) && decide (q < 64)
  | .exportDb fn _ => decide (fn < 32)
  | .packetFetch bed q _ => decide (bed < 32) && decide (q < 64)
  | .holdRecordWrite bed q => decide (bed < 32) && decide (q < 64)
  | .moderationTimer bed q => decide (bed < 32) && decide (q < 64)
  | .bedReset fn bed => decide (fn < 32) && decide (bed < 32)
  | .intrEn fn bed _ => decide (fn < 32) && decide (bed < 32)
  | .q0Enable fn bed _ => decide (fn < 32) && decide (bed < 32)
  | .q0Disable fn bed _ => decide (fn < 32) && decide (bed < 32)
  | .registerWrite fn p _ _ => decide (fn < 32) && p.wf
  | .rcFieldRead fn p _ => decide (fn < 32) && p.wf
  | .timeNowLowRead fn => decide (fn < 32)
  | .bar4Read fn _ _ => decide (fn < 32)
  | .bar4Write fn _ _ _ => decide (fn < 32)
  | .unservedMemoryRequest fn _ _ _ _ => decide (fn < 32)
  | .vfFlr n => decide (0 < n) && decide (n < 32)
  | .pfFlr => true
  | .d3hotEntry fn => decide (fn < 32)
  | .d0Return fn => decide (fn < 32)
  | .coldReset _ => true
  | .perstRelease speed width _ => decide (1 ≤ speed) && decide (speed ≤ 6) && [1, 2, 4, 8, 16].contains width
  | .powerGoodLoss _ _ _ => true
  | .bringUpStep1 _ => true
  | .bringUpStep2 => true
  | .bringUpStep3 _ _ => true
  | .bringUpStep4 _ _ _ => true
  | .bringUpStep5 _ _ _ => true
  | .bringUpStep6 _ _ => true
  | .bringUpStep7 _ => true
  | .bringUpStep8 => true
  | .bringUpStep9 => true
  | .bootStepTimeout => true
  | .computeReset fn => decide (fn < 32)
  | .bootWarmReset fn => decide (fn < 32)
  | .fenceNow fn p => decide (fn < 32) && decide (p < 1280)
  | .clearRetirementMark fn p => decide (fn < 32) && decide (p < 1280)
  | .hbmRetrainWait fn lp ch => decide (fn < 32) && decide (ch < if lp then 32 else 128)
  | .hbmRetrainMigrate fn lp ch => decide (fn < 32) && decide (ch < if lp then 32 else 128)
  | .memoryRetrainEnd _ _ => true
  | .phyCalibrationDrift lp ch => decide (ch < if lp then 32 else 128)
  | .memoryScrub lp ch => decide (ch < if lp then 32 else 128)
  | .frameCopyComplete index _ => decide (index < 200000)
  | .kvSpill bed => decide (bed < 32)
  | .linkRetrain fn port => decide (fn < 32) && decide (port < 24)
  | .laneAlignmentLoss port lane => decide (port < 24) && decide (lane < 4)
  | .retrainComplete port lanes => decide (port < 24) && decide (lanes < 16)
  | .linkTrainingTimeout port => decide (port < 24)
  | .idleFrame port raw => decide (port < 24) && decide (raw.length = 288)
  | .dataFrame port raw => decide (port < 24) && decide (raw.length = 288)
  | .negotiate port raw => decide (port < 24) && decide (raw.length = 288)
  | .negotiateRepeat port => decide (port < 24)
  | .replayTimer port => decide (port < 24)
  | .nakRepeatTimer port => decide (port < 24)
  | .remoteWrite port => decide (port < 24)
  | .levelChange port _ _ _ => decide (port < 24)
  | .ethernetFrame port _ => decide (port < 24)
  | .shipperSend _ => true
  | .actOpen port => decide (port < 24)
  | .openAck port => decide (port < 24)
  | .actPage port => decide (port < 24)
  | .layerDone port => decide (port < 24)
  | .actCommit port => decide (port < 24)
  | .actAbort port => decide (port < 24)
  | .actAck port => decide (port < 24)
  | .actNack port => decide (port < 24)
  | .actClose port => decide (port < 24)
  | .actRefuse port => decide (port < 24)
  | .ackDelayTimer port _ => decide (port < 24)
  | .nackGapTimer port _ => decide (port < 24)
  | .ackTimeout _ => true
  | .exportLinkWaitExpiry _ => true
  | .holdLimit _ => true
  | .twinHello port _ => decide (port < 24)
  | .twinBeat port _ _ => decide (port < 24)
  | .twinDelta port _ => decide (port < 24)
  | .twinDeltaAck port _ => decide (port < 24)
  | .twinLog port _ => decide (port < 24)
  | .twinSyncBegin port => decide (port < 24)
  | .twinSyncEnd port => decide (port < 24)
  | .twinTaken port => decide (port < 24)
  | .twinBeatTick => true
  | .peerBeat fn _ => decide (fn < 32)
  | .beatMiss _ => true
  | .takeover fn => decide (fn < 32)
  | .attach fn => decide (fn < 32)
  | .detach fn => decide (fn < 32)
  | .stepDescriptorPublish bed _ => decide (bed < 32)
  | .stepStart bed => decide (bed < 32)
  | .stepSeal bed => decide (bed < 32)
  | .pageWriter bed _ _ _ => decide (bed < 32)
  | .samplerJob k bed _ _ => decide (k < 4) && decide (bed < 32)
  | .stepWatchdog bed => decide (bed < 32)
  | .dmaProgressTimeout c => decide (c < 64)
  | .deadlineExpiry index => decide (index < 200000)
  | .sessionIdleExpiry index => decide (index < 200000)
  | .stageCommitTime => true
  | .front p => decide (p < 1280)
  | .nibPass p => decide (p < 1280)
  | .prescan p => decide (p < 1280)
  | .accClear p => decide (p < 1280)
  | .accShift p => decide (p < 1280)
  | .accRead p => decide (p < 1280)
  | .accCombine p => decide (p < 1280)
  | .vload p => decide (p < 1280)
  | .vstore p => decide (p < 1280)
  | .vop p => decide (p < 1280)
  | .vcvt p => decide (p < 1280)
  | .vquant p => decide (p < 1280)
  | .vred p => decide (p < 1280)
  | .vsfu p => decide (p < 1280)
  | .sendSched p => decide (p < 1280)
  | .sendAsync p => decide (p < 1280)
  | .readRawSend p => decide (p < 1280)
  | .transpose p => decide (p < 1280)
  | .gather p => decide (p < 1280)
  | .nibWait p => decide (p < 1280)
  | .waitComplete p => decide (p < 1280)
  | .waitTimeout p => decide (p < 1280)
  | .tallyClear p => decide (p < 1280)
  | .nibLoop p => decide (p < 1280)
  | .nibPhase p => decide (p < 1280)
  | .nibSync p => decide (p < 1280)
  | .barrierRelease bed => decide (bed < 32)
  | .barrierTimeout p => decide (p < 1280)
  | .elasticPhaseTimeout p => decide (p < 1280)
  | .endStep p => decide (p < 1280)
  | .nibIdle p => decide (p < 1280)
  | .matmul p => decide (p < 1280)
  | .macFinish p => decide (p < 1280)
  | .attend p => decide (p < 1280)
  | .macroExt p => decide (p < 1280)
  | .gatedVisitStart p => decide (p < 1280)
  | .attSpan p => decide (p < 1280)
  | .mergeLocal p => decide (p < 1280)
  | .mergeIn p => decide (p < 1280)
  | .attendSend p => decide (p < 1280)
  | .attendFinish p => decide (p < 1280)
  | .asyncWriteArrival a => match a with
    | .inflight _ => true
    | .ext _ k => decide (k.nib < 1280)
    | .page c b _ _ _ _ n k => decide (c < 64) && decide (b < 32) && decide (n ≤ 16) && decide (k.nib < 1280)
  | .scratchpadScrub p bank => decide (p < 1280) && decide (bank < 16)
  | .scrubForcedGrant p bank => decide (p < 1280) && decide (bank < 16)
  | .loadSegment p slot seg rows _ => decide (p < 1280) && decide (slot < 8) && decide (seg < 64) && decide (rows.length ≤ 128)
  | .loadGapTimer p slot => decide (p < 1280) && decide (slot < 8)
  | .loadTimeout bed handle => decide (bed < 32) && decide (handle < 256)
  | .handover => true
  | .handoverPauseTimeout => true
  | .handoverRetry => true
  | .selfTest _ => true
  | .selftestTimeout => true
  | .healthWindowExpiry => true
  | .lifeHourTick => true
  | .recWrite => true
  | .recVerify => true
  | .recInstall => true
  | .throttleRequest _ => true
  | .divReqFall _ => true
  | .thermtrip _ => true
  | .hbmHot _ => true
  | .sensorFailure _ => true
  | .pllLoss => true
  | .twinPres _ => true
  | .sbIdent => true
  | .sbStatus => true
  | .sbTemp => true
  | .sbHbmTemp => true
  | .sbPower => true
  | .eventsClear _ _ => true
  | .sbWarmReset _ _ => true
  | .powerGoodAssertion _ sbAddr => decide (sbAddr < 4)
  | .pcieLinkRetraining speed width _ => decide (1 ≤ speed) && decide (speed ≤ 6) && [1, 2, 4, 8, 16].contains width
  | .vfEnable num => decide (num < 32)
  | .scribeRetirement s => decide (s < 32)
  | .samplerRetirement k => decide (k < 4)
  | .jtagTck _ _ _ => true

end Sys2Proof
end

