-- ==== Sys2Proof/Tests/Slice0.lean ====
section
/-!
SUPPORT. Tests: ill-formed commands, worked examples of the spec, single steps on small states, and for every claim with
hypotheses a concrete state that meets them.
-/
namespace Sys2Proof.Tests

open Sys2Proof Sys2Proof.Machine

set_option maxRecDepth 20000
set_option Elab.async false

/-! ## Ill-formed commands -/

theorem test_bed_out_of_range : (Instr.nop 32 0).wf = false := by decide
theorem test_queue_out_of_range : (Instr.bedCreate 0 64).wf = false := by decide
theorem test_function_out_of_range : (Instr.pfFlr).wf = true ∧ (Instr.d3hotEntry 32).wf = false := by decide
theorem test_pf_has_no_vf_flr : (Instr.vfFlr 0).wf = false ∧ (Instr.vfFlr 31).wf = true := by decide
theorem test_nib_out_of_range : (Instr.vop 1280).wf = false ∧ (Instr.vop 1279).wf = true := by decide
theorem test_offset_out_of_range : (Instr.registerWrite 0 (.bar0 0x4000000) 8 0).wf = false := by decide
theorem test_port_out_of_range : (Instr.linkRetrain 0 24).wf = false := by decide
theorem test_frame_has_288_bytes : (Instr.idleFrame 0 []).wf = false := by decide
theorem test_channel_out_of_range : (Instr.memoryScrub true 32).wf = false ∧ (Instr.memoryScrub false 127).wf = true := by decide
theorem test_lane_out_of_range : (Instr.laneAlignmentLoss 0 4).wf = false := by decide
theorem test_link_width_is_a_power_of_two : (Instr.perstRelease 6 3 true).wf = false := by decide
theorem test_dma_channel_out_of_range : let k : AsyncPkt := { bed := 0, nib := 0, slot := 0, handle := some 0, index := 0, tally := 0, rows := [] }
    (Instr.asyncWriteArrival (.page 64 0 0 0 0 0 1 k)).wf = false ∧ (Instr.asyncWriteArrival (.page 63 31 0 0 0 0 16 k)).wf = true ∧
      (Instr.asyncWriteArrival (.ext (.scribe 0) { k with nib := 1280 })).wf = false := by decide
theorem test_session_out_of_range : (Instr.deadlineExpiry 200000).wf = false := by decide

/-! ## Worked examples of the spec -/

/-- The house code's example (R432): check bytes 0F 36 78 40. -/
theorem test_house_check_bytes :
    houseCheck (List.replicate 31 0 ++ [1]) = [0x0F#8, 0x36#8, 0x78#8, 0x40#8] := by decide +kernel

/-- The house code's example (R433): byte 5 read as 0x20 is corrected. -/
theorem test_house_corrects_byte :
    houseDecode (xorAt (houseEncode (List.replicate 31 0 ++ [1])) 5 0x20) =
      .corrected (houseEncode (List.replicate 31 0 ++ [1])) := by decide +kernel

/-- SHAKE256 of the empty string, as FIPS 202 has it. -/
theorem test_shake256_empty : (shake256 4 []) = [0x46#8, 0xB9#8, 0xDD#8, 0x2B#8] := by decide +kernel

/-- CRC-32C of 123456789 (RFC 3720 and others). -/
theorem test_crc32c : crc32c [0x31, 0x32, 0x33, 0x34, 0x35, 0x36, 0x37, 0x38, 0x39] = 0xE3069283#32 := by decide +kernel

/-- Round 1 of the sampler's test vector (09_serving.md, The generator; later rounds of its table disagree with the
normative pseudocode, log 82). -/
theorem test_sample_round :
    qr (1#32, 0#32, 0x9E3779B9#32, 0x7F4A7C15#32) = (0xBF9031A5#32, 0x10AD9622#32, 0x9E9AE8C6#32, 0x844EEFC3#32) := by
  decide +kernel

/-- The sampler's example at TEMP 0: token 1 (09_serving.md, Selection). -/
theorem test_sample_token :
    sampleToken [0x40000000, 0x40A00000, 0x40A00000, 0xC47A0000, 0x40A00000, 0x40A00000]
      { seed := 1, temp := 0, topp := 0x3F666666, minp := 0x3D4CCCCD, topk := 4 } 0 = some 1 := by decide +kernel

/-- Elements `l` (index, byte) of a block of 32, all others 0. -/
def block (l : List (Nat × Nat)) : List Nat := (List.range 32).map fun k => ((l.find? fun e => e.1 == k).map (·.2)).getD 0

/-- The output element's example (02_arithmetic.md): W = 24, both placements, the tie that rounds to even, and INEXACT. -/
theorem test_output_element :
    let p0 := blockPartial .mxE4M3 .mxE4M3 0x7F 0x7E (block [(3, 0x44), (17, 0xB9)]) (block [(3, 0x3C), (17, 0x50)])
    let p1 := blockPartial .mxE4M3 .mxE4M3 0x30 0x80 (block [(8, 0x20)]) (block [(8, 0x06)])
    let a0 := placeInto true 0 p0 24
    let a1 := placeInto false a0.1 p1 24
    a0 = (0xFFFFFFFFFDC000000000000000000000#128, false, false) ∧
    a1 = (0xFFFFFFFFFDC000000000000000000002#128, true, false) ∧
    (convert .bf16 (accSrc 24 a1.1)).1 = 0xC010 ∧ (convert .fp32 (accSrc 24 a1.1)).1 = 0xC0100000 := by decide +kernel

/-- The quantising example (02_arithmetic.md): scale byte 0x76, elements 7D, CC, 00. -/
theorem test_quantise_e4m3 :
    let q := quantise .mxE4M3 ([0x3F4CCCCD#32, 0xBC480000#32].map fSrc ++ List.replicate 30 (fSrc 0))
    q.scale = 0x76 ∧ q.elems.take 3 = [0x7D, 0xCC, 0x00] ∧ q.saturated = false := by decide +kernel

/-- The tenant's example (09_serving.md): 3,000 tokens are held, and 9,500 more at timebase 1,010,000 are refused. -/
theorem test_tenant_budget :
    let t : Tenant := { level := 1000000000000, last := 1000000, rate := 20000, burst := 50000, valid := true }
    admitCheck t 3000 1000000 = some ({ t with held := 3000 }, 3000) ∧
    admitCheck { t with held := 952 } 9500 1010000 = none ∧
    (refill { t with held := 952 } 1010000).level = 1000200000000 := by decide +kernel

/-- The first cells of the visiting order on 3 tile rows and 4 tile columns (R178). -/
theorem test_tile_order : (tileOrder 3 4).take 6 = [(0, 0), (1, 0), (1, 1), (0, 1), (0, 2), (1, 2)] := by decide +kernel

/-- Handle example of 03_nib.md: slot 2, handle 9, index 0x25 is row 0x5165. -/
theorem test_handle_row :
    let n : Nib := { slots := [(2, { segBase := 160 })], handles := [(64 * 2 + 9, { offset := 0x140, length := 64 })] }
    n.rowIn 2 9 0x25 = 0x5165 := by decide +kernel

/-! ## States that meet the claims' hypotheses

Each theorem below shows a state and operands that meet all hypotheses of the claim it is named after; a letter marks the
clause where the claim has several. -/

/-- A bundle whose slot `k` holds `w`. -/
def bundleOf (k w : Nat) : Row := BitVec.ofNat 256 (w * 2 ^ (64 * k))

/-- A slot word of opcode `op` with the fields `r` below it. -/
def word (op r : Nat) : Nat := op * 2 ^ 58 + r

/-- The clocks run. -/
def up : State := { State.reset with clk := { lock := true } }

/-- READY, with the timebase at `t`. -/
def rdy (t : Nat := 0) : State := { up with boot := { beds := true, memUp := true, meshUp := true, done := 9 }, root := 48 * t }

/-- Bed 0 is READY on the first reticle tile and nibs `p` are as given. -/
def one (ns : SMap Nib) (t : Nat := 0) : State := { rdy t with beds := [(0, { st := .ready })], nibs := ns }

/-- A running nib at a bundle whose slot `k` holds `w`. -/
def running (k w : Nat) (n : Nib := {}) : Nib := { n with st := .running, script := [(1, bundleOf k w)] }

/-- Nib 0 runs at a bundle whose slot `k` holds `w`. -/
def at0 (k w : Nat) (n : Nib := {}) : State := one [(0, running k w n)]

theorem ready_of (s : State) (p k w : Nat) (b : Row)
    (h : s.runs = true ∧ (s.nib p).st = .running ∧ (s.nib p).issued k = false ∧ (s.nib p).shadowed = false ∧
      (s.nib p).bundle.1 = some b ∧ slotWord b k = w) : s.Ready p k w :=
  ⟨h.1, h.2.1, h.2.2.1, h.2.2.2.1, b, h.2.2.2.2⟩

theorem wit_StepRunsFront : { State.reset with pending := [Instr.pfFlr] }.pending = .pfFlr :: [] := rfl

theorem wit_VopLanes : let w := word 0x03 (0x22 * 2 ^ 32 * 0 + 0x03 * 2 ^ 32)
    (at0 1 w).Ready 0 1 w ∧ slotOp w = 0x03 ∧ (vopLane (fld w 37 32) 0 0 0 0).isSome :=
  ⟨ready_of _ _ _ _ (bundleOf 1 (word 0x03 (0x03 * 2 ^ 32))) (by decide +kernel), by decide +kernel, by decide +kernel⟩

theorem wit_VectorUnary_vcvt : let w := word 0x04 (1 * 2 ^ 44)
    (at0 1 w).Ready 0 1 w ∧ slotOp w = 0x04 ∧ SFmt.ofCode (fld w 47 44) = some .bf16 :=
  ⟨ready_of _ _ _ _ (bundleOf 1 (word 0x04 (1 * 2 ^ 44))) (by decide +kernel), by decide +kernel, by decide +kernel⟩

theorem wit_VectorUnary_vsfu : let w := word 0x07 0
    (at0 1 w).Ready 0 1 w ∧ slotOp w = 0x07 ∧ ∃ f, sfuFn (fld w 47 45) = some f :=
  ⟨ready_of _ _ _ _ (bundleOf 1 (word 0x07 0)) (by decide +kernel), by decide +kernel, _, rfl⟩

theorem wit_VquantAndVred_vred : let w := word 0x06 0
    (at0 1 w).Ready 0 1 w ∧ slotOp w = 0x06 ∧ ∃ r, vred (fld w 47 46) (((at0 1 w).nib 0).vreg (fld w 52 48)) = some r :=
  ⟨ready_of _ _ _ _ (bundleOf 1 (word 0x06 0)) (by decide +kernel), by decide +kernel, _, rfl⟩

theorem wit_VquantAndVred_vquant : let w := word 0x05 (1 * 2 ^ 39)
    (at0 1 w).Ready 0 1 w ∧ slotOp w = 0x05 ∧ quantFmt (fld w 47 44) = some .mxE4M3 ∧ fld w 43 39 ≠ fld w 57 53 :=
  ⟨ready_of _ _ _ _ (bundleOf 1 (word 0x05 (1 * 2 ^ 39))) (by decide +kernel), by decide +kernel, by decide +kernel,
    by decide +kernel⟩

theorem wit_VectorMemory_vload : (at0 1 (word 0x01 0)).Ready 0 1 (word 0x01 0) ∧
    ((at0 1 (word 0x01 0)).nib 0).padUpset = [] ∧ slotOp (word 0x01 0) = 0x01 :=
  ⟨ready_of _ _ _ _ (bundleOf 1 (word 0x01 0)) (by decide +kernel), rfl, by decide +kernel⟩

theorem wit_VectorMemory_vstore : (at0 1 (word 0x02 0)).Ready 0 1 (word 0x02 0) ∧
    ((at0 1 (word 0x02 0)).nib 0).padUpset = [] ∧ slotOp (word 0x02 0) = 0x02 :=
  ⟨ready_of _ _ _ _ (bundleOf 1 (word 0x02 0)) (by decide +kernel), rfl, by decide +kernel⟩

theorem wit_AccumulatorClearShift_clear : let w := word 0x04 (63 * 2 ^ 52)
    (at0 0 w).Ready 0 0 w ∧ slotOp w = 0x04 ∧ fld w 47 45 = 0 :=
  ⟨ready_of _ _ _ _ (bundleOf 0 (word 0x04 (63 * 2 ^ 52))) (by decide +kernel), by decide +kernel, by decide +kernel⟩

/-- SHIFT to the top of ROW_EXP's range: 448 + 63 = 511. -/
theorem wit_AccumulatorClearShift_shift : let w := word 0x04 (1 * 2 ^ 45 + 63 * 2 ^ 38)
    let n : Nib := { tags := [(0, { rowExp := [(0, 448)] })] }
    (at0 0 w n).Ready 0 0 w ∧ slotOp w = 0x04 ∧ fld w 47 45 = 1 ∧
      mget 0 (((at0 0 w n).nib 0).tag (fld w 57 52)).rowExp (fld w 51 48) + (fld w 44 38 : Nat) ≤ 511 :=
  ⟨ready_of _ _ _ _ (bundleOf 0 (word 0x04 (1 * 2 ^ 45 + 63 * 2 ^ 38))) (by decide +kernel), by decide +kernel,
    by decide +kernel, by decide +kernel⟩

/-- SHIFT one beyond it. -/
theorem wit_AccumulatorClearShift_beyond : let w := word 0x04 (1 * 2 ^ 45 + 63 * 2 ^ 38)
    let n : Nib := { tags := [(0, { rowExp := [(0, 449)] })] }
    (at0 0 w n).Ready 0 0 w ∧ slotOp w = 0x04 ∧ fld w 47 45 = 1 ∧ (at0 0 w n).bedOf 0 = some 0 ∧
      511 < mget 0 (((at0 0 w n).nib 0).tag (fld w 57 52)).rowExp (fld w 51 48) + (fld w 44 38 : Nat) :=
  ⟨ready_of _ _ _ _ (bundleOf 0 (word 0x04 (1 * 2 ^ 45 + 63 * 2 ^ 38))) (by decide +kernel), by decide +kernel,
    by decide +kernel, by decide +kernel, by decide +kernel⟩

theorem wit_AccumulatorRead : let w := word 0x04 (2 * 2 ^ 45 + 3 * 2 ^ 27)
    (at0 0 w).Ready 0 0 w ∧ slotOp w = 0x04 ∧ fld w 47 45 = 2 ∧ SFmt.ofCode (fld w 37 34) = some .fp32 ∧
      ((at0 0 w).nib 0).accUpset = [] :=
  ⟨ready_of _ _ _ _ (bundleOf 0 (word 0x04 (2 * 2 ^ 45 + 3 * 2 ^ 27))) (by decide +kernel), by decide +kernel,
    by decide +kernel, by decide +kernel, rfl⟩

/-- COMBINE of nine rows of zeros into a slot whose window is all zeros. -/
theorem wit_AccumulatorCombine_agree : let w := word 0x04 (3 * 2 ^ 45)
    let s := at0 0 w { tags := [(0, { zero := false })] }
    let n := s.nib 0
    let a := n.ra24 (fld w 37 14) 9
    let raw := (List.range 9).map fun i => mget 0 n.pad ((n.hrow a.handle a.index + i) % 65536)
    s.Ready 0 0 w ∧ slotOp w = 0x04 ∧ fld w 47 45 = 3 ∧ n.accUpset = [] ∧ n.padUpset = [] ∧
      rawTerms (raw.getD 8 0) = (n.tag (fld w 57 52)).terms (fld w 51 48) ∧ (n.tag (fld w 57 52)).zero = false :=
  ⟨ready_of _ _ _ _ (bundleOf 0 (word 0x04 (3 * 2 ^ 45))) (by decide +kernel), by decide +kernel, by decide +kernel, rfl, rfl,
    by decide +kernel, by decide +kernel⟩

/-- The same into a slot whose window differs. -/
theorem wit_AccumulatorCombine_differ : let w := word 0x04 (3 * 2 ^ 45)
    let s := at0 0 w { tags := [(0, { wconst := 1 })] }
    let n := s.nib 0
    let a := n.ra24 (fld w 37 14) 9
    let raw := (List.range 9).map fun i => mget 0 n.pad ((n.hrow a.handle a.index + i) % 65536)
    s.Ready 0 0 w ∧ slotOp w = 0x04 ∧ fld w 47 45 = 3 ∧ n.accUpset = [] ∧ n.padUpset = [] ∧ s.bedOf 0 = some 0 ∧
      rawTerms (raw.getD 8 0) ≠ (n.tag (fld w 57 52)).terms (fld w 51 48) :=
  ⟨ready_of _ _ _ _ (bundleOf 0 (word 0x04 (3 * 2 ^ 45))) (by decide +kernel), by decide +kernel, by decide +kernel, rfl, rfl,
    by decide +kernel, by decide +kernel⟩

theorem wit_ArrayIssue_front : let w := word 0x01 0
    (at0 0 w).Ready 0 0 w ∧ ((at0 0 w).nib 0).padUpset = [] ∧ ((at0 0 w).nib 0).accUpset = [] ∧ slotOp w = 0x01 ∧
      Fmt.ofCode (fld w 54 51) = some .mxE4M3 :=
  ⟨ready_of _ _ _ _ (bundleOf 0 (word 0x01 0)) (by decide +kernel), rfl, rfl, by decide +kernel, by decide +kernel⟩

theorem wit_ArrayIssue_prescan : let w := word 0x03 0
    (at0 0 w).Ready 0 0 w ∧ slotOp w = 0x03 ∧ Fmt.ofCode (fld w 51 48) = some .mxE4M3 ∧ Fmt.ofCode (fld w 47 44) = some .mxE4M3 :=
  ⟨ready_of _ _ _ _ (bundleOf 0 (word 0x03 0)) (by decide +kernel), by decide +kernel, by decide +kernel, by decide +kernel⟩

theorem wit_ArrayIssue_pass : let w := word 0x02 0
    let n : Nib := { arrays := [(0, some ⟨.mxE4M3, [], []⟩)] }
    (at0 0 w n).Ready 0 0 w ∧ ((at0 0 w n).nib 0).padUpset = [] ∧ slotOp w = 0x02 ∧ Fmt.ofCode (fld w 54 51) = some .mxE4M3 ∧
      ∃ ws, mget none ((at0 0 w n).nib 0).arrays (fld w 57 55) = some ws :=
  ⟨ready_of _ _ _ _ (bundleOf 0 (word 0x02 0)) (by decide +kernel), rfl, by decide +kernel, by decide +kernel, _, rfl⟩

/-- A placement in the last row of the last slot. -/
theorem wit_ArrayIssue_place : let m : Nib := {}
    let ps : List Partial := List.replicate 16 ⟨.fin 0, 0, false, false⟩
    63 < 64 ∧ 15 < 16 ∧ ps.length = 16 ∧ m.accUpset = [] := by decide

/-- Ready, with the slot's word split off so that one line serves each claim. -/
theorem ready0 (k w : Nat) (n : Nib) (b : Row) (h : (at0 k w n).runs = true ∧ ((at0 k w n).nib 0).st = .running ∧
    ((at0 k w n).nib 0).issued k = false ∧ ((at0 k w n).nib 0).shadowed = false ∧ ((at0 k w n).nib 0).bundle.1 = some b ∧
    slotWord b k = w) : (at0 k w n).Ready 0 k w := ready_of _ _ _ _ b h

theorem wit_ScheduledSends_rows : let w := word 0x01 0
    (at0 2 w).Ready 0 2 w ∧ ((at0 2 w).nib 0).padUpset = [] ∧ ((at0 2 w).nib 0).accUpset = [] ∧
      ((at0 2 w).nib 0).scriptUpset = [] ∧ (at0 2 w).bedOf 0 = some 0 ∧
      (at0 2 w).physical 0 (((at0 2 w).nib 0).route (fld w 57 52)).nib = some 0 ∧ slotOp w = 0x01 ∧
      (((at0 2 w).nib 0).route (fld w 57 52)).async = false :=
  ⟨ready0 2 _ {} (bundleOf 2 (word 0x01 0)) (by decide +kernel), rfl, rfl, rfl, by decide +kernel, by decide +kernel,
    by decide +kernel, by decide +kernel⟩

theorem wit_ScheduledSends_raw : let w := word 0x03 0
    (at0 2 w).Ready 0 2 w ∧ ((at0 2 w).nib 0).scriptUpset = [] ∧ (at0 2 w).bedOf 0 = some 0 ∧
      (at0 2 w).physical 0 (((at0 2 w).nib 0).route (fld w 57 52)).nib = some 0 ∧ slotOp w = 0x03 ∧
      (((at0 2 w).nib 0).route (fld w 57 52)).async = false :=
  ⟨ready0 2 _ {} (bundleOf 2 (word 0x03 0)) (by decide +kernel), rfl, by decide +kernel, by decide +kernel, by decide +kernel,
    by decide +kernel⟩

theorem wit_AsynchronousSends_rows : let w := word 0x02 0
    (at0 2 w).Ready 0 2 w ∧ ((at0 2 w).nib 0).scriptUpset = [] ∧ (at0 2 w).bedOf 0 = some 0 ∧
      (at0 2 w).physical 0 (((at0 2 w).nib 0).route (fld w 57 52)).nib = some 0 ∧ slotOp w = 0x02 :=
  ⟨ready0 2 _ {} (bundleOf 2 (word 0x02 0)) (by decide +kernel), rfl, by decide +kernel, by decide +kernel, by decide +kernel⟩

/-- Route 4 lies in the header's second route bundle, which is where this script's bundle stands; its ASYNC bit is set. -/
theorem wit_AsynchronousSends_raw : let w := word 0x03 0
    let n : Nib := { running 2 w with script := [(1, bundleOf 0 (2 ^ 26) + bundleOf 2 w)] }
    let s := one [(0, n)]
    s.Ready 0 2 w ∧ (s.nib 0).scriptUpset = [] ∧ s.bedOf 0 = some 0 ∧ s.physical 0 ((s.nib 0).route (fld w 57 52)).nib = some 0 ∧ slotOp w = 0x03 ∧
      ((s.nib 0).route (fld w 57 52)).async = true :=
  ⟨ready_of _ _ _ _ (bundleOf 0 (2 ^ 26) + bundleOf 2 (word 0x03 0)) (by decide +kernel), rfl, by decide +kernel, by decide +kernel,
    by decide +kernel, by decide +kernel⟩

theorem wit_TransposeAndGather : (at0 2 (word 0x04 0)).Ready 0 2 (word 0x04 0) ∧ slotOp (word 0x04 0) = 0x04 ∧
    ((at0 2 (word 0x04 0)).nib 0).padUpset = [] ∧ (at0 2 (word 0x05 0)).Ready 0 2 (word 0x05 0) ∧ slotOp (word 0x05 0) = 0x05 :=
  ⟨ready0 2 _ {} (bundleOf 2 (word 0x04 0)) (by decide +kernel), by decide +kernel, rfl,
    ready0 2 _ {} (bundleOf 2 (word 0x05 0)) (by decide +kernel), by decide +kernel⟩

theorem wit_SequencingControl : ((at0 3 (word 0x03 0)).Ready 0 3 (word 0x03 0) ∧ slotOp (word 0x03 0) = 0x03) ∧
    ((at0 3 (word 0x04 0)).Ready 0 3 (word 0x04 0) ∧ slotOp (word 0x04 0) = 0x04) ∧
    ((at0 3 (word 0x07 0)).Ready 0 3 (word 0x07 0) ∧ slotOp (word 0x07 0) = 0x07) ∧
    (at0 0 (word 0x3F 0)).Ready 0 0 (word 0x3F 0) ∧ slotOp (word 0x3F 0) = 0x3F :=
  ⟨⟨ready0 3 _ {} (bundleOf 3 (word 0x03 0)) (by decide +kernel), by decide +kernel⟩,
   ⟨ready0 3 _ {} (bundleOf 3 (word 0x04 0)) (by decide +kernel), by decide +kernel⟩,
   ⟨ready0 3 _ {} (bundleOf 3 (word 0x07 0)) (by decide +kernel), by decide +kernel⟩,
   ready0 0 _ {} (bundleOf 0 (word 0x3F 0)) (by decide +kernel), by decide +kernel⟩

theorem wit_TallyControl : ((at0 3 (word 0x01 0)).Ready 0 3 (word 0x01 0) ∧ slotOp (word 0x01 0) = 0x01) ∧
    (at0 3 (word 0x02 0)).Ready 0 3 (word 0x02 0) ∧ slotOp (word 0x02 0) = 0x02 :=
  ⟨⟨ready0 3 _ {} (bundleOf 3 (word 0x01 0)) (by decide +kernel), by decide +kernel⟩,
   ready0 3 _ {} (bundleOf 3 (word 0x02 0)) (by decide +kernel), by decide +kernel⟩

theorem wit_SyncAndEnd : ((at0 3 (word 0x05 (2 ^ 57))).Ready 0 3 (word 0x05 (2 ^ 57)) ∧ slotOp (word 0x05 (2 ^ 57)) = 0x05 ∧
      bitAt (word 0x05 (2 ^ 57)) 57 = true) ∧
    (at0 3 (word 0x06 0)).Ready 0 3 (word 0x06 0) ∧ slotOp (word 0x06 0) = 0x06 ∧ (at0 3 (word 0x06 0)).bedOf 0 = some 0 :=
  ⟨⟨ready0 3 _ {} (bundleOf 3 (word 0x05 (2 ^ 57))) (by decide +kernel), by decide +kernel, by decide +kernel⟩,
   ready0 3 _ {} (bundleOf 3 (word 0x06 0)) (by decide +kernel), by decide +kernel, by decide +kernel⟩

/-- A MATMUL without a prologue, and one whose prologue's descriptor has no GATHER stage. -/
theorem wit_MacroHeads_matmul : let w := word 0x20 0
    (at0 0 w).Ready 0 0 w ∧ ((at0 0 w).nib 0).padUpset = [] ∧ ((at0 0 w).nib 0).scriptUpset = [] ∧ slotOp w = 0x20 ∧ ∃ m, ((at0 0 w).nib 0).matmul w = some m ∧ m.pro = false :=
  ⟨ready0 0 _ {} (bundleOf 0 (word 0x20 0)) (by decide +kernel), rfl, rfl, by decide +kernel, _, rfl, by decide +kernel⟩

/-- A visit of a MATMUL whose first tile is live, ungated and gated. -/
theorem wit_MacroHeads_visit : ∀ g, g ≤ 1 → let w := word 0x20 0
    let s := one [(0, { running 0 w with
      shapes := [(0, { m := 1, n := 1, k := 1, nb := 1 })], script := [(1, bundleOf 0 w), (4, bundleOf 0 (word 0x3F (g * 2 ^ 54)))] })]
    let n := s.nib 0
    let m := (n.matmul w).getD {}
    s.runs = true ∧ n.st = .running ∧ n.issued 0 = false ∧ n.shadowed = false ∧ n.bundle.1 = some (bundleOf 0 w) ∧
      slotWord (bundleOf 0 w) 0 = w ∧ slotOp w = 0x20 ∧ n.matmul w = some m ∧ m.pro = false ∧ 0 < m.tt * m.kc ∧
      m.tg = decide (g = 1) ∧ m.kmode = 0 ∧ n.padUpset = [] ∧ n.scriptUpset = [] ∧
      m.live (n.shape m.sreg) ((tileOrder m.tr m.tc).getD (m.visit 0).1 (0, 0)) = true := by
  decide +kernel

/-- A MATMUL with a prologue whose descriptor has one stage, of operation `op`. -/
def prologue (op : Nat) : State :=
  one [(0, { running 0 (word 0x20 0) with
    script := [(1, bundleOf 0 (word 0x20 0)), (3, bundleOf 0 (word 0x3F 2))], pad := [(0, BitVec.ofNat 256 (1 + op * 2 ^ 128))] })]

/-- A CONVERT stage, and a GATHER. -/
theorem wit_MacroHeads_prologue : ∀ op, op ∈ [1, 12] → let w := word 0x20 0
    let n := (prologue op).nib 0
    let m := (n.matmul w).getD {}
    (prologue op).runs = true ∧ n.st = .running ∧ n.issued 0 = false ∧ n.shadowed = false ∧
      n.bundle.1 = some (bundleOf 0 w) ∧ slotWord (bundleOf 0 w) 0 = w ∧ slotOp w = 0x20 ∧ n.matmul w = some m ∧
      m.pro = true ∧ n.padUpset = [] ∧ n.scriptUpset = [] ∧ (n.descriptor m.pdh).2.head?.map (·.op) = some op := by
  decide +kernel

theorem wit_MacroHeads_finish : (at0 0 (word 0x21 0)).Ready 0 0 (word 0x21 0) ∧ slotOp (word 0x21 0) = 0x21 ∧
    (at0 0 (word 0x22 0)).Ready 0 0 (word 0x22 0) ∧ slotOp (word 0x22 0) = 0x22 :=
  ⟨ready0 0 _ {} (bundleOf 0 (word 0x21 0)) (by decide +kernel), by decide +kernel,
   ready0 0 _ {} (bundleOf 0 (word 0x22 0)) (by decide +kernel), by decide +kernel⟩

/-- A WAIT met exactly at its limit of rows. -/
theorem wit_WaitCompletes : let n : Nib := { st := .running, hold := .wait 5 16 10 0 true, tallies := [(5, { count := 16 })] }
    let s := one [(0, n)]
    s.runs = true ∧ (s.nib 0).st = .running ∧ (s.nib 0).hold = .wait 5 16 10 0 true ∧ 16 ≤ (mget {} (s.nib 0).tallies 5).count := by
  decide +kernel

theorem wit_NibFaultRecords : (at0 0 0).bedOf 0 = some 0 := by decide +kernel

/-- Each limit in the first A-cycle past it. -/
theorem wit_NibTimeouts_wait : let s : State := { one [(0, { st := .running, hold := .wait 5 16 10 0 true })] with acyc := 11 }
    s.runs = true ∧ (s.nib 0).st = .running ∧ s.bedOf 0 = some 0 ∧ (s.nib 0).hold = .wait 5 16 10 0 true ∧
      (mget {} (s.nib 0).tallies 5).count < 16 ∧ 0 + 10 + 1 ≤ s.acyc := by decide +kernel

/-- In LENGTH + 1 the script has no SYNC to begin; an A-cycle later nothing counts any more. -/
theorem wit_NibTimeouts_phase : ∀ k, k ≤ 1 →
    let s : State := { one [(0, { st := .running, phase := { elastic := true, start := 0, len := 10, closed := false } })] with acyc := 11 + k }
    s.runs = true ∧ (s.nib 0).st = .running ∧ s.bedOf 0 = some 0 ∧
      (s.nib 0).phase.elastic = true ∧ (s.nib 0).phase.closed = false ∧
      ((s.nib 0).phase.start + (s.nib 0).phase.len + 1 < s.acyc ∨
        (s.nib 0).phase.start + (s.nib 0).phase.len + 1 = s.acyc ∧ (s.nib 0).syncBegins = false) := by
  decide +kernel

theorem wit_NibTimeouts_barrier :
    let s : State := { one [(0, { st := .running, hold := .barrier 0 10 none, signalled := true })] with acyc := 11 }
    (s.nib 0).hold = .barrier 0 10 none ∧ s.bedOf 0 = some 0 ∧ 0 + 10 + 1 ≤ s.acyc ∧ s.loneSilent 0 = none := by decide +kernel

/-- All 16 nibs of a one-tile bed stand at the barrier but nib 1: the first time, and the second. -/
theorem wit_NibTimeouts_lone : ∀ k, k ≤ 1 →
    let n : Nib := { st := .running, hold := .barrier 0 10 none, signalled := true }
    let s : State := { one ((List.range 4).flatMap fun j => (List.range 4).map fun i =>
      (40 * j + i, if j = 0 ∧ i = 1 then { st := .running, loneBarrier := k } else n)) with acyc := 11 }
    s.runs = true ∧ (s.nib 0).st = .running ∧ s.bedOf 0 = some 0 ∧ (s.nib 0).hold = .barrier 0 10 none ∧ 0 + 10 + 1 ≤ s.acyc ∧
      s.loneSilent 0 = some 1 ∧ (s.nib 1).loneBarrier = k := by decide +kernel

theorem wit_BarriersAndGates_barrier :
    let n : Nib := { st := .running, hold := .barrier 7 10 none, signalled := true }
    let s := one ((List.range 4).flatMap fun j => (List.range 4).map fun i => (40 * j + i, n))
    s.bedNibs 0 ≠ [] ∧ (s.bedNibs 0).Nodup ∧
      ((s.bedNibs 0).all fun p => (s.nib p).st == .running && (s.nib p).signalled && (s.nib p).hold == .barrier 7 10 none) = true := by
  decide +kernel

/-- A visit, a combine and a tile-list entry at their gates, each a number of rows met exactly. -/
theorem wit_BarriersAndGates_gate :
    let m : Mat := { gtally := 3, gcount := 4, tg := true }
    let g (k : Nat) : Act := if k = 0 then .mat 1 { mat := m, order := [(0, 0)], ph := .gate, vstart := 1 }
      else if k = 1 then .combGate 1 { mat := m, x := 0, y := 0, u := 0, live := 1, base := 1 } 3
      else .attend 1 { slots := 64, tg := true, gtally := 3 } 0 false
    let s (k : Nat) : State := one [(0, { st := .running, tallies := [(3, { count := 4 })], acts := [g k], shapes := [(0, { aux0 := 1 })]
                                          pad := [(0, BitVec.ofNat 256 (4 * 2 ^ 75))], slots := [(0, { st := .armed, segSize := 4096 })]
                                          handles := (List.range 64).map fun h => (h, { length := 65535, valid := true }) })]
    ∀ k, k ≤ 2 → (s k).runs = true ∧ ((s k).nib 0).st = .running ∧ ((s k).nib 0).acts = [] ++ g k :: [] ∧
      ((s k).nib 0).gateAt (g k) = some (3, 4, 1) ∧ 1 ≤ (s k).acyc + 1 ∧ 4 ≤ (mget {} ((s k).nib 0).tallies 3).count := by
  decide +kernel

/-- A nib whose ATTEND stands at a tile-list entry with the bits `e`. -/
def entryAt (e : Nat) : State :=
  one [(0, { st := .running, acts := [.attend 0 { slots := 64 } 0 true], shapes := [(0, { aux0 := 1 })]
             pad := [(0, BitVec.ofNat 256 e)], slots := [(0, { st := .armed, segSize := 4096 })]
             handles := (List.range 64).map fun h => (h, { length := 65535, valid := true }) })]

theorem wit_TileListEntries : (List.range 5).all (fun op =>
    match (entryAt (op * 2 ^ 97)).entry 0 op with
    | some (a, v, e) =>
      let n := (entryAt (op * 2 ^ 97)).nib 0
      n.acts == [] ++ .attend 0 a v true :: [] && !n.entryBad a (n.attDescOf a) e && n.padUpset == [] && n.accUpset == [] && n.scriptUpset == []
    | none => false) = true := by decide +kernel

/-- Eight rows for one bank fill its buffer. -/
theorem wit_AsyncArrival :
    let k : AsyncPkt := { bed := 0, nib := 0, slot := 0, handle := some 0, index := 0, tally := 0, rows := [1, 2] }
    let s := one [(0, { st := .running, slots := [(0, { st := .armed })]
                        handles := [(0, { length := 16, valid := true, asyncWrite := true })] })]
    s.runs = true ∧ s.bedOf k.nib = some 0 ∧ s.unitOk (.scribe 0) 0 = true ∧ (s.nib k.nib).resetTo ≤ s.acyc ∧ s.nibOn k.nib = true ∧
      (s.nib k.nib).accepts k = some 0 ∧ k.err = 0 ∧ k.reach ≤ s.acyc ∧ (∀ bank, bank < 16 →
        let new := (k.rows.zipIdx.filter fun x => (0 + x.2) % 16 == bank).length
        new = 0 ∨ (s.nib k.nib).waiting bank + new ≤ 8) := by decide +kernel

/-- A clean row, and a row of zeros with one byte in error. -/
theorem wit_ScratchpadScrubs : let s := one [(0, { st := .idle, padUpset := [(3, 5)] })]
    s.runs = true ∧ s.nibOn 0 = true ∧ mget 0 (s.nib 0).padUpset 0 = 0 ∧ mget 0 (s.nib 0).padUpset 3 ≠ 0 ∧
      houseRead (rowBytes (mget 0 (s.nib 0).pad 3)) (mget 0 (s.nib 0).padUpset 3) = (some (List.replicate 32 0), true) ∧
      (s.nib 0).waiting 3 = 0 ∧ (s.nib 0).acts = [] ∧ mget none (s.nib 0).forcedAt 3 = none ∧ mget none (s.nib 0).portAt 3 ≠ some s.acyc := by decide +kernel

/-- The last segment of a load of two. -/
def loading : State :=
  let n : Nib := { st := .idle, slots := [(0, { st := .loading, length := 129, segs := 2, bitmap := 1 })] }
  let l : Load := { ref := none, images := [(0, { nibs := [0] })], lastSent := 0, handle := 1 }
  { one [(0, n)] 300000 with beds := [(0, { st := .ready, loads := [l] })] }

theorem wit_LoadSegmentArrives : let d := mget {} (loading.nib 0).slots 0
    loading.runs = true ∧ loading.nibOn 0 = true ∧ d.st = .loading ∧ 1 < d.segs ∧ d.report ≠ .ready ∧
      (loading.loadOf 0 0).isSome = true := by decide +kernel

theorem wit_LoadTimers_gap : ∃ b l, loading.loadOf 0 0 = some (b, l) ∧ loading.nibOn 0 = true ∧
    (mget {} (loading.nib 0).slots 0).st = .loading ∧ (mget {} (loading.nib 0).slots 0).report = .none ∧
    l.lastSent + 200000 < loading.now := ⟨_, _, rfl, by decide +kernel⟩

theorem wit_LoadTimers_limit : let s : State := { loading with root := 48 * 50000001 }
    ∃ l, (s.bed 0).loads.find? (fun l => l.handle == 1) = some l ∧ l.ready = false ∧ l.first + 50000000 < s.now :=
  ⟨_, rfl, by decide +kernel⟩

/-! ### Packets -/

/-- The packet `k` is taken in queue 1 of bed 0. -/
def withPkt (s : State) (k : Pkt) : State :=
  s.updBed 0 fun bd => { bd with st := .ready, queues := [(1, some { taken := some k })] }

/-- A packet of opcode `op` with arguments. -/
def pk (op : Nat) (a0 a1 a2 a3 : Nat := 0) : Pkt :=
  { ref := { bed := 0, q := 1, op := op, tag := 7 }, a0 := a0, a1 := a1, a2 := a2, a3 := a3 }

theorem wit_TakenPacket : let s := withPkt (rdy) (pk 0x01)
    s.runs = true ∧ s.boot.computeEnd = none ∧ s.sec.pausing = false ∧
      mget none (s.bed 0).queues 1 = some { taken := some (pk 0x01) } ∧ (pk 0x01).ref.op = 0x01 ∧ (pk 0x01).ref.op ≠ 0x02 := by
  decide +kernel

/-- The last place of the ring. -/
theorem wit_CompletionRecords_write :
    let s := (rdy).setBed 0 { st := .ready, intrEn := true, queues := [(1, some { cqTail := 63, cqHead := 1 })] }
    mget none (s.bed 0).queues 1 = some { cqTail := 63, cqHead := 1 } ∧ s.canWrite 0 1 = true ∧ (s.bed 0).held = [] ∧
      ({ tag := 7 } : Rec).event = false ∧ ({ tag := 7 } : Rec).status = 0 := by
  decide +kernel

theorem wit_CompletionRecords_held :
    let r : HeldRec := ⟨1, { tag := 7 }, true⟩
    let s := (rdy).setBed 0 { st := .ready, intrEn := true, queues := [(1, some {})], held := [r] }
    s.runs = true ∧ s.canWrite 0 1 = true ∧ takeHeld 1 (s.bed 0).held = some (r, []) := by decide +kernel

theorem wit_CompletionRecords_moderation :
    let s := (rdy 201).setBed 0 { st := .ready, queues := [(1, some { since := some 0 })], cqMod := [(1, { time := 2 })] }
    (mget {} (s.bed 0).cqMod 1).time ≠ 0 ∧ 0 + 100 * (mget {} (s.bed 0).cqMod 1).time < s.now := by decide +kernel

theorem wit_QueueCommands_nop : ∃ t, (withPkt (rdy) (pk 0x01)).take 0 1 0x01 = some (pk 0x01, t) := ⟨_, rfl⟩

theorem wit_QueueCommands_create : let k := pk 0x02 0x1000 (2 * 2 ^ 16 + 2 ^ 23 + 64) 0x2000 64
    ∃ t, (withPkt (rdy) k).take 0 1 0x02 = some (k, t) ∧ mget none (t.bed 0).queues (bitsAt k.a1 16 6) = none :=
  ⟨_, rfl, by decide +kernel⟩

theorem wit_QueueCommands_delete :
    ∃ t u, (withPkt (rdy) (pk 0x03 1)).take 0 1 0x03 = some (pk 0x03 1, t) ∧ mget none (t.bed 0).queues (bitsAt 1 0 6) = some u ∧
      u.deleting = none ∧ u.waiting = 0 := ⟨_, _, rfl, rfl, rfl, rfl⟩

theorem wit_QueueCommands_discard :
    let u : Queue := { tail := 2 }
    let k : Pkt := { pk 0x03 1 with ref := { op := 3 }, ring := [[], [1]] }
    let s := (rdy).setBed 0 { st := .ready, queues := [(0, some { taken := some k }), (1, some u)] }
    (s.take 0 0 0x03).isSome = true ∧ (∀ h, h ∈ k.ring → bitsAt (leNat (slice h 0 64)) 64 12 = 0) ∧ u.waiting ≤ k.ring.length ∧ mget none (s.bed 0).queues 1 = some u ∧ u.deleting = none ∧ u.waiting ≠ 0 ∧
      u.sqHbm = false := by decide +kernel

/-- A tail at the last slot and a head at the record just written. -/
theorem wit_Doorbells_indices :
    let u : Queue := { cqTail := 1 }
    let s := (rdy).setBed 0 { st := .ready, queues := [(1, some u)] }
    s.ready = true ∧ s.fnOn 0 = true ∧ s.inD3 0 = false ∧ mget none (s.bed 0).queues 1 = some u ∧ u.gone = false ∧
      u.deleting = none ∧ 63 < u.sqSlots ∧
      (u.tail + u.sqSlots - u.head) % u.sqSlots ≤ (63 + u.sqSlots - u.head) % u.sqSlots ∧ 1 < u.cqSize ∧
      (1 + u.cqSize - u.cqHead) % u.cqSize ≤ (u.cqTail + u.cqSize - u.cqHead) % u.cqSize := by decide +kernel

theorem wit_Doorbells_export :
    let x : TxStream := { num := 5, via := .host, target := { nslots := 8 }, prod := 3 }
    let s : State := { rdy with tx := [x] }
    let v : Word := 5 + 3 * 2 ^ 32
    s.ready = true ∧ s.inD3 0 = false ∧ s.txAt (v.toNat % 2 ^ 32) = some x ∧ x.bed = 0 ∧ x.via = .host ∧
      v.toNat / 2 ^ 32 % 65536 < x.target.nslots ∧
      (v.toNat / 2 ^ 32 % 65536 + x.target.nslots - x.cons % x.target.nslots) % x.target.nslots = 3 ∧ 3 ≤ x.prod - x.cons := by
  decide +kernel

/-- A NOP of tag 7 in host memory passes every check. -/
theorem wit_PacketFetched :
    let h : List Byte := leBytes 64 (0x01 + 3 * 2 ^ 24 + 7 * 2 ^ 32)
    let u : Queue := { tail := 1 }
    let s : State := { (rdy).setBed 0 { st := .ready, queues := [(1, some u)] } with sec := { cl := 3 } }
    let k0 := parseHeader 0 1 s.ids s.now (slice h 0 64)
    mget none (s.bed 0).queues 1 = some u ∧ s.fetchQueue 0 = some 1 ∧ u.sqHbm = false ∧ k0.fence = false ∧
      heldPlain (s.bed 0) + (s.bed 0).reserve + reserveOf k0.ref.op ≤ s.holdRoom 0 ∧ 1 + k0.plen ≤ u.waiting ∧
      1 + k0.plen ≤ u.sqSlots - 1 ∧ k0.dbytes = 0 ∧ (k0.ref.op ≠ 0x10 ∧ k0.ref.op ≠ 0x11 ∨ k0.dspace = 0) ∧
      (let k : Pkt := { k0 with payload := slice [] 0 (64 * k0.plen), data := [], pkg := none, ring := [] }
       let s1 : State := { s with ids := s.ids + 1 }
       let s2 := s1.updBed 0 fun bd => { bd with
         fetched := bd.fetched ++ [k.ref], reserve := bd.reserve + reserveOf k.ref.op, stuck := 0, fetchTurn := bd.turnOf 1 }
       let s3 := (s2.updQueue 0 1 fun u => { u with fenced := false, hostWait := false }).updQueue 0 1 fun u =>
         { u with head := (u.head + 1 + k.plen) % u.sqSlots }
       s3.firstCheck (slice h 0 64) k true true true = none) := by decide +kernel

/-- The same where the hold area has no room for its record: no reserve is left. -/
theorem wit_PacketFetched_full :
    let h : List Byte := leBytes 64 (0x01 + 3 * 2 ^ 24 + 7 * 2 ^ 32)
    let u : Queue := { tail := 1 }
    let s : State := { (rdy).setBed 0 { st := .ready, queues := [(1, some u)], reserve := 4032 } with sec := { cl := 3 } }
    let k0 := parseHeader 0 1 s.ids s.now (slice h 0 64)
    s.fetchQueue 0 = some 1 ∧ k0.fence = false ∧ s.holdRoom 0 < heldPlain (s.bed 0) + (s.bed 0).reserve + reserveOf k0.ref.op := by
  decide +kernel

/-- Queue 2 has given the two packets of its turn: queue 1 has its turn. -/
theorem test_fetchTurn :
    let s : State := (rdy).setBed 0 { st := .ready, fetchTurn := (2, 2), queues := [(1, some { tail := 1 }), (2, some { tail := 1, weight := 2 })] }
    s.fetchQueue 0 = some 1 ∧ (s.updBed 0 fun bd => { bd with fetchTurn := (2, 1) }).fetchQueue 0 = some 2 := by decide +kernel

/-- Bed 1 (weight 2) has sent two frames, so bed 3 has the turn; a message under way goes on (R406, R452). -/
theorem test_linkTurn :
    let p : Port := { st := .up, bedTurn := (1, 2), vc0 := { credits := 9, txq := [{ bed := 1, som := true, eom := true }, { bed := 3, som := true }] } }
    let s : State := { rdy with ports := [(0, p)], cfg := [(bedReg 1 0x38, 2), (bedReg 3 0x38, 1)] }
    s.frameBed 0 0 = some 3 ∧ ({ s with ports := [(0, { p with bedTurn := (1, 1) })] } : State).frameBed 0 0 = some 1 ∧
      ({ s with ports := [(0, { p with bedTurn := (1, 1), vc0 := { p.vc0 with sending := some 3 } })] } : State).frameBed 0 0 = some 3 := by
  decide +kernel

/-! ### Sessions -/

/-- Bed 0 with tenant 0, model 0 of one layer with a plan in slot 0, room for 16 sessions and an arena. -/
def serving (e : Session := {}) (rs : List Req := []) : State :=
  let plan : ShapePlan := { maxima := [[64, 64, 64, 64, 64]], rowRegs := [0], ctx := 1024 }
  let m : Model := { pkg := { vocab := 10, maxLen := 1024 }, slots := [(0, plan)], cl := 3 }
  { rdy with
    beds := [(0, { st := .ready, tenants := [(0, { valid := true, unlimited := true })], models := [(0, some m)]
                   arenaBase := 0x1000000, arenaSize := 0x100000, reqs := rs })]
    cfg := [(bedReg 0 0x48, 16)], sec := { cl := 3 }
    sessions := if e = {} then [] else [(0, e)] }

/-- An idle session of bed 0 with room for 512 tokens. -/
def idle : Session := { st := .idle, maxLen := 512 }

theorem wit_SessionCommands_open : let k := pk 0x20 (512 * 2 ^ 20)
    ∃ t m i a u, (withPkt serving k).take 0 1 0x20 = some (k, t) ∧
      (t.tenant 0 (bitsAt k.a0 0 12)).valid = true ∧ (t.bed 0).loaded (bitsAt k.a0 12 8) = some m ∧
      t.openSessions 0 < t.quota 0 ∧ t.freeEntry = some i ∧
      t.arenaTake 0 (64 + 4 * (Geo.mk m.pkg.layers (npmOf (bitsAt k.a0 20 21)) (fppOf m.pkg (t.bed 0).fsize) (t.bed 0).fsize).nent) =
        some (a, u) := ⟨_, _, _, _, _, rfl, by decide +kernel, rfl, by decide +kernel, rfl, rfl⟩

theorem wit_SessionCommands_close : let k := pk 0x21
    ∃ t, (withPkt (serving idle) k).take 0 1 0x21 = some (k, t) ∧ t.sesOk 0 k.session = some 0 ∧ t.beingClosed 0 = false ∧
      t.reqOf 0 = none := ⟨_, rfl, by decide +kernel, by decide +kernel, by decide +kernel⟩

theorem wit_SessionCommands_close_request : let k := pk 0x21
    ∃ t r, (withPkt (serving { idle with st := .queued } [{ index := 0 }]) k).take 0 1 0x21 = some (k, t) ∧
      t.sesOk 0 k.session = some 0 ∧ t.beingClosed 0 = false ∧ t.reqOf 0 = some r :=
  ⟨_, _, rfl, by decide +kernel, by decide +kernel, rfl⟩

/-- A session in state `st` whose request, of tag 7, is of kind `kd`: the CANCEL names it. -/
def cancelling (st : SesSt) (kd : ReqKind) : State :=
  withPkt (serving { idle with st := st } [{ index := 0, kind := kd, ref := { tag := 7 } }]) (pk 0x38 7)

theorem wit_SessionCommands_cancel :
    (∃ t r, (cancelling .queued .prefill).take 0 1 0x38 = some (pk 0x38 7, t) ∧ t.sesOk 0 0 = some 0 ∧ t.reqOf 0 = some r ∧
      r.ref.tag = 7 ∧ r.kind ≠ .kvImport ∧ (t.ses 0).st = .queued) ∧
    (∃ t r, (cancelling .running .prefill).take 0 1 0x38 = some (pk 0x38 7, t) ∧ t.sesOk 0 0 = some 0 ∧ t.reqOf 0 = some r ∧
      r.ref.tag = 7 ∧ r.kind ≠ .kvImport ∧ (t.ses 0).st ≠ .queued ∧ (t.ses 0).cancelSeen = false) ∧
    (∃ t r, (cancelling .queued .kvImport).take 0 1 0x38 = some (pk 0x38 7, t) ∧ t.sesOk 0 0 = some 0 ∧ t.reqOf 0 = some r ∧
      r.ref.tag = 7 ∧ r.kind = .kvImport) :=
  ⟨⟨_, _, rfl, by decide +kernel, rfl, rfl, by decide +kernel, rfl⟩, ⟨_, _, rfl, by decide +kernel, rfl, rfl, by decide +kernel,
    by decide +kernel, rfl⟩, ⟨_, _, rfl, by decide +kernel, rfl, rfl, rfl⟩⟩

/-- The bytes that are not 0 of a list of two entries, the first naming HBM frame 5, with its digest. -/
def listNonzero : List (Nat × Nat) :=
  [(8, 2), (12, 2), (16, 98), (17, 78), (18, 242), (19, 161), (20, 24), (21, 211), (22, 219), (23, 9), (64, 5), (67, 2)]

/-- The list's bytes. -/
def listImage : List Byte := (List.range 72).map fun i => BitVec.ofNat 8 (((listNonzero.find? fun e => e.1 == i).map (·.2)).getD 0)

/-- `serving` with session 0's list of two entries in the arena: page 0 in HBM frame 5. -/
def listed (e : Session) (rs : List Req := []) (st : FrameSt := .reserved) : State :=
  { serving { e with listAddr := 0x1010000 } rs with
    mem := listNonzero.map fun x => (0x1010000 + x.1, BitVec.ofNat 8 x.2)
    frames := [(5, some { addr := 0x200, st := st })] }

/-- The state in which a queue's packet has been taken. -/
def taken (s : State) (op : Nat) : State := ((s.take 0 1 op).getD ({}, s)).2

theorem wit_AdmissionQueues :
    let k := { pk 0x31 1 with plen := 1, payload := List.replicate 64 0 }
    let s := withPkt (listed { idle with noPrefix := true }) k
    let t := taken s 0x31
    let a := reqArgs k
    let e := t.ses 0
    let m := (mget none (t.bed 0).models e.model).getD {}
    s.take 0 1 0x31 = some (k, t) ∧ mget none (t.bed 0).models e.model = some m ∧
      (admitCheck (t.tenant 0 e.tenant) a.new t.now).isSome = true ∧ (t.bed 0).st = .ready ∧ (t.bed 0).armed = true ∧
      ¬ (t.twin.st = .displaced ∧ t.pairedBed 0 = true) ∧ t.mirrors 0 = false ∧
      t.sesOk 0 k.session = some 0 ∧ a.samp = false ∧ a.exported = false ∧ a.segn = 0 ∧ a.pfx = 0 ∧ a.deadline = 0 ∧
      a.bulk = false ∧ a.retr = false ∧ m.slots ≠ [] ∧ e.needsPrefill = false ∧ 0 < (t.pkgOf 0).vocab ∧ e.st = .idle ∧
      t.beingClosed 0 = false ∧ t.imports = [] ∧ t.activeSessions < 4096 ∧ e.c + a.new ≤ e.maxLen ∧ a.new ≠ 0 ∧
      a.new ≤ m.maxRows ∧ (m.pick a.bulk a.new (e.c + a.new)).isSome = true ∧ e.noPrefix = true ∧
      (∀ u, u ∈ (t.geo 0).span (e.c / 256) (cdiv (e.c + a.new) 256) → entHere ((t.entries 0).getD u 0) = true) ∧
      (∀ y, y ∈ t.entries 0 → entHere y = true → entLp y = false) := by
  decide +kernel

theorem wit_SessionData_export :
    let k := { pk 0x50 with plen := 1, payload := 1 :: List.replicate 63 0 }
    let s := withPkt (listed idle) k
    let t := taken s 0x50
    let x := target (slice k.payload 0 64)
    s.take 0 1 0x50 = some (k, t) ∧ t.sesOk 0 k.session = some 0 ∧ x.kind ≠ 0 ∧ t.targetOk x (npmOf (t.ses 0).maxLen) = true ∧
      x.eweid = false ∧ t.targetLicence x = true ∧ (t.ses 0).st = .idle ∧ t.beingClosed 0 = false := by decide +kernel

theorem wit_SessionData_import : let s := withPkt (serving idle) (pk 0x51)
    let t := taken s 0x51
    s.take 0 1 0x51 = some (pk 0x51, t) ∧ t.sesOk 0 0 = some 0 ∧ (t.ses 0).st = .idle ∧ t.beingClosed 0 = false := by
  decide +kernel

theorem wit_SessionData_swap :
    let k := { pk 0x52 with plen := 2, payload := leBytes 16 (2 * 2 ^ 64 + 2 * 2 ^ 96) ++ List.replicate 112 0 }
    let s := withPkt (listed idle) k
    let t := taken s 0x52
    let g := t.geo 0
    let es := bytesEnts g.nent (k.payload.drop 64)
    s.take 0 1 0x52 = some (k, t) ∧ (t.publish 0 es).isSome = true ∧ t.sesOk 0 k.session = some 0 ∧ t.beingClosed 0 = false ∧
      bitsAt k.a0 0 32 = (t.ses 0).listGen ∧ (listHead g (bitsAt k.a0 0 32) k.session).drop 4 = slice k.payload 4 12 ∧
      t.firstBad 0 es = none := by decide +kernel

theorem wit_SessionData_pin : let k := { pk 0x53 with plen := 16, payload := List.replicate 1024 0 }
    let s := withPkt (serving) k
    let t := taken s 0x53
    s.take 0 1 0x53 = some (k, t) ∧ ((t.bed 0).loaded (bitsAt k.a0 12 8)).isSome = true ∧
      (t.tenant 0 (bitsAt k.a0 0 12)).valid = true := by decide +kernel

/-! ### Steps -/

/-- A queued request of one token whose page 0 is in HBM frame 5. -/
def queued (r : Req := { index := 0, new := 1, tokens := [3] }) : State := listed { idle with st := .queued } [r]

/-- Nodes of R245's tree: spans 0 and 1, then both with span 2; not span 0 with spans 1 and 2. -/
theorem test_tree_nodes : siblings [0] [1] = true ∧ siblings [0, 1] [2] = true ∧ siblings [1, 2] [0] = false ∧
    siblings [0, 1, 4] [2] = false := by decide

theorem wit_StepsBuilt_publish : let v := (queued.dropLate 0).fetchPages 0
    let ready := (v.chunksFit (wsReserve (v.bed 0) - wsUsed (v.bed 0)) ((v.waiting 0).filter fun r => !r.prefetch)).map v.want
    let x := (v.buildFrom 0 (v.bed 0).interactive ready).getD (true, 0, {}, [])
    let y := v.enterAll x.2.2.1 0 (byBucket x.2.2.1 x.1 x.2.2.2)
    let step : Step := { slot := x.2.1, handle := (x.2.2.2.map (·.handle)).headD 1, bulk := x.1, nrows := y.2.1
                         buckets := x.2.2.1.buckets, shapes := planShapes x.2.2.1 y.2.1, seqs := y.1, at_ := y.2.2.acyc, lr := y.2.2.retrievalLen 0 }
    queued.mayPublish 0 = true ∧ v.buildFrom 0 (v.bed 0).interactive ready = some x ∧ x.2.2.2 ≠ [] ∧ y.1 ≠ [] ∧
      y.2.2.tileFault 0 x.2.2.1 step = none ∧ shapesAbove x.2.2.1 step.shapes = false ∧
      bscaleDiffers x.2.2.1 step.shapes = false := by decide +kernel

/-- A step descriptor of one sequence of one row, with no tile list in its section. -/
def stepBytes : List Byte :=
  leBytes 64 (8 + 96 * 2 ^ 32) ++ leBytes 256 0 ++ leBytes 64 (1 * 2 ^ 16) ++ leBytes 32 (1 * 2 ^ 56) ++ leBytes 32 0 ++ leBytes 64 0

theorem wit_StepsBuilt_step :
    let k := { pk 0x32 with data := stepBytes }
    let s := withPkt (queued { index := 0, new := 1, tokens := [3], stepped := true }) k
    let t := taken s 0x32
    let bd := t.bed 0
    let d := stepData k.data
    let l := lenTab d.lt
    let ents := (List.range l.nseq).map (seqEntry d.lt)
    let ids := ents.map fun e => t.sesOk 0 (bitsAt e 0 32)
    let m := (mget none bd.models 0).getD {}
    let p := (m.slots.headD (0, {})).2
    let ws := (ents.zip ids).filterMap fun x => match x.2 with
      | some i => (t.reqOf i).map fun r => t.wantGiven r 0 m.pkg.layers d.lt x.1
      | none => none
    let made := d.step p k.ref 0 (t.retrievalLen 0) ((ents.zip ws).map fun x =>
      { index := x.2.index, row0 := bitsAt x.1 32 24, new := x.2.rows, pos0 := x.2.pos, bucket := bitsAt x.1 154 3
        pfx := x.2.pfx, segs := x.2.segs, retr := x.2.retr })
    t.tileFault 0 p made = none ∧ s.take 0 1 0x32 = some (k, t) ∧ bd.st = .ready ∧ bd.armed = true ∧ (∀ e, e ∈ ents → bitAt e 153 = false) ∧
      l.nseq = 1 ∧ t.entryBad 0 d.lt 0 = false ∧ ids = [some 0] ∧ (t.ses 0).listGen = d.gens.getD 0 0 ∧ (t.ses 0).model = 0 ∧
      bd.planOf d.slot = some (0, m, p) ∧
      (∀ x, x ∈ made.shapes.zipIdx → x.1.m ≤ p.max x.2 0 ∧ x.1.n ≤ p.max x.2 1 ∧ x.1.k ≤ p.max x.2 2 ∧ x.1.aux0 ≤ p.max x.2 3 ∧
        x.1.aux1 ≤ p.max x.2 4) ∧ p.loops = [] ∧ (∀ x, x ∈ d.shapes → x.nb = cdiv x.k 32) ∧ p.bscale = [] ∧ bd.next = none ∧
      l.nrows = sumNat ((List.range l.nseq).map (entryRows d.lt)) ∧ d.lists = true ∧ listsInside d.tl = true ∧
      (t.enterGiven (ents.map fun e => (bitsAt e 32 24, bitsAt e 154 3)) ws).1 ≠ [] := by
  decide +kernel

theorem wit_StepsRun_start :
    let s : State := { serving.updBed 0 fun bd => { bd with next := some {}, sealed := some 0 } with acyc := 1 }
    ({} : Step).at_ < s.acyc ∧ (s.bed 0).sealed = some 0 ∧ 0 < s.acyc ∧ (s.bedNibs 0).Nodup ∧ s.runs = true ∧ (s.bed 0).st = .ready ∧ (s.bed 0).paused = false ∧ s.sec.pausing = false ∧ s.boot.computeEnd = none ∧
      (s.bed 0).step = none ∧ (s.bed 0).next = some {} := by decide +kernel

/-- A step of one sequence runs: positions 0 of session 0. -/
def stepping (q : Seq) (doneAt : Option Nat := none) : State :=
  (listed { idle with st := .running } [{ index := 0, new := 1, tokens := [3] }]).updBed 0 fun bd => { bd with
    step := some { seqs := [{ q with new := 1, list := listImage, last := true }], doneAt := doneAt } }

theorem wit_StepsRun_seal : (stepping { layers := [0], token := some (some 3) } (some 0)).sealable 0 = true := by decide +kernel

theorem wit_StepsRun_sampler : let s := stepping {} (some 0)
    let t := (s.bed 0).step.getD {}
    let x := t.seqs.headD {}
    (s.bed 0).step = some t ∧ t.seqs[0]? = some x ∧ s.runs = true ∧ (mget ({} : Samp) s.samp 0).retired = false ∧
      (mget ({} : Samp) s.samp 0).job = none ∧ s.samplerBed = some 0 ∧ s.samplerWaits 0 = some 0 ∧ (s.reqOf x.index).isSome = true ∧
      (List.replicate 10 (0 : Lane)).length = (s.pkgOf x.index).vocab := by decide +kernel

/-- Session 0's model has two layers of 64-wide heads, and nib 0 holds the step's records. -/
def writing : State :=
  let s := stepping {}
  let plan : ShapePlan := { maxima := [[64, 64, 64, 64, 64]], rowRegs := [0], ctx := 1024 }
  let m : Model := { pkg := { layers := 2, dcode := 0, vocab := 10, maxLen := 1024 }, slots := [(0, plan)], cl := 3 }
  let h : Handle := { length := 4096, valid := true, asyncRead := true }
  { s.updBed 0 fun bd => { bd with
      models := [(0, some m)]
      step := bd.step.map fun t => { t with seqs := t.seqs.map fun q => { q with
        list := List.replicate 64 0 ++ entBytes [mkEnt false 5, 0, mkEnt false 6, 0] } } } with
    sessions := [(0, { idle with st := .running, layers := 2 })], cfg := [(bedReg 0 0x18, 1)]
    frames := [(5, some { addr := 0x200, st := .reserved }), (6, some { addr := 0x201, st := .reserved })]
    nibs := [(0, { handles := [(1, h), (2, h)], kvqDone := [(1, 1)] })] }

theorem wit_StepsRun_writer :
    let src (v : Bool) : RecordSrc := { nib := 0, h1 := 1, h2 := 2, value := v, cols := 64 }
    let prog : WriterProg := { srcs := [src false, src true] }
    let t := (writing.bed 0).step.getD {}
    let x := t.seqs.headD {}
    (writing.bed 0).step = some t ∧ t.seqs[0]? = some x ∧ writing.runs = true ∧ (writing.bed 0).st = .ready ∧ x.new ≠ 0 ∧
      0 ∉ x.layers ∧ 0 < (writing.geo x.index).layers ∧ writing.sourcesOk 0 prog (writing.pkgOf x.index) x = true ∧
      (List.range 64).find? (writing.dmaFree 0) = some 0 ∧ x.layers.length + 1 < (writing.geo x.index).layers ∧
      (match (writing.writePages (writing.geo x.index) (writing.pkgOf x.index) (bytesEnts (writing.geo x.index).nent (x.list.drop 64))
        0 prog x (writing.sesNumber x.index) x.pages).1 with | .ok _ => true | .error _ => false) = true := by
  decide +kernel

/-- Each limit in the first instant past it; STEP_WD at 1 ms, DMA_PROG at 1 µs. -/
def limited (t : Nat) (s : State) : State := { s with root := 48 * t, cfg := [(limitsReg, 1 + 65536), (bedReg 0 0x48, 16)] }

theorem wit_StepAndSessionLimits_step : let s := limited 100001 (stepping {})
    s.runs = true ∧ (s.bed 0).step.isSome = true ∧ ((s.bed 0).step.getD {}).startT + 100000 * bitsAt (s.cfgAt limitsReg) 0 16 < s.now := by
  decide +kernel

theorem wit_StepAndSessionLimits_deadline : let s := { serving { idle with st := .queued, deadline := 5 }
      [{ index := 0, stepped := true }] with root := 48 * 6 }
    s.runs = true ∧ (s.reqOf 0).isSome = true ∧ ((s.reqOf 0).getD {}).stepped = true ∧ (s.ses 0).st = .queued ∧
      (s.ses 0).deadline ≠ 0 ∧ (s.ses 0).deadline < s.now ∧ (stepIndices (s.bed (s.ses 0).bed).next).contains 0 = false := by
  decide +kernel

theorem wit_StepAndSessionLimits_idle : let s : State := { serving { idle with idleLimit := 1 } with root := 48 * 100000001 }
    s.runs = true ∧ (s.ses 0).st = .idle ∧ (s.ses 0).mirror = false ∧ (s.ses 0).idleLimit ≠ 0 ∧
      (s.ses 0).lastActive + 100000000 * (s.ses 0).idleLimit < s.now ∧
      heldPlain (s.bed (s.ses 0).bed) + (s.bed (s.ses 0).bed).reserve < s.holdRoom (s.ses 0).bed ∧ (s.ses 1).st ≠ .idle := by
  decide +kernel

theorem wit_StepAndSessionLimits_dma : let s : State := { limited 101 rdy with
      dma := [(0, { job := some (.ship 1) }), (1, { job := some (.copy 0 0) })], copies := [⟨0, 0, true, []⟩] }
    s.runs = true ∧ (s.dmaCh 0).job = some (.ship 1) ∧ (s.dmaCh 0).moved + 100 * bitsAt (s.cfgAt limitsReg) 16 16 < s.now ∧
      (s.dmaCh 1).job = some (.copy 0 0) ∧ (s.dmaCh 1).moved + 100 * bitsAt (s.cfgAt limitsReg) 16 16 < s.now ∧
      (s.copies.find? (fun x => x.index == 0 && x.page == 0)).isSome = true := by decide +kernel

/-! ### Staging, beds, loads and reports -/

/-- The PF's queue 1 holds the packet `k`, and bed 0 is absent. -/
def pfPkt (s : State) (k : Pkt) : State := s.updBed 0 fun bd => { bd with queues := [(1, some { taken := some k })] }

theorem wit_StagingCommands_write :
    let k := { pk 0x60 with plen := 1, payload := leBytes 8 limitsReg ++ leBytes 8 5 ++ List.replicate 48 0 }
    let s := withPkt (rdy) k
    let t := taken s 0x60
    let rs := stageRecords k.payload (4 * k.plen)
    s.take 0 1 0x60 = some (k, t) ∧ rs ≠ [] ∧ t.stage.pending = false ∧
      (∀ r, r ∈ rs → r.1 % 8 = 0 ∧ t.stageable r.1 = true ∧ ∀ f, f ∈ stagedReserved r.1 → bitsAt r.2 f.1 f.2 = 0) := by
  decide +kernel

theorem wit_StagingCommands_check : let s := pfPkt rdy (pk 0x61)
    s.take 0 1 0x61 = some (pk 0x61, taken s 0x61) ∧ (taken s 0x61).checkSet = none := by decide +kernel

/-- A commit in each mode, bed 0 existing. -/
theorem wit_StagingCommands_commit : ∀ m, m < 3 →
    let k := pk 0x62 m 1
    let s := withPkt { rdy with stage := { checked := true } } k
    let t := taken s 0x62
    s.take 0 1 0x62 = some (k, t) ∧ t.sec.upd ≠ .window ∧ t.stage.checked = true ∧ t.stage.pending = false ∧
      bitsAt k.a0 0 2 = m ∧ t.bedExists (bitsAt k.a0 4 5) = true ∧ t.now < k.a1 := by decide +kernel

theorem wit_StagingCommands_time : let s : State := { rdy 7 with stage := { pending := true, mode := 2, at_ := 7 } }
    s.runs = true ∧ s.stage.pending = true ∧ s.stage.mode = 2 ∧ s.stage.at_ ≤ s.now ∧ s.beds = [] := by decide +kernel

/-- The same in an A-cycle in which bed 0's step can seal. -/
theorem wit_StagingCommands_time_seal : let s : State := { stepping { layers := [0], token := some (some 3) } (some 0) with stage := { pending := true, mode := 2 } }
    s.runs = true ∧ s.stage.pending = true ∧ s.stage.mode = 2 ∧ s.stage.at_ ≤ s.now ∧ s.sealable 0 = true := by decide +kernel

/-- Bed 1 on reticle tile 0, one session, one frame's worth of nothing, an arena of 1 MiB. -/
def bedBlock : List Byte := leBytes 64 (2 ^ 32 + 2 ^ 236 + 2 ^ 256)

theorem wit_BedAndTenantCommands_create :
    let k := { pk 0x70 1 with plen := 5, payload := bedBlock ++ List.replicate 256 0 }
    let s := pfPkt rdy k
    let t := taken s 0x70
    let n := bitsAt k.a0 0 5
    let w := leField k.payload 0 64
    let rect : Bed := { x0 := bitsAt w 0 4, y0 := bitsAt w 4 3, w := bitsAt w 7 4 + 1, h := bitsAt w 11 3 + 1 }
    let get (o : Nat) : Nat := match (bedSettings n w).find? fun x => x.1 == o with
      | some x => x.2
      | none => t.cfgAt o
    s.take 0 1 0x70 = some (k, t) ∧ ¬ 3 < n ∧ t.bedExists n = false ∧ rect.x0 + rect.w ≤ 10 ∧ rect.y0 + rect.h ≤ 8 ∧
      bitsAt w 32 18 ≠ 0 ∧ bitsAt w 32 18 ≤ 200000 ∧ bitsAt w 236 12 ≠ 0 ∧ bitsAt w 256 16 ≠ 0 ∧
      firstConflict (t.liveSet.claims (t.twinPorts t.liveSet)) (Settings.claims
        { get := get, beds := t.liveSet.beds ++ [(n, rect.x0, rect.y0, rect.w, rect.h)] } (t.twinPorts t.liveSet)) = none ∧
      (rectNibs rect).any t.nibOn = true ∧
      sumNat (t.liveSet.beds.map fun x => t.quota x.1) + bitsAt w 32 18 ≤ 200000 ∧ (t.makeBed n w).isSome = true := by
  decide +kernel

theorem wit_BedAndTenantCommands_destroy : let s := withPkt (rdy) (pk 0x71)
    s.take 0 1 0x71 = some (pk 0x71, taken s 0x71) ∧ ((taken s 0x71).bed 0).st = .ready := by decide +kernel

/-- A new tenant, a valid one, and one that goes. -/
theorem wit_BedAndTenantCommands_tenant :
    (let k := pk 0x72 (2 ^ 12 + 1)
     let s := withPkt (serving) k
     s.take 0 1 0x72 = some (k, taken s 0x72) ∧ bitAt k.a0 12 = true ∧ ((taken s 0x72).tenant 0 1).valid = false) ∧
    (let k := pk 0x72 (2 ^ 12)
     let s := withPkt (serving) k
     s.take 0 1 0x72 = some (k, taken s 0x72) ∧ bitAt k.a0 12 = true ∧ ((taken s 0x72).tenant 0 0).valid = true ∧
       bitsAt k.a0 14 2 ≠ 1) ∧
    (let k := pk 0x72
     let s := withPkt (serving) k
     s.take 0 1 0x72 = some (k, taken s 0x72) ∧ bitAt k.a0 12 = false ∧ (taken s 0x72).sessions = []) := by decide +kernel

theorem wit_BedAndTenantCommands_plan : let k := { pk 0xB0 with dbytes := 65536 }
    let s := withPkt (rdy) k
    s.take 0 1 0xB0 = some (k, taken s 0xB0) ∧ ((taken s 0xB0).floorPlan (bitAt k.a0 0) 0).length ≤ k.dbytes := by decide +kernel

theorem wit_BedAndTenantCommands_attest : let k := { pk 0xA0 with dbytes := 65536 }
    let s := withPkt (rdy) k
    s.take 0 1 0xA0 = some (k, taken s 0xA0) ∧ ((taken s 0xA0).attestation 0 k).length ≤ k.dbytes := by
  refine ⟨by decide +kernel, ?_⟩
  rw [Laws.attestation_length]
  decide +kernel

/-- A package of one slot, without images, compiled for bed 0 as `serving` has it. -/
def package : Package :=
  let v : Variant := { bedDigest := [228, 235, 81, 201, 68, 52, 130, 60, 121, 194, 222, 207, 238, 98, 183, 115], cl := 3, slots := [(0, [], { maxima := [[64, 64, 64, 64, 64]], ctx := 1024 })] }
  { maxLen := 1024, vocab := 10, variants := [v] }

theorem wit_LoadsStart :
    let m := package
    let k : Pkt := { pk 0x10 5 0 (2 ^ 32 - 1) with pkg := some m }
    let s := withPkt { serving with frames := (List.range 8).map fun i => (i, some { addr := 0x200 + i }) } k
    let t := taken s 0x10
    let v := m.variants.headD {}
    s.take 0 1 0x10 = some (k, t) ∧ (t.bed 0).st = .ready ∧ packageOk m false = true ∧ bitsAt k.a0 0 8 ≠ 0xFF ∧
      t.variantFor 0 m = some v ∧ (∀ l, l ∈ (t.bed 0).loads → l.handle ≠ 5) ∧
      (∀ x, x ∈ v.slots → slotBusy (t.bed 0) x.1 = false) ∧ t.noRoom 0 m = false ∧
      t.checkLoad 0 v m.fixedFold = none ∧ (t.beginLoad 0 (some k.ref) 5 m v k.a1 (bitsAt k.a2 0 32) k.dspace).isSome = true := by
  decide +kernel

theorem wit_LoadsStart_report (v : Variant) (f : List Nat) : (loaderReport v f).length ≤ bitsAt (2 ^ 32 - 1) 0 32 := by
  have : bitsAt (2 ^ 32 - 1) 0 32 = 2 ^ 32 - 1 := by decide
  rw [this, loaderReport, List.length_take]
  exact Nat.min_le_left _ _

/-! ### Firmware -/

theorem wit_UpdateCommands_write : let k := { pk 0x80 with data := [1, 2], dbytes := 2 }
    let s := withPkt (rdy) k
    s.take 0 1 0x80 = some (k, taken s 0x80) ∧ (taken s 0x80).sec.upd = .empty := by decide +kernel

theorem wit_UpdateCommands_verify : let s := withPkt { rdy with sec := { upd := .writing } } (pk 0x81)
    s.take 0 1 0x81 = some (pk 0x81, taken s 0x81) ∧ (taken s 0x81).sec.upd = .writing := by decide +kernel

theorem wit_UpdateCommands_activate : let s := withPkt { rdy with sec := { upd := .verified, cl := 3 } } (pk 0x82)
    let t := taken s 0x82
    s.take 0 1 0x82 = some (pk 0x82, t) ∧ t.sec.upd = .verified ∧ t.oldScripts (manifest t.flash.staging 3 1) = false ∧
      t.twin.peerUpdate = 0 := by decide +kernel

theorem wit_UpdateCommands_confirm :
    let s := withPkt { rdy with sec := { upd := .window, selftest := true }, flash := { trial := some 1 } } (pk 0x83)
    let t := taken s 0x83
    s.take 0 1 0x83 = some (pk 0x83, t) ∧ t.sec.upd = .window ∧ t.sec.selftest = true ∧ t.flash.trial = some 1 := by decide +kernel

theorem wit_UpdateCommands_licence : let k := { pk 0x90 with plen := 21, payload := List.replicate 1344 0 }
    let s := withPkt (rdy) k
    s.take 0 1 0x90 = some (k, taken s 0x90) := by decide +kernel

theorem wit_HandoverAndRecovery_handover :
    (let s : State := { rdy with sec := { upd := .copying } }
     s.runs = true ∧ s.sec.upd = .copying) ∧
    (let s : State := { rdy with sec := { upd := .handover, pausing := true } }
     s.runs = true ∧ s.sec.upd = .handover ∧ s.sec.pausing = true ∧ s.allPaused = true ∧ s.sec.back = none) ∧
    (let s : State := State.updBed { one [] with root := 48 * 1500001, sec := { upd := .handover, pausing := true, firstPause := some 0 } } 0 fun bd => { bd with step := some {} }
     s.runs = true ∧ s.sec.pausing = true ∧ s.sec.firstPause = some 0 ∧ s.allPaused = false ∧ 0 + 1500000 < s.now ∧
       s.sec.attempts < 15) ∧
    (let s : State := { rdy 10000001 with sec := { upd := .handover, retryAt := some 0 } }
     s.runs = true ∧ s.sec.upd = .handover ∧ s.sec.pausing = false ∧ s.sec.retryAt = some 0 ∧ 0 + 10000000 < s.now) ∧
    (let s : State := { rdy 30000000001 with sec := { upd := .window } }
     s.runs = true ∧ s.sec.upd = .window ∧ s.sec.selftest = false ∧ s.sec.windowStart + 1000000000 < s.now ∧
       s.sec.windowStart + 100000000 * s.sec.windowSecs < s.now) ∧
    (let s : State := rdy 360000000000
     s.runs = true ∧ s.boot.beds = true ∧ s.sec.lifeAt + 360000000000 ≤ s.now) := by decide +kernel

theorem wit_HandoverAndRecovery_recovery : let s (op : Nat) : State :=
      { State.reset with boot := { mailbox := true }, sec := { recCmd := op, recSt := 1, recVerified := true, recLength := 16384
                                                               recOffset := 0x4000000 - 16384 } }
    (s 1).recBusy 1 = true ∧ 1 ≤ (s 1).sec.recLength ∧ (s 1).sec.recLength ≤ 16384 ∧ (s 1).sec.recOffset % 64 = 0 ∧
      (s 1).sec.recOffset + (s 1).sec.recLength ≤ 0x4000000 ∧ (s 2).recBusy 2 = true ∧ (s 3).recBusy 3 = true ∧
      (s 3).sec.recVerified = true := by decide +kernel

/-! ### Functions, power and bring-up -/

theorem wit_FunctionsAndBedControl : let s := one []
    let t := s.updBed 0 fun bd => { bd with q0cfg := 0x01010606 }
    s.mayTouch 0 0 = true ∧ (s.bed 0).st = .ready ∧ s.bedExists 0 = true ∧ bitAt (0x01010606#64 : Word).toNat 16 = true ∧
      bitAt (s.bed 0).q0cfg 16 = false ∧ q0Ok (s.bed 0) (0x01010606#64 : Word).toNat = true ∧
      t.mayTouch 0 0 = true ∧ t.bedExists 0 = true ∧ bitAt (0x01000606#64 : Word).toNat 16 = false ∧
      bitAt (t.bed 0).q0cfg 16 = true ∧ s.ready = true ∧ s.fnOn 0 = true ∧ s.boot.up = true := by decide +kernel

theorem wit_FunctionsAndBedControl_vf : let s : State := { one [] with pcie := { numVfs := 31 } }
    (31 : Nat) ≠ 0 ∧ s.fnOn 31 = true ∧ s.ready = true := by decide +kernel

/-- The first and the last register of BAR0, and device memory from its first to its last byte. -/
theorem wit_RegisterAccess : let s := one []
    s.answers = true ∧ s.ready = true ∧ s.inD3 0 = false ∧ (s.regAt 0).isSome = true ∧ s.inBar 0 4 0 8 = true ∧
      s.bar4Ok 0 ((s.bed 0).win + 0) 8 = true ∧ (match (s.readDev ((s.bed 0).win + 0) 8).1 with | .ok _ => true | _ => false) = true ∧
      (s.bed 0).win + 0 + 2 ≤ 0x010000000000 ∧ s.inBar 0 4 0 2 = true ∧ s.bar4Ok 0 ((s.bed 0).win + 0) 2 = true ∧
      (s.writeDev ((s.bed 0).win + 0) [1, 2]).2 = [] ∧ s.inBar 0 4 (2 ^ 30) 1 = false := by decide +kernel

/-- A register without a read-to-clear field and one with it, and the last row of the last nib's window. -/
theorem wit_RegisterAccess_reads_and_windows :
    rcBytes 0x208000 = none ∧ rcBytes 0xC00008 ≠ none ∧
    (let s : State := (one []).updBed 0 fun bd => { bd with win := 0x010000000000 + 0x400000 * 123 }
     s.answers = true ∧ s.ready = true ∧ s.inD3 0 = false ∧ s.inBar 0 4 (32 * 65535) 32 = true ∧ 123 < 1280 ∧ 65535 < 65536 ∧
       (s.bed 0).win + 32 * 65535 = 0x010000000000 + 0x400000 * 123 + 32 * 65535 ∧ s.bar4Ok 0 ((s.bed 0).win + 32 * 65535) 32 = true) := by
  decide +kernel

theorem wit_PowerAndResets :
    (let s : State := { State.reset with boot := { up := false } }
     s.powered = true ∧ s.pins.refclk = true ∧ s.boot.up = false) ∧
    (let s : State := { State.reset with pins := { pwrgdCore := false } }
     s.powered = false) ∧
    (rdy.bootOpen 0 = true ∧ rdy.ready = true ∧ rdy.boot.computeEnd = none) := by decide +kernel

/-- Step `n` runs, after the steps before it. -/
def bringing (n : Nat) : State :=
  { up with clk := { lock := decide (1 < n) }, boot := { step := n, done := n - 1, st := .busy, meshUp := decide (5 < n), memUp := decide (6 < n) } }

theorem wit_BringUpSteps :
    (∀ n, n < 10 → 1 ≤ n → (bringing n).booting n = true) ∧ (bringing 2).flash.check = true ∧
    (match romPick (bringing 4).flash.active .badSignature .ok with | .ok k => k == 1 | _ => false) = true ∧
    ((List.range 29).eraseDups.filter (· < 28)).length ≤ 28 ∧
    (bringing 6).flash.store = [] ∧ (bringing 6).cfg = [] ∧ (List.replicate 128 ({ rd := 10, wr := 10 } : TrainResult)).all (fun r => r.code == 0) = true ∧
    (bringing 8).flash.store = [] ∧ (bringing 9).boot.fallback = false ∧
    (let s : State := { bringing 3 with ref := 48 * 100000 * stepLimit 3 + 48 }
     s.boot.up = true ∧ s.boot.st = .busy ∧ s.boot.memUp = false ∧ s.boot.started / 48 + 100000 * stepLimit s.boot.step < s.ref / 48) := by
  decide +kernel

/-! ### What goes out of service, memory, copies -/

theorem wit_RetirementAndMemory :
    (rdy.bootOpen 0 = true ∧ rdy.runs = true ∧ rdy.nibOn 0 = true ∧ 4 ≤ rdy.boot.done) ∧
    (rdy.ready = true ∧ 31 ∉ rdy.scribesOut ∧ (mget ({} : Samp) rdy.samp 3).retired = false ∧ rdy.pfOpen 0 = true) ∧
    ((rdy.chan (31 + 128)).st = .active ∧ rdy.msys.now true = none ∧ rdy.msys.retrainQ = []) ∧
    (let s : State := { rdy with msys := { lpNow := some (31, 0) } }
     s.runs = true ∧ s.msys.now true = some (31, 0) ∧ ({ rd := 10, wr := 10 } : TrainResult).code = 0 ∧ s.msys.retrainQ = []) := by decide +kernel

/-- A codeword that is clean, one with a byte in error, and one of a channel that has stopped working. -/
theorem wit_RetirementAndMemory_scrub : let s (k : Nat) : State :=
      { rdy with memUpset := (if k = 1 then [(0, 5)] else []), chans := if k = 2 then [(0, { dead := true })] else [] }
    (∀ k, k < 3 → (s k).runs = true ∧ (s k).boot.memUp = true ∧ bitAt ((s k).cfgAt (ctrlReg false)) 24 = true ∧
        ((s k).chan 0).st = .active ∧ chanBase 0 + 32 * ((s k).chan 0).scrubPtr = 0) ∧
      ((s 0).codeword 0).1.isSome ∧ ((s 0).codeword 0).2 = false ∧ ((s 1).codeword 0).1.isSome ∧ ((s 1).codeword 0).2 = true ∧
      ((s 2).codeword 0).1 = none := by decide +kernel

/-- Page 0 of an idle session lies in LPDDR frame 5, and its copy to HBM frame 6 is under way on channel 0. -/
def copying : State :=
  { serving { idle with listAddr := 0x1010000 } with
    lpFrames := [(5, some { addr := 0x800000, st := .sealed })], frames := [(6, some { addr := 0x300, st := .copying })]
    copies := [⟨0, 0, false, [(0, 6)]⟩], dma := [(0, { job := some (.copy 0 0) })]
    mem := listNonzero.map fun x => (0x1010000 + x.1, BitVec.ofNat 8 (if x.1 = 67 then 3 else x.2)) }

/-- Past the bed's arena neither a system table nor its tenant table lies. -/
theorem copying_clean (a : Nat) (h : 0x1100000 ≤ a ∧ a < 0xC0000000 ∨ 0x008000000000 ≤ a ∧ a < 0x010000000000) : copying.CleanAt a := by
  have hm : 0x006000000000 ≤ a ∨ 0x1000000 ≤ a % 0xC0000000 := by omega
  have ho : copying.sysOffset a = none := State.sysOffset_none hm
  have ht : copying.tenantAt a = none := by
    have hb : copying.beds.all (fun e => decide (e.2.tenantBase + 0x40000 ≤ 0x1100000)) = true := by decide +kernel
    unfold State.tenantAt
    rw [List.find?_eq_none.mpr fun e he hp => by
      have := of_decide_eq_true (List.all_eq_true.mp hb e he)
      simp only [Bool.and_eq_true, decide_eq_true_eq] at hp
      omega]
    rfl
  rcases h with h | h
  · exact ⟨a / 0xC0000000, by rw [placeOf, if_pos (by omega)], rfl, rfl, ho, ht⟩
  · exact ⟨128 + (a - 0x008000000000) / 0x400000000, by rw [placeOf, if_neg (by omega), if_pos h], rfl, rfl, ho, ht⟩

theorem copying_read : copying.readDev (65536 * 0x800000) 65536 = (.ok (List.replicate 65536 0), copying) := by
  rw [State.readDev_clean (by decide) fun i hi => copying_clean _ (by rw [show cdiv 65536 32 = 2048 by decide] at hi; omega)]
  rw [show cdiv 65536 32 = 2048 by decide, mgetRange_absent _ _ _ _ fun e he => Or.inl (by
    have : copying.mem.all (fun e => decide (e.1 < 65536 * 0x800000)) = true := by decide +kernel
    simpa using List.all_eq_true.mp this e he)]
  rw [List.take_of_length_le (Nat.le_of_eq (List.length_replicate ..))]

theorem copying_write : copying.writeDev (65536 * 0x300) (List.replicate 65536 0) = (copying, []) :=
  State.writeDev_zeros (n := 2048) (by decide) (fun i hi => copying_clean _ (by omega)) rfl fun e he => by
    have : copying.mem.all (fun e => decide (65536 * 0x300 + 32 * 2048 ≤ e.1) || decide (e.1 < 65536 * 0x300)) = true := by
      decide +kernel
    have := List.all_eq_true.mp this e he
    simp at this
    omega

theorem readUnits_one {s : State} {g : Geo} {es : List Nat} {u t : Nat} {f : Frame} {bs : List Byte}
    (hf : s.frame (entLp (es.getD u 0)) (entFrame (es.getD u 0)) = some f)
    (hr : s.readDev (65536 * f.addr) (frameBytes g.fsize) = (.ok bs, s)) : s.readUnits g es [(u, t)] = (.ok [(t, bs)], s) := by
  simp only [State.readUnits, hf, hr]

theorem copying_units : copying.readUnits (copying.geo 0) (copying.entries 0) [(0, 6)] = (.ok [(6, List.replicate 65536 0)], copying) := by
  have hf : copying.frame (entLp ((copying.entries 0).getD 0 0)) (entFrame ((copying.entries 0).getD 0 0)) =
      some { addr := 0x800000, st := .sealed } := by decide +kernel
  have hg : frameBytes (copying.geo 0).fsize = 65536 := by decide +kernel
  refine readUnits_one hf ?_
  rw [hg]
  exact copying_read

/-- Writing one unit back. -/
theorem foldl_one {s t : State} {lp : Bool} {n : Nat} {f : Frame} {bs : List Byte} (hf : s.frame lp n = some f)
    (hw : s.writeDev (65536 * f.addr) bs = (t, [])) :
    [(n, bs)].foldl (fun (s : State) (x : Nat × List Byte) => match s.frame lp x.1 with
      | some f => (s.writeDev (65536 * f.addr) x.2).1
      | none => s) s = t := by
  simp only [List.foldl, hf, hw]

theorem wit_CopiesAndSpills_copy : ∃ k l v, copying.runs = true ∧ copying.copies.find? (fun k => k.index == 0 && k.page == 0) = some k ∧
    (copying.dma.any fun d => d.2.job == some (.copy 0 0)) = true ∧ 0 ∉ copying.writtenPages 0 ∧ copying.copyMoot k = false ∧
    k.toLp = false ∧ copying.readUnits (copying.geo 0) (copying.entries 0) k.moves = (.ok l, copying) ∧
    (l.foldl (fun (s : State) (x : Nat × List Byte) => match s.frame k.toLp x.1 with
      | some f => (s.writeDev (65536 * f.addr) x.2).1
      | none => s) copying).publishCopy k = some v := by
  have hp : (copying.publishCopy ⟨0, 0, false, [(0, 6)]⟩).isSome = true := by decide +kernel
  obtain ⟨v, hv⟩ := Option.isSome_iff_exists.mp hp
  have hf : copying.frame false 6 = some { addr := 0x300, st := .copying } := by decide +kernel
  refine ⟨⟨0, 0, false, [(0, 6)]⟩, _, v, by decide +kernel, by decide +kernel, by decide +kernel, by decide +kernel,
    by decide +kernel, by decide +kernel, copying_units, ?_⟩
  rw [foldl_one hf copying_write]
  exact hv

/-- No free frame where 192 of 256 are asked for. -/
theorem wit_CopiesAndSpills_spill : let s : State := { serving with cfg := [(bedReg 0 0x28, 256)] }
    let hbm := bitsAt (s.cfgAt (bedReg 0 0x28)) 0 22
    (s.bed 0).st = .ready ∧ s.freeOutside 0 < hbm * bitsAt (s.cfgAt (bedReg 0 0x40)) 32 8 / 256 := by decide +kernel

/-! ### Links -/

/-- Port 0, of the fabric role, is as given; the firmware's level is 3. -/
def linked (p : Port) (t : Nat := 0) : State := { rdy t with ports := [(0, p)], sec := { cl := 3 } }

theorem wit_PortTraining_retrain : (linked { st := .up, active := 15 }).runs = true ∧ (linked { st := .up, active := 15 }).ready = true ∧
    (linked { st := .up, active := 15 }).inD3 0 = false ∧ ((linked { st := .up, active := 15 }).port 0).st = .up ∧
    bitAt ((linked { st := .up, active := 15 }).port 0).active 3 = true ∧ ((linked {}).port 0).st = .down ∧ (linked {}).role 0 ≠ 3 := by
  decide +kernel

theorem wit_PortTraining_training :
    (let s := linked { st := .training }
     (s.port 0).training = true ∧ (s.port 0).working = 0 ∧ (0 &&& s.lanesAllowed 0) = 0) ∧
    (let s := linked { st := .training, nego := some {}, working := 15 }
     (s.port 0).training = true ∧ s.role 0 ≠ 2 ∧ (s.port 0).working ≠ 0 ∧ (s.port 0).nego.isSome = true) ∧
    (∀ g : Option Nego, g ∈ [none, some {}] → let s := linked { st := .training, nego := g }
     (s.port 0).training = true ∧ s.role 0 ≠ 2 ∧ (s.port 0).working = 0 ∧ (s.port 0).nego = g ∧ (15 &&& s.lanesAllowed 0) ≠ 0) ∧
    (let s := linked { st := .training, trainLimit := 50000000 } 50000001
     (s.port 0).training = true ∧ (s.port 0).trainStart + (s.port 0).trainLimit < s.now) ∧
    (let s := linked { st := .training, working := 15 } 101
     (s.port 0).training = true ∧ s.role 0 ≤ 1 ∧ (s.port 0).working ≠ 0 ∧ (s.port 0).negoAt + 100 < s.now) := by decide +kernel

/-- Seven replays without progress, eight, and a NAK to repeat. -/
theorem wit_PortTraining_replay :
    (let s := linked { st := .up, replayBuf := [{}], fruitless := 7 } 201
     (s.port 0).st = .up ∧ (s.port 0).replayBuf ≠ [] ∧ (s.port 0).progress + 200 < s.now ∧ (s.port 0).fruitless < 8) ∧
    (let s := linked { st := .up, replayBuf := [{}], fruitless := 8 } 201
     (s.port 0).st = .up ∧ (s.port 0).replayBuf ≠ [] ∧ (s.port 0).progress + 200 < s.now ∧ 8 ≤ (s.port 0).fruitless) ∧
    (let s := linked { st := .up, gap := some 0 } 201
     (s.port 0).st = .up ∧ (s.port 0).gap = some 0 ∧ 0 + 200 < s.now) := by decide +kernel

/-- A frame's 288 bytes from its 256 data bytes. -/
def rawOf (bs : List Byte) : List Byte := (List.range 8).flatMap fun i => houseEncode (slice bs (32 * i) 32)

/-- The data bytes of a frame that holds `head` and zeros. -/
def frameOf (head : List Byte) : List Byte := head ++ List.replicate (256 - head.length) 0

/-- An IDLE frame, a DATA frame in order and one out of order, of a peer without credits. -/
def idleBs : List Byte := frameOf (frameHead {} 0 false false false 0 0 0)
def inOrderBs : List Byte := frameOf (frameHead {} 1 false true true 2 0 239)
def outOfOrderBs : List Byte := frameOf (frameHead {} 1 false true true 2 4095 239)
/-- A NEGOTIATE frame that states a level and lanes 0–3, with further bits. -/
def negotiateBs (cl x : Nat) : List Byte :=
  frameOf (leBytes 16 2 ++ leBytes 16 (cl * 2 ^ 16 + (cl - 1) * 2 ^ 24 + 15 * 2 ^ 40 + x))

theorem wit_FramesArrive_clean_idle : decodeFrame 8 (rawOf idleBs) = (some idleBs, 0) := by decide +kernel
theorem wit_FramesArrive_clean_data : decodeFrame 8 (rawOf inOrderBs) = (some inOrderBs, 0) ∧
    decodeFrame 8 (rawOf outOfOrderBs) = (some outOfOrderBs, 0) := by decide +kernel
theorem wit_FramesArrive_clean_negotiate : ∀ x, x ∈ [(3, 0), (5, 0), (3, 2 ^ 44)] →
    decodeFrame 8 (rawOf (negotiateBs x.1 x.2)) = (some (negotiateBs x.1 x.2), 0) := by decide +kernel

/-- The three frames reach a quiet port, without a gap and with one. -/
theorem wit_FramesArrive_frames :
    (∀ x, x ∈ [(0, idleBs), (1, inOrderBs), (1, outOfOrderBs)] → ∀ g, g ∈ [none, some 0] →
      let s := linked { st := .up, gap := g }
      let f := parseFrame x.2
      (s.port 0).st = .up ∧ s.runs = true ∧ s.role 0 ≤ 1 ∧ f.ok = true ∧ f.type = x.1 ∧ f.nak = false ∧
        (s.port 0).vc0.txq = [] ∧ (s.port 0).vc1.txq = [] ∧ (s.port 0).vc2.txq = [] ∧ (s.port 0).gap = g) ∧
    (parseFrame inOrderBs).seq = ((linked { st := .up }).port 0).rxSeq ∧
    (parseFrame outOfOrderBs).seq ≠ ((linked { st := .up }).port 0).rxSeq := by decide +kernel

theorem wit_FramesArrive_received : ((linked { st := .up }).receive 0 0 (rawOf idleBs)).1 = some (parseFrame idleBs) := by decide +kernel

theorem gfMul_zero (b : Byte) : gfMul 0#8 b = 0#8 := by simp [gfMul, gfMulAux, gfX]

/-- A codeword whose first three syndromes alone are zero is beyond correction. -/
theorem houseDecode_third (cw : List Byte) (e : Byte) (h0 : houseSyn cw 0 = 0#8) (h1 : houseSyn cw 1 = 0#8)
    (h2 : houseSyn cw 2 = 0#8) (h3 : houseSyn cw 3 = e) (he : e ≠ 0#8) : houseDecode cw = .uncorrectable := by
  have he' := he.symm
  have one : ∀ n i, houseOne 0#8 0#8 0#8 e i n = none := by
    intro n; induction n with
    | zero => intro i; rfl
    | succ n ih => intro i; simp [houseOne, gfMul_zero, ih, he]
  have pair : ∀ i j, housePair 0#8 0#8 0#8 e i j = none := by
    intro i j; simp [housePair, gfMul_zero, he']
  have none_of (l : List (Nat × Nat)) :
      (l.findSome? fun p => (housePair 0#8 0#8 0#8 e p.1 p.2).map fun x => (p, x)) = none := by simp [pair]
  simp only [houseDecode, h0, h1, h2, h3, one, none_of]
  simp [he]

theorem decodeFrame_lost (n c : Nat) (bs : List Byte) (h : houseDecode (slice bs 0 36) = .uncorrectable)
    (r : (decodeFrame n (bs.drop 36)).2 = c) : decodeFrame (n + 1) bs = (none, c) := by
  simp only [decodeFrame, h, r]

/-- A raw frame whose first codeword is beyond correction. -/
def lostFrame : List Byte := List.replicate 32 0 ++ [1, 7, 14, 8] ++ List.replicate 252 0

theorem lostFrame_lost : decodeFrame 8 lostFrame = (none, 0) :=
  decodeFrame_lost 7 0 lostFrame
    (houseDecode_third _ 0x9f#8 (by decide +kernel) (by decide +kernel) (by decide +kernel) (by decide +kernel) (by decide))
    (by decide +kernel)

/-- A NEGOTIATE body that agrees, one whose levels do not, and one with a reserved bit set. -/
theorem wit_FramesArrive_negotiate : let s := linked { st := .training }
    let g (cl : Nat) : Nego := { cl := cl, clmin := cl - 1, lanes := 15 }
    (s.port 0).training = true ∧ s.role 0 ≤ 1 ∧ (s.port 0).active = 0 ∧
      (∀ x, x ∈ [(3, 0), (5, 0), (3, 2 ^ 44)] → let f := parseFrame (negotiateBs x.1 x.2)
        f.ok = true ∧ f.type = 2 ∧ (∀ y, y ∈ f.body.drop 16 → y = 0) ∧ (bitsAt (leField f.body 0 16) 44 20 = 0 ↔ x.2 = 0)) ∧
      s.negoFault 0 (g 3) = none ∧ s.negoFault 0 (g 5) = some .version := by decide +kernel

theorem wit_FramesArrive_messages :
    (let m := leBytes 16 0 ++ List.replicate 32 (1 : Byte)
     let s : State := { one [] with ports := [(0, { st := .up, vc1 := { rxq := [(1, m)] } })], cfg := [(bedReg 0 0x20, 1), (bedReg 0 0x38, 1)] }
     let w := leField m 0 16
     s.runs = true ∧ (s.port 0).vc1.rxq = (1, m) :: [] ∧ s.boot.computeEnd = none ∧ bitsAt w 53 75 = 0 ∧
       m.length = 16 + 32 * (bitsAt w 47 6 + 1) ∧ s.bedMayUse (bitsAt w 0 5) 0 = true ∧
       s.physical (bitsAt w 0 5) (bitsAt w 5 11) = some 0) ∧
    (let s := linked { st := .up, vc1 := { rxq := [(1, [])] } }
     (s.port 0).vc1.rxq = (1, []) :: [] ∧ ([] : List Byte).length ≠ 16 + 32 * (bitsAt (leField [] 0 16) 47 6 + 1)) ∧
    (let s := linked { st := .up, vc2 := { rxq := [(1, [])] } }
     s.boot.computeEnd = none ∧ (s.port 0).st = .up ∧ s.role 0 ≤ 1 ∧ s.sec.cl - 1 ≤ min s.sec.cl 3 ∧ 2 ≤ min s.sec.cl 3 ∧
       (s.port 0).level < min s.sec.cl 3) := by decide +kernel

/-- An Ethernet frame of 66 bytes with an empty datagram to KVX.CONFIG.UDP_PORT. -/
def ethBytes : List Byte :=
  let b : List Byte := List.replicate 12 0 ++ [0x86, 0xDD, 0x60, 0, 0, 0, 0, 8, 0x11, 0x40] ++ List.replicate 32 0 ++
    [0, 0, 0xC0, 0xA8, 0, 8, 0x3F, 0x36]
  b ++ leBytes 4 (fcs b)

theorem wit_FramesArrive_ethernet : let s : State := { rdy with ports := [(16, { st := .up })], cfg := [(linkReg 16 8, 2)] }
    s.role 16 = 2 ∧ (s.port 16).st = .up ∧ (s.ethAccept 16 ethBytes).isSome = true ∧ s.ethAccept 16 [] = none := by decide +kernel

/-- A datagram the device frames is one a port with the destination's addresses accepts (R469, R470): checksum and FCS are good. -/
theorem test_ethFrame : let s : State := { rdy with cfg := [(linkReg 16 0x40, 5), (linkReg 16 0x48, 0xFE)] }
    let ip := leBytes 8 0xFE ++ leBytes 8 0
    s.ethAccept 16 (s.ethFrame 16 7 (leBytes 6 5) ip 0xC0A8 0xC0A8 [1, 2, 3]) = some (leBytes 6 5 ++ ip, [1, 2, 3]) := by decide +kernel

/-! ### The shipper -/

/-- Stream 1 over port 0, with one message kept, and a message `m` at the port's front. -/
def shipping (x : TxStream) (m : List Byte) (t : Nat := 0) : State :=
  { rdy t with
    ports := [(0, { st := .up, vc0 := { rxq := if m = [] then [] else [(1, m)] } })], tx := [{ x with num := 1 }], sec := { cl := 3 } }

theorem wit_SenderSide_stream :
    (∀ v, v ∈ [Transport.ruxel 0, .eth 16] → let s := shipping { via := v } []
     s.runs = true ∧ s.boot.computeEnd = none ∧ let t := (s.txAt 1).getD {}
      s.txAt 1 = some t ∧ t.finished = false ∧ t.downSince = none ∧ t.seq = 0 ∧ t.target.eweid = false ∧ t.via = v ∧
        t.unacked = [] ∧ s.tx = [t]) ∧
    (let b : Batch := { num := 1, sent := [(0, 1)] }
     let s := shipping { via := .ruxel 0, seq := 1, batches := [{}, b] } []
     let t := (s.txAt 1).getD {}
     s.txAt 1 = some t ∧ t.finished = false ∧ t.downSince = none ∧ t.seq ≠ 0 ∧ t.target.eweid = false ∧ t.via = .ruxel 0 ∧
       t.batches.find? (fun b => !b.closed && b.layerDue.isSome) = some b ∧ b.layerDue = some (0, 1)) ∧
    (let x : Batch := { items := [(2, 0)] }
     let b : Batch := { num := 1, items := [(1, 3)] }
     let s := shipping { via := .ruxel 0, seq := 1, batches := [x, b] } []
     let t := (s.txAt 1).getD {}
     s.txAt 1 = some t ∧ t.finished = false ∧ t.downSince = none ∧ t.seq ≠ 0 ∧ t.via = .ruxel 0 ∧
       (∀ y, y ∈ t.batches → y.closed = false ∧ y.layerDue = none) ∧ t.batches.find? (fun y => !y.closed) = some x ∧ x.items ≠ [] ∧
       t.nextItem = some (b, 1, 3)) ∧
    (∀ k, k ∈ [0, 8] → let s := shipping { ref := some {}, unacked := [⟨0, 0, .close, k⟩] } [] 20001
     let t := (s.txAt 1).getD {}
     let m : SentMsg := ⟨0, 0, .close, k⟩
     s.txAt 1 = some t ∧ t.unacked = m :: [] ∧ t.downSince = none ∧ t.progress + 100 * t.ackTimeout < s.now ∧ t.finished = false ∧
       (m.resends < t.retryLimit ↔ k = 0) ∧ (match (s.buildMsg t { m with resends := m.resends + 1 }).1 with | .ok _ => true | _ => false) = true ∧
       t.ref = some {} ∧ t.failure = none ∧ s.inFlight {} = false) ∧
    (let s := shipping { ref := some {}, downSince := some 0 } [] 160001
     let t := (s.txAt 1).getD {}
     s.txAt 1 = some t ∧ t.downSince = some 0 ∧ t.finished = false ∧ 0 + 100 * t.ackTimeout * t.retryLimit < s.now ∧
       t.ref = some {} ∧ t.failure = none ∧ s.inFlight {} = false) := by decide +kernel

/-- A message of each type that comes back, over a Ruxel port; the NACK names the one message kept. -/
theorem wit_SenderSide_answers : ∀ x, x ∈ [(2, leBytes 1 3), (7, leBytes 4 1), (8, leBytes 8 (2 ^ 32)), (10, leBytes 1 5)] →
    let kept : SentMsg := ⟨0, 0, .close, 0⟩
    let s := shipping { via := .ruxel 0, ref := some {}, unacked := [kept] } (actMessage x.1 3 1 0 0 0 0 0 0 0 x.2)
    let f := (s.frontAct 0).getD ([], [], s)
    let m := (parseAct f.1).getD { type := 0, stream := 0, payload := [] }
    let t := (f.2.2.txFrom 0 m f.2.1).getD {}
    s.runs = true ∧ s.boot.computeEnd = none ∧ s.frontAct 0 = some f ∧ parseAct f.1 = some m ∧ m.type = x.1 ∧
      f.2.2.txFrom 0 m f.2.1 = some t ∧ f.2.2.txAt t.num = some t ∧ t.via = .ruxel 0 ∧ t.endAfter = false ∧ t.streamed = false ∧ t.ref = some {} ∧
      t.failure = none ∧ f.2.2.inFlight {} = false ∧ t.unacked.find? (fun y => y.seq == kept.seq) = some kept ∧
      kept.resends < t.retryLimit ∧ (match (f.2.2.buildMsg t { kept with resends := 1 }).1 with | .ok _ => true | _ => false) = true ∧
      (x.1 = 8 → (t.unacked.filter fun x => (List.range (m.payload.length / 8)).any fun i =>
        decide (leField m.payload (8 * i) 4 ≤ x.seq) &&
        decide (x.seq < leField m.payload (8 * i) 4 + leField m.payload (8 * i + 4) 4)) = [kept]) := by decide +kernel

/-- OPEN_ACK to an Ethernet stream, at its own level. -/
theorem wit_SenderSide_ethernet :
    let bs := actMessage 2 3 1 0 0 0 0 0 0 0 (leBytes 1 3)
    let s : State := { rdy with ports := [(16, { st := .up, ethRx := [([], bs)] })], cfg := [(linkReg 16 8, 2)]
                                tx := [{ num := 1, via := .eth 16, level := 3 }] }
    let f := (s.frontAct 16).getD ([], [], s)
    let m := (parseAct f.1).getD { type := 0, stream := 0, payload := [] }
    let t := (f.2.2.txFrom 16 m f.2.1).getD {}
    s.frontAct 16 = some f ∧ parseAct f.1 = some m ∧ f.2.2.txFrom 16 m f.2.1 = some t ∧ f.2.2.txAt t.num = some t ∧ m.type = 2 ∧ t.via = .eth 16 ∧
      leField m.payload 0 1 ≤ t.level ∧ t.level ≤ leField m.payload 0 1 + 1 := by decide +kernel

/-- An OPEN whose session waits for this sender, and one that names no session. -/
theorem wit_ReceiverSide_open : ∀ i, i < 2 →
    let bs := actMessage 1 3 9 0 i 0 0 0 0 0
      (List.replicate 32 0 ++ leBytes 2 1 ++ leBytes 1 0 ++ leBytes 1 1 ++ leBytes 4 (pageBytes {}) ++ leBytes 3 256 ++ List.replicate 21 0)
    let s : State := { listed idle with
      ports := [(0, { st := .up, vc0 := { rxq := [(1, bs)] } })]
      imports := [{ index := 0, bed := 0, ref := {}, transport := 1, port := 0, node := 0, ip := [], taken := 0 }] }
    let f := (s.frontAct 0).getD ([], [], s)
    let m := (parseAct f.1).getD { type := 0, stream := 0, payload := [] }
    s.runs = true ∧ s.boot.computeEnd = none ∧ s.frontAct 0 = some f ∧ parseAct f.1 = some m ∧ m.type = 1 ∧ f.2.2.rx = [] ∧
      (match f.2.2.judgeOpen 0 m f.2.1 with | .ok _ => i == 0 | .error _ => i == 1) = true := by decide +kernel

/-- A message of each of the stream's other types; the COMMIT counts no layer, and the stream another time one that has not come. -/
theorem wit_ReceiverSide_messages :
    ∀ x, x ∈ [(3, leBytes 1 0), (4, leBytes 4 1), (5, leBytes 32 (5 * 2 ^ 32)), (5, leBytes 32 (2 ^ 80)), (6, leBytes 8 0), (9, [])] →
    let s : State := { listed idle with
      ports := [(0, { st := .up, vc0 := { rxq := [(1, actMessage x.1 3 1 0 0 0 0 0 0 0 x.2)] } })]
      rx := [{ num := 1, via := .ruxel 0 }] }
    let f := (s.frontAct 0).getD ([], [], s)
    let m := (parseAct f.1).getD { type := 0, stream := 0, payload := [] }
    let r := (f.2.2.rx.find? fun r => r.from_ m.stream (f.2.2.portVia 0) f.2.1).getD {}
    s.runs = true ∧ s.boot.computeEnd = none ∧ s.frontAct 0 = some f ∧ parseAct f.1 = some m ∧ m.type = x.1 ∧
      f.2.2.rx.find? (fun r => r.from_ m.stream (f.2.2.portVia 0) f.2.1) = some r ∧ f.2.2.role 0 ≠ 2 ∧ r.discarded = false ∧
      r.mirror = false ∧ (r.batch m.batch).commit = none ∧ (r.batch m.batch).chunks = [] ∧ m.layer < (f.2.2.pkgOf 0).layers ∧ m.page < (f.2.2.geo 0).npm ∧
      m.off + m.payload.length ≤ pageBytes (f.2.2.pkgOf 0) ∧ (x.1 = 5 → (leField m.payload 10 2 ≤ (r.batch m.batch).layerDone ↔ x.2 = leBytes 32 (5 * 2 ^ 32))) ∧
      (f.2.2.edit 0 (f.2.2.entries 0)).isSome = true := by decide +kernel

theorem wit_ReceiverSide_timers :
    (let s : State := { rdy 2001 with rx := [{ num := 1, via := .eth 16, unackedSince := some 0, gaps := [{ first := 1, count := 1, since := 0 }] }] }
     ∃ r, s.rxOver 16 1 = [r] ∧ r.unackedSince = some 0 ∧ 0 + 2000 < s.now ∧
       r.gaps.filter (fun (g : SeqGap) => decide (g.since + 1000 < s.now)) = r.gaps ∧ r.gaps ≠ [] ∧ ∀ g, g ∈ r.gaps → g.nacked = none) ∧
    (let s : State := { rdy 100000001 with rx := [{ num := 1 }], tx := [{ num := 2, fullSince := some 0 }] }
     (∃ r, s.rx.filter (fun r => r.num == 1 && !r.discarded) = [r] ∧ r.lastMsg + 100000 * r.hold < s.now ∧ r.mirror = false) ∧
     ∃ t, s.txAt 2 = some t ∧ t.fullSince = some 0 ∧ t.finished = false ∧ 0 + 100000 * t.holdLimit < s.now) ∧
    (let s : State := { rdy 100000001 with
       imports := [{ index := 0, bed := 0, ref := {}, transport := 1, port := 0, node := 0, ip := [], taken := 0 }] }
     ∃ x, s.imports.find? (fun (x : Import) => x.index == 0) = some x ∧ x.stream = none ∧ x.taken + s.holdLimit < s.now) :=
  ⟨⟨_, rfl, rfl, by decide +kernel, by decide +kernel, by decide +kernel, by decide +kernel⟩,
    ⟨⟨_, rfl, by decide +kernel, rfl⟩, _, rfl, rfl, rfl, by decide +kernel⟩, _, rfl, rfl, by decide +kernel⟩

/-! ### Twins -/

/-- Port 23 has the twin role; the twin's state is `w`. -/
def twinned (w : Twin) (t : Nat := 0) (p : PortSt := .up) : State :=
  { rdy t with cfg := [(linkReg 23 8, 1)], ports := [(23, { st := p })], sec := { cl := 3 }, twin := w, pins := { twinPres := true } }

theorem wit_TwinMessages : (let s := twinned { st := .pairing }
    s.runs = true ∧ s.boot.computeEnd = none ∧ s.role 23 = 1 ∧ (s.popControl 23).twin.st = .pairing ∧
      (s.popControl 23).twin.hellod = false ∧ commonLevel (s.popControl 23).sec.cl ((s.popControl 23).sec.cl - 1) 3 2 = some 3 ∧
      true ≠ (s.popControl 23).twinSide ∧ false = (s.popControl 23).twinSide ∧ (s.popControl 23).twin.overflow = false) ∧
    ((twinned { st := .degraded }).popControl 23).twin.st = .degraded ∧ ((twinned { st := .paired }).popControl 23).twin.st = .paired ∧
    ((twinned { st := .solo }).popControl 23).twin.st = .solo ∧ ((twinned { st := .suspect }).popControl 23).twin.st = .suspect ∧
    ((twinned { st := .pairing, syncing := true }).popControl 23).twin.syncing = true ∧
    ((twinned { st := .pairing, syncing := true }).popControl 23).twin.stale = [] := by decide +kernel

theorem wit_TwinControl_beats :
    (let s := twinned {} 100000
     s.ready = true ∧ s.boot.computeEnd = none ∧ s.twin.beatAt + 100000 ≤ s.now) ∧
    (let s := twinned { peerBeat := 5 }
     s.pfOpen 0 = true ∧ (6#64 : Word).toNat % 2 ^ 32 ≠ s.twin.peerBeat ∧ (5#64 : Word).toNat % 2 ^ 32 = s.twin.peerBeat) ∧
    (let s := twinned { st := .paired, linkBeating := true, linkMiss := 1 } 100001
     s.ready = true ∧ s.twin.graceTo < s.now ∧ s.twin.st = .paired ∧ s.twin.linkAt + 100000 < s.now ∧ s.twin.linkMiss < 2 ∧
       s.twin.linkBeating = true) ∧
    (let s := twinned { st := .degraded, hostBeating := true, hostMiss := 2, linkMiss := 3 } 100001
     s.ready = true ∧ s.twin.graceTo < s.now ∧ s.twin.st = .degraded ∧ s.twin.hostAt + 100000 < s.now ∧ s.twin.hostMiss = 2 ∧
       s.twin.hostBeating = true ∧ 3 ≤ s.twin.linkMiss) := by decide +kernel

theorem wit_TwinControl_commands :
    (let s := twinned { st := .paired }
     s.pfOpen 0 = true ∧ s.twin.st ≠ .suspect ∧ s.twin.st ≠ .degraded ∧ s.twin.st ≠ .alone) ∧
    (let s := twinned { st := .suspect } 0 .failed
     s.pfOpen 0 = true ∧ s.twin.st = .suspect ∧ s.twin.peerHeld = [] ∧ s.sessions = [] ∧ s.role 23 = 1 ∧ (s.port 23).st ≠ .up) ∧
    (let s := twinned {}
     s.pfOpen 0 = true ∧ s.twin.st = .alone ∧ s.pins.twinPres = true) ∧
    (twinned { st := .displaced }).twin.st = .displaced ∧ (twinned { st := .displaced }).pfOpen 0 = true := by decide +kernel

/-! ### Temperature, the sideband, the test port, the clock -/

theorem wit_ThermalAndClocks :
    (let s : State := { rdy 10000001 with therm := { divReq := 6, below := some 0 } }
     let t := (s.sense {}).noteBelow {}
     t.therm.below = some 0 ∧ t.runs = true ∧ t.therm.stuck = false ∧ 4 < t.therm.divReq ∧ 0 + 10000000 < t.now) ∧
    880 ≤ ({ die := 880 } : Readings).die ∧ 680 ≤ (680 : Int) ∧
    (let s : State := { rdy with therm := { stuck := true } }
     s.therm.stuck = true ∧ 3 ∉ s.therm.failedSensors) ∧ rdy.clk.lock = true := by decide +kernel

theorem wit_SidebandAndTestPort : rdy.sbOn = true ∧ (rdy.pins.sbMode = true ∨ true = true) ∧ rdy.pins.sbMode = false ∧
    rdy.boot.up = true ∧ rdy.pins.thermtrip = false ∧
    (let s : State := { rdy with pins := { pwrgdIo := false, pwrgdMem := false, pwrgdCore := false } }
     s.sbOn = false) ∧ rdy.sec.debug = false ∧
    (let s : State := { rdy with sec := { debug := true }, tap := { st := .shDr, ir := [true] } }
     s.sec.debug = true ∧ s.tap.st = .shDr ∧ s.tap.inBypass = true) := by decide +kernel

theorem wit_IdleTick : rdy.pending = [] ∧ rdy.runs = true ∧ rdy.beds = [] ∧ rdy.stage.mode ≠ 2 ∧ State.reset.pending = [] ∧
    State.reset.runs = false := by decide +kernel

theorem wit_IdleTick_seal : let s := stepping { layers := [0], token := some (some 3) } (some 0)
    s.pending = [] ∧ s.runs = true ∧ (s.bed 0).step.isSome = true ∧ s.sealable 0 = true ∧ s.beds.length = 1 ∧
      (s.beds.map (·.1)).Nodup := by decide +kernel

/-- The second iteration of a loop of two whose run-time count is 1. -/
theorem wit_ShadowIterations :
    let n (k w : Nat) : Nib := { running k w with loops := [{ level := 0, start := 0, len := 1, count := 2, run := 1, iter := 1 }] }
    ∀ x, x ∈ [(1, 0x03), (0, 0x02), (2, 0x02)] →
      let s := one [(0, n x.1 (word x.2 0))]
      s.runs = true ∧ (s.nib 0).st = .running ∧ (s.nib 0).shadowed = true ∧ (s.nib 0).bundle.1 = some (bundleOf x.1 (word x.2 0)) ∧
        slotWord (bundleOf x.1 (word x.2 0)) x.1 = word x.2 0 ∧ (s.nib 0).issued x.1 = false ∧ slotOp (word x.2 0) = x.2 := by
  decide +kernel

theorem wit_MemoryStaysCanonical : State.reset.Sound ∧ step State.reset = .next State.reset.tick := ⟨rfl, rfl⟩

theorem wit_HouseCodeCorrects : (List.replicate 32 (0 : Byte)).length = 32 := rfl

end Sys2Proof.Tests
end

section
/-!
SUPPORT. What records, events and the end of requests leave of the nibs. They write device memory, and a scratchpad lies in its
address space (R29), so they may change scratchpad contents and error counts, and nothing else of a nib.
-/
namespace Sys2Proof.Machine

variable {s t : State}

/-! ### Nibs without their scratchpads -/

/-- A nib without what an access of device memory can change of it: its scratchpad and its error counts (R29, R434). -/
def Nib.sansPad (n : Nib) : Nib := { n with errCorr := 0, errUncorr := 0, pad := [], padUpset := [], padFl := [] }

/-- Every nib of a nib map, without its scratchpad. -/
def sansPads (m : SMap Nib) (q : Nat) : Nib := (mget {} m q).sansPad

theorem State.nib_acc_of_sansPads (h : sansPads t.nibs = sansPads s.nibs) (q : Nat) : (t.nib q).acc = (s.nib q).acc :=
  congrArg Nib.acc (a₁ := (t.nib q).sansPad) (a₂ := (s.nib q).sansPad) (congrFun h q)

@[simp] theorem sansPads_setNib (p : Nat) (v : Nib) (h : v.sansPad = (s.nib p).sansPad) :
    sansPads (s.setNib p v).nibs = sansPads s.nibs := by
  funext q
  show ((s.setNib p v).nib q).sansPad = (s.nib q).sansPad
  rw [State.setNib_nib]
  split
  · next e => rw [h, e]
  · rfl

theorem sansPads_foldl {α : Type} {f : State → α → State} (h : ∀ s a, sansPads (f s a).nibs = sansPads s.nibs)
    (s : State) (l : List α) : sansPads (l.foldl f s).nibs = sansPads s.nibs := by
  induction l generalizing s with
  | nil => rfl
  | cons a l ih => exact (ih _).trans (h s a)

theorem nibs_foldl {α : Type} {f : State → α → State} (h : ∀ s a, (f s a).nibs = s.nibs)
    (s : State) (l : List α) : (l.foldl f s).nibs = s.nibs := by
  induction l generalizing s with
  | nil => rfl
  | cons a l ih => exact (ih _).trans (h s a)

theorem nibs_ite {a b : State} {c : Prop} [Decidable c] (ha : a.nibs = s.nibs) (hb : b.nibs = s.nibs) :
    (if c then a else b).nibs = s.nibs := by
  split <;> assumption

theorem sansPads_ite {a b : State} {c : Prop} [Decidable c] (ha : sansPads a.nibs = sansPads s.nibs)
    (hb : sansPads b.nibs = sansPads s.nibs) : sansPads (if c then a else b).nibs = sansPads s.nibs := by
  split <;> assumption

/-! ### Device memory -/

@[simp] theorem State.retrainNext_nibs (lp : Bool) : (s.retrainNext lp).nibs = s.nibs := by
  unfold State.retrainNext
  dsimp only
  split
  · rfl
  · split <;> rfl

@[simp] theorem State.queueRetrain_nibs (lp : Bool) (c : Nat) (m : Bool) : (s.queueRetrain lp c m).nibs = s.nibs := by
  unfold State.queueRetrain
  exact nibs_ite rfl (State.retrainNext_nibs lp)

@[simp] theorem State.countUncorr_nibs (a : Nat) : (s.countUncorr a).nibs = s.nibs := by
  unfold State.countUncorr
  split <;> rfl

@[simp] theorem State.countCorr_sansPads (a : Nat) : sansPads (s.countCorr a).nibs = sansPads s.nibs := by
  unfold State.countCorr
  split
  · exact sansPads_setNib _ _ rfl
  · dsimp only
    split <;> simp
  · rfl

@[simp] theorem State.putOne_sansPads (a : Nat) (bs : List Byte) : sansPads (s.putOne a bs).nibs = sansPads s.nibs := by
  unfold State.putOne
  split
  · exact sansPads_setNib _ _ rfl
  · split <;> rfl
  · rfl

@[simp] theorem State.putCw_sansPads (a : Nat) (bs : List Byte) : sansPads (s.putCw a bs).nibs = sansPads s.nibs := by
  unfold State.putCw
  split <;> simp

@[simp] theorem State.rewriteUnit_sansPads (a b n : Nat) : sansPads (s.rewriteUnit a b n).nibs = sansPads s.nibs := by
  induction n with
  | zero => rfl
  | succ n ih =>
    unfold State.rewriteUnit
    dsimp only
    split <;> simp [ih]

@[simp] theorem State.fromTwin_sansPads (a : Nat) : sansPads (s.fromTwin a).2.nibs = sansPads s.nibs := by
  unfold State.fromTwin
  split
  · rfl
  · next b _ =>
    split
    · rfl
    · next c _ =>
      have h : sansPads (if c then s.countCorr b else s).nibs = sansPads s.nibs := by split <;> simp
      have k : sansPads ((if c then s.countCorr b else s).countUncorr a).nibs = sansPads s.nibs := by simp [h]
      exact sansPads_ite k (by simpa using k)

@[simp] theorem State.served_sansPads (a : Nat) : sansPads (s.served a).2.nibs = sansPads s.nibs := by
  unfold State.served
  dsimp only
  split
  · simp
  · dsimp only
    split <;> simp

@[simp] theorem State.writeCw_sansPads (cw a : Nat) (bs : List Byte) : sansPads (s.writeCw cw a bs).1.nibs = sansPads s.nibs := by
  unfold State.writeCw
  dsimp only
  split
  · simp
  · have h := State.served_sansPads (s := s) cw
    split <;> next e => rw [e] at h; simpa using h

theorem State.writeCws_sansPads (cw a n : Nat) (bs : List Byte) : sansPads (s.writeCws cw a bs n).1.nibs = sansPads s.nibs := by
  induction n generalizing s cw with
  | zero => rfl
  | succ n ih => exact (ih (s := (s.writeCw cw a bs).1) (cw + 32)).trans (State.writeCw_sansPads cw a bs)

@[simp] theorem State.writeDev_sansPads (a : Nat) (bs : List Byte) : sansPads (s.writeDev a bs).1.nibs = sansPads s.nibs :=
  State.writeCws_sansPads ..

theorem State.readCws_sansPads (a n : Nat) : sansPads (s.readCws a n).2.nibs = sansPads s.nibs := by
  induction n generalizing s a with
  | zero => rfl
  | succ n ih =>
    unfold State.readCws
    have h := State.served_sansPads (s := s) a
    split
    · next e => rw [e] at h; exact h
    · next v e =>
      rw [e] at h
      have k := ih (s := v) (a + 32)
      split <;> next e => rw [e] at k; exact k.trans h

theorem State.readDev_sansPads (a n : Nat) : sansPads (s.readDev a n).2.nibs = sansPads s.nibs := by
  unfold State.readDev
  have h := State.readCws_sansPads (s := s) (a / 32 * 32) (cdiv (a % 32 + n) 32)
  split <;> next e => rw [e] at h; exact h

/-! ### Records and events -/

@[simp] theorem State.sendTwin_nibs (m : TwinMsg) : (s.sendTwin m).nibs = s.nibs := by
  unfold State.sendTwin
  split <;> rfl

@[simp] theorem State.logEntry_nibs (code kind bed unit w aux : Nat) : (s.logEntry code kind bed unit w aux).nibs = s.nibs := by
  unfold State.logEntry
  dsimp only
  split <;> simp

@[simp] theorem State.message_nibs (f v : Nat) : (s.message f v).nibs = s.nibs := by
  unfold State.message
  dsimp only
  split
  · rfl
  · split <;> rfl

@[simp] theorem State.updQueue_nibs (b q : Nat) (f : Queue → Queue) : (s.updQueue b q f).nibs = s.nibs := rfl

@[simp] theorem State.queueMessage_nibs (b q : Nat) : (s.queueMessage b q).nibs = s.nibs := by
  unfold State.queueMessage
  split
  · rfl
  · split <;> simp

@[simp] theorem State.moderate_nibs (b q : Nat) (r : Rec) (quiet : Bool) : (s.moderate b q r quiet).nibs = s.nibs := by
  unfold State.moderate
  dsimp only
  split
  · rfl
  · repeat' split
    all_goals simp

@[simp] theorem State.writeRecord_sansPads (b q : Nat) (r : Rec) (quiet : Bool) :
    sansPads (s.writeRecord b q r quiet).nibs = sansPads s.nibs := by
  unfold State.writeRecord
  split
  · rfl
  · dsimp only
    split <;> simp

@[simp] theorem State.queueRecord_sansPads (b q : Nat) (r : Rec) (quiet : Bool) :
    sansPads (s.queueRecord b q r quiet).nibs = sansPads s.nibs := by
  unfold State.queueRecord
  split <;> simp

@[simp] theorem State.queueEvent_sansPads (f : Nat) (r : Rec) : sansPads (s.queueEvent f r).nibs = sansPads s.nibs := by
  unfold State.queueEvent
  split
  · rfl
  · split <;> simp

@[simp] theorem State.event_sansPads (fns : List Nat) (e : Ev) : sansPads (s.event fns e).nibs = sansPads s.nibs := by
  unfold State.event
  dsimp only
  rw [sansPads_foldl fun s f => State.queueEvent_sansPads f _]
  split <;> simp

@[simp] theorem State.complete_sansPads (p : PktRef) (r : Rec) : sansPads (s.complete p r).nibs = sansPads s.nibs :=
  State.queueRecord_sansPads ..

@[simp] theorem State.closeRaw_nibs (p : PktRef) : (s.closeRaw p).nibs = s.nibs := rfl

@[simp] theorem State.settleDelete_sansPads (b q : Nat) : sansPads (s.settleDelete b q).nibs = sansPads s.nibs := by
  unfold State.settleDelete
  dsimp only
  split
  · rfl
  · split
    · rfl
    · split <;> simp

@[simp] theorem State.closePkt_sansPads (p : PktRef) : sansPads (s.closePkt p).nibs = sansPads s.nibs :=
  State.settleDelete_sansPads ..

@[simp] theorem State.finish_sansPads (p : PktRef) (r : Rec) : sansPads (s.finish p r).nibs = sansPads s.nibs :=
  (State.closePkt_sansPads p).trans (State.complete_sansPads p r)

@[simp] theorem State.padUncorr_sansPads (p : Nat) : sansPads (s.padUncorr p).nibs = sansPads s.nibs :=
  (State.event_sansPads _ _).trans (sansPads_setNib p _ rfl)

@[simp] theorem State.uncorrEvent_sansPads (a : Nat) : sansPads (s.uncorrEvent a).nibs = sansPads s.nibs := by
  unfold State.uncorrEvent
  split
  · simp [State.memoryEvent]
  · simp
  · rfl

/-! ### Frames and page lists -/

@[simp] theorem State.updFrame_nibs (lp : Bool) (n : Nat) (f : Frame → Frame) : (s.updFrame lp n f).nibs = s.nibs := by
  unfold State.updFrame State.setFrame
  split
  · split <;> rfl
  · rfl

@[simp] theorem State.freeGen_nibs (g : OldGen) : (s.freeGen g).nibs = s.nibs := by
  unfold State.freeGen
  dsimp only
  rw [nibs_foldl fun s n => (rfl : (s.pfxUnref n).nibs = s.nibs), nibs_foldl fun s d => State.updFrame_nibs ..]
  rfl

@[simp] theorem State.drain_nibs (num : Nat) : (s.drain num).nibs = s.nibs := by
  unfold State.drain
  dsimp only
  split
  · exact nibs_foldl (fun s g => State.freeGen_nibs g) _ _
  · rfl

theorem State.readList_sansPads (i : Nat) : sansPads (s.readList i).nibs = sansPads s.nibs := by
  unfold State.readList
  have h := State.readDev_sansPads (s := s) (s.ses i).listAddr (64 + 4 * (s.geo i).nent)
  split <;> next e => rw [e] at h; simpa using h

theorem State.arenaTake_nibs {b n a : Nat} (h : s.arenaTake b n = some (a, t)) : t.nibs = s.nibs := by
  obtain ⟨_, _, e⟩ := Option.map_eq_some_iff.mp h
  cases e
  rfl

theorem State.publish_sansPads {i : Nat} {es : List Nat} (h : s.publish i es = some t) :
    sansPads t.nibs = sansPads s.nibs := by
  unfold State.publish at h
  dsimp only at h
  split at h
  · cases h
  · next u e =>
    have k := State.arenaTake_nibs e
    cases h
    simp only [State.drain_nibs, State.updSes_eq, State.setSes_nibs]
    rw [nibs_foldl fun s d => State.updFrame_nibs ..]
    rw [nibs_foldl fun s x => by split <;> simp]
    simp [k]

theorem State.swap_sansPads (i : Nat) (es : List Nat) : sansPads (s.swap i es).nibs = sansPads s.nibs := by
  unfold State.swap State.edit
  split
  · rfl
  · cases h : (s.readList i).publish i es with
    | none => rfl
    | some t => exact (State.publish_sansPads h).trans (State.readList_sansPads i)

@[simp] theorem State.shed_nibs (i : Nat) (drops : List (Nat × Nat)) (refs : List Nat) : (s.shed i drops refs).nibs = s.nibs := by
  unfold State.shed
  split
  · rfl
  · simp only [State.drain_nibs, State.updSes_eq, State.setSes_nibs]
    exact nibs_foldl (fun s d => State.updFrame_nibs ..) _ _

@[simp] theorem State.dropAbove_sansPads (i c : Nat) : sansPads (s.dropAbove i c).nibs = sansPads s.nibs := by
  unfold State.dropAbove
  dsimp only
  rw [State.shed_nibs]
  split
  · rfl
  · exact State.swap_sansPads ..

@[simp] theorem State.dropList_nibs (i : Nat) : (s.dropList i).nibs = s.nibs := by
  unfold State.dropList
  simp only [State.drain_nibs]
  exact nibs_foldl (fun s d => State.updFrame_nibs ..) _ _

/-! ### Streams -/

@[simp] theorem State.assignDma_nibs : s.assignDma.nibs = s.nibs := by
  unfold State.assignDma
  refine nibs_foldl (fun s k => ?_) _ _
  dsimp only
  split
  · rfl
  · split <;> rfl

@[simp] theorem State.dropShip_nibs (num : Nat) : (s.dropShip num).nibs = s.nibs := State.assignDma_nibs

@[simp] theorem State.updTx_nibs (num : Nat) (f : TxStream → TxStream) : (s.updTx num f).nibs = s.nibs := rfl

theorem State.settle_nibs (num : Nat) (k : ActKind) (c : Nat) (last : Bool) : (s.settle num k c last).nibs = s.nibs := rfl

theorem State.abortStream_nibs (num status c : Nat) : (s.abortStream num status c).nibs = s.nibs := rfl

@[simp] theorem State.abortBatch_nibs (i : Nat) (st : Status) : (s.abortBatch i st).nibs = s.nibs := by
  unfold State.abortBatch State.settleAll
  exact nibs_foldl (fun s x => State.settle_nibs ..) _ _

@[simp] theorem State.endStream_sansPads (num status detail : Nat) :
    sansPads (s.endStream num status detail).nibs = sansPads s.nibs := by
  unfold State.endStream
  split
  · rfl
  · refine sansPads_ite (by simp) ?_
    split <;> simp

@[simp] theorem State.lateExports_sansPads (id : Nat) : sansPads (s.lateExports id).nibs = sansPads s.nibs := by
  unfold State.lateExports
  refine sansPads_foldl (fun s t => ?_) _ _
  split <;> simp

/-! ### Requests -/

@[simp] theorem State.delta_nibs (b : Nat) (d : Delta) : (s.delta b d).nibs = s.nibs := by
  unfold State.delta
  split
  · rfl
  · split
    · rfl
    · dsimp only
      split <;> simp

@[simp] theorem State.sesDelta_nibs (i : Nat) : (s.sesDelta i).nibs = s.nibs := State.delta_nibs ..

@[simp] theorem State.releaseHeld_nibs (i n : Nat) : (s.releaseHeld i n).nibs = s.nibs := by
  unfold State.releaseHeld
  dsimp only
  split <;> simp [State.updTenant]

@[simp] theorem State.freeSession_sansPads (i : Nat) : sansPads (s.freeSession i).nibs = sansPads s.nibs := by
  unfold State.freeSession
  dsimp only
  split <;> simp

@[simp] theorem State.closeNow_sansPads (i : Nat) : sansPads (s.closeNow i).nibs = sansPads s.nibs := by
  unfold State.closeNow
  simp only [State.freeSession_sansPads, State.updSes_eq, State.setSes_nibs]
  rw [nibs_foldl fun s t => State.abortStream_nibs ..]

@[simp] theorem State.rollback_sansPads (i : Nat) : sansPads (s.rollback i).nibs = sansPads s.nibs := by
  unfold State.rollback
  dsimp only
  split <;> simp

@[simp] theorem State.endRequest_sansPads (i : Nat) (rec : Rec) : sansPads (s.endRequest i rec).nibs = sansPads s.nibs := by
  unfold State.endRequest
  split
  · rfl
  · next r _ =>
    have h {u : State} (hu : sansPads u.nibs = sansPads s.nibs) (c : Bool) :
        sansPads (if c then (u.halfClose r.ref).lateExports r.ref.id else u.closePkt r.ref).nibs = sansPads s.nibs :=
      sansPads_ite (by simp [hu, State.halfClose]) (by simp [hu])
    dsimp only
    split
    · rw [State.closeNow_sansPads, State.updSes_eq, State.setSes_nibs, sansPads_foldl fun s c => State.finish_sansPads c _]
      exact h (by simp) _
    · refine sansPads_ite ?_ ?_
      · rw [State.closeNow_sansPads, sansPads_foldl fun s c => State.finish_sansPads c _]
        exact h (by simp) _
      · rw [State.sesDelta_nibs, sansPads_foldl fun s c => State.finish_sansPads c _]
        exact h (by simp) _

@[simp] theorem State.dropRequest_sansPads (i : Nat) (st : Status) (f : Session → Rec → Rec) :
    sansPads (s.dropRequest i st f).nibs = sansPads s.nibs := by
  simp [State.dropRequest]

@[simp] theorem State.failStep_sansPads (b code unit cycle nib bundle : Nat) :
    sansPads (s.failStep b code unit cycle nib bundle).nibs = sansPads s.nibs := by
  unfold State.failStep
  dsimp only
  rw [nibs_foldl fun s i => State.drain_nibs _]
  split <;> simp [sansPads_foldl fun s i => State.dropRequest_sansPads ..]

end Sys2Proof.Machine
end

section
/-!
SUPPORT. What the fault of a nib leaves in it (R104, R154).
-/
namespace Sys2Proof.Machine

variable {s : State}

/-- Stopping a bed's nibs changes no accumulator. -/
theorem State.stopNibs_acc (b q : Nat) : ((s.stopNibs b).nib q).acc = (s.nib q).acc := by
  unfold State.stopNibs
  refine List.foldlRecOn (motive := fun t => (t.nib q).acc = (s.nib q).acc) _ _ rfl fun (t : State) ht p _ => ?_
  rw [State.updNib_eq, State.setNib_nib]
  split
  · next e =>
    subst e
    split <;> exact ht
  · exact ht

/-- A bed's fault changes no accumulator (R104). -/
theorem State.bedFault_acc (b code unit nib bundle p : Nat) (fence : Bool) (q : Nat) :
    ((s.bedFault b code unit nib bundle p fence).nib q).acc = (s.nib q).acc := by
  refine .trans (State.nib_acc_of_sansPads (s := s.stopNibs b) ?_ q) (State.stopNibs_acc b q)
  unfold State.bedFault
  refine sansPads_ite ?_ ((State.failStep_sansPads ..).trans ?_) <;> exact State.event_sansPads ..

/-- A nib that faults holds the fault's record, and keeps its accumulators (R104, R154). -/
theorem State.nibFault_nib {p b : Nat} (h : s.bedOf p = some b) (code unit : Nat) (a : FaultAddr) :
    ∃ m : Nib, m.acc = (s.nib p).acc ∧ (s.nibFault p code unit a).nib p = { m with
      st := .faulted, faultCode := code, faultUnit := unit, faultBundle := (s.nib p).bundleAddr (s.nib p).pc % 8192
      faultCycle := s.stepCycle b, faultAddr := a, hold := .none, acts := m.acts.filter Act.scrubs, wq := [] } := by
  unfold State.nibFault
  simp only [h, Bool.false_and, Bool.false_eq_true, if_false, State.updNib_eq]
  split
  · exact ⟨s.nib p, rfl, by simp⟩
  · exact ⟨(s.bedFault b code unit (s.logical b p) ((s.nib p).bundleAddr (s.nib p).pc % 8192) p).nib p,
      State.bedFault_acc .., by simp⟩

end Sys2Proof.Machine
end

section
/-!
SUPPORT. Laws of the accumulator store: reads where no codeword is in error, slot tags, the write of a slot row, and COMBINE.
-/
namespace Sys2Proof.Machine

variable {s : State}

/-! ### Reads where no codeword is in error -/

theorem mget_mfilter {α : Type} (d : α) (P : Nat → Bool) (m : SMap α) (k : Nat) :
    mget d (mfilter (fun k _ => P k) m) k = if P k then mget d m k else d := by
  induction m with
  | nil => simp [mfilter, mget]
  | cons e m ih =>
    obtain ⟨j, v⟩ := e
    by_cases hj : j = k
    · subst hj
      by_cases hp : P j <;> simp_all [mfilter, mget]
    · by_cases hp : P j <;> simp_all [mfilter, mget]

theorem fld_lt (w hi lo : Nat) : fld w hi lo < 2 ^ (hi + 1 - lo) := Nat.mod_lt _ (Nat.two_pow_pos _)

@[simp] theorem Nib.pad_setIssued (n : Nib) (k : Nat) : (n.setIssued k).pad = n.pad := by
  unfold Nib.setIssued; split <;> rfl

theorem Nib.padRead_clean {n : Nib} (h : n.padUpset = []) (now row : Nat) : n.padRead now row = (mget 0 n.pad row, n) := by
  simp [Nib.padRead, Nib.readRow, h, mget]

theorem Nib.padReads_clean {n : Nib} (h : n.padUpset = []) (now row k : Nat) :
    n.padReads now row k = ((List.range k).map fun i => mget 0 n.pad ((row + i) % 65536), n) := by
  induction k generalizing row with
  | zero => rfl
  | succ k ih =>
    simp only [Nib.padReads, Nib.padRead_clean h, ih, List.range_succ_eq_map, List.map_cons, List.map_map]
    simp [Function.comp_def, Nat.add_assoc, Nat.add_comm 1]

/-- Where no element is in error, a slot row is read as it stands, and as zeros where its slot has ZERO set (R71, R73). -/
theorem Nib.accRead_clean {n : Nib} (h : n.accUpset = []) (now lat s r : Nat) :
    n.accRead now lat s r =
      ((List.range 16).map fun c => if (n.tag s).zero then 0 else mget 0 n.acc (accKey s r + c), n) := by
  have hu (k : Nat) : mget 0 n.accUpset k = 0 := by rw [h]; rfl
  unfold Nib.accRead
  split
  · rfl
  · simp only [hu, List.range, List.range.loop, List.foldl_cons, List.foldl_nil, if_true]
    rfl

/-! ### Slot tags -/

theorem Nib.tag_updTag (n : Nib) (s u : Nat) (f : Tag → Tag) :
    (n.updTag s f).tag u = if u % 64 = s % 64 then f (n.tag s) else n.tag u := mget_mupd ..

/-! ### Writing a slot row -/

theorem Nib.accWrite_tag (n : Nib) (s r u : Nat) (vs : List Acc) :
    (n.accWrite s r vs).tag u = if u % 64 = s % 64 then { n.tag s with zero := false } else n.tag u :=
  Nib.tag_updTag n s u fun t => { t with zero := false }

theorem Nib.accWrite_inside (n : Nib) (s r : Nat) (vs : List Acc) (c : Nat) (hc : c < vs.length) :
    mget 0 (n.accWrite s r vs).acc (accKey s r + c) = vs[c] := mget_msetRange ..

/-- Outside the row written, a slot that was ZERO now holds zero and every other element stays (R73). -/
theorem Nib.accWrite_outside (n : Nib) (s r : Nat) (vs : List Acc) (k : Nat)
    (hk : k < accKey s r ∨ accKey s r + vs.length ≤ k) :
    mget 0 (n.accWrite s r vs).acc k = if (n.tag s).zero ∧ k / 256 = s % 64 then 0 else mget 0 n.acc k := by
  refine (mget_msetRange_ne _ _ _ _ hk).trans ?_
  cases (n.tag s).zero
  · simp
  · simp only [if_true, mget_mfilter]
    by_cases e : k / 256 = s % 64 <;> simp [e]

/-! ### COMBINE -/

/-- A slot row after the addition of `vs` to it, element by element (R51, R73). -/
def Nib.sumRow (n : Nib) (s r : Nat) (vs : List Acc) : List Acc :=
  ((List.range 16).zip vs).map fun x =>
    (AState.add (AState.ofAcc (if (n.tag s).zero then 0 else mget 0 n.acc (accKey s r + x.1))) (AState.ofAcc x.2)).1.toAcc

theorem Nib.sumRow_length (n : Nib) (s r : Nat) {vs : List Acc} (h : vs.length = 16) : (n.sumRow s r vs).length = 16 := by
  simp [Nib.sumRow, h]

/-- COMBINE writes the sums into its slot row and adds flags to the row's. -/
theorem Nib.accAdd_clean {n : Nib} (h : n.accUpset = []) (now s r : Nat) (vs : List Acc) (fl : Nat) :
    ∃ f, n.accAdd now s r vs fl = (n.accWrite s r (n.sumRow s r vs)).updTag s fun t => t.orFlags r f := by
  unfold Nib.accAdd
  rw [Nib.accRead_clean h]
  simp only [Nib.sumRow, List.map_map, List.zip_map_left]
  exact ⟨_, rfl⟩

theorem rawElems_length (rs : List Row) (h : 8 ≤ rs.length) : (rawElems rs).length = 16 := by
  simp only [rawElems, List.length_flatMap, List.length_cons, List.length_nil]
  rw [Laws.sum_const, List.length_take, Nat.min_eq_left h]

/-- The nine rows of the raw slot row that an ACC COMBINE word names, as they stand (R120). -/
def Nib.combineRows (n : Nib) (w : Nat) : List Row :=
  let a := n.ra24 (fld w 37 14) 9
  (List.range 9).map fun i => mget 0 n.pad ((n.hrow a.handle a.index + i) % 65536)

theorem Nib.padReads_combineRows {n : Nib} (h : n.padUpset = []) (now w : Nat) :
    let a := n.ra24 (fld w 37 14) 9
    (n.setIssued 0).padReads now (n.hrow a.handle a.index) 9 = (n.combineRows w, n.setIssued 0) :=
  Nib.padReads_clean (n := n.setIssued 0) h ..

/-- ACC COMBINE's row is on its way where the windows agree, and the nib faults where they differ (R75). -/
theorem exec_accCombine {p w : Nat} (h : s.Ready p 0 w) (hop : slotOp w = 0x04) (hsub : fld w 47 45 = 3)
    (hu : (s.nib p).padUpset = []) :
    let n := s.nib p
    let slot := fld w 57 52
    let r := fld w 51 48
    let s' := s.setNib p (n.setIssued 0)
    ∃ fl, exec (.accCombine p) s = .next (
      if rawTerms ((n.combineRows w).getD 8 0) = (n.tag slot).terms r then
        s'.setNib p ((n.setIssued 0).result (s.acyc + 3) (.combine slot r (rawElems (n.combineRows w)) fl))
      else (s'.setNib p (n.setIssued 0)).nibFault p 0x4D 2) := by
  have hsel : byAcc 3 w = true := by simp [byAcc, hop, hsub]
  have hreads (now : Nat) := Nib.padReads_combineRows (n := s.nib p) hu now w
  let a := (s.nib p).ra24 (fld w 37 14) 9
  refine ⟨((s.nib p).setIssued 0).padFlags ((s.nib p).hrow a.handle a.index) 9, ?_⟩
  dsimp only at hreads ⊢
  show execAccCombine p s = _
  simp only [execAccCombine, State.issue_ready h hsel, State.updNib_eq, State.setNib_nib, if_true, Nib.ra24_setIssued,
    Nib.hrow_setIssued, hreads, Nib.combineRaw, Nib.tag_setIssued, State.setNib_acyc]
  by_cases hw : rawTerms (((s.nib p).combineRows w).getD 8 0) = ((s.nib p).tag (fld w 57 52)).terms (fld w 51 48)
  · simp only [hw, if_true]
    rfl
  · simp only [hw, if_false]
    rfl

/-- Where the combined row lands: the sums in its slot row, every other element of a slot that was not ZERO as it stood, and the
window (R51, R73). -/
theorem Nib.landing_combine {m : Nib} (hu : m.accUpset = []) {slot r : Nat} (hs : slot < 64) (hr : r < 16) {vs : List Acc}
    (hv : vs.length = 16) (now fl : Nat) :
    let m' := (m.landing now (.combine slot r vs fl)).1
    let elem (k : Nat) : Acc := if (m.tag slot).zero ∧ k / 256 = slot then 0 else mget 0 m.acc k
    m' = { m with acc := m'.acc, accUpset := m'.accUpset, tags := m'.tags } ∧
    (∀ c, c < 16 → ∃ x, vs[c]? = some x ∧ mget 0 m'.acc (256 * slot + 16 * r + c) =
      (AState.add (AState.ofAcc (elem (256 * slot + 16 * r + c))) (AState.ofAcc x)).1.toAcc) ∧
    (∀ k, k < 256 * slot + 16 * r ∨ 256 * slot + 16 * r + 16 ≤ k → mget 0 m'.acc k = elem k) ∧
    (m'.tag slot).terms r = (m.tag slot).terms r ∧ (m'.tag slot).zero = false ∧
    ∀ u, u < 64 → u ≠ slot → m'.tag u = m.tag u := by
  intro m' elem
  obtain ⟨f, hf⟩ := Nib.accAdd_clean hu now slot r vs fl
  have hm : m' = (m.accWrite slot r (m.sumRow slot r vs)).updTag slot fun t => t.orFlags r f := hf
  have hslot : slot % 64 = slot := Nat.mod_eq_of_lt hs
  have hkey : accKey slot r = 256 * slot + 16 * r := by rw [accKey, hslot]
  have hlen : (m.sumRow slot r vs).length = 16 := m.sumRow_length slot r hv
  have hacc : m'.acc = (m.accWrite slot r (m.sumRow slot r vs)).acc := by rw [hm]; rfl
  have htag (u : Nat) : m'.tag u = if u % 64 = slot then ({ m.tag slot with zero := false }).orFlags r f else m.tag u := by
    rw [hm, Nib.tag_updTag, Nib.accWrite_tag, Nib.accWrite_tag, hslot]
    split <;> simp
  refine ⟨?_, fun c hc => ⟨vs[c], List.getElem?_eq_getElem _, ?_⟩, fun k hk => ?_, ?_, ?_, fun u hu hne => ?_⟩
  · rw [hm]
    simp only [Nib.updTag, Nib.accWrite]
  · have hz : (256 * slot + 16 * r + c) / 256 = slot := by omega
    rw [hacc, ← hkey, Nib.accWrite_inside m slot r _ c (by omega), hkey]
    simp [Nib.sumRow, elem, hz, hkey]
  · rw [hacc, Nib.accWrite_outside m slot r _ k (by omega), hslot]
  · rw [htag, if_pos hslot]
    rfl
  · rw [htag, if_pos hslot]
    rfl
  · rw [htag, if_neg (by omega)]

end Sys2Proof.Machine
end

section
open Sys2Proof Sys2Proof.Machine

/-- Settles O8. The row's nine reads and the windows decide between the two outcomes; a fault's bookkeeping writes device memory,
and so scratchpads, but no accumulator. -/
theorem accumulatorCombine : Obligations.AccumulatorCombine := by
  intro s p w h hop hsub hu n slot r a raw
  obtain ⟨fl, he⟩ := exec_accCombine h hop hsub hu
  have hs : slot < 64 := fld_lt w 57 52
  have hr : r < 16 := fld_lt w 51 48
  constructor
  · intro agree
    refine ⟨_, fl, he.trans (congrArg _ (if_pos agree)), ⟨rfl, fun q hq => ?_⟩, ?_, fun m now hm => ?_⟩
    · rw [State.setNib_nib, if_neg hq, State.setNib_nib, if_neg hq]
    · rw [State.setNib_nib, if_pos rfl]
      rfl
    · exact Nib.landing_combine hm hs hr (rawElems_length raw (by simp [raw])) now fl
  · intro b hb differ
    have hb' : ((s.setNib p (n.setIssued 0)).setNib p (n.setIssued 0)).bedOf p = some b := hb
    obtain ⟨m, hacc, hm⟩ := State.nibFault_nib hb' 0x4D 2 {}
    rw [State.setNib_nib, if_pos rfl] at hacc
    refine ⟨_, he.trans (congrArg _ (if_neg differ)), ?_⟩
    rw [hm]
    exact ⟨rfl, rfl, rfl, fun k => congrArg (mget 0 · k) hacc⟩

end

section
/-!
SUPPORT. Laws of a result that lands in a vector register, and of the VECTOR slot that puts one on its way (R53, R98, R107).
-/
namespace Sys2Proof.Machine

variable {s : State}

/-! ### Lanes of a vector register -/

theorem lanes64_of_length {l : List Lane} (h : l.length = 64) : lanes64 l = l :=
  List.ext_getElem (by rw [lanes64_length, h]) fun i _ hi => by simp [lanes64, hi]

theorem Nib.setLanes_frame (n : Nib) (v lo bits : Nat) (l : List Lane) (fl : Nat × Nat) :
    n.setLanes v lo bits l fl =
      { n with vregs := (n.setLanes v lo bits l fl).vregs, vfl := (n.setLanes v lo bits l fl).vfl } := rfl

theorem Nib.vreg_setLanes_ne (n : Nib) {v u : Nat} (h : u ≠ v) (lo bits : Nat) (l : List Lane) (fl : Nat × Nat) :
    (n.setLanes v lo bits l fl).vreg u = n.vreg u :=
  (Nib.vreg_setVreg ..).trans (if_neg h)

theorem Nib.vflag_setLanes_ne (n : Nib) {v u : Nat} (h : u ≠ v) (lo bits : Nat) (l : List Lane) (fl : Nat × Nat) :
    (n.setLanes v lo bits l fl).vflag u = n.vflag u :=
  mget_mset_ne _ _ _ h

/-- A write of whole lanes leaves no old bit of a lane. -/
theorem ofNat_replace_all_bits (old new : Lane) :
    BitVec.ofNat 32 (old.toNat / 2 ^ 32 * 2 ^ 32 + new.toNat % 2 ^ 32) = new := by
  rw [Nat.div_eq_of_lt old.isLt, Nat.mod_eq_of_lt new.isLt, Nat.zero_mul, Nat.zero_add, BitVec.ofNat_toNat, BitVec.setWidth_eq]

/-- A register reads as the 64 whole lanes written to it. -/
theorem Nib.vreg_setLanes_all (n : Nib) (v : Nat) {l : List Lane} (h : l.length = 64) (fl : Nat × Nat) :
    (n.setLanes v 0 32 l fl).vreg v = l := by
  have hn : (n.vreg v).length = 64 := n.vreg_length v
  refine (Nib.vreg_setVreg ..).trans ((if_pos rfl).trans ?_)
  rw [lanes64_of_length (by simp [hn])]
  refine List.ext_getElem (by simp [hn, h]) fun i _ hi => ?_
  rw [List.getElem_map, List.getElem_zipIdx, if_pos (by omega)]
  simpa [hi] using ofNat_replace_all_bits ..

/-- A write of the low 16 bits of lane 0 keeps that lane's other bits and every other lane. -/
theorem Nib.vreg_setLanes_low16 (n : Nib) (v x : Nat) (fl : Nat × Nat) :
    (n.setLanes v 0 16 [BitVec.ofNat 32 x] fl).vreg v =
      BitVec.ofNat 32 (((n.vreg v).headD 0).toNat / 65536 * 65536 + x % 65536) :: (n.vreg v).drop 1 := by
  have hn : (n.vreg v).length = 64 := n.vreg_length v
  refine (Nib.vreg_setVreg ..).trans ((if_pos rfl).trans ?_)
  rw [lanes64_of_length (by simp [hn])]
  obtain ⟨a, as, e⟩ := List.exists_cons_of_length_pos (l := n.vreg v) (by omega)
  rw [e]
  refine List.ext_getElem (by simp) fun i _ hi => ?_
  rw [List.getElem_map, List.getElem_zipIdx]
  cases i with
  | zero => simp
  | succ i => simp

/-! ### Results on their way to a vector register -/

theorem State.setNib_setNib_onlyNib (p : Nat) (m v : Nib) : s.OnlyNib ((s.setNib p m).setNib p v) p :=
  ⟨rfl, fun q hq => by simp [hq]⟩

/-- A VECTOR slot whose effect is a result of 64 lanes puts it on its way, and it lands in its register alone (R107). -/
theorem State.resultIn_vresult (p usable vd : Nat) {l : List Lane} (h : l.length = 64) (fl : Nat × Nat) :
    s.ResultIn ((s.setNib p ((s.nib p).setIssued 1)).setNib p (((s.nib p).setIssued 1).vresult usable vd l fl)) p usable vd l :=
  ⟨State.setNib_setNib_onlyNib .., fl, (State.setNib_nib ..).trans (if_pos rfl), fun n _ =>
    ⟨n.setLanes_frame .., n.vreg_setLanes_all vd h fl, fun _ hv => ⟨n.vreg_setLanes_ne hv .., n.vflag_setLanes_ne hv ..⟩⟩⟩

theorem packLanes_length (w : Nat) (cs : List Nat) : (packLanes w cs).length = 64 := by
  simp [packLanes]

/-- VRED puts its reduction on its way to every lane, usable 8 A-cycles later (R123, R153). -/
theorem exec_vred {p w : Nat} {r : Lane} (h : s.Ready p 1 w) (hop : slotOp w = 0x06)
    (hr : vred (fld w 47 46) ((s.nib p).vreg (fld w 52 48)) = some r) :
    ∃ fl, exec (.vred p) s = .next ((s.setNib p ((s.nib p).setIssued 1)).setNib p
      (((s.nib p).setIssued 1).vresult (s.acyc + 8) (fld w 57 53) (List.replicate 64 r) fl)) := by
  have hsel : byOp 6 w = true := by simp [byOp, hop]
  refine ⟨laneFlags 0 64 (flagsOf ((s.nib p).vflag (fld w 52 48)) 0 64), ?_⟩
  show execVred p s = _
  simp only [execVred, State.issue_ready h hsel, State.updNib_eq, State.setNib_nib, if_true, Nib.vreg_setIssued,
    Nib.vflag_setIssued, hr, State.setNib_acyc]

/-- VQUANT puts its elements and its two scale bytes on their way, usable 6 A-cycles later (R123, R153). -/
theorem exec_vquant {p w : Nat} {f : Fmt} (h : s.Ready p 1 w) (hop : slotOp w = 0x05) (hf : quantFmt (fld w 47 44) = some f) :
    let src := ((s.nib p).vreg (fld w 52 48)).map fSrc
    let q0 := quantise f (src.take 32)
    let q1 := quantise f (src.drop 32)
    ∃ fd fs, exec (.vquant p) s = .next ((s.setNib p ((s.nib p).setIssued 1)).setNib p
      ((((s.nib p).setIssued 1).vresult (s.acyc + 6) (fld w 57 53) (packLanes f.bits (q0.elems ++ q1.elems)) fd).result
        (s.acyc + 6) (.vreg (fld w 43 39) 0 16 [BitVec.ofNat 32 (256 * q1.scale + q0.scale)] fs))) := by
  have hsel : byOp 5 w = true := by simp [byOp, hop]
  intro src q0 q1
  let fa := (s.nib p).vflag (fld w 52 48)
  let f0 := flagsOf fa 0 32 ||| 2 * b2n q0.saturated
  let f1 := flagsOf fa 32 32 ||| 2 * b2n q1.saturated
  refine ⟨orLanes (laneFlags 0 f.bits f0) (laneFlags f.bits f.bits f1), laneFlags 0 1 (f0 ||| f1), ?_⟩
  show execVquant p s = _
  simp only [execVquant, State.issue_ready h hsel, State.updNib_eq, State.setNib_nib, if_true, Nib.vreg_setIssued,
    Nib.vflag_setIssued, hf, State.setNib_acyc]
  rfl

end Sys2Proof.Machine
end

section
open Sys2Proof Sys2Proof.Machine

/-- Settles O4. VRED is one result in all 64 lanes; VQUANT is two, the elements in whole lanes and the scale bytes in the low half
of lane 0. -/
theorem vquantAndVred : Obligations.VquantAndVred := by
  constructor
  · intro s p w r h hop hr
    obtain ⟨fl, he⟩ := exec_vred h hop hr
    exact ⟨_, he, State.resultIn_vresult _ _ _ List.length_replicate fl⟩
  · intro s p w f h hop hf n vd vs src q0 q1
    obtain ⟨fd, fs, he⟩ := exec_vquant h hop hf
    refine ⟨_, fd, fs, he, State.setNib_setNib_onlyNib .., ?_, fun m _ =>
      ⟨m.setLanes_frame .., m.vreg_setLanes_all vd (packLanes_length ..) fd, fun _ hv => m.vreg_setLanes_ne hv ..,
        m.setLanes_frame .., fun _ hv => m.vreg_setLanes_ne hv .., m.vreg_setLanes_low16 ..⟩⟩
    rw [State.setNib_nib, if_pos rfl, Nib.vresult, Nib.result, Nib.result, List.append_assoc]
    rfl

end

section
/-!
SUPPORT. Laws of the bed barrier: one change of every nib of a bed, the A-cycle of the last signal, and the latency D (R141, R498).
-/
namespace Sys2Proof.Machine

variable {s : State}

/-- A change of one nib after another, the change not depending on the nibs, is a change of each. -/
theorem State.foldl_updNib {g : State → Nib → Nib} (hg : ∀ (s : State) p v, g (s.setNib p v) = g s) {l : List Nat}
    (hl : l.Nodup) :
    let t := l.foldl (fun s p => s.updNib p (g s)) s
    t = { s with nibs := t.nibs } ∧ ∀ q, t.nib q = if q ∈ l then g s (s.nib q) else s.nib q := by
  induction l generalizing s with
  | nil => exact ⟨rfl, fun q => by simp⟩
  | cons p l ih =>
    obtain ⟨hp, hl⟩ := List.nodup_cons.mp hl
    obtain ⟨frame, nibs⟩ := ih (s := s.updNib p (g s)) hl
    refine ⟨frame, fun q => (nibs q).trans ?_⟩
    rw [State.updNib_eq, hg, State.setNib_nib]
    by_cases h : q = p
    · subst h
      simp [hp]
    · simp [h]

theorem foldl_max_le {α : Type} (f : α → Nat) (l : List α) (a b : Nat) :
    l.foldl (fun b x => max b (f x)) b ≤ a ↔ b ≤ a ∧ ∀ x, x ∈ l → f x ≤ a := by
  induction l generalizing b with
  | nil => simp
  | cons x l ih => simp only [List.foldl_cons, ih, Nat.max_le, List.forall_mem_cons, and_assoc]

theorem foldl_max_eq {α : Type} (f : α → Nat) {l : List α} {a : Nat} (le : ∀ x, x ∈ l → f x ≤ a)
    (meets : ∃ x, x ∈ l ∧ f x = a) :
    l.foldl (fun b x => max b (f x)) 0 = a := by
  obtain ⟨x, hx, rfl⟩ := meets
  exact Nat.le_antisymm ((foldl_max_le ..).mpr ⟨Nat.zero_le _, le⟩) (((foldl_max_le ..).mp (Nat.le_refl _)).2 x hx)

/-- The nib's part of a barrier's release in A-cycle `c`: its signal falls, and its next bundle issues in `c` (R141). -/
def Nib.released (n : Nib) (c : Nat) : Nib :=
  { n with
    signalled := false
    hold := match n.hold with | .barrier x l _ => .barrier x l (some c) | h => h }

/-- Where every nib of a bed has signalled, the last in A-cycle `a`, each is released in a + D (R141). -/
theorem exec_barrierRelease {b a : Nat} (hr : s.runs = true) (hne : s.bedNibs b ≠ [])
    (hs : ∀ p, p ∈ s.bedNibs b → (s.nib p).signalled = true ∧ (s.nib p).st = .running)
    (ha : (s.bedNibs b).foldl (fun a p => max a (s.nib p).barrierAt) 0 = a) :
    exec (.barrierRelease b) s =
      .next ((s.bedNibs b).foldl (fun t p => t.updNib p fun n => n.released (a + barrierD (t.bed b))) s) := by
  have all : (s.bedNibs b).all (fun p => (s.nib p).signalled && (s.nib p).st == .running) = true := by simpa using hs
  subst ha
  exact congrArg Host.Outcome.next (if_pos (by simp [hr, hne, all]))

theorem b2n_le_one (c : Bool) : b2n c ≤ 1 := by cases c <;> decide

/-- A bed is crossed by at most two stitch boundaries, so D is at most 6 above what its size gives (R498). -/
theorem barrierD_bounds (bd : Bed) : 6 + bd.w + bd.h ≤ barrierD bd ∧ barrierD bd ≤ 12 + bd.w + bd.h := by
  have hx := b2n_le_one (decide (bd.x0 ≤ 4) && decide (5 ≤ bd.x0 + bd.w - 1))
  have hy := b2n_le_one (decide (bd.y0 ≤ 3) && decide (4 ≤ bd.y0 + bd.h - 1))
  unfold barrierD stitches
  omega

/-- SYNC with BARRIER signals, and holds the nib from this A-cycle on (R141). -/
theorem exec_nibSync_barrier {p w : Nat} (h : s.Ready p 3 w) (hop : slotOp w = 0x05) (hb : bitAt w 57 = true) :
    exec (.nibSync p) s = .next ((s.setNib p ((s.nib p).setIssued 3)).setNib p
      { ((s.nib p).setIssued 3).closePhase.kvqClose with signalled := true, hold := .barrier s.acyc (fld w 56 33 + 1) none }) := by
  have hsel : byOp 5 w = true := by simp [byOp, hop]
  show execNibSync p s = _
  simp only [execNibSync, State.issue_ready h hsel, State.updNib_eq, State.setNib_nib, if_true, hb, State.setNib_acyc]

end Sys2Proof.Machine
end

section
/-!
SUPPORT. Laws of gates: the piece of work a nib's gate belongs to, and what it becomes when the gate opens (R185, R193, R197).
-/
namespace Sys2Proof.Machine

variable {s : State}

theorem replaceAct_append {f : Act → Option (List Act)} {l : List Act} (h : ∀ x, x ∈ l → f x = none) (r : List Act) :
    replaceAct f (l ++ r) = l ++ replaceAct f r := by
  induction l with
  | nil => rfl
  | cons a l ih =>
    obtain ⟨ha, hl⟩ := List.forall_mem_cons.mp h
    simp only [List.cons_append, replaceAct, ha, ih hl]

section
variable {n : Nib} {l r : List Act} {g : Act} {tl e rv : Nat}

/-- A nib stands at the gate of the first of its pieces of work that has one. -/
theorem Nib.gateOf_first (hacts : n.acts = l ++ g :: r) (hl : ∀ x, x ∈ l → n.gateAt x = none)
    (hg : n.gateAt g = some (tl, e, rv)) : n.gateOf = some (tl, e, rv) := by
  simp [Nib.gateOf, hacts, List.findSome?_append, List.findSome?_eq_none_iff.mpr hl, hg]

/-- That piece of work alone changes when the gate opens. -/
theorem Nib.openGate_first (hacts : n.acts = l ++ g :: r) (hl : ∀ x, x ∈ l → n.gateAt x = none)
    (hg : n.gateAt g = some (tl, e, rv)) (c : Nat) : n.openGate c = { n with acts := l ++ g.opened c ++ r } := by
  unfold Nib.openGate
  rw [hacts, replaceAct_append fun x hx => by simp [hl x hx]]
  simp [replaceAct, hg]

/-- A gated visit, combine or tile-list entry starts in the later of the A-cycle it is ready in and the next one. -/
theorem Act.opened_of_gateAt (hg : n.gateAt g = some (tl, e, rv)) (c : Nat) :
    (∀ d m, g = .mat d m → g.opened c = [.mat (max rv (c + 1)) { m with ph := .ready, vstart := max rv (c + 1) }]) ∧
    (∀ d m t, g = .combGate d m t → g.opened c = ({ m with base := max rv (c + 1) } : ReadRun).start) ∧
    ∀ d a v o, g = .attend d a v o → g.opened c = [.attend (max rv (c + 1)) a v true] := by
  refine ⟨fun d m e => ?_, fun d m t e => ?_, fun d a v o e => ?_⟩ <;> subst e
  · simp only [Nib.gateAt, Option.ite_none_right_eq_some, Option.some.injEq, Prod.mk.injEq] at hg
    obtain ⟨_, _, _, rfl⟩ := hg
    rfl
  · simp only [Nib.gateAt, Option.some.injEq, Prod.mk.injEq] at hg
    obtain ⟨_, _, rfl⟩ := hg
    rfl
  · simp only [Nib.gateAt, Option.ite_none_right_eq_some, Option.some.injEq, Prod.mk.injEq] at hg
    obtain ⟨_, _, _, rfl⟩ := hg
    rfl

end

/-- The nib once its gate's rows are taken: the tally's COUNT drops, and it waits no longer (R89, R185). -/
def Nib.passGate (n : Nib) (tl e : Nat) : Nib := (n.consume tl e).updTally tl fun x => { x with waiting := false }

theorem Nib.passGate_frame (n : Nib) (tl e : Nat) : n.passGate tl e = { n with tallies := (n.passGate tl e).tallies } := rfl

theorem Nib.tally_updTally (n : Nib) (t v : Nat) (f : Tally → Tally) :
    (n.updTally t f).tally v = if v = t then f (n.tally t) else n.tally v := mget_mupd ..

theorem Nib.tally_passGate (n : Nib) (tl e v : Nat) : (n.passGate tl e).tally v =
    if v = tl then { n.tally tl with count := (n.tally tl).count - e, waiting := false } else n.tally v := by
  unfold Nib.passGate Nib.consume
  by_cases h : v = tl <;> simp [Nib.tally_updTally, h]

/-- A gate that is met opens from the A-cycle before its work is ready (R185). -/
theorem exec_gatedVisitStart {p tl e rv : Nat} (hr : s.runs = true) (hst : (s.nib p).st = .running)
    (hg : (s.nib p).gateOf = some (tl, e, rv)) (hrv : rv ≤ s.acyc + 1) (hmet : e ≤ ((s.nib p).tally tl).count) :
    exec (.gatedVisitStart p) s = .next (s.setNib p (((s.nib p).openGate s.acyc).passGate tl e)) := by
  have met : (s.nib p).met tl e = true := decide_eq_true hmet
  show execGatedVisitStart p s = _
  simp only [execGatedVisitStart, hg, hr, hst, hrv, met, and_self, if_true]
  rfl

end Sys2Proof.Machine
end

section
open Sys2Proof Sys2Proof.Machine

/-- Settles O20. The release changes each nib of the bed once; an opened gate changes its piece of work and its tally. -/
theorem barriersAndGates : Obligations.BarriersAndGates := by
  refine ⟨fun s b a hr hne hnd hall hlast => ?_, fun s p w h hop hb => ?_, fun bd hw hh hx hy => ?_,
    fun s p tl e rv l r g hr hst hacts hl hg hrv hmet => ?_⟩
  · have latest : (s.bedNibs b).foldl (fun a p => max a (s.nib p).barrierAt) 0 = a := by
      refine foldl_max_eq _ (fun p hp => ?_) ?_
      · obtain ⟨_, _, x, l, hx, hxa⟩ := hall p hp
        simpa [Nib.barrierAt, hx] using hxa
      · obtain ⟨p, l, hp, hh⟩ := hlast
        exact ⟨p, hp, by simp [Nib.barrierAt, hh]⟩
    obtain ⟨frame, nibs⟩ := State.foldl_updNib (s := s) (g := fun t n => n.released (a + barrierD (t.bed b)))
      (fun _ _ _ => rfl) hnd
    refine ⟨_, exec_barrierRelease hr hne (fun p hp => ?_) latest, frame, fun p hp => (nibs p).trans (if_neg hp),
      fun p hp => ?_⟩
    · obtain ⟨hst, hsig, _⟩ := hall p hp
      exact ⟨hsig, hst⟩
    · obtain ⟨_, _, x, l, hx, _⟩ := hall p hp
      refine ⟨x, l, hx, (nibs p).trans ((if_pos hp).trans ?_)⟩
      simp only [Nib.released, hx]
  · refine ⟨_, exec_nibSync_barrier h hop hb, ?_⟩
    rw [State.setNib_nib, if_pos rfl]
    exact ⟨rfl, rfl⟩
  · have := barrierD_bounds bd
    omega
  · obtain ⟨mat, comb, att⟩ := Act.opened_of_gateAt hg s.acyc
    have opened := Nib.openGate_first hacts hl hg s.acyc
    have tallies (v : Nat) := Nib.tally_passGate ((s.nib p).openGate s.acyc) tl e v
    refine ⟨_, g.opened s.acyc, exec_gatedVisitStart hr hst (Nib.gateOf_first hacts hl hg) hrv hmet, State.onlyNib_setNib .., ?_,
      mat, comb, att, ?_⟩
    · rw [State.setNib_nib, if_pos rfl, Nib.passGate_frame, opened]
    · rw [State.setNib_nib, if_pos rfl]
      exact ⟨(tallies tl).trans (if_pos rfl), fun v hv => (tallies v).trans (if_neg hv)⟩

end

section
/-!
SUPPORT. What the watchdog, the deadline, the idle limit and the DMA progress limit do where they have passed (R298, R312, R477, R478).
-/
namespace Sys2Proof.Machine

variable {s : State}

/-! ### Steps, deadlines and idle sessions -/

theorem exec_stepWatchdog {b : Nat} {t : Step} (hr : s.runs = true) (ht : (s.bed b).step = some t)
    (late : t.startT + 100000 * bitsAt (s.cfgAt limitsReg) 0 16 < s.now) :
    exec (.stepWatchdog b) s = .next (s.bedFault b Status.tallyTimeout.code 10 0 0 0) := by
  show execStepWatchdog b s = _
  simp only [execStepWatchdog, ht, if_pos (And.intro hr late)]

theorem exec_deadlineExpiry {i : Nat} {r : Req} (hr : s.runs = true) (hq : s.reqOf i = some r) (hstep : r.stepped = true)
    (hst : (s.ses i).st = .queued) (hset : (s.ses i).deadline ≠ 0) (late : (s.ses i).deadline < s.now)
    (free : (stepIndices (s.bed (s.ses i).bed).next).contains i = false) :
    exec (.deadlineExpiry i) s = .next (s.missDeadline i) := by
  show execDeadlineExpiry i s = _
  simp only [execDeadlineExpiry, hq]
  exact congrArg _ (if_pos ⟨hr, hstep, hst, hset, late, Bool.eq_false_iff.mp free⟩)

theorem exec_sessionIdleExpiry {i : Nat} (hr : s.runs = true) (hst : (s.ses i).st = .idle) (own : (s.ses i).mirror = false)
    (hset : (s.ses i).idleLimit ≠ 0) (late : (s.ses i).lastActive + 100000000 * (s.ses i).idleLimit < s.now)
    (room : heldPlain (s.bed (s.ses i).bed) + (s.bed (s.ses i).bed).reserve < s.holdRoom (s.ses i).bed) :
    exec (.sessionIdleExpiry i) s = .next ((s.closeNow i).event [(s.ses i).bed]
      { kind := .sessionExpired, session := s.sesNumber i, bed := (s.ses i).bed }) := by
  show execSessionIdleExpiry i s = _
  exact congrArg _ (if_pos ⟨hr, hst, Bool.eq_false_iff.mp own, hset, late, room⟩)

/-- Only an IDLE session expires (R298). -/
theorem exec_sessionIdleExpiry_of_not_idle {i : Nat} (hst : (s.ses i).st ≠ .idle) : exec (.sessionIdleExpiry i) s = .next s := by
  show execSessionIdleExpiry i s = _
  exact congrArg _ (if_neg fun ⟨_, idle, _⟩ => hst idle)

/-! ### DMA programs -/

/-- Channel `c` given up by its program, and the program counted (R477). -/
def State.abandonDma (s : State) (c : Nat) : State := s.updDma c fun d => { d with job := none, abandon := d.abandon + 1 }

/-- Nothing but that channel changes. -/
theorem State.abandonDma_spec (s : State) (c : Nat) : s.abandonDma c = { s with dma := (s.abandonDma c).dma } ∧
    (s.abandonDma c).dmaCh c = { s.dmaCh c with job := none, abandon := (s.dmaCh c).abandon + 1 } ∧
    ∀ e, e ≠ c → (s.abandonDma c).dmaCh e = s.dmaCh e := by
  refine ⟨rfl, ?_, fun e he => ?_⟩
  · rw [State.abandonDma, State.updDma_dmaCh, if_pos rfl]
  · rw [State.abandonDma, State.updDma_dmaCh, if_neg he]

section
variable {c : Nat} (hr : s.runs = true) (late : (s.dmaCh c).moved + 100 * bitsAt (s.cfgAt limitsReg) 16 16 < s.now)
include hr late

/-- The limit of a program that ships a stream ends the stream. -/
theorem exec_dmaProgressTimeout_ship {n : Nat} (hj : (s.dmaCh c).job = some (.ship n)) :
    exec (.dmaProgressTimeout c) s = .next (((s.abandonDma c).endStream n Status.exportTimeout.code 0).assignDma) := by
  show execDmaProgressTimeout c s = _
  simp only [execDmaProgressTimeout, hj, hr, decide_eq_false (Nat.not_le.mpr late)]
  rfl

/-- The limit of a program that copies a page fails the copy; giving the channel up leaves the list of copies as it is. -/
theorem exec_dmaProgressTimeout_copy {i p : Nat} {k : PageCopy} (hj : (s.dmaCh c).job = some (.copy i p))
    (hk : s.copies.find? (fun x => x.index == i && x.page == p) = some k) :
    exec (.dmaProgressTimeout c) s = .next (((s.abandonDma c).failCopy k .tallyTimeout).assignDma) := by
  show execDmaProgressTimeout c s = _
  simp only [execDmaProgressTimeout, hj, hr, decide_eq_false (Nat.not_le.mpr late), State.updDma_copies, hk]
  rfl

end

end Sys2Proof.Machine
end

section
open Sys2Proof Sys2Proof.Machine

/-- Settles O36. Each limit's handler tests the limit and acts at once; the channel is given up before its program's work ends. -/
theorem stepAndSessionLimits : Obligations.StepAndSessionLimits := by
  refine fun s hr => ⟨fun b t ht late => exec_stepWatchdog hr ht late,
    fun i r hq hstep hst hset late free => exec_deadlineExpiry hr hq hstep hst hset late free,
    fun i hst own hset late room => exec_sessionIdleExpiry hr hst own hset late room,
    fun i hst => exec_sessionIdleExpiry_of_not_idle hst, fun c n hj late => ?_, fun c i p k hj late hk => ?_⟩
  · exact ⟨s.abandonDma c, exec_dmaProgressTimeout_ship hr late hj, s.abandonDma_spec c⟩
  · exact ⟨s.abandonDma c, exec_dmaProgressTimeout_copy hr late hj hk, s.abandonDma_spec c⟩

end

section
/-!
SUPPORT. What records and events leave of the twin block and of the sessions: an event enters the fault log, which the twin block
holds (R523), and its record may go to device memory; the twin state, the pair's tokens and the mirror entries stay.
-/
namespace Sys2Proof.Machine

variable {s t : State}

/-- The sessions, and the twin block without the device's own fault log. -/
def State.twinView (s : State) : SMap Session × Twin := (s.sessions, { s.twin with log := [], logHead := 0, written := 0 })

theorem State.twin_st_of_twinView (h : t.twinView = s.twinView) : t.twin.st = s.twin.st :=
  congrArg (fun v => v.2.st) h

theorem State.peerHeld_of_twinView (h : t.twinView = s.twinView) : t.twin.peerHeld = s.twin.peerHeld :=
  congrArg (fun v => v.2.peerHeld) h

theorem State.mirrorsOf_of_twinView (h : t.twinView = s.twinView) (b : Option Nat) : t.mirrorsOf b = s.mirrorsOf b :=
  congrArg (mkeys _) (congrArg Prod.fst h)

theorem twinView_ite {a b : State} {c : Prop} [Decidable c] (ha : a.twinView = s.twinView) (hb : b.twinView = s.twinView) :
    (if c then a else b).twinView = s.twinView := by
  split <;> assumption

theorem twinView_foldl {α : Type} {f : State → α → State} (h : ∀ s a, (f s a).twinView = s.twinView) (s : State) (l : List α) :
    (l.foldl f s).twinView = s.twinView := by
  induction l generalizing s with
  | nil => rfl
  | cons a l ih => exact (ih _).trans (h s a)

/-! ### Device memory -/

@[simp] theorem State.updChan_twinView (c : Nat) (f : Chan → Chan) : (s.updChan c f).twinView = s.twinView := rfl
@[simp] theorem State.setBed_twinView (b : Nat) (v : Bed) : (s.setBed b v).twinView = s.twinView := rfl
@[simp] theorem State.setMsys_twinView (m : MemSys) : State.twinView { s with msys := m } = s.twinView := rfl
@[simp] theorem State.updQueue_twinView (b q : Nat) (f : Queue → Queue) : (s.updQueue b q f).twinView = s.twinView := rfl
@[simp] theorem State.emit_twinView (o : Out) : (s.emit o).twinView = s.twinView := rfl

@[simp] theorem State.retrainNext_twinView (lp : Bool) : (s.retrainNext lp).twinView = s.twinView := by
  unfold State.retrainNext
  dsimp only
  split
  · rfl
  · split <;> rfl

@[simp] theorem State.queueRetrain_twinView (lp : Bool) (c : Nat) (m : Bool) :
    (s.queueRetrain lp c m).twinView = s.twinView :=
  twinView_ite rfl (State.retrainNext_twinView lp)

@[simp] theorem State.countUncorr_twinView (a : Nat) : (s.countUncorr a).twinView = s.twinView := by
  unfold State.countUncorr
  split <;> rfl

@[simp] theorem State.countCorr_twinView (a : Nat) : (s.countCorr a).twinView = s.twinView := by
  unfold State.countCorr
  split
  · rfl
  · dsimp only
    split <;> simp
  · rfl

@[simp] theorem State.putOne_twinView (a : Nat) (bs : List Byte) : (s.putOne a bs).twinView = s.twinView := by
  unfold State.putOne
  split
  · rfl
  · split <;> rfl
  · rfl

@[simp] theorem State.putCw_twinView (a : Nat) (bs : List Byte) : (s.putCw a bs).twinView = s.twinView := by
  unfold State.putCw
  split <;> simp

@[simp] theorem State.rewriteUnit_twinView (a b n : Nat) : (s.rewriteUnit a b n).twinView = s.twinView := by
  induction n with
  | zero => rfl
  | succ n ih =>
    unfold State.rewriteUnit
    dsimp only
    split <;> simp [ih]

@[simp] theorem State.fromTwin_twinView (a : Nat) : (s.fromTwin a).2.twinView = s.twinView := by
  unfold State.fromTwin
  split
  · rfl
  · next b _ =>
    split
    · rfl
    · next c _ =>
      have counted : ((if c then s.countCorr b else s).countUncorr a).twinView = s.twinView :=
        (State.countUncorr_twinView a).trans (twinView_ite (State.countCorr_twinView b) rfl)
      exact twinView_ite counted ((State.setMsys_twinView _).trans ((State.rewriteUnit_twinView ..).trans counted))

@[simp] theorem State.served_twinView (a : Nat) : (s.served a).2.twinView = s.twinView := by
  unfold State.served
  dsimp only
  split
  · simp
  · exact twinView_ite (State.countCorr_twinView _) rfl

@[simp] theorem State.writeCw_twinView (cw a : Nat) (bs : List Byte) : (s.writeCw cw a bs).1.twinView = s.twinView := by
  have old := State.served_twinView (s := s) cw
  unfold State.writeCw
  dsimp only
  split
  · simp
  · split <;> next e => rw [e] at old; simpa using old

theorem State.writeCws_twinView (cw a n : Nat) (bs : List Byte) : (s.writeCws cw a bs n).1.twinView = s.twinView := by
  induction n generalizing s cw with
  | zero => rfl
  | succ n ih => exact (ih (s := (s.writeCw cw a bs).1) (cw + 32)).trans (State.writeCw_twinView cw a bs)

@[simp] theorem State.writeDev_twinView (a : Nat) (bs : List Byte) : (s.writeDev a bs).1.twinView = s.twinView :=
  State.writeCws_twinView ..

/-! ### Records and events -/

@[simp] theorem State.sendTwin_twinView (m : TwinMsg) : (s.sendTwin m).twinView = s.twinView := by
  unfold State.sendTwin
  split <;> rfl

@[simp] theorem State.logEntry_twinView (code kind bed unit w aux : Nat) :
    (s.logEntry code kind bed unit w aux).twinView = s.twinView :=
  twinView_ite (State.sendTwin_twinView _) rfl

@[simp] theorem State.message_twinView (f v : Nat) : (s.message f v).twinView = s.twinView :=
  twinView_ite rfl (twinView_ite rfl rfl)

@[simp] theorem State.queueMessage_twinView (b q : Nat) : (s.queueMessage b q).twinView = s.twinView := by
  unfold State.queueMessage
  split
  · rfl
  · split <;> simp

@[simp] theorem State.moderate_twinView (b q : Nat) (r : Rec) (quiet : Bool) :
    (s.moderate b q r quiet).twinView = s.twinView := by
  have sent := State.queueMessage_twinView (s := s) b q
  unfold State.moderate
  dsimp only
  split
  · rfl
  · exact twinView_ite sent (twinView_ite rfl (twinView_ite sent rfl))

@[simp] theorem State.writeRecord_twinView (b q : Nat) (r : Rec) (quiet : Bool) :
    (s.writeRecord b q r quiet).twinView = s.twinView := by
  unfold State.writeRecord
  split
  · rfl
  · dsimp only
    split <;> simp

@[simp] theorem State.queueRecord_twinView (b q : Nat) (r : Rec) (quiet : Bool) :
    (s.queueRecord b q r quiet).twinView = s.twinView :=
  twinView_ite (State.writeRecord_twinView ..) rfl

@[simp] theorem State.queueEvent_twinView (f : Nat) (r : Rec) : (s.queueEvent f r).twinView = s.twinView := by
  unfold State.queueEvent
  split
  · rfl
  · split <;> simp

@[simp] theorem State.event_twinView (fns : List Nat) (e : Ev) : (s.event fns e).twinView = s.twinView :=
  (twinView_foldl (fun _ f => State.queueEvent_twinView f _) ..).trans (twinView_ite rfl (State.logEntry_twinView ..))

end Sys2Proof.Machine
end

section
/-!
SUPPORT. What the host's side of twins does: beats and misses, takeover, attachment and detachment, and the
TWIN_PRES# pin (R517–R524, R566).
-/
namespace Sys2Proof.Machine

variable {s : State}

/-! ### Changes of the twin state -/

/-- The mirror entries are sessions: the twin block does not hold them (R513). -/
@[simp] theorem State.setTwin_mirrorsOf (w : Twin) (b : Option Nat) : State.mirrorsOf { s with twin := w } b = s.mirrorsOf b := rfl

@[simp] theorem State.moveTwin_st (x : TwinSt) : (s.moveTwin x).twin.st = x := by
  unfold State.moveTwin
  split
  · assumption
  · exact State.twin_st_of_twinView (State.event_twinView ..)

@[simp] theorem State.moveTwin_peerHeld (x : TwinSt) : (s.moveTwin x).twin.peerHeld = s.twin.peerHeld := by
  unfold State.moveTwin
  split
  · rfl
  · exact (State.peerHeld_of_twinView (State.event_twinView ..)).trans rfl

@[simp] theorem State.moveTwin_mirrorsOf (x : TwinSt) (b : Option Nat) : (s.moveTwin x).mirrorsOf b = s.mirrorsOf b := by
  unfold State.moveTwin
  split
  · rfl
  · exact (State.mirrorsOf_of_twinView (State.event_twinView ..) b).trans rfl

/-! ### Beats and misses -/

theorem exec_twinBeatTick (hr : s.ready = true) (hc : s.boot.computeEnd = none) (due : s.twin.beatAt + 100000 ≤ s.now) :
    let u : State := { s with twin := { s.twin with beat := (s.twin.beat + 1) % 2 ^ 32, beatAt := s.now / 100000 * 100000 } }
    exec .twinBeatTick s = .next (if s.twinPort.isSome then u.sendTwin (.beat u.twin.beat u.updateStatus) else u) :=
  congrArg Host.Outcome.next (if_pos (by simp [hr, hc, due]))

theorem bitsAt_zero (x n : Nat) : bitsAt x 0 n = x % 2 ^ n := by simp [bitsAt]

theorem exec_peerBeat (v : Word) (ho : s.pfOpen 0 = true) : exec (.peerBeat 0 v) s = .next (s.hostBeat (v.toNat % 2 ^ 32)) :=
  congrArg Host.Outcome.next ((if_pos ho).trans (congrArg s.hostBeat (bitsAt_zero ..)))

/-- Fewer than three misses of a twin link that beats leave a PAIRED device PAIRED (R518). -/
theorem State.judgeMisses_of_link_beating (hst : s.twin.st = .paired) (hb : s.twin.linkBeating = true) (hm : s.twin.linkMiss < 3) :
    s.judgeMisses = s := by
  have few : decide (3 ≤ s.twin.linkMiss) = false := decide_eq_false (Nat.not_le.mpr hm)
  simp [State.judgeMisses, hst, hb, few]

/-- Three misses of both paths make a DEGRADED device SUSPECT (R518). -/
theorem State.judgeMisses_of_all_missed (hst : s.twin.st = .degraded) (hb : s.twin.hostBeating = true)
    (hl : 3 ≤ s.twin.linkMiss) (hh : 3 ≤ s.twin.hostMiss) : s.judgeMisses = s.moveTwin .suspect := by
  simp [State.judgeMisses, hst, hb, hl, hh]

section
variable (hr : s.ready = true) (grace : s.twin.graceTo < s.now)
include hr grace

/-- The twin link's timer expires: outside the grace of a handover it counts one miss (R518, R537). -/
theorem exec_beatMiss_link (hst : s.twin.st = .paired ∨ s.twin.st = .degraded ∨ s.twin.st = .suspect)
    (late : s.twin.linkAt + 100000 < s.now) :
    exec (.beatMiss false) s =
      .next (State.judgeMisses { s with twin := { s.twin with linkAt := s.now, linkMiss := s.twin.linkMiss + 1 } }) := by
  show execBeatMiss false s = _
  rcases hst with hst | hst | hst <;> simp [execBeatMiss, hst, hr, Nat.not_le.mpr late, Nat.not_le.mpr grace]

/-- The host path's timer expires, and counts one miss likewise. -/
theorem exec_beatMiss_host (hst : s.twin.st = .paired ∨ s.twin.st = .degraded ∨ s.twin.st = .suspect)
    (late : s.twin.hostAt + 100000 < s.now) :
    exec (.beatMiss true) s =
      .next (State.judgeMisses { s with twin := { s.twin with hostAt := s.now, hostMiss := s.twin.hostMiss + 1 } }) := by
  show execBeatMiss true s = _
  rcases hst with hst | hst | hst <;> simp [execBeatMiss, hst, hr, Nat.not_le.mpr late, Nat.not_le.mpr grace]

end

/-! ### Takeover, attachment, detachment -/

theorem exec_takeover (ho : s.pfOpen 0 = true) : exec (.takeover 0) s = .next s.takeover := congrArg Host.Outcome.next (if_pos ho)
theorem exec_attach (ho : s.pfOpen 0 = true) : exec (.attach 0) s = .next s.attach := congrArg Host.Outcome.next (if_pos ho)
theorem exec_detach (ho : s.pfOpen 0 = true) : exec (.detach 0) s = .next s.detach := congrArg Host.Outcome.next (if_pos ho)

theorem State.takeover_refused (hs : s.twin.st ≠ .suspect) (hd : s.twin.st ≠ .degraded) : s.takeover = s.refuseTwin := by
  unfold State.takeover
  split
  · contradiction
  · contradiction
  · rfl

/-- A bed is adopted for its mirror entries or for the tokens the peer holds there (R519); without both there is none. -/
theorem State.no_bed_to_adopt (held : s.twin.peerHeld = []) (mirrors : ∀ b, s.mirrorsOf (some b) = []) :
    (bedNums.filter fun b => !(s.mirrorsOf (some b)).isEmpty ||
      s.twin.peerHeld.any fun (x : Nat × Int) => x.1 / 4096 == b) = [] := by
  refine List.filter_eq_nil_iff.mpr fun b _ adopted => ?_
  rw [mirrors b, held] at adopted
  exact Bool.false_ne_true adopted

/-- With no mirror entry and no token of the peer, the device only goes SOLO (R519). -/
theorem State.takeover_nothing_held (hst : s.twin.st = .suspect ∨ s.twin.st = .degraded) (held : s.twin.peerHeld = [])
    (mirrors : ∀ b, s.mirrorsOf (some b) = []) (down : ∀ p, s.role p = 1 → (s.port p).st ≠ .up) :
    s.takeover = State.moveTwin { s with twin := { s.twin with queue := [] } } .solo := by
  have ports : ((List.range 24).filter fun n => s.role n == 1 && (s.port n).st == .up) = [] :=
    List.filter_eq_nil_iff.mpr fun p _ h => by
      obtain ⟨role, up⟩ := Bool.and_eq_true_iff.mp h
      exact down p (eq_of_beq role) (eq_of_beq up)
  have beds := State.no_bed_to_adopt (s := State.moveTwin { s with twin := { s.twin with queue := [] } } .solo)
    ((State.moveTwin_peerHeld _).trans held) fun b => (State.moveTwin_mirrorsOf ..).trans (mirrors b)
  unfold State.takeover
  dsimp only
  rw [ports, List.foldl_nil, beds, List.foldl_nil]
  rcases hst with hst | hst <;> rw [hst]

theorem State.attach_refused (h : s.twin.st ≠ .alone ∨ s.pins.twinPres = false) : s.attach = s.refuseTwin := by
  refine if_neg fun ⟨alone, seated⟩ => ?_
  rcases h with h | h
  · exact h alone
  · exact Bool.false_ne_true (h.symm.trans seated)

theorem State.detach_displaced (h : s.twin.st = .displaced) : s.detach = State.moveTwin { s with twin := { s.twin with
    queue := [], hellod := false, syncing := false, overflow := false, adopt := [], stale := [] } } .alone := by
  simp only [State.detach, h, if_true]

theorem State.detach_st : s.detach.twin.st = .alone := State.moveTwin_st ..

/-! ### TWIN_PRES# -/

/-- Bits of THERM.EVENTS are set, with their marks; an alert they raise may leave the package (R562, R565). -/
theorem State.thermEvent_spec (bits : Nat) :
    (s.thermEvent bits).therm.events = s.therm.events ||| bits ∧
      s.thermEvent bits = { s with
        therm := { s.therm with events := (s.thermEvent bits).therm.events }, mark := (s.thermEvent bits).mark
        out := (s.thermEvent bits).out } := by
  unfold State.thermEvent State.noteAlert
  split <;> exact ⟨rfl, rfl⟩

theorem bitAt_eq_testBit (x i : Nat) : bitAt x i = x.testBit i := by
  rw [Nat.testBit_eq_decide_div_mod_eq]
  rfl

theorem exec_twinPres_same {b : Bool} (h : s.pins.twinPres = b) : exec (.twinPres b) s = .next s :=
  congrArg Host.Outcome.next (if_pos h)

theorem exec_twinPres_change {b : Bool} (h : s.pins.twinPres ≠ b) :
    let u := State.thermEvent { s with pins := { s.pins with twinPres := b } } 16
    exec (.twinPres b) s = .next (u.event [0]
      { kind := .twin, status := if u.twinPort.isSome then 0 else Status.linkDown.code, r0 := u.twin.st.code }) :=
  congrArg Host.Outcome.next (if_neg h)

end Sys2Proof.Machine
end

section
open Sys2Proof Sys2Proof.Machine

/-- Settles O53. Each command and timer is one equation of its handler; that a takeover finds nothing to adopt, and that DETACH ends
in ALONE, rests on what the TWIN event leaves as it was. -/
theorem twinControl : Obligations.TwinControl := by
  refine fun s => ⟨exec_twinBeatTick, fun v ho => ⟨fun new => ?_, fun same => ?_⟩,
    fun hr grace => ⟨fun hst late few hb => ?_, fun hst late two hb hl => ?_⟩,
    fun ho => ⟨fun hs hd => ?_, fun hst held mirrors down => ?_, fun alone seated => ?_, fun h => ?_, fun h => ?_,
      ⟨_, exec_detach ho, State.detach_st⟩⟩,
    fun b => exec_twinPres_same, fun b h => ?_⟩
  · exact (exec_peerBeat v ho).trans (congrArg _ (if_neg new))
  · exact (exec_peerBeat v ho).trans (congrArg _ (if_pos same))
  · exact (exec_beatMiss_link hr grace (.inl hst) late).trans
      (congrArg _ (State.judgeMisses_of_link_beating hst hb (Nat.succ_lt_succ few)))
  · refine (exec_beatMiss_host hr grace (.inr (.inl hst)) late).trans (congrArg _ ?_)
    rw [two]
    exact State.judgeMisses_of_all_missed hst hb hl (Nat.le_refl 3)
  · exact (exec_takeover ho).trans (congrArg _ (State.takeover_refused hs hd))
  · exact (exec_takeover ho).trans (congrArg _ (State.takeover_nothing_held hst held mirrors down))
  · exact (exec_attach ho).trans (congrArg _ (if_pos ⟨alone, seated⟩))
  · exact (exec_attach ho).trans (congrArg _ (State.attach_refused h))
  · exact (exec_detach ho).trans (congrArg _ (State.detach_displaced h))
  · obtain ⟨events, frame⟩ := State.thermEvent_spec (s := { s with pins := { s.pins with twinPres := b } }) 16
    have pins := congrArg State.pins frame
    refine ⟨_, pins, ?_, ?_, exec_twinPres_change h⟩
    · rw [events, bitAt_eq_testBit, Nat.testBit_or, show Nat.testBit 16 4 = true from rfl, Bool.or_true]
    · rw [pins]
      exact frame

end

section
/-!
SUPPORT. The field GF(2^8) of the house code (R432): its product distributes, commutes and associates, and every byte but 0 has an
inverse.
-/
namespace Sys2Proof.Machine

/-! ### Multiplication by α -/

theorem gfX_zero : gfX 0#8 = 0#8 := by decide

theorem gfX_xor (a b : Byte) : gfX (a ^^^ b) = gfX a ^^^ gfX b := by
  have cancel (x y z : Byte) : x ^^^ z ^^^ (y ^^^ z) = x ^^^ y := by
    rw [BitVec.xor_comm y, ← BitVec.xor_assoc, BitVec.xor_assoc x, BitVec.xor_self, BitVec.xor_zero]
  unfold gfX
  rw [BitVec.msb_xor, BitVec.shiftLeft_xor_distrib]
  cases a.msb <;> cases b.msb
  · rfl
  · exact BitVec.xor_assoc ..
  · exact (BitVec.xor_assoc ..).trans ((congrArg _ (BitVec.xor_comm ..)).trans (BitVec.xor_assoc ..).symm)
  · exact (cancel ..).symm

/-! ### The product -/

theorem gfMulAux_zero (b : Byte) (n : Nat) : gfMulAux 0#8 b n = 0#8 := by
  induction n generalizing b with
  | zero => rfl
  | succ n ih =>
    simp only [gfMulAux, ih, gfX_zero]
    split <;> rfl

theorem gfMulAux_xor_left (a b c : Byte) (n : Nat) : gfMulAux (a ^^^ b) c n = gfMulAux a c n ^^^ gfMulAux b c n := by
  induction n generalizing c with
  | zero => simp [gfMulAux]
  | succ n ih =>
    simp only [gfMulAux, ih, gfX_xor]
    split
    · ac_rfl
    · simp only [BitVec.ofNat_eq_ofNat, BitVec.xor_zero]

theorem gfMulAux_xor_right (a b c : Byte) (n : Nat) : gfMulAux a (b ^^^ c) n = gfMulAux a b n ^^^ gfMulAux a c n := by
  have cancel (x y z : Byte) : x ^^^ y = x ^^^ z ^^^ (y ^^^ z) := by
    rw [BitVec.xor_comm y, ← BitVec.xor_assoc, BitVec.xor_assoc x, BitVec.xor_self, BitVec.xor_zero]
  induction n generalizing b c with
  | zero => simp [gfMulAux]
  | succ n ih =>
    simp only [gfMulAux, BitVec.ushiftRight_xor_distrib, ih, gfX_xor, BitVec.getLsbD_xor]
    cases b.getLsbD 0 <;> cases c.getLsbD 0 <;>
      simp only [Bool.xor_false, Bool.xor_self, Bool.xor_true, Bool.not_false, Bool.false_eq_true,
        if_true, if_false, BitVec.ofNat_eq_ofNat, BitVec.xor_zero]
    · ac_rfl
    · ac_rfl
    · exact cancel ..

theorem gfMulAux_gfX (a b : Byte) (n : Nat) : gfMulAux (gfX a) b n = gfX (gfMulAux a b n) := by
  induction n generalizing b with
  | zero => exact gfX_zero.symm
  | succ n ih =>
    simp only [gfMulAux, ih, gfX_xor]
    split
    · rfl
    · exact congrArg _ gfX_zero.symm

theorem gfMul_xor_left (a b c : Byte) : gfMul (a ^^^ b) c = gfMul a c ^^^ gfMul b c := gfMulAux_xor_left a b c 8
theorem gfMul_xor_right (a b c : Byte) : gfMul a (b ^^^ c) = gfMul a b ^^^ gfMul a c := gfMulAux_xor_right a b c 8
theorem gfMul_gfX (a b : Byte) : gfMul (gfX a) b = gfX (gfMul a b) := gfMulAux_gfX a b 8
theorem gfMul_zero_left (b : Byte) : gfMul 0#8 b = 0#8 := gfMulAux_zero b 8

theorem gfMul_one_left (b : Byte) : gfMul 1#8 b = b := by
  revert b; decide +kernel

/-- The product with `b` sums powers of α times the left factor, so another product passes through it. -/
theorem gfMul_gfMulAux (a b c : Byte) (n : Nat) : gfMul (gfMulAux a b n) c = gfMulAux (gfMul a c) b n := by
  induction n generalizing b with
  | zero => exact gfMul_zero_left c
  | succ n ih =>
    simp only [gfMulAux, gfMul_xor_left, gfMul_gfX, ih]
    split
    · rfl
    · exact congrArg _ (gfMul_zero_left c)

theorem gfMul_right_comm (a b c : Byte) : gfMul (gfMul a b) c = gfMul (gfMul a c) b := gfMul_gfMulAux a b c 8

theorem gfMul_comm (a b : Byte) : gfMul a b = gfMul b a := by
  have h := gfMul_right_comm 1#8 a b
  rwa [gfMul_one_left, gfMul_one_left] at h

theorem gfMul_assoc (a b c : Byte) : gfMul (gfMul a b) c = gfMul a (gfMul b c) :=
  calc gfMul (gfMul a b) c = gfMul (gfMul b a) c := by rw [gfMul_comm a b]
    _ = gfMul (gfMul b c) a := gfMul_right_comm b a c
    _ = gfMul a (gfMul b c) := gfMul_comm ..

theorem gfMul_gfInv (a : Byte) (h : a ≠ 0#8) : gfMul a (gfInv a) = 1#8 := by
  revert a; decide +kernel

/-! ### Bytes as a commutative ring -/

/-- The bytes as the elements of GF(2^8). -/
def GF : Type := Byte

/-- GF(2^8) as a ring: its sum is the exclusive or, and a number counts by its parity. -/
@[reducible] def GF.commRing : Lean.Grind.CommRing GF where
  add := BitVec.xor
  mul := gfMul
  neg := id
  sub := BitVec.xor
  natCast := ⟨fun n => BitVec.ofNat 8 (n % 2)⟩
  ofNat n := ⟨BitVec.ofNat 8 (n % 2)⟩
  intCast := ⟨fun i => BitVec.ofNat 8 (i.natAbs % 2)⟩
  nsmul := ⟨fun n a => gfMul (BitVec.ofNat 8 (n % 2)) a⟩
  zsmul := ⟨fun i a => gfMul (BitVec.ofNat 8 (i.natAbs % 2)) a⟩
  npow := ⟨fun a n => Nat.rec 1#8 (fun _ b => gfMul b a) n⟩
  add_zero _ := BitVec.xor_zero
  add_comm := BitVec.xor_comm
  add_assoc := BitVec.xor_assoc
  mul_assoc := gfMul_assoc
  mul_comm := gfMul_comm
  one_mul := gfMul_one_left
  mul_one a := (gfMul_comm ..).trans (gfMul_one_left a)
  zero_mul := gfMul_zero_left
  mul_zero a := (gfMul_comm ..).trans (gfMul_zero_left a)
  left_distrib := gfMul_xor_right
  right_distrib := gfMul_xor_left
  pow_zero _ := rfl
  pow_succ _ _ := rfl
  ofNat_succ n := by
    show BitVec.ofNat 8 ((n + 1) % 2) = BitVec.ofNat 8 (n % 2) ^^^ 1#8
    rcases Nat.mod_two_eq_zero_or_one n with h | h <;> rw [Nat.add_mod, h] <;> rfl
  neg_add_cancel _ := BitVec.xor_self
  sub_eq_add_neg _ _ := rfl
  neg_zsmul i a := by
    show gfMul (BitVec.ofNat 8 ((-i).natAbs % 2)) a = _
    rw [Int.natAbs_neg]
    rfl
  intCast_neg i := by
    show BitVec.ofNat 8 ((-i).natAbs % 2) = _
    rw [Int.natAbs_neg]
    rfl

/-- A product is 0 only where a factor is. -/
theorem GF.eq_zero_of_mul : letI := GF.commRing; ∀ a b : GF, a * b = 0 → a = 0 ∨ b = 0 := by
  let _ := GF.commRing
  refine fun a b h => Classical.or_iff_not_imp_left.mpr fun ha => ?_
  have inv : a * (show GF from gfInv a) = 1 := gfMul_gfInv a ha
  grind

end Sys2Proof.Machine
end

section
/-!
SUPPORT. The syndromes of the house code (R432, R433): 0 for a codeword, and for bytes in error the sums of their powers.
-/
namespace Sys2Proof.Machine

theorem gfPow_add (m n : Nat) : gfPow (m + n) = gfMul (gfPow m) (gfPow n) := by
  induction m with
  | zero => rw [Nat.zero_add]; exact (gfMul_one_left _).symm
  | succ m ih => rw [Nat.add_right_comm, gfPow, gfPow, gfMul_gfX, ih]

/-- The powers of α below 36 differ. -/
theorem gfPow_inj : ∀ m, m < 36 → ∀ n, n < 36 → gfPow m = gfPow n → m = n := by decide +kernel

/-- The polynomial `cw` at α^j, after a head whose value is `s`. -/
def houseSynFrom (j : Nat) (s : Byte) (cw : List Byte) : Byte := cw.foldl (fun s c => gfMul s (gfPow j) ^^^ c) s

/-- A change of the head shows in the value, at the power its place has. -/
theorem houseSynFrom_xor (j : Nat) (s e : Byte) (cw : List Byte) :
    houseSynFrom j (s ^^^ e) cw = houseSynFrom j s cw ^^^ gfMul e (gfPow (j * cw.length)) := by
  induction cw generalizing s e with
  | nil => exact congrArg _ ((gfMul_one_left e).symm.trans (gfMul_comm ..))
  | cons c cw ih =>
    calc houseSynFrom j (gfMul (s ^^^ e) (gfPow j) ^^^ c) cw
        = houseSynFrom j (gfMul s (gfPow j) ^^^ c ^^^ gfMul e (gfPow j)) cw := by
          rw [gfMul_xor_left, BitVec.xor_assoc, BitVec.xor_comm _ c, ← BitVec.xor_assoc]
      _ = _ := by rw [ih, gfMul_assoc, ← gfPow_add, List.length_cons, Nat.mul_succ, Nat.add_comm j]; rfl

theorem houseSynFrom_xorAt (j : Nat) (s e : Byte) {cw : List Byte} {i : Nat} (h : i < cw.length) :
    houseSynFrom j s (xorAt cw i e) = houseSynFrom j s cw ^^^ gfMul e (gfPow (j * (cw.length - 1 - i))) := by
  induction cw generalizing s i with
  | nil => cases h
  | cons c cw ih =>
    cases i with
    | zero =>
      refine (congrArg (houseSynFrom j · cw) (BitVec.xor_assoc ..).symm).trans ?_
      exact houseSynFrom_xor ..
    | succ i =>
      have place : (c :: cw).length - 1 - (i + 1) = cw.length - 1 - i := by simp only [List.length_cons]; omega
      rw [place]
      exact ih _ (Nat.lt_of_succ_lt_succ h)

/-- An error in byte `i` of a codeword changes syndrome j by the error times the byte's power. -/
theorem houseSyn_xorAt (j : Nat) (e : Byte) {cw : List Byte} {i : Nat} (h : i < cw.length) :
    houseSyn (xorAt cw i e) j = houseSyn cw j ^^^ gfMul e (gfPow (j * (cw.length - 1 - i))) := houseSynFrom_xorAt j 0 e h

@[simp] theorem xorAt_length (cw : List Byte) (i : Nat) (e : Byte) : (xorAt cw i e).length = cw.length := List.length_modify ..

@[simp] theorem xorAt_xorAt (cw : List Byte) (i : Nat) (e : Byte) : xorAt (xorAt cw i e) i e = cw := by
  rw [xorAt, xorAt, List.modify_modify_eq]
  refine (congrArg (cw.modify i) (funext fun x => ?_)).trans (List.modify_id ..)
  exact (BitVec.xor_assoc ..).trans ((congrArg _ BitVec.xor_self).trans BitVec.xor_zero)

theorem xorAt_comm (cw : List Byte) {i j : Nat} (h : i ≠ j) (e f : Byte) :
    xorAt (xorAt cw i e) j f = xorAt (xorAt cw j f) i e := List.modify_modify_ne _ _ _ h

/-! ### Codewords -/

/-- The value at x of a remainder, highest byte first. -/
def remAt (x : Byte) (r : Byte × Byte × Byte × Byte) : Byte :=
  gfMul (gfMul (gfMul r.1 x ^^^ r.2.1) x ^^^ r.2.2.1) x ^^^ r.2.2.2

/-- α^0 … α^3 are the roots of g (R432). -/
theorem houseGen_root : ∀ j, j < 4 → let x := gfPow j
    gfMul (gfMul (gfMul x x) x) x = gfMul 0x0F#8 (gfMul (gfMul x x) x) ^^^ gfMul 0x36#8 (gfMul x x) ^^^ gfMul 0x78#8 x ^^^ 0x40#8 := by
  decide +kernel

/-- A step of the division keeps the value at a root of g: the remainder's is the dividend's, shifted by four places. -/
theorem remAt_houseStep {j : Nat} (hj : j < 4) (r : Byte × Byte × Byte × Byte) (d : Byte) :
    let x := gfPow j
    remAt x (houseStep r d) = gfMul (remAt x r) x ^^^ gfMul d (gfMul (gfMul (gfMul x x) x) x) := by
  intro x
  have root : gfMul (gfMul (gfMul x x) x) x = _ := houseGen_root j hj
  let _ := GF.commRing
  obtain ⟨r1, r2, r3, r4⟩ := r
  have key (a b c e x r1 r2 r3 r4 d : GF) (h : x * x * x * x = a * (x * x * x) + b * (x * x) + c * x + e) :
      (((r2 + (d + r1) * a) * x + (r3 + (d + r1) * b)) * x + (r4 + (d + r1) * c)) * x + (d + r1) * e =
        (((r1 * x + r2) * x + r3) * x + r4) * x + d * (x * x * x * x) := by
    grind
  exact key _ _ _ _ _ _ _ _ _ _ root

theorem remAt_houseStep_foldl {j : Nat} (hj : j < 4) (r : Byte × Byte × Byte × Byte) (s : Byte) (d : List Byte)
    (h : remAt (gfPow j) r = gfMul s (gfPow (4 * j))) :
    remAt (gfPow j) (d.foldl houseStep r) = gfMul (houseSynFrom j s d) (gfPow (4 * j)) := by
  have shift : gfPow (4 * j) = gfMul (gfMul (gfMul (gfPow j) (gfPow j)) (gfPow j)) (gfPow j) := by
    rw [← gfPow_add, ← gfPow_add, ← gfPow_add]
    congr 1
    omega
  induction d generalizing r s with
  | nil => exact h
  | cons c d ih =>
    refine ih _ _ ?_
    rw [remAt_houseStep hj, h, gfMul_xor_left, gfMul_right_comm, ← shift]

/-- A codeword is a multiple of g: its four syndromes are 0 (R432, R433). -/
theorem houseSyn_houseEncode (d : List Byte) {j : Nat} (hj : j < 4) : houseSyn (houseEncode d) j = 0#8 := by
  have rem := remAt_houseStep_foldl hj (0#8, 0#8, 0#8, 0#8) 0#8 d (by simp [remAt, gfMul_zero_left])
  have tail (s : Byte) (r : Byte × Byte × Byte × Byte) :
      houseSynFrom j s [r.1, r.2.1, r.2.2.1, r.2.2.2] = gfMul s (gfPow (4 * j)) ^^^ remAt (gfPow j) r := by
    have h := houseSynFrom_xor j 0#8 s [r.1, r.2.1, r.2.2.1, r.2.2.2]
    rw [BitVec.zero_xor] at h
    refine h.trans ((BitVec.xor_comm ..).trans ?_)
    rw [Nat.mul_comm]
    simp [houseSynFrom, remAt, gfMul_zero_left]
  refine (List.foldl_append ..).trans ((tail (houseSynFrom j 0#8 d) (d.foldl houseStep (0#8, 0#8, 0#8, 0#8))).trans ?_)
  rw [rem, BitVec.xor_self]

theorem houseEncode_length {d : List Byte} (h : d.length = 32) : (houseEncode d).length = 36 := by
  simp [houseEncode, houseCheck, h]

end Sys2Proof.Machine
end

section
/-!
SUPPORT. The search of the decoder (R433): the syndromes of one byte in error are those of no other byte, and the syndromes of two bytes
in error are those of no one byte and of no other pair.
-/
namespace Sys2Proof.Machine

/-! ### Which bytes given syndromes name -/

section
variable {R : Type} [Lean.Grind.CommRing R] {x y e f : R} (domain : ∀ a b : R, a * b = 0 → a = 0 ∨ b = 0)
include domain

/-- Two bytes in error, at the locators x and y, do not look like one at z. -/
theorem no_single_of_pair {z : R} (hxy : x ≠ y) (he : e ≠ 0) (hf : f ≠ 0) (h1 : e * x + f * y = (e + f) * z)
    (h2 : e * (x * x) + f * (y * y) = (e * x + f * y) * z) : False := by
  have hx : e * ((x - z) * (x - y)) = 0 := by grind
  have hy : f * ((y - z) * (y - x)) = 0 := by grind
  have zx : (x - z) * (x - y) = 0 := (domain _ _ hx).resolve_left he
  have zy : (y - z) * (y - x) = 0 := (domain _ _ hy).resolve_left hf
  have := domain _ _ zx
  have := domain _ _ zy
  grind

/-- Two pairs of bytes in error with equal syndromes: the first pair's locators are among the second's. -/
theorem pair_locator_mem {X Y E F : R} (hxy : x ≠ y) (he : e ≠ 0) (h0 : e + f = E + F) (h1 : e * x + f * y = E * X + F * Y)
    (h2 : e * (x * x) + f * (y * y) = E * (X * X) + F * (Y * Y))
    (h3 : e * (x * x * x) + f * (y * y * y) = E * (X * X * X) + F * (Y * Y * Y)) : x = X ∨ x = Y := by
  have h : e * ((x - y) * ((x - X) * (x - Y))) = 0 := by
    grind
  have := (domain _ _ h).resolve_left he
  have := domain _ _ this
  have := domain (x - X) (x - Y)
  grind

end

/-! ### One byte -/

theorem houseOne_none {s0 s1 s2 s3 : Byte} {i n : Nat}
    (h : ∀ k, i ≤ k → k < i + n → ¬(s1 = gfMul s0 (gfPow (35 - k)) ∧ s2 = gfMul s1 (gfPow (35 - k)))) :
    houseOne s0 s1 s2 s3 i n = none := by
  induction n generalizing i with
  | zero => rfl
  | succ n ih =>
    rw [houseOne, if_neg fun ⟨h1, h2, _⟩ => h i (Nat.le_refl _) (by omega) ⟨h1, h2⟩]
    exact ih fun k hk hn => h k (by omega) (by omega)

theorem houseOne_some {s0 s1 s2 s3 : Byte} {i n p : Nat} (hp : i ≤ p ∧ p < i + n)
    (here : s1 = gfMul s0 (gfPow (35 - p)) ∧ s2 = gfMul s1 (gfPow (35 - p)) ∧ s3 = gfMul s2 (gfPow (35 - p)))
    (first : ∀ k, i ≤ k → k < p → s1 ≠ gfMul s0 (gfPow (35 - k))) : houseOne s0 s1 s2 s3 i n = some (p, s0) := by
  induction n generalizing i with
  | zero => omega
  | succ n ih =>
    rw [houseOne]
    by_cases e : i = p
    · subst e
      exact if_pos here
    · rw [if_neg fun ⟨h1, _⟩ => first i (Nat.le_refl _) (by omega) h1]
      exact ih (by omega) fun k hk => first k (by omega)

/-! ### Two bytes -/

theorem mem_housePairs {i j : Nat} : (i, j) ∈ housePairs ↔ i < j ∧ j < 36 := by
  simp only [housePairs, List.mem_flatMap, List.mem_map, List.mem_filter, List.mem_range, Prod.mk.injEq, decide_eq_true_eq]
  constructor
  · rintro ⟨i, _, j, ⟨hj, hij⟩, rfl, rfl⟩
    exact ⟨hij, hj⟩
  · rintro ⟨hij, hj⟩
    exact ⟨i, by omega, j, ⟨hj, hij⟩, rfl, rfl⟩

/-- The search finds the one pair that has a correction. -/
theorem findSome_unique {α β : Type} {g : α → Option β} {l : List α} {a : α} {b : β} (ha : a ∈ l) (hb : g a = some b)
    (only : ∀ x, x ∈ l → x ≠ a → g x = none) : l.findSome? g = some b := by
  induction l with
  | nil => cases ha
  | cons x l ih =>
    by_cases e : x = a
    · rw [List.findSome?_cons, e, hb]
    · rw [List.findSome?_cons, only x (List.mem_cons_self ..) e]
      exact ih ((List.mem_cons.mp ha).resolve_left fun h => e h.symm) fun y hy => only y (List.mem_cons_of_mem _ hy)

/-- Syndromes 0 to 3 of two bytes in error. -/
structure PairSyn (s0 s1 s2 s3 x y e f : Byte) : Prop where
  syn0 : s0 = e ^^^ f
  syn1 : s1 = gfMul e x ^^^ gfMul f y
  syn2 : s2 = gfMul e (gfMul x x) ^^^ gfMul f (gfMul y y)
  syn3 : s3 = gfMul e (gfMul (gfMul x x) x) ^^^ gfMul f (gfMul (gfMul y y) y)

theorem xor_ne_zero {x y : Byte} (h : x ≠ y) : x ^^^ y ≠ 0#8 := fun e => h (BitVec.xor_eq_zero_iff.mp e)

/-- The second of two errors at different places, from syndromes 0 and 1. -/
theorem second_error_iff {s0 s1 x y f : Byte} (h : x ≠ y) :
    f = gfMul (gfMul s0 x ^^^ s1) (gfInv (x ^^^ y)) ↔ s1 = gfMul (s0 ^^^ f) x ^^^ gfMul f y := by
  have inv := gfMul_gfInv _ (xor_ne_zero h)
  let _ := GF.commRing
  have key (s0 s1 x y f v : GF) (hv : (x + y) * v = 1) (h2 : s0 * x + s0 * x = 0) :
      f = (s0 * x + s1) * v ↔ s1 = (s0 + f) * x + f * y := by
    constructor <;> intro h <;> grind
  exact key s0 s1 x y f (gfInv (x ^^^ y)) inv BitVec.xor_self

/-- The corrections that bytes `i` and `j` have are those with the syndromes. -/
theorem housePair_eq_some {s0 s1 s2 s3 e f : Byte} {i j : Nat} (hx : gfPow (35 - i) ≠ gfPow (35 - j)) :
    housePair s0 s1 s2 s3 i j = some (e, f) ↔ PairSyn s0 s1 s2 s3 (gfPow (35 - i)) (gfPow (35 - j)) e f := by
  have first (f : Byte) : s0 = e ^^^ f ↔ e = s0 ^^^ f := by
    constructor <;> rintro rfl <;> rw [BitVec.xor_assoc, BitVec.xor_self, BitVec.xor_zero]
  unfold housePair
  simp only [Option.ite_none_right_eq_some, Option.some.injEq, Prod.mk.injEq]
  constructor
  · rintro ⟨⟨k2, k3⟩, he, hf⟩
    rw [hf] at he k2 k3
    rw [he] at k2 k3
    exact ⟨(first f).mpr he.symm, he ▸ (second_error_iff hx).mp hf.symm, k2.symm, k3.symm⟩
  · rintro ⟨h0, h1, h2, h3⟩
    have he := (first f).mp h0
    have hf := (second_error_iff (s0 := s0) hx).mpr (he ▸ h1)
    rw [← hf, ← he]
    exact ⟨⟨h2.symm, h3.symm⟩, rfl, rfl⟩

end Sys2Proof.Machine
end

section
/-!
SUPPORT. What the decoder does with a codeword with no byte, one byte and two bytes in error (R433).
-/
namespace Sys2Proof.Machine

theorem gfMul_right_cancel {e x y : Byte} (he : e ≠ 0#8) (h : gfMul e x = gfMul e y) : x = y := by
  let _ := GF.commRing
  have key (e x y : GF) (he : e ≠ 0) (h : e * x = e * y) : x = y := by
    have z : e * (x - y) = 0 := by grind
    have := (GF.eq_zero_of_mul _ _ z).resolve_left he
    grind
  exact key e x y he h

theorem locator_ne {i j : Nat} (hi : i < 36) (hj : j < 36) (h : i ≠ j) : gfPow (35 - i) ≠ gfPow (35 - j) := fun e =>
  h (by have := gfPow_inj (35 - i) (by omega) (35 - j) (by omega) e; omega)

theorem gfPow_two_mul (k : Nat) : gfPow (2 * k) = gfMul (gfPow k) (gfPow k) := by rw [← gfPow_add, Nat.two_mul]

theorem gfPow_three_mul (k : Nat) : gfPow (3 * k) = gfMul (gfMul (gfPow k) (gfPow k)) (gfPow k) := by
  rw [← gfPow_add, ← gfPow_add]
  congr 1
  omega

theorem houseDecode_codeword {cw : List Byte} (hcw : ∀ j, j < 4 → houseSyn cw j = 0#8) : houseDecode cw = .clean := by
  unfold houseDecode
  exact if_pos ⟨hcw 0 (by omega), hcw 1 (by omega), hcw 2 (by omega), hcw 3 (by omega)⟩

section
variable {cw : List Byte} {i j : Nat} {e f : Byte} (hlen : cw.length = 36) (hcw : ∀ j, j < 4 → houseSyn cw j = 0#8)
include hlen hcw

theorem houseSyn_one (hi : i < 36) {k : Nat} (hk : k < 4) : houseSyn (xorAt cw i e) k = gfMul e (gfPow (k * (35 - i))) := by
  rw [houseSyn_xorAt _ _ (by omega), hcw k hk, hlen, BitVec.zero_xor]

theorem houseSyn_two (hi : i < 36) (hj : j < 36) {k : Nat} (hk : k < 4) : houseSyn (xorAt (xorAt cw i e) j f) k =
    gfMul e (gfPow (k * (35 - i))) ^^^ gfMul f (gfPow (k * (35 - j))) := by
  rw [houseSyn_xorAt _ _ (by rw [xorAt_length]; omega), houseSyn_one hlen hcw hi hk, xorAt_length, hlen]

/-- One byte in error is restored. -/
theorem houseDecode_one (hi : i < 36) (he : e ≠ 0#8) : houseDecode (xorAt cw i e) = .corrected cw := by
  have syn {k : Nat} (hk : k < 4) := houseSyn_one (e := e) hlen hcw hi hk
  have next (k : Nat) : gfMul e (gfPow ((k + 1) * (35 - i))) = gfMul (gfMul e (gfPow (k * (35 - i)))) (gfPow (35 - i)) := by
    rw [gfMul_assoc, ← gfPow_add, Nat.succ_mul]
  have e0 : gfMul e (gfPow (0 * (35 - i))) = e := by
    rw [Nat.zero_mul]
    exact (gfMul_comm ..).trans (gfMul_one_left e)
  have found := houseOne_some (s0 := gfMul e (gfPow (0 * (35 - i)))) (n := 36) ⟨Nat.zero_le i, by omega⟩
    ⟨next 0, next 1, next 2⟩ fun k _ hk h => by
      rw [next 0, e0] at h
      exact locator_ne hi (by omega) (by omega) (gfMul_right_cancel he h)
  unfold houseDecode
  simp only [syn (show 0 < 4 by omega), syn (show 1 < 4 by omega), syn (show 2 < 4 by omega), syn (show 3 < 4 by omega)]
  rw [if_neg fun ⟨h, _⟩ => he (e0.symm.trans h), found]
  simp only [e0, xorAt_xorAt]

end

section
variable {s0 s1 s2 s3 x y e f : Byte} (h : PairSyn s0 s1 s2 s3 x y e f) (hxy : x ≠ y) (he : e ≠ 0#8) (hf : f ≠ 0#8)
include h hxy he hf

theorem PairSyn.not_single {z : Byte} : ¬(s1 = gfMul s0 z ∧ s2 = gfMul s1 z) := by
  rintro ⟨h1, h2⟩
  obtain ⟨k0, k1, k2, -⟩ := h
  rw [k0, k1] at h1
  rw [k1, k2] at h2
  let _ := GF.commRing
  exact no_single_of_pair (R := GF) GF.eq_zero_of_mul hxy he hf h1 h2

theorem PairSyn.not_clean : ¬(s0 = 0 ∧ s1 = 0 ∧ s2 = 0 ∧ s3 = 0) := fun ⟨h0, h1, h2, _⟩ =>
  h.not_single hxy he hf (z := 0#8) (by rw [h0, h1, h2]; exact ⟨(gfMul_zero_left _).symm, (gfMul_zero_left _).symm⟩)

theorem PairSyn.locators {X Y E F : Byte} (k : PairSyn s0 s1 s2 s3 X Y E F) : (x = X ∨ x = Y) ∧ (y = X ∨ y = Y) := by
  obtain ⟨h0, h1, h2, h3⟩ := h
  obtain ⟨k0, k1, k2, k3⟩ := k
  rw [h0] at k0; rw [h1] at k1; rw [h2] at k2; rw [h3] at k3
  let _ := GF.commRing
  exact ⟨pair_locator_mem (R := GF) GF.eq_zero_of_mul hxy he k0 k1 k2 k3,
    pair_locator_mem (R := GF) GF.eq_zero_of_mul hxy.symm hf ((BitVec.xor_comm ..).trans k0) ((BitVec.xor_comm ..).trans k1)
      ((BitVec.xor_comm ..).trans k2) ((BitVec.xor_comm ..).trans k3)⟩

end

/-- Two bytes in error are restored. -/
theorem houseDecode_two {cw : List Byte} {i j : Nat} {e f : Byte} (hlen : cw.length = 36)
    (hcw : ∀ j, j < 4 → houseSyn cw j = 0#8) (hij : i < j) (hj : j < 36) (he : e ≠ 0#8) (hf : f ≠ 0#8) :
    houseDecode (xorAt (xorAt cw i e) j f) = .corrected cw := by
  have hx := locator_ne (by omega) hj (Nat.ne_of_lt hij)
  have syn {k : Nat} (hk : k < 4) := houseSyn_two (i := i) (e := e) (f := f) hlen hcw (by omega) hj hk
  unfold houseDecode
  generalize h0 : houseSyn (xorAt (xorAt cw i e) j f) 0 = s0
  generalize h1 : houseSyn (xorAt (xorAt cw i e) j f) 1 = s1
  generalize h2 : houseSyn (xorAt (xorAt cw i e) j f) 2 = s2
  generalize h3 : houseSyn (xorAt (xorAt cw i e) j f) 3 = s3
  have pair : PairSyn s0 s1 s2 s3 (gfPow (35 - i)) (gfPow (35 - j)) e f := by
    refine ⟨?_, ?_, ?_, ?_⟩
    · rw [← h0, syn (by omega), Nat.zero_mul, Nat.zero_mul, gfMul_comm e, gfMul_comm f]
      exact congr (congrArg _ (gfMul_one_left e).symm) (gfMul_one_left f).symm |>.symm
    · rw [← h1, syn (by omega), Nat.one_mul, Nat.one_mul]
    · rw [← h2, syn (by omega), gfPow_two_mul, gfPow_two_mul]
    · rw [← h3, syn (by omega), gfPow_three_mul, gfPow_three_mul]
  have search : (housePairs.findSome? fun p => (housePair s0 s1 s2 s3 p.1 p.2).map fun e => (p, e)) = some ((i, j), (e, f)) := by
    refine findSome_unique (mem_housePairs.mpr ⟨hij, hj⟩) ?_ fun ⟨a, b⟩ hab hne => ?_
    · rw [(housePair_eq_some hx).mpr pair]
      rfl
    · obtain ⟨ha, hb⟩ := mem_housePairs.mp hab
      rw [Option.map_eq_none_iff]
      refine Option.eq_none_iff_forall_ne_some.mpr fun ⟨E, F⟩ hc => hne ?_
      obtain ⟨hi', hj'⟩ := pair.locators hx he hf ((housePair_eq_some (locator_ne (by omega) hb (Nat.ne_of_lt ha))).mp hc)
      have at_ {m n : Nat} (hm : m < 36) (hn : n < 36) (h : gfPow (35 - m) = gfPow (35 - n)) : m = n :=
        Classical.not_not.mp fun k => locator_ne hm hn k h
      rcases hi' with h | h <;> have := at_ (by omega) (by omega) h <;> rcases hj' with h | h <;>
        have := at_ (by omega) (by omega) h <;> simp only [Prod.mk.injEq] <;> omega
  rw [if_neg (pair.not_clean hx he hf), houseOne_none fun k _ _ => pair.not_single hx he hf]
  dsimp only
  rw [search]
  dsimp only
  rw [xorAt_comm _ (Nat.ne_of_gt hij), xorAt_xorAt, xorAt_xorAt]

end Sys2Proof.Machine
end

section
open Sys2Proof Sys2Proof.Machine

/-- Settles O60. A codeword is a multiple of the generator, so the syndromes are those of the errors alone; and one or two errors are
determined by four syndromes, as the locators of the 36 bytes differ. -/
theorem houseCodeCorrects : Obligations.HouseCodeCorrects := by
  intro d hd
  have hlen := houseEncode_length hd
  have hcw (j : Nat) (hj : j < 4) := houseSyn_houseEncode d hj
  exact ⟨houseDecode_codeword hcw, fun i e hi he => houseDecode_one hlen hcw hi he,
    fun i j e f hij hj he hf => houseDecode_two hlen hcw hij hj he hf⟩

end

section
/-!
SUPPORT. The lane operations of VOP against R122's table, lists of rows as lanes and lanes as rows (R98), and the instructions of the
VECTOR slot that read or write whole registers.
-/
namespace Sys2Proof.Machine

variable {s : State}

/-! ### Lanes -/

section
variable {A B C : List Lane} (hA : A.length = 64) (hB : B.length = 64)
include hA hB

theorem map2_length (f : Lane → Lane → Lane) : (map2 f A B).length = 64 := by simp [map2, hA, hB]

theorem map2_getElem? (f : Lane → Lane → Lane) {i : Nat} (hi : i < 64) :
    (map2 f A B)[i]? = some (f (A[i]'(by omega)) (B[i]'(by omega))) := by
  simp [map2, hA, hB, hi]

/-- VOP computes every lane as R122's table says. -/
theorem vopLanes_getElem? (hC : C.length = 64) {fn : Nat} (imm : Lane) (h : (vopLane fn 0 0 0 0).isSome) :
    ∃ l, vopLanes fn imm A B C = some l ∧ l.length = 64 ∧
      ∀ i (hi : i < 64), l[i]? = vopLane fn imm (A[i]'(by omega)) (B[i]'(by omega)) (C[i]'(by omega)) := by
  have two (f : Lane → Lane → Lane) : (map2 f A B).length = 64 ∧
      ∀ i (hi : i < 64), (map2 f A B)[i]? = some (f (A[i]'(by omega)) (B[i]'(by omega))) :=
    ⟨map2_length hA hB f, fun i hi => map2_getElem? hA hB f hi⟩
  unfold vopLane at h
  split at h
  case h_4 | h_9 => exact ⟨_, rfl, by simp [hA, hB, hC], fun i hi => by simp [hA, hB, hC, hi, vopLane]⟩
  case h_17 => exact ⟨_, rfl, List.length_replicate, fun i hi => by rw [List.getElem?_replicate, if_pos hi]; rfl⟩
  case h_18 | h_19 => exact ⟨_, rfl, by simp [hA], fun i hi => by simp [hA, hi, vopLane]⟩
  case h_20 => cases h
  all_goals exact ⟨_, rfl, two _⟩

end

theorem vopLat_eq (fn : Nat) : vopLat fn = if fn ∈ [0x00, 0x01, 0x02, 0x03, 0x20, 0x21] then 4 else 2 := by
  unfold vopLat
  congr 1
  simp only [List.mem_cons, List.not_mem_nil, or_false, eq_iff_iff]
  omega

theorem sfuLat_eq (fn : Nat) : sfuLat fn = if fn = 0 then 7 else if fn < 4 then 11 else 19 := by
  unfold sfuLat
  split
  · rfl
  · split <;> split <;> omega

/-! ### Rows and lanes -/

/-- Pieces of one length, joined: element `j` of piece `i`. -/
theorem getElem?_flatMap_of_length {α β : Type} {f : α → List β} {k : Nat} (h : ∀ a, (f a).length = k) (l : List α) (i : Nat)
    {j : Nat} (hj : j < k) : (l.flatMap f)[k * i + j]? = l[i]?.bind fun a => (f a)[j]? := by
  induction l generalizing i with
  | nil => rfl
  | cons a l ih =>
    rw [List.flatMap_cons, List.getElem?_append]
    cases i with
    | zero => simp [h, hj]
    | succ i =>
      rw [if_neg (by rw [h, Nat.mul_succ]; omega), h, show k * (i + 1) + j - k = k * i + j by rw [Nat.mul_succ]; omega, ih]
      rfl

theorem rowLanes_length (r : Row) : (rowLanes r).length = 8 := by simp [rowLanes]

theorem ofNat_bitsAt (w x lo : Nat) : BitVec.ofNat w (bitsAt x lo w) = BitVec.ofNat w (x / 2 ^ lo) :=
  BitVec.eq_of_toNat_eq (by simp [bitsAt])

theorem rowLanes_getElem? (r : Row) {j : Nat} (hj : j < 8) : (rowLanes r)[j]? = some (BitVec.ofNat 32 (r.toNat / 2 ^ (32 * j))) := by
  simp [rowLanes, hj, ofNat_bitsAt]

/-- Fields of one width, packed, lie in as many bits (R7). -/
theorem pack_lt {α : Type} (w : Nat) (f : α → Nat) (l : List α) : pack (l.map fun a => (w, f a)) < 2 ^ (w * l.length) := by
  induction l with
  | nil => simp [pack]
  | cons a l ih =>
    have hv := Nat.mod_lt (f a) (Nat.two_pow_pos w)
    have hs : 2 ^ w * pack (l.map fun a => (w, f a)) + 2 ^ w ≤ 2 ^ w * 2 ^ (w * l.length) := by
      rw [← Nat.mul_succ]
      exact Nat.mul_le_mul_left _ ih
    rw [List.map_cons, pack, List.length_cons, Nat.mul_succ, Nat.add_comm (w * l.length), Nat.pow_add]
    omega

/-- Field `j` of a packed list of fields of one width (R7). -/
theorem bitsAt_pack {α : Type} (w : Nat) (f : α → Nat) (l : List α) {j : Nat} (hj : j < l.length) :
    bitsAt (pack (l.map fun a => (w, f a))) (w * j) w = f l[j] % 2 ^ w := by
  induction l generalizing j with
  | nil => cases hj
  | cons a l ih =>
    rw [List.map_cons, pack]
    cases j with
    | zero => simp [bitsAt, Nat.add_mul_mod_self_left]
    | succ j =>
      have next := ih (j := j) (Nat.lt_of_succ_lt_succ hj)
      unfold bitsAt at next ⊢
      rw [Nat.mul_succ, Nat.add_comm (w * j), Nat.pow_add, ← Nat.div_div_eq_div_mul, Nat.add_mul_div_left _ _ (Nat.two_pow_pos w),
        Nat.div_eq_of_lt (Nat.mod_lt _ (Nat.two_pow_pos w)), Nat.zero_add, next]
      rfl

/-- Lane `j` of a row of at most 8 lanes. -/
theorem lanesRow_lane {l : List Lane} (hl : l.length ≤ 8) {j : Nat} (hj : j < l.length) :
    BitVec.ofNat 32 ((lanesRow l).toNat / 2 ^ (32 * j)) = l[j] := by
  have fits : pack (l.map fun x => (32, x.toNat)) < 2 ^ 256 :=
    Nat.lt_of_lt_of_le (pack_lt 32 BitVec.toNat l) (Nat.pow_le_pow_right (by decide) (by omega))
  rw [lanesRow, BitVec.toNat_ofNat, Nat.mod_eq_of_lt fits, ← ofNat_bitsAt, bitsAt_pack 32 BitVec.toNat l hj,
    Nat.mod_eq_of_lt l[j].isLt, BitVec.ofNat_toNat, BitVec.setWidth_eq]

/-! ### Instructions -/

/-- Scheduled writes, one after another, join the queue in their order (R80). -/
theorem Nib.foldl_schedWrite {α : Type} (n : Nib) (due : Nat) (row : α → Nat) (d : α → Row) (fl : α → Nat) (flit : Bool)
    (l : List α) : l.foldl (fun n a => n.schedWrite due (row a) (d a) (fl a) flit) n =
      { n with wq := n.wq ++ l.map fun a => { due := due, row := row a % 65536, data := d a, fl := fl a, flit := flit } } := by
  induction l generalizing n with
  | nil => simp
  | cons a l ih => rw [List.foldl_cons, ih, Nib.schedWrite, List.map_cons, List.append_assoc]; rfl

/-- VOP puts its lanes on their way (R122, R153). -/
theorem exec_vop {p w : Nat} {l : List Lane} (h : s.Ready p 1 w) (hop : slotOp w = 0x03)
    (hl : vopLanes (fld w 37 32) (BitVec.ofNat 32 (fld w 31 0)) ((s.nib p).vreg (fld w 52 48)) ((s.nib p).vreg (fld w 47 43))
      ((s.nib p).vreg (fld w 42 38)) = some l) :
    ∃ fl, exec (.vop p) s = .next ((s.setNib p ((s.nib p).setIssued 1)).setNib p
      (((s.nib p).setIssued 1).vresult (s.acyc + vopLat (fld w 37 32)) (fld w 57 53) l fl)) := by
  have hsel : byOp 3 w = true := by simp [byOp, hop]
  show ∃ fl, execVop p s = _
  simp only [execVop, State.issue_ready h hsel, State.updNib_eq, State.setNib_nib, if_true, Nib.vreg_setIssued, hl,
    State.setNib_acyc]
  exact ⟨_, rfl⟩

/-- VCVT puts its lanes on their way (R119, R153). -/
theorem exec_vcvt {p w : Nat} {f : SFmt} (h : s.Ready p 1 w) (hop : slotOp w = 0x04) (hf : SFmt.ofCode (fld w 47 44) = some f) :
    ∃ fl, exec (.vcvt p) s = .next ((s.setNib p ((s.nib p).setIssued 1)).setNib p (((s.nib p).setIssued 1).vresult (s.acyc + 3)
      (fld w 57 53) (((s.nib p).vreg (fld w 52 48)).map fun x => BitVec.ofNat 32 (convert f (fSrc x)).1) fl)) := by
  have hsel : byOp 4 w = true := by simp [byOp, hop]
  show ∃ fl, execVcvt p s = _
  simp only [execVcvt, State.issue_ready h hsel, State.updNib_eq, State.setNib_nib, if_true, Nib.vreg_setIssued, hf,
    State.setNib_acyc, List.map_map]
  exact ⟨_, rfl⟩

/-- VSFU puts its lanes on their way (R121, R153). -/
theorem exec_vsfu {p w : Nat} {f : Lane → Lane} (h : s.Ready p 1 w) (hop : slotOp w = 0x07) (hf : sfuFn (fld w 47 45) = some f) :
    ∃ fl, exec (.vsfu p) s = .next ((s.setNib p ((s.nib p).setIssued 1)).setNib p (((s.nib p).setIssued 1).vresult
      (s.acyc + sfuLat (fld w 47 45)) (fld w 57 53) (((s.nib p).vreg (fld w 52 48)).map f) fl)) := by
  have hsel : byOp 7 w = true := by simp [byOp, hop]
  show ∃ fl, execVsfu p s = _
  simp only [execVsfu, State.issue_ready h hsel, State.updNib_eq, State.setNib_nib, if_true, Nib.vreg_setIssued, hf,
    State.setNib_acyc]
  exact ⟨_, rfl⟩

/-- VLOAD puts eight rows, as they stand, on their way (R98, R121, R153). -/
theorem exec_vload {p w : Nat} (h : s.Ready p 1 w) (hop : slotOp w = 0x01) (hu : (s.nib p).padUpset = []) :
    let n := s.nib p
    let a := n.ra (fld w 52 21)
    ∃ fl, exec (.vload p) s = .next ((s.setNib p (n.setIssued 1)).setNib p ((n.setIssued 1).vresult (s.acyc + 4) (fld w 57 53)
      (((List.range 8).map fun i => mget 0 n.pad ((n.hrow a.handle a.index + i) % 65536)).flatMap rowLanes) fl)) := by
  have hsel : byOp 1 w = true := by simp [byOp, hop]
  have hu' : ((s.nib p).setIssued 1).padUpset = [] := hu
  dsimp only
  show ∃ fl, execVload p s = _
  simp only [execVload, State.issue_ready h hsel, State.updNib_eq, State.setNib_nib, if_true, Nib.ra_setIssued,
    Nib.hrow_setIssued, Nib.padReads_clean hu', State.setNib_acyc]
  exact ⟨_, rfl⟩

/-- The writes VSTORE queues in A-cycle `now`: eight rows from the row its word names on (R80, R98, R121). -/
def Nib.vstoreWrites (n : Nib) (now w : Nat) : List PendWrite :=
  let a := n.ra (fld w 52 21)
  (List.range 8).map fun i => {
    due := now + 2, row := (n.hrow a.handle a.index + i) % 65536
    data := lanesRow (((n.vreg (fld w 57 53)).drop (8 * i)).take 8), fl := flagsOf (n.vflag (fld w 57 53)) (8 * i) 8 }

theorem Nib.vstoreWrites_getElem? (n : Nib) (now w : Nat) {i : Nat} (hi : i < 8) :
    let a := n.ra (fld w 52 21)
    ∃ x, (n.vstoreWrites now w)[i]? = some x ∧ x.due = now + 2 ∧ x.row = (n.hrow a.handle a.index + i) % 65536 ∧
      ∀ j, j < 8 → (n.vreg (fld w 57 53))[8 * i + j]? = some (BitVec.ofNat 32 (x.data.toNat / 2 ^ (32 * j))) := by
  intro a
  have hv : (n.vreg (fld w 57 53)).length = 64 := n.vreg_length _
  have hl : (((n.vreg (fld w 57 53)).drop (8 * i)).take 8).length = 8 := by
    rw [List.length_take, List.length_drop, hv]; omega
  rw [Nib.vstoreWrites, List.getElem?_map, List.getElem?_range hi]
  refine ⟨_, rfl, rfl, rfl, fun j hj => ?_⟩
  rw [lanesRow_lane (Nat.le_of_eq hl) (by omega), List.getElem?_eq_getElem (by omega), List.getElem_take, List.getElem_drop]

/-- VSTORE queues its eight rows. -/
theorem exec_vstore {p w : Nat} (h : s.Ready p 1 w) (hop : slotOp w = 0x02) :
    exec (.vstore p) s = .next ((s.setNib p ((s.nib p).setIssued 1)).setNib p { (s.nib p).setIssued 1 with
      wq := (s.nib p).wq ++ (s.nib p).vstoreWrites s.acyc w }) := by
  have hsel : byOp 2 w = true := by simp [byOp, hop]
  show execVstore p s = _
  simp only [execVstore, State.issue_ready h hsel, State.updNib_eq, State.setNib_nib, if_true, Nib.ra_setIssued,
    Nib.hrow_setIssued, Nib.vreg_setIssued, Nib.vflag_setIssued, State.setNib_acyc, Nib.foldl_schedWrite]
  rfl

end Sys2Proof.Machine
end

section
open Sys2Proof Sys2Proof.Machine

/-- Settles O2. Each function code's lanes are those of R122's table, and the result lands as a whole register. -/
theorem vopLanes : Obligations.VopLanes := by
  intro s p w h hop hfn lat
  have hlen (v : Nat) := (s.nib p).vreg_length v
  obtain ⟨l, hl, hl64, lanes⟩ := vopLanes_getElem? (hlen (fld w 52 48)) (hlen (fld w 47 43)) (hlen (fld w 42 38))
    (BitVec.ofNat 32 (fld w 31 0)) hfn
  obtain ⟨fl, he⟩ := exec_vop h hop hl
  rw [vopLat_eq] at he
  exact ⟨_, l, he, State.resultIn_vresult _ _ _ hl64 fl, fun i hi => ⟨_, _, _, List.getElem?_eq_getElem _,
    List.getElem?_eq_getElem _, List.getElem?_eq_getElem _, lanes i hi⟩⟩

/-- Settles O3. Both map the lanes of VA into a whole register. -/
theorem vectorUnary : Obligations.VectorUnary := by
  intro s p w h va vd
  have hlen : va.length = 64 := (s.nib p).vreg_length _
  refine ⟨fun f hop hf => ?_, fun f hop hf => ?_⟩
  · obtain ⟨fl, he⟩ := exec_vcvt h hop hf
    exact ⟨_, he, State.resultIn_vresult _ _ _ (by rw [List.length_map, hlen]) fl⟩
  · obtain ⟨fl, he⟩ := exec_vsfu h hop hf
    rw [sfuLat_eq] at he
    exact ⟨_, he, State.resultIn_vresult _ _ _ (by rw [List.length_map, hlen]) fl⟩

/-- Settles O5. The eight rows are eight lanes each, one way and the other. -/
theorem vectorMemory : Obligations.VectorMemory := by
  intro s p w h hu n a row
  refine ⟨fun hop => ?_, fun hop => ?_⟩
  · obtain ⟨fl, he⟩ := exec_vload h hop hu
    refine ⟨_, _, he, State.resultIn_vresult _ _ _ ?_ fl, fun i j hi hj => ?_⟩
    · simp only [List.length_flatMap, List.map_map, Function.comp_def, rowLanes_length]
      rfl
    · rw [getElem?_flatMap_of_length rowLanes_length _ _ hj]
      simpa [hi] using rowLanes_getElem? _ hj
  · refine ⟨_, exec_vstore h hop, State.setNib_setNib_onlyNib .., ?_, n.vstoreWrites s.acyc w, ?_, rfl,
      fun i hi => n.vstoreWrites_getElem? s.acyc w hi⟩
    · rw [State.setNib_nib, if_pos rfl]
      rfl
    · rw [State.setNib_nib, if_pos rfl]

end

section
/-!
SUPPORT. What a nib holds once it has faulted, and once its bed has stopped (R103, R104, R154).
-/
namespace Sys2Proof.Machine

variable {s : State}

/-- A list read below its length; the library of the package has no such lemma. -/
theorem getD_of_lt {α : Type} {l : List α} {i : Nat} (h : i < l.length) (d : α) : l.getD i d = l[i] := by
  rw [List.getD_eq_getElem?_getD, List.getElem?_eq_getElem h, Option.getD_some]

/-- The nib once its bed has stopped: a running nib shows BED_FAULT (R104). -/
def Nib.stopped (n : Nib) : Nib :=
  if n.st = .running then
    { n with st := .faulted, faultCode := 0x4F, hold := .none, acts := n.acts.filter Act.scrubs, wq := [] }
  else n

theorem Nib.stopped_stopped (n : Nib) : n.stopped.stopped = n.stopped := by
  unfold Nib.stopped
  by_cases h : n.st = .running
  · simp [h]
  · simp [h]

/-- One change of the nibs of a list, which a nib listed twice takes once. -/
theorem State.foldl_updNib_nib {f : Nib → Nib} (idem : ∀ n, f (f n) = f n) (l : List Nat) (q : Nat) :
    (l.foldl (fun t p => t.updNib p f) s).nib q = if q ∈ l then f (s.nib q) else s.nib q := by
  induction l generalizing s with
  | nil => simp
  | cons p l ih =>
    rw [List.foldl_cons, ih, State.updNib_eq, State.setNib_nib]
    by_cases e : q = p
    · subst e
      simp [idem]
    · simp [e]

/-- The stop of a bed stops its nibs, and no other (R104). -/
theorem State.stopNibs_nib (b q : Nat) : (s.stopNibs b).nib q = if q ∈ s.bedNibs b then (s.nib q).stopped else s.nib q :=
  State.foldl_updNib_nib Nib.stopped_stopped _ q

/-- The nib once it has faulted (R104, R154). -/
def Nib.faulted (n : Nib) (code unit bundle cycle : Nat) (a : FaultAddr) : Nib := { n with
  st := .faulted, faultCode := code, faultUnit := unit, faultBundle := bundle, faultCycle := cycle, faultAddr := a
  hold := .none, acts := n.acts.filter Act.scrubs, wq := [] }

/-- A fault leaves no trace of the stop of the bed before it. -/
theorem Nib.faulted_stopped (n : Nib) (code unit bundle cycle : Nat) (a : FaultAddr) :
    n.stopped.faulted code unit bundle cycle a = n.faulted code unit bundle cycle a := by
  unfold Nib.stopped
  split
  · simp [Nib.faulted]
  · rfl

theorem State.bedFault_sansPads (b code unit nib bundle p : Nat) (fence : Bool) :
    sansPads (s.bedFault b code unit nib bundle p fence).nibs = sansPads (s.stopNibs b).nibs :=
  sansPads_ite (State.event_sansPads ..) ((State.failStep_sansPads ..).trans (State.event_sansPads ..))

/-- A nib's fault leaves of it what `Nib.faulted` says, but for what its bed's records write to scratchpads (R29, R104, R154). -/
theorem State.nibFault_sansPad {p b : Nat} (h : s.bedOf p = some b) (code unit : Nat) (a : FaultAddr) :
    ((s.nibFault p code unit a).nib p).sansPad =
      ((s.nib p).faulted code unit ((s.nib p).bundleAddr (s.nib p).pc % 8192) (s.stepCycle b) a).sansPad := by
  unfold State.nibFault
  simp only [h, Bool.false_and, Bool.false_eq_true, if_false, State.updNib_eq]
  generalize (s.nib p).bundleAddr (s.nib p).pc % 8192 = bundle
  split
  · rw [State.setNib_nib, if_pos rfl]
    rfl
  · rw [State.setNib_nib, if_pos rfl]
    have bed : ((s.bedFault b code unit (s.logical b p) bundle p).nib p).sansPad = ((s.stopNibs b).nib p).sansPad :=
      congrFun (s.bedFault_sansPads ..) p
    refine Eq.trans (b := (((s.stopNibs b).nib p).faulted code unit bundle (s.stepCycle b) a).sansPad)
      (congrArg (Nib.faulted · code unit bundle (s.stepCycle b) a) bed) (congrArg Nib.sansPad ?_)
    rw [State.stopNibs_nib]
    split
    · exact Nib.faulted_stopped ..
    · rfl

end Sys2Proof.Machine
end

section
/-!
SUPPORT. Laws of SHIFT and of the instructions that clear, shift and read a slot row of the accumulator store (R73, R74, R119).
-/
namespace Sys2Proof.Machine

variable {s : State}

/-! ### Reads, where codewords may be in error -/

/-- What holds of a fold after each step, by the number of steps. -/
theorem foldl_counted {α β : Type} {P : Nat → β → Prop} {f : β → α → β} (step : ∀ k b a, P k b → P (k + 1) (f b a)) {k : Nat} {b : β}
    (h : P k b) (l : List α) : P (k + l.length) (l.foldl f b) := by
  induction l generalizing k b with
  | nil => exact h
  | cons a l ih => rw [List.foldl_cons, List.length_cons, Nat.add_comm l.length, ← Nat.add_assoc]; exact ih (step k b a h)

/-- The read of a slot row counts corrections or notes faults, and gives 16 elements. -/
theorem Nib.accRead_spec (n : Nib) (now lat s r : Nat) : (n.accRead now lat s r).1.length = 16 ∧
    (n.accRead now lat s r).2 =
      { n with errCorr := (n.accRead now lat s r).2.errCorr, acts := (n.accRead now lat s r).2.acts } := by
  unfold Nib.accRead
  split
  · exact ⟨List.length_replicate, rfl⟩
  · refine foldl_counted (P := fun k (x : List Acc × Nib) => x.1.length = 2 * k ∧
      x.2 = { n with errCorr := x.2.errCorr, acts := x.2.acts }) (fun k x j ⟨hl, hn⟩ => ?_) (k := 0) (b := ([], n)) ⟨rfl, rfl⟩ (List.range 8)
    obtain ⟨l, m⟩ := x
    dsimp only at hl hn ⊢
    split
    · exact ⟨by simp [hl]; omega, hn⟩
    · split
      · refine ⟨by simp [hl]; omega, ?_⟩
        dsimp only
        split <;> (rw [hn])
      · refine ⟨by simp [hl]; omega, ?_⟩
        rw [hn]

/-! ### SHIFT -/

/-- A slot row's exponent raised by `d` (R74). -/
def Tag.raised (t : Tag) (r d : Nat) : Tag := { t with rowExp := mset 0 t.rowExp r (mget 0 t.rowExp r + d) }

theorem Tag.raised_rowExp (t : Tag) (r d i : Nat) :
    mget 0 (t.raised r d).rowExp i = mget 0 t.rowExp i + if i = r then (d : Int) else 0 := by
  rw [Tag.raised, mget_mset]
  split <;> simp [*]

section
variable {m : Nib} {slot r d : Nat} (far : m.shiftTooFar slot r d = false) (now : Nat)
include far

/-- A SHIFT of a ZERO slot raises the exponent alone. -/
theorem Nib.accShift_zero (hz : (m.tag slot).zero = true) :
    (m.accShift now slot r d).1 = m.updTag slot fun _ => (m.tag slot).raised r d := by
  unfold Nib.accShift
  simp only [far, hz, Bool.false_eq_true, if_false, if_true]
  rfl

/-- A SHIFT of another slot raises the exponent and writes the row's 16 elements and flags. -/
theorem Nib.accShift_nonzero (hz : (m.tag slot).zero = false) : ∃ ec ac f vs, vs.length = 16 ∧ (m.accShift now slot r d).1 =
    (({ m.updTag slot fun _ => (m.tag slot).raised r d with errCorr := ec, acts := ac } : Nib).accWrite slot r vs).updTag slot
      fun t => t.orFlags r f := by
  obtain ⟨len, frame⟩ := (m.updTag slot fun _ => (m.tag slot).raised r d).accRead_spec now 1 slot r
  unfold Nib.accShift
  simp only [far, hz, Bool.false_eq_true, if_false]
  refine ⟨_, _, _, _, ?_, congrArg (fun m => (Nib.accWrite m slot r _).updTag slot _) frame⟩
  rw [List.length_map, List.length_zip, List.length_map]
  exact (Nat.min_self _).trans len

end

/-- Where a SHIFT lands within range: its row's exponent rises, its elements change, and nothing else of the store does (R74). -/
theorem Nib.landing_shift {m : Nib} {slot r d : Nat} (hs : slot < 64) (now : Nat)
    (h : mget 0 (m.tag slot).rowExp r + (d : Nat) ≤ 511) :
    let m' := (m.landing now (.shift slot r d)).1
    m' = { m with tags := m'.tags, acc := m'.acc, accUpset := m'.accUpset, errCorr := m'.errCorr, acts := m'.acts } ∧
    (∀ i, mget 0 (m'.tag slot).rowExp i = mget 0 (m.tag slot).rowExp i + if i = r then (d : Int) else 0) ∧
    (m'.tag slot).colExp = (m.tag slot).colExp ∧ (m'.tag slot).wconst = (m.tag slot).wconst ∧
    (m'.tag slot).zero = (m.tag slot).zero ∧ (∀ u, u < 64 → u ≠ slot → m'.tag u = m.tag u) ∧
    ∀ k, k < 256 * slot + 16 * r ∨ 256 * slot + 16 * r + 16 ≤ k → mget 0 m'.acc k = mget 0 m.acc k := by
  intro m'
  have far : m.shiftTooFar slot r d = false := decide_eq_false (by omega)
  have hslot : slot % 64 = slot := Nat.mod_eq_of_lt hs
  have exps := (m.tag slot).raised_rowExp r d
  have tag1 (u : Nat) := Nib.tag_updTag m slot u fun _ => (m.tag slot).raised r d
  cases hz : (m.tag slot).zero
  · obtain ⟨ec, ac, f, vs, len, hm⟩ := Nib.accShift_nonzero far now hz
    let m1 : Nib := { m.updTag slot fun _ => (m.tag slot).raised r d with errCorr := ec, acts := ac }
    replace hm : m' = (m1.accWrite slot r vs).updTag slot fun t => t.orFlags r f := hm
    have zero1 : (m1.tag slot).zero = false := (congrArg Tag.zero ((tag1 slot).trans (if_pos rfl))).trans hz
    have tags (u : Nat) : m'.tag u =
        if u % 64 = slot then ({ (m.tag slot).raised r d with zero := false } : Tag).orFlags r f else m.tag u := by
      have tag1 (u : Nat) : m1.tag u = _ := tag1 u
      rw [hm, Nib.tag_updTag, Nib.accWrite_tag, Nib.accWrite_tag, tag1, tag1, hslot]
      split <;> simp
    have own := (tags slot).trans (if_pos hslot)
    refine ⟨?_, fun i => ?_, ?_, ?_, ?_, fun u hu hne => ?_, fun k hk => ?_⟩
    · rw [hm]
      simp only [m1, Nib.updTag, Nib.accWrite]
    · rw [own]
      exact exps i
    · rw [own]; rfl
    · rw [own]; rfl
    · rw [own]; rfl
    · rw [tags, if_neg (by omega)]
    · have out := m1.accWrite_outside slot r vs k (by rw [accKey, hslot]; omega)
      rw [zero1] at out
      rw [hm]
      exact out.trans (if_neg fun h => Bool.false_ne_true h.1)
  · have hm : m' = m.updTag slot fun _ => (m.tag slot).raised r d := Nib.accShift_zero far now hz
    rw [hslot] at tag1
    have own := (tag1 slot).trans (if_pos hslot)
    rw [hm]
    refine ⟨rfl, fun i => ?_, ?_, ?_, ?_, fun u hu hne => ?_, fun k _ => rfl⟩
    · rw [own]; exact exps i
    · rw [own]; rfl
    · rw [own]; rfl
    · rw [own]; exact hz
    · rw [tag1, if_neg (by omega)]

/-! ### READ -/

/-- A write of whole lanes shows in those lanes. -/
theorem Nib.vreg_setLanes_getElem? (n : Nib) (v lo : Nat) {l : List Lane} (fl : Nat × Nat) {i : Nat} (hi : i < 64) :
    ((n.setLanes v lo 32 l fl).vreg v)[i]? = if lo ≤ i ∧ i < lo + l.length then l[i - lo]? else (n.vreg v)[i]? := by
  have hn : (n.vreg v).length = 64 := n.vreg_length v
  have whole : (n.setLanes v lo 32 l fl).vreg v = (n.vreg v).zipIdx.map fun x =>
      if lo ≤ x.2 ∧ x.2 < lo + l.length then
        BitVec.ofNat 32 (x.1.toNat / 2 ^ 32 * 2 ^ 32 + (l.getD (x.2 - lo) 0).toNat % 2 ^ 32) else x.1 := by
    refine (Nib.vreg_setVreg ..).trans ((if_pos rfl).trans (lanes64_of_length ?_))
    rw [List.length_map, List.length_zipIdx, hn]
  rw [whole, List.getElem?_map, List.getElem?_zipIdx, List.getElem?_eq_getElem (by omega), Nat.zero_add]
  simp only [Option.map_some]
  split
  · rw [ofNat_replace_all_bits, List.getElem?_eq_getElem (by omega), getD_of_lt (by omega)]
  · rfl

/-- Where ACC READ's lanes land: a quarter of VD, and no other register (R73, R119). -/
theorem Nib.landing_quarter (m : Nib) (now vd q : Nat) {l : List Lane} (hl : l.length = 16) (fl : Nat × Nat) :
    let m' := (m.landing now (.vreg vd (16 * q) 32 l fl)).1
    m' = { m with vregs := m'.vregs, vfl := m'.vfl } ∧ (∀ v, v ≠ vd → m'.vreg v = m.vreg v ∧ m'.vflag v = m.vflag v) ∧
    ∀ i, i < 64 → (m'.vreg vd)[i]? = if i / 16 = q then l[i % 16]? else (m.vreg vd)[i]? := by
  refine ⟨m.setLanes_frame .., fun v hv => ⟨m.vreg_setLanes_ne hv .., m.vflag_setLanes_ne hv ..⟩, fun i hi => ?_⟩
  refine (m.vreg_setLanes_getElem? vd (16 * q) fl hi).trans ?_
  by_cases e : i / 16 = q
  · rw [if_pos e, if_pos (by omega), show i - 16 * q = i % 16 by omega]
  · rw [if_neg e, if_neg (by omega)]

/-! ### Instructions -/

/-- ACC CLEAR clears its slot in the next A-cycle (R73). -/
theorem exec_accClear {p w : Nat} (h : s.Ready p 0 w) (hop : slotOp w = 0x04) (hsub : fld w 47 45 = 0) :
    exec (.accClear p) s = .next ((s.setNib p ((s.nib p).setIssued 0)).setNib p
      (((s.nib p).setIssued 0).result (s.acyc + 1) (.clear (fld w 57 52)))) := by
  have hsel : byAcc 0 w = true := by simp [byAcc, hop, hsub]
  show execAccClear p s = _
  simp only [execAccClear, State.issue_ready h hsel, State.updNib_eq, State.setNib_nib, if_true, State.setNib_acyc]

/-- Where CLEAR lands: ZERO set, the slot's flags cleared, its window and every other slot kept (R73). -/
theorem Nib.landing_clear (m : Nib) (now : Nat) {slot : Nat} (hs : slot < 64) :
    let m' := (m.landing now (.clear slot)).1
    m' = { m with tags := m'.tags } ∧ m'.tag slot = { m.tag slot with zero := true, inexact := [], saturated := [] } ∧
    ∀ u, u < 64 → u ≠ slot → m'.tag u = m.tag u := by
  have tags (u : Nat) := Nib.tag_updTag m slot u fun t => { t with zero := true, inexact := [], saturated := [] }
  exact ⟨rfl, (tags slot).trans (if_pos rfl), fun u hu hne => (tags u).trans (if_neg (by omega))⟩

/-- ACC SHIFT is done 3 A-cycles later, or faults at once where the exponent would leave its range (R74; log 211). -/
theorem exec_accShift {p w : Nat} (h : s.Ready p 0 w) (hop : slotOp w = 0x04) (hsub : fld w 47 45 = 1) :
    let s' := s.setNib p ((s.nib p).setIssued 0)
    exec (.accShift p) s = .next (if (s.nib p).shiftTooFar (fld w 57 52) (fld w 51 48) (fld w 44 38) then s'.nibFault p 0x4E 2
      else s'.setNib p (((s.nib p).setIssued 0).result (s.acyc + 3) (.shift (fld w 57 52) (fld w 51 48) (fld w 44 38)))) := by
  have hsel : byAcc 1 w = true := by simp [byAcc, hop, hsub]
  show execAccShift p s = _
  simp only [execAccShift, State.issue_ready h hsel, State.updNib_eq, State.setNib_nib, if_true, State.setNib_acyc,
    Nib.shiftTooFar, Nib.tag_setIssued]
  rfl

/-- ACC READ puts its 16 lanes on their way (R119, R153). -/
theorem exec_accRead {p w : Nat} {f : SFmt} (h : s.Ready p 0 w) (hop : slotOp w = 0x04) (hsub : fld w 47 45 = 2)
    (hf : SFmt.ofCode (fld w 37 34) = some f) (hu : (s.nib p).accUpset = []) :
    let n := s.nib p
    let t := n.tag (fld w 57 52)
    let elem (c : Nat) : Acc := if t.zero then 0 else mget 0 n.acc (256 * fld w 57 52 + 16 * fld w 51 48 + c)
    ∃ fl, exec (.accRead p) s = .next ((s.setNib p (n.setIssued 0)).setNib p ((n.setIssued 0).result (s.acyc + 5)
      (.vreg (fld w 33 29) (16 * fld w 28 27) 32
        ((List.range 16).map fun c => BitVec.ofNat 32 (convert f (accSrc (t.window (fld w 51 48) c) (elem c))).1) fl))) := by
  have hsel : byAcc 2 w = true := by simp [byAcc, hop, hsub]
  have hu' : ((s.nib p).setIssued 0).accUpset = [] := hu
  have key : accKey (fld w 57 52) (fld w 51 48) = 256 * fld w 57 52 + 16 * fld w 51 48 := by
    have hs : fld w 57 52 < 64 := fld_lt w 57 52
    rw [accKey, Nat.mod_eq_of_lt hs]
  dsimp only
  show ∃ fl, execAccRead p s = _
  simp only [execAccRead, State.issue_ready h hsel, State.updNib_eq, State.setNib_nib, if_true, State.setNib_acyc, hf,
    Nib.accRead_clean hu', Nib.tag_setIssued, key]
  exact ⟨_, rfl⟩

end Sys2Proof.Machine
end

section
open Sys2Proof Sys2Proof.Machine

/-- Settles O6. CLEAR and SHIFT land in their own slot; a SHIFT out of range faults in the A-cycle of its issue. -/
theorem accumulatorClearShift : Obligations.AccumulatorClearShift := by
  intro s p w h hop n slot r d
  have hs : slot < 64 := fld_lt w 57 52
  refine ⟨fun hsub => ?_, fun hsub inRange => ?_, fun b hsub far hb => ?_⟩
  · refine ⟨_, exec_accClear h hop hsub, State.setNib_setNib_onlyNib .., ?_, fun m now => m.landing_clear now hs⟩
    rw [State.setNib_nib, if_pos rfl]
    rfl
  · have near : n.shiftTooFar slot r d = false := decide_eq_false (by omega)
    refine ⟨_, (exec_accShift h hop hsub).trans (congrArg _ (if_neg (Bool.eq_false_iff.mp near))),
      State.setNib_setNib_onlyNib .., ?_, fun m now hm => Nib.landing_shift hs now hm⟩
    rw [State.setNib_nib, if_pos rfl]
    rfl
  · have beyond : n.shiftTooFar slot r d = true := decide_eq_true far
    have hb' : (s.setNib p (n.setIssued 0)).bedOf p = some b := hb
    have fault := State.nibFault_sansPad hb' 0x4E 2 {}
    rw [State.setNib_nib, if_pos rfl] at fault
    have acc := congrArg Nib.acc fault
    have tags := congrArg Nib.tags fault
    exact ⟨_, (exec_accShift h hop hsub).trans (congrArg _ (if_pos beyond)), congrArg Nib.st fault, congrArg Nib.faultCode fault,
      congrArg Nib.faultUnit fault, acc, tags⟩

/-- Settles O7. Where no codeword is in error the elements are read as they stand. -/
theorem accumulatorRead : Obligations.AccumulatorRead := by
  intro s p w f h hop hsub hf hu n slot r vd q elem l
  obtain ⟨fl, he⟩ := exec_accRead h hop hsub hf hu
  refine ⟨_, fl, he, State.setNib_setNib_onlyNib .., ?_, fun m now =>
    m.landing_quarter now vd q ((List.length_map _).trans List.length_range) fl⟩
  rw [State.setNib_nib, if_pos rfl]
  rfl

/-- Settles O18. The stop of the bed before a nib's own fault leaves nothing of what the fault records. -/
theorem nibFaultRecords : Obligations.NibFaultRecords := by
  intro s p b code unit a hb n
  have fault := State.nibFault_sansPad hb code unit a
  have stop := State.stopNibs_nib (s := s) b
  refine ⟨congrArg Nib.st fault, congrArg Nib.faultCode fault, congrArg Nib.faultUnit fault, congrArg Nib.faultAddr fault,
    congrArg Nib.faultBundle fault, congrArg Nib.faultCycle fault, congrArg Nib.hold fault, fun x hx => ?_,
    congrArg Nib.wq fault, fun q hq hr => ?_, fun q hq => ?_⟩
  · have acts : n.acts = (s.nib p).acts.filter Act.scrubs := congrArg Nib.acts fault
    rw [acts] at hx
    exact (List.mem_filter.mp hx).2
  · rw [stop, if_pos hq, Nib.stopped, if_pos hr]
  · rw [stop]
    split
    · next h => exact if_neg (hq.resolve_left fun k => k h)
    · rfl

end

section
/-!
SUPPORT. Laws of FRONT, PRESCAN and PASS at issue, and of a placement where it lands (R49, R67–R69, R73, R117, R118, R153).
-/
namespace Sys2Proof.Machine

variable {s : State}

/-! ### Placements -/

/-- The elements a placement puts into its slot row, with their flags (R49). -/
def Nib.placements (n : Nib) (s r : Nat) (set : Bool) (ps : List Partial) : List (Acc × Bool × Bool) :=
  ((((List.range 16).map fun c => if set ∨ (n.tag s).zero then (0 : Acc) else mget 0 n.acc (accKey s r + c)).zip ps).zipIdx).map
    fun x => placeInto set x.1.1 x.1.2 ((n.tag s).window r x.2)

/-- Where no codeword is in error, a placement writes its elements and flags its row. -/
theorem Nib.place_clean {n : Nib} (h : n.accUpset = []) (now s r : Nat) (set : Bool) (ps : List Partial) (fl : Nat) :
    ∃ f, n.place now s r set ps fl =
      (n.accWrite s r ((n.placements s r set ps).map (·.1))).updTag s fun t => t.orFlags r f := by
  unfold Nib.place Nib.placements
  cases set
  · simp only [Bool.false_eq_true, if_false, false_or, Nib.accRead_clean h]
    exact ⟨_, rfl⟩
  · simp only [if_true, true_or, List.map_const', List.length_range]
    exact ⟨_, rfl⟩

/-- Where a placement lands: each element of its row is what R49 makes of it, and the others stay. -/
theorem Nib.landing_place {m : Nib} {slot row : Nat} {ps : List Partial} (hs : slot < 64) (hps : ps.length = 16)
    (hu : m.accUpset = []) (now arr fl : Nat) (set : Bool) :
    let m' := (m.landing now (.place slot row arr set ps fl)).1
    let elem (k : Nat) : Acc := if (m.tag slot).zero ∧ k / 256 = slot then 0 else mget 0 m.acc k
    (∀ c x, row < 16 → ps[c]? = some x → mget 0 m'.acc (256 * slot + 16 * row + c) =
      (placeInto set (if set then 0 else elem (256 * slot + 16 * row + c)) x ((m.tag slot).window row c)).1) ∧
    (∀ k, k < 256 * slot + 16 * row ∨ 256 * slot + 16 * row + 16 ≤ k → mget 0 m'.acc k = elem k) ∧
    (m'.tag slot).owner = arr ∧ (m'.tag slot).zero = false ∧ ∀ u, u < 64 → u ≠ slot → m'.tag u = m.tag u := by
  intro m' elem
  obtain ⟨f, hf⟩ := Nib.place_clean hu now slot row set ps fl
  have hm : m' = ((m.accWrite slot row ((m.placements slot row set ps).map (·.1))).updTag slot fun t => t.orFlags row f).updTag slot
      fun t => { t with owner := arr } := congrArg (Nib.updTag · slot _) hf
  have hslot : slot % 64 = slot := Nat.mod_eq_of_lt hs
  have hkey : accKey slot row = 256 * slot + 16 * row := by rw [accKey, hslot]
  have hlen : ((m.placements slot row set ps).map (·.1)).length = 16 := by simp [Nib.placements, hps]
  have hacc : m'.acc = (m.accWrite slot row ((m.placements slot row set ps).map (·.1))).acc := by rw [hm]; rfl
  have htag (u : Nat) : m'.tag u =
      if u % 64 = slot then { ({ m.tag slot with zero := false } : Tag).orFlags row f with owner := arr } else m.tag u := by
    rw [hm, Nib.tag_updTag, Nib.tag_updTag, Nib.tag_updTag, Nib.accWrite_tag, Nib.accWrite_tag, hslot]
    split <;> simp
  refine ⟨fun c x hr hx => ?_, fun k hk => ?_, ?_, ?_, fun u hu hne => ?_⟩
  · obtain ⟨hc, rfl⟩ := List.getElem?_eq_some_iff.mp hx
    have hz : (256 * slot + 16 * row + c) / 256 = slot := by omega
    rw [hacc, ← hkey, Nib.accWrite_inside m slot row _ c (by omega), hkey]
    simp only [Nib.placements, List.getElem_map, List.getElem_zipIdx, List.getElem_zip, List.getElem_range, Nat.zero_add, hkey,
      elem, hz, and_true]
    cases set <;> simp only [Bool.false_eq_true, false_or, if_false, true_or, if_true]
  · rw [hacc, Nib.accWrite_outside m slot row _ k (by omega), hslot]
  · rw [htag, if_pos hslot]
  · rw [htag, if_pos hslot]
    rfl
  · rw [htag, if_neg (by omega)]

/-! ### FRONT and PRESCAN -/

/-- FRONT reads its scale row at once, and its weight rows from the next A-cycle on (R68, R69, R153). -/
theorem exec_front {p w : Nat} {f : Fmt} (h : s.Ready p 0 w) (hop : slotOp w = 0x01) (hf : Fmt.ofCode (fld w 54 51) = some f)
    (hu : (s.nib p).padUpset = []) :
    let n := s.nib p
    let a := n.ra (fld w 50 19)
    let row := n.hrow a.handle a.index
    exec (.front p) s = .next ((s.setNib p (n.setIssued 0)).setNib p { n.setIssued 0 with acts := n.acts ++
      [.front (s.acyc + 1) (fld w 57 55) f (n.frontMode (fld w 57 55) f) row [mget 0 n.pad row] (s.acyc + 34)] }) := by
  have hsel : byOp 1 w = true := by simp [byOp, hop]
  have hu' : ((s.nib p).setIssued 0).padUpset = [] := hu
  show execFront p s = _
  simp only [execFront, State.issue_ready h hsel, State.updNib_eq, State.setNib_nib, if_true, State.setNib_acyc, hf,
    Nib.startFront, Nib.padRead_clean hu', Nib.ra_setIssued, Nib.hrow_setIssued, Nib.frontMode_setIssued]
  rfl

/-- PRESCAN clears its slot, and reads its scales, opens the window of a reduction of no blocks, or takes the tensor's scale
(R39, R73, R118, R153). -/
theorem exec_prescan {p w : Nat} {fa fb : Fmt} (h : s.Ready p 0 w) (hop : slotOp w = 0x03)
    (ha : Fmt.ofCode (fld w 51 48) = some fa) (hb : Fmt.ofCode (fld w 47 44) = some fb) (hu : (s.nib p).padUpset = []) :
    let n := s.nib p
    let nb := (n.shape (fld w 2 0)).nb
    let cb := colMaxima (mget 0 n.pad (n.hrow (fld w 21 16) (fld w 15 3)))
    let slot := fld w 57 52
    exec (.prescan p) s = .next ((s.setNib p (n.setIssued 0)).setNib p { n.setIssued 0 with
      acts := n.acts ++ [.result s.acyc (.clear slot)] ++
        (if nb = 0 then [.result (s.acyc + 6) (.window slot fa fb 0 (List.replicate 16 0) (List.replicate 16 0))]
         else if fa = .fpE4M3 ∨ fa = .fpE5M2 then [.result (s.acyc + (nb + 1) / 2 + 6) (.window slot fa fb nb
           (List.replicate 16 ((fa.scaleExp (n.shape (fld w 2 0)).ascale).getD 0)) cb)]
         else [.prescan (s.acyc + 1) slot fa fb (fld w 43 38) (fld w 37 22) nb 0 (List.replicate 16 none) cb]) }) := by
  have hsel : byOp 3 w = true := by simp [byOp, hop]
  have hu' : ((s.nib p).setIssued 0).padUpset = [] := hu
  show execPrescan p s = _
  simp only [execPrescan, State.issue_ready h hsel, State.updNib_eq, State.setNib_nib, if_true, State.setNib_acyc, ha, hb,
    Nib.padRead_clean hu', Nib.hrow_setIssued, Nib.shape_setIssued, Bool.or_eq_true, beq_iff_eq, scanned, List.map_replicate]
  split
  · rfl
  · split <;> rfl

/-! ### PASS -/

/-- The owners of slots after `arr` takes those from `slot` on that `l` counts. -/
theorem Nib.foldl_owner (n : Nib) (slot arr : Nat) (l : List Nat) :
    ∃ T, l.foldl (fun n j => n.updTag (slot + j) fun t => { t with owner := arr }) n = { n with tags := T } ∧
      ∀ u, u < 64 → ({ n with tags := T } : Nib).tag u =
        { n.tag u with owner := if l.any (fun j => (slot + j) % 64 == u) then arr else (n.tag u).owner } := by
  induction l generalizing n with
  | nil => exact ⟨n.tags, rfl, fun u _ => rfl⟩
  | cons j l ih =>
    obtain ⟨T, fold, tags⟩ := ih (n.updTag (slot + j) fun t => { t with owner := arr })
    refine ⟨T, fold, fun u hu => (tags u hu).trans ?_⟩
    have hu' : u % 64 = u := Nat.mod_eq_of_lt hu
    have tag := n.tag_updTag (slot + j) u fun t => { t with owner := arr }
    rw [tag, hu']
    by_cases e : u = (slot + j) % 64
    · have same : n.tag (slot + j) = n.tag u := by rw [e, Nib.tag, Nib.tag, Nat.mod_mod]
      simp [e, same]
    · have e' : ((slot + j) % 64 == u) = false := beq_false_of_ne (Ne.symm e)
      simp only [if_neg e, List.any_cons, e', Bool.false_or]

/-- The first read of a PASS: its scale row and its first streamed row, or the first half of it (R117, R153). -/
theorem Nib.passStep_first {n : Nib} {rows : Nat} (hu : n.padUpset = []) (hr : 0 < rows) (now a : Nat) (f : Fmt) (md : ArrMode)
    (ws : WSet) (row0 n0 sh slot : Nat) (set : Bool) :
    let sc := mget 0 n.pad (n.hrow sh (n0 / 32))
    let first := mget 0 n.pad (row0 % 65536)
    let pass (due m : Nat) (sc : Row) (half : List Row) : Act := .pass due a f md ws row0 n0 sh rows slot set m sc half
    let r := n.passStep now a f md ws row0 n0 sh rows slot set 0 0 []
    ∃ fl, ({ r.1 with acts := r.1.acts ++ r.2.toList } : Nib) = { n with acts := n.acts ++
      (if f.blockRows = 2 then [pass (now + 1) 0 sc [first]]
       else .result (now + md.latency - 1) (.place slot 0 a set
          (rowPartials f (rowByte sc (n0 % 32)).toNat (blockCodes f [first]) ws) fl) ::
        if rows = 1 then [] else [pass (now + md.cycles) 1 sc []]) } := by
  have hrb : f.blockRows = 2 ∨ f.blockRows = 1 := by unfold Fmt.blockRows; split <;> simp
  dsimp only
  unfold Nib.passStep
  simp only [List.isEmpty_nil, Bool.true_and, beq_self_eq_true, Bool.true_or, if_true, Nib.padRead_clean hu, Nat.mul_zero,
    Nat.add_zero, List.length_nil, List.nil_append, List.length_singleton]
  rcases hrb with hrb | hrb
  · exact ⟨0, by simp [hrb]⟩
  · refine ⟨n.padFlags row0 1, ?_⟩
    by_cases one : rows = 1
    · simp [hrb, one, Nib.placed, Nib.result]
    · have more : 1 < rows := by omega
      simp [hrb, one, more, Nib.placed, Nib.result]

/-- A PASS of `rows` rows from `a` on takes its slots for its array, and makes its first read. -/
theorem Nib.passStart {n : Nib} {rows : Nat} (hu : n.padUpset = []) (hr : 0 < rows) (now arr : Nat) (f : Fmt) (md : ArrMode) (ws : WSet)
    (a : RAddr) (sh slot : Nat) (set : Bool) :
    let row0 := n.hrow a.handle a.index
    let i0 := a.index / f.blockRows
    let sc := mget 0 n.pad (n.hrow sh (i0 / 32))
    let first := mget 0 n.pad (row0 % 65536)
    let pass (due m : Nat) (sc : Row) (half : List Row) : Act := .pass due arr f md ws row0 i0 sh rows slot set m sc half
    let m := (List.range (cdiv rows 16)).foldl (fun n j => n.updTag (slot + j) fun t => { t with owner := arr }) n
    let r := m.passStep now arr f md ws (m.hrow a.handle a.index) i0 sh rows slot set 0 0 []
    ∃ T fl, ({ r.1 with acts := r.1.acts ++ r.2.toList } : Nib) = { n with
        tags := T
        acts := n.acts ++
          (if f.blockRows = 2 then [pass (now + 1) 0 sc [first]]
           else .result (now + md.latency - 1) (.place slot 0 arr set
              (rowPartials f (rowByte sc (i0 % 32)).toNat (blockCodes f [first]) ws) fl) ::
            if rows = 1 then [] else [pass (now + md.cycles) 1 sc []]) } ∧
      ∀ u, u < 64 → ({ n with tags := T } : Nib).tag u =
        { n.tag u with owner := if (List.range (cdiv rows 16)).any (fun j => (slot + j) % 64 == u) then arr else (n.tag u).owner } := by
  obtain ⟨T, fold, tags⟩ := n.foldl_owner slot arr (List.range (cdiv rows 16))
  obtain ⟨fl, step⟩ := Nib.passStep_first (n := { n with tags := T }) hu hr now arr f md ws (n.hrow a.handle a.index)
    (a.index / f.blockRows) sh slot set
  dsimp only
  rw [fold]
  exact ⟨T, fl, step, tags⟩

/-- PASS starts on the array's set (R117, R153). -/
theorem exec_nibPass {p w : Nat} {f : Fmt} {ws : WSet} (h : s.Ready p 0 w) (hop : slotOp w = 0x02)
    (hf : Fmt.ofCode (fld w 54 51) = some f) (hws : mget none (s.nib p).arrays (fld w 57 55) = some ws) :
    let n := (s.nib p).setIssued 0
    let rows := fld w 20 12 + 1
    let a := (s.nib p).ra24 (fld w 50 27) (rows * f.blockRows)
    let m := (List.range (cdiv rows 16)).foldl (fun n j => n.updTag (fld w 11 6 + j) fun t => { t with owner := fld w 57 55 }) n
    let r := m.passStep s.acyc (fld w 57 55) f (arrMode f ws.fmt) ws (m.hrow a.handle a.index) (a.index / f.blockRows)
      (fld w 26 21) rows (fld w 11 6) (bitAt w 5) 0 0 []
    exec (.nibPass p) s = .next ((s.setNib p n).setNib p { r.1 with acts := r.1.acts ++ r.2.toList }) := by
  have hsel : byOp 2 w = true := by simp [byOp, hop]
  have hws' : mget none ((s.nib p).setIssued 0).arrays (fld w 57 55) = some ws := hws
  show execNibPass p s = _
  simp only [execNibPass, State.issue_ready h hsel, State.updNib_eq, State.setNib_nib, if_true, State.setNib_acyc, hf, hws',
    Nib.ra24_setIssued]

end Sys2Proof.Machine
end

section
open Sys2Proof Sys2Proof.Machine

/-- Settles O9. FRONT, PRESCAN and PASS each read rows that are clean; a placement writes its slot row. -/
theorem arrayIssue : Obligations.ArrayIssue := by
  constructor
  · intro s p w h hu n
    refine ⟨fun f hop hf => ?_, fun fa fb hop ha hb => ?_, fun f ws hop hf hws => ?_⟩
    · refine ⟨_, exec_front h hop hf hu, State.setNib_setNib_onlyNib .., ?_⟩
      rw [State.setNib_nib, if_pos rfl]
      rfl
    · refine ⟨_, exec_prescan h hop ha hb hu, State.setNib_setNib_onlyNib .., ?_⟩
      rw [State.setNib_nib, if_pos rfl]
      rfl
    · intro rows rb arr md a slot row0 i0 sc first pass
      have hr : 0 < fld w 20 12 + 1 := Nat.succ_pos _
      obtain ⟨T, fl, start, tags⟩ := Nib.passStart (n := (s.nib p).setIssued 0) hu hr s.acyc (fld w 57 55) f (arrMode f ws.fmt) ws
        ((s.nib p).ra24 (fld w 50 27) ((fld w 20 12 + 1) * f.blockRows)) (fld w 26 21) (fld w 11 6) (bitAt w 5)
      have run := exec_nibPass h hop hf hws
      have he := run.trans (congrArg (fun m => Host.Outcome.next ((s.setNib p ((s.nib p).setIssued 0)).setNib p m)) start)
      refine ⟨_, fl, he, State.setNib_setNib_onlyNib .., ?_⟩
      rw [State.setNib_nib, if_pos rfl]
      exact ⟨rfl, tags⟩
  · intro m now slot row arr fl set ps hs hr hps hu
    obtain ⟨inside, outside⟩ := Nib.landing_place (row := row) hs hps hu now arr fl set
    exact ⟨fun c x => inside c x hr, outside⟩

end

section
/-!
SUPPORT. Laws of the two planes: what a flit queues at its target, what a packet adds to the mesh, and the route that a send reads
(R101, R114, R125, R147, R153).
-/
namespace Sys2Proof.Machine

variable {s t u : State} {p q b : Nat}

/-! ### Routes and targets -/

theorem Nib.bundleAt_clean {n : Nib} (h : n.scriptUpset = []) (a : Nat) :
    n.bundleAt a = (some (mget 0 n.script (a % 8192)), false) := by
  unfold Nib.bundleAt
  rw [h]
  exact if_pos rfl

/-- A send whose route's bundle is clean goes on with that route (R114). -/
theorem State.withRoute_clean (h : (s.nib p).scriptUpset = []) (r : Nat) (f : RouteEntry → State → State) :
    s.withRoute p r f = f ((s.nib p).route r) (s.setNib p (s.nib p)) := by
  unfold State.withRoute Nib.routeRead
  dsimp only
  rw [Nib.bundleAt_clean h]
  rfl

/-- Beds and the states of nibs decide which nib a logical number names (R15, R498). -/
theorem State.physical_of_states (hb : t.beds = s.beds) (hm : t.boot = s.boot) (hst : ∀ k, (t.nib k).st = (s.nib k).st) (b n : Nat) :
    t.physical b n = s.physical b n := by
  have on : t.nibOn = s.nibOn := by
    funext k
    unfold State.nibOn
    rw [hst, hm]
  have bed : t.bed b = s.bed b := congrArg (fun m => mget ({} : Bed) m b) hb
  unfold State.physical State.bedNibs
  rw [on, bed]

/-! ### Flits -/

/-- `t` is `s` with the writes `ws` queued at nib `q`. -/
def State.Queued (s t : State) (q : Nat) (ws : List PendWrite) : Prop :=
  t = { s with nibs := t.nibs } ∧ ∀ k, t.nib k = if k = q then { s.nib q with wq := (s.nib q).wq ++ ws } else s.nib k

theorem State.Queued.refl (s : State) (q : Nat) : s.Queued s q [] :=
  ⟨rfl, fun k => by split <;> simp [*]⟩

theorem State.Queued.trans {vs ws : List PendWrite} (h : s.Queued t q vs) (k : t.Queued u q ws) : s.Queued u q (vs ++ ws) := by
  obtain ⟨frame, nibs⟩ := h
  obtain ⟨frame', nibs'⟩ := k
  refine ⟨by rw [frame', frame], fun k => (nibs' k).trans ?_⟩
  rw [nibs, nibs]
  split
  · simp
  · rfl

theorem State.Queued.target (h : s.Queued t q ws) (b n : Nat) : t.bedOf p = s.bedOf p ∧ t.physical b n = s.physical b n := by
  obtain ⟨frame, nibs⟩ := h
  refine ⟨by rw [frame]; rfl, State.physical_of_states (by rw [frame]) (by rw [frame]) (fun k => ?_) b n⟩
  rw [nibs]
  split
  · next e => rw [e]
  · rfl

theorem State.Queued.rowIn (h : s.Queued t q ws) (a b c : Nat) : (t.nib q).rowIn a b c = (s.nib q).rowIn a b c := by
  rw [h.2, if_pos rfl]
  rfl

/-- The writes of rows that land in A-cycle `due` from index `i` of a route's handle in nib `n` on (R80, R149). -/
def Nib.flitWrites (n : Nib) (r : RouteEntry) (due i : Nat) (l : List Row) (fl : Nat) : List PendWrite := l.zipIdx.map fun d =>
  { due := due, row := (n.rowIn r.slot r.handle i + d.2) % 65536, data := d.1, fl := fl, flit := true }

/-- A flit's rows are queued at its route's target (R147, R153). -/
theorem State.sendFlit_queued {r : RouteEntry} (hb : s.bedOf p = some b) (hq : s.physical b r.nib = some q) (i x : Nat)
    (l : List Row) (fl : Nat) :
    s.Queued (s.sendFlit p r i x l fl) q ((s.nib q).flitWrites r (x + (6 + hops p q + 3 * crossings p q)) i l fl) := by
  have due : x + 6 + meshTime p q = x + (6 + hops p q + 3 * crossings p q) := by unfold meshTime; omega
  have e : s.sendFlit p r i x l fl = s.setNib q { s.nib q with
      wq := (s.nib q).wq ++ (s.nib q).flitWrites r (x + (6 + hops p q + 3 * crossings p q)) i l fl } := by
    simp only [State.sendFlit, hb, hq, State.updNib_eq, Nib.schedWrites, Nib.foldl_schedWrite, due]
    rfl
  rw [e]
  exact ⟨rfl, fun k => State.setNib_nib ..⟩

/-- Flits sent one after another (R147). -/
theorem State.foldl_sendFlit_queued {r : RouteEntry} (hb : s.bedOf p = some b) (hq : s.physical b r.nib = some q) (i x : Nat → Nat)
    (l : Nat → List Row) (fl : Nat) (js : List Nat) :
    s.Queued (js.foldl (fun s j => s.sendFlit p r (i j) (x j) (l j) fl) s) q
      (js.flatMap fun j => (s.nib q).flitWrites r (x j + (6 + hops p q + 3 * crossings p q)) (i j) (l j) fl) := by
  induction js generalizing s with
  | nil => exact .refl s q
  | cons j js ih =>
    have first := State.sendFlit_queued hb hq (i j) (x j) (l j) fl
    have rest := ih ((first.target b r.nib).1.trans hb) ((first.target (p := p) b r.nib).2.trans hq)
    refine first.trans ?_
    unfold Nib.flitWrites at rest ⊢
    simp only [first.rowIn] at rest
    exact rest

/-! ### Packets -/

/-- A packet of a nib's mover on its way to a route's target (R18, R101, R114). -/
def movePkt (r : RouteEntry) (b p q i x : Nat) (l : List Row) (fl : Nat) : MUnit × AsyncPkt := (.nib p, {
  bed := b, nib := q, slot := r.slot, handle := some r.handle, index := i, tally := r.tally, rows := l, fl := fl
  reach := x + hops p q + 3 * crossings p q })

theorem State.sendPkt_eq {r : RouteEntry} (hb : s.bedOf p = some b) (hq : s.physical b r.nib = some q) (i x : Nat) (l : List Row)
    (fl : Nat) : s.sendPkt p r i x l fl = { s with mesh := s.mesh ++ [movePkt r b p q i (x + 4) l fl] } := by
  have reach : x + 4 + meshTime p q = x + 4 + hops p q + 3 * crossings p q := by unfold meshTime; omega
  simp only [State.sendPkt, hb, hq, reach]
  rfl

/-- `t` is `s` with the packets `ps` under way on the mesh. -/
def State.Packed (s t : State) (ps : List (MUnit × AsyncPkt)) : Prop :=
  t = { s with nibs := t.nibs, mesh := t.mesh } ∧ (∀ k, t.nib k = s.nib k) ∧ t.mesh = s.mesh ++ ps

theorem State.packed_setNib_self (s : State) (p : Nat) (ps : List (MUnit × AsyncPkt)) :
    s.Packed { s.setNib p (s.nib p) with mesh := s.mesh ++ ps } ps := by
  refine ⟨rfl, fun k => ?_, rfl⟩
  have nib := State.setNib_nib s p k (s.nib p)
  refine nib.trans ?_
  split
  · next e => rw [e]
  · rfl

theorem State.setNib_self_packed (s : State) (p : Nat) : s.Packed (s.setNib p (s.nib p)) [] :=
  ⟨rfl, (s.packed_setNib_self p []).2.1, (List.append_nil _).symm⟩

theorem State.Packed.trans {ps qs : List (MUnit × AsyncPkt)} (h : s.Packed t ps) (k : t.Packed u qs) : s.Packed u (ps ++ qs) := by
  obtain ⟨frame, nibs, mesh⟩ := h
  obtain ⟨frame', nibs', mesh'⟩ := k
  exact ⟨by rw [frame', frame], fun k => (nibs' k).trans (nibs k), by rw [mesh', mesh, List.append_assoc]⟩

/-! ### Sends at issue -/

theorem toList_ite {α : Type} {c : Prop} [Decidable c] (a : α) : (if c then some a else none).toList = if c then [a] else [] := by
  split <;> rfl

theorem State.setNib_self_queued (s : State) (p q : Nat) : s.Queued (s.setNib p (s.nib p)) q [] := by
  refine ⟨rfl, fun k => ?_⟩
  rw [State.setNib_nib]
  by_cases hq : k = q
  · subst hq
    split <;> simp [*]
  · split <;> simp [*]

theorem State.issued_target (s : State) (p k b n : Nat) : (s.setNib p ((s.nib p).setIssued k)).physical b n = s.physical b n := by
  refine State.physical_of_states (s := s) (t := s.setNib p ((s.nib p).setIssued k)) rfl rfl (fun j => ?_) b n
  rw [State.setNib_nib]
  split
  · next e => rw [e, Nib.setIssued_frame]
  · rfl

/-- `t` is `s` after nib `p` issued its MOVE slot, added the work `as` and queued the writes `ws` at nib `q`. -/
def State.Sent (s t : State) (p q : Nat) (as : List Act) (ws : List PendWrite) : Prop :=
  t = { s with nibs := t.nibs } ∧ (∀ k, k ≠ p → k ≠ q → t.nib k = s.nib k) ∧
  (q ≠ p → t.nib q = { s.nib q with wq := (t.nib q).wq }) ∧
  t.nib p = { s.nib p with issuedX := true, acts := (s.nib p).acts ++ as, wq := (t.nib p).wq } ∧
  (t.nib q).wq = (s.nib q).wq ++ ws

/-- `t` is `s` after nib `p` issued its MOVE slot, added the work `as` and put the packets `ps` into the mesh. -/
def State.Posted (s t : State) (p : Nat) (as : List Act) (ps : List (MUnit × AsyncPkt)) : Prop :=
  t = { s with nibs := t.nibs, mesh := t.mesh } ∧ (∀ k, k ≠ p → t.nib k = s.nib k) ∧
  t.nib p = { s.nib p with issuedX := true, acts := (s.nib p).acts ++ as } ∧ t.mesh = s.mesh ++ ps

/-- Packets posted after the issue of a MOVE slot, and the work that is left. -/
theorem State.posted_of_packed {ps : List (MUnit × AsyncPkt)} (h : (s.setNib p ((s.nib p).setIssued 2)).Packed t ps) (as : List Act) :
    s.Posted (t.setNib p { t.nib p with acts := (t.nib p).acts ++ as }) p as ps := by
  obtain ⟨frame, nibs, mesh⟩ := h
  refine ⟨by rw [frame]; rfl, fun k hk => ?_, ?_, mesh⟩
  · rw [State.setNib_nib, if_neg hk, nibs, State.setNib_nib, if_neg hk]
  · rw [State.setNib_nib, if_pos rfl, nibs, State.setNib_nib, if_pos rfl]
    rfl

/-- Rows queued after the issue of a MOVE slot, and the work that is left. -/
theorem State.sent_of_queued {ws : List PendWrite} (h : (s.setNib p ((s.nib p).setIssued 2)).Queued t q ws) (as : List Act) :
    s.Sent (t.setNib p { t.nib p with acts := (t.nib p).acts ++ as }) p q as ws := by
  obtain ⟨frame, nibs⟩ := h
  have nib (k : Nat) : t.nib k = _ := nibs k
  simp only [State.setNib_nib] at nib
  refine ⟨by rw [frame]; rfl, fun k hp hq => ?_, fun hqp => ?_, ?_, ?_⟩
  · rw [State.setNib_nib, if_neg hp, nib, if_neg hq, if_neg hp]
  · rw [State.setNib_nib, if_neg hqp, nib, if_pos rfl, if_neg hqp]
  · rw [State.setNib_nib, if_pos rfl, nib]
    by_cases e : p = q
    · subst e
      rw [if_pos rfl, if_pos rfl]
      rfl
    · rw [if_neg e, if_pos rfl]
      rfl
  · rw [State.setNib_nib]
    by_cases e : q = p
    · subst e
      rw [if_pos rfl, nib, if_pos rfl, if_pos rfl]
      rfl
    · rw [if_neg e, nib, if_pos rfl, if_neg e]

/-- The rows of a send's first flit, as they stand (R147). -/
def Nib.firstRows (n : Nib) (row0 rows : Nat) : List Row := (List.range (min 2 rows)).map fun i => mget 0 n.pad ((row0 + i) % 65536)

/-- A scheduled send's first flit leaves in this A-cycle, and the next is due in the one after (R147, R153). -/
theorem State.sendStep_sched {r : RouteEntry} (hr : r.async = false) (hu : (s.nib p).padUpset = []) (hb : s.bedOf p = some b)
    (hq : s.physical b r.nib = some q) (row0 rows i : Nat) :
    ∃ t, s.sendStep p r row0 rows i 0 [] 0 =
        (t, if 2 < rows then some (.send (s.acyc + 1) r row0 rows i 1 [] 0) else none) ∧
      s.Queued t q ((s.nib q).flitWrites r (s.acyc + (6 + hops p q + 3 * crossings p q)) i ((s.nib p).firstRows row0 rows)
        ((s.nib p).padFlags row0 (min 2 rows))) := by
  have self := s.setNib_self_queued p q
  have flit := State.sendFlit_queued ((self.target b r.nib).1.trans hb) ((self.target (p := p) b r.nib).2.trans hq) i s.acyc
    ((s.nib p).firstRows row0 rows) ((s.nib p).padFlags row0 (min 2 rows))
  unfold Nib.flitWrites at flit ⊢
  simp only [self.rowIn] at flit
  refine ⟨_, ?_, self.trans flit⟩
  have acyc := congrArg State.acyc flit.1
  unfold Nib.firstRows at acyc ⊢
  simp only [State.sendStep, Nib.padReads_clean hu, Nat.mul_zero, Nat.sub_zero, Nat.add_zero, hr, decide_eq_true_eq,
    Bool.false_eq_true, if_false, State.setNib_acyc, acyc]

/-- The work a first step leaves joins the nib's. -/
theorem State.startSend_sched {w : Nat} (hu : (s.nib p).padUpset = []) (hc : (s.nib p).scriptUpset = []) (hb : s.bedOf p = some b)
    (hq : s.physical b ((s.nib p).route (fld w 57 52)).nib = some q) :
    let n := s.nib p
    let r := n.route (fld w 57 52)
    let rows := fld w 11 8 + 1
    let a := n.ra24 (fld w 51 28) rows
    let row0 := n.hrow a.handle a.index
    ∃ t, s.startSend p w false = t.setNib p { t.nib p with acts := (t.nib p).acts ++
        if 2 < rows then [.send (s.acyc + 1) { r with async := false } row0 rows (fld w 27 12) 1 [] 0] else [] } ∧
      s.Queued t q ((s.nib q).flitWrites r (s.acyc + (6 + hops p q + 3 * crossings p q)) (fld w 27 12) (n.firstRows row0 rows)
        (n.padFlags row0 (min 2 rows))) := by
  intro n r rows a row0
  have self := s.setNib_self_queued p q
  have same : (s.setNib p (s.nib p)).nib p = n := (State.setNib_nib ..).trans (if_pos rfl)
  obtain ⟨t, step, queued⟩ := State.sendStep_sched (s := s.setNib p (s.nib p)) (r := { r with async := false }) (p := p) (b := b) (q := q)
    rfl ((congrArg Nib.padUpset same).trans hu) ((self.target b r.nib).1.trans hb) ((self.target (p := p) b r.nib).2.trans hq)
    row0 rows (fld w 27 12)
  unfold Nib.flitWrites at queued ⊢
  simp only [self.rowIn, same] at queued
  refine ⟨t, ?_, self.trans queued⟩
  simp only [State.startSend, State.withRoute_clean hc, same]
  rw [step]
  dsimp only
  rw [State.updNib_eq]
  rw [toList_ite]
  rfl

/-- SEND_SCHED's first flit leaves in the A-cycle of its issue (R147, R153). -/
theorem exec_sendSched {w : Nat} (h : s.Ready p 2 w) (hop : slotOp w = 0x01) (hu : (s.nib p).padUpset = [])
    (hc : (s.nib p).scriptUpset = []) (hb : s.bedOf p = some b) (hq : s.physical b ((s.nib p).route (fld w 57 52)).nib = some q) :
    let n := s.nib p
    let r := n.route (fld w 57 52)
    let rows := fld w 11 8 + 1
    let a := n.ra24 (fld w 51 28) rows
    let row0 := n.hrow a.handle a.index
    ∃ t, exec (.sendSched p) s = .next t ∧ s.Sent t p q
      (if 2 < rows then [.send (s.acyc + 1) { r with async := false } row0 rows (fld w 27 12) 1 [] 0] else [])
      ((s.nib q).flitWrites r (s.acyc + (6 + hops p q + 3 * crossings p q)) (fld w 27 12) (n.firstRows row0 rows)
        (n.padFlags row0 (min 2 rows))) := by
  have hsel : byOp 1 w = true := by simp [byOp, hop]
  intro n r rows a row0
  have nib (k : Nat) := State.setNib_nib s p k (n.setIssued 2)
  have own := (nib p).trans (if_pos rfl)
  obtain ⟨t, start, queued⟩ := State.startSend_sched (s := s.setNib p (n.setIssued 2)) (p := p) (b := b) (q := q) (w := w)
    (by rw [own]; exact hu) (by rw [own]; exact hc) hb (by rw [own, Nib.route_setIssued, State.issued_target]; exact hq)
  simp only [own, Nib.route_setIssued, Nib.ra24_setIssued, Nib.hrow_setIssued] at start queued
  have writes (due i fl : Nat) (l : List Row) :
      ((s.setNib p (n.setIssued 2)).nib q).flitWrites r due i l fl = (s.nib q).flitWrites r due i l fl := by
    rw [nib]
    split
    · next e => rw [e]; rfl
    · rfl
  rw [writes] at queued
  refine ⟨_, ?_, State.sent_of_queued queued _⟩
  show execSendSched p s = _
  simp only [execSendSched, State.issue_ready h hsel, State.updNib_eq]
  exact congrArg Host.Outcome.next start

/-- An asynchronous send of at most two rows leaves in this A-cycle; a longer one reads on in the next (R101, R114). -/
theorem State.sendStep_async {r : RouteEntry} (hr : r.async = true) (hu : (s.nib p).padUpset = []) (hb : s.bedOf p = some b)
    (hq : s.physical b r.nib = some q) (row0 rows i : Nat) :
    let got := (s.nib p).firstRows row0 rows
    let fl := (s.nib p).padFlags row0 (min 2 rows)
    ∃ t, s.sendStep p r row0 rows i 0 [] 0 =
        (t, if 2 < rows then some (.send (s.acyc + 1) r row0 rows i 1 got fl) else none) ∧
      s.Packed t (if 2 < rows then [] else [movePkt r b p q i (s.acyc + 4) got fl]) := by
  intro got fl
  have self := s.setNib_self_queued p q
  have pkt := State.sendPkt_eq ((self.target b r.nib).1.trans hb) ((self.target (p := p) b r.nib).2.trans hq) i s.acyc
    ((s.nib p).firstRows row0 rows) ((s.nib p).padFlags row0 (min 2 rows))
  by_cases more : 2 < rows
  · simp only [if_pos more]
    refine ⟨_, ?_, s.setNib_self_packed p⟩
    simp only [State.sendStep, Nib.padReads_clean hu, Nat.mul_zero, Nat.sub_zero, Nat.add_zero, hr, if_true, Nat.zero_add,
      Nat.mul_one, more, decide_true, List.nil_append, Nat.zero_or]
    rfl
  · simp only [if_neg more]
    refine ⟨_, ?_, s.packed_setNib_self p _⟩
    simp only [State.sendStep, Nib.padReads_clean hu, Nat.mul_zero, Nat.sub_zero, Nat.add_zero, hr, if_true, Nat.zero_add,
      Nat.mul_one, more, decide_false, Bool.false_eq_true, if_false, List.nil_append, Nat.zero_or, State.setNib_acyc]
    exact congrArg (·, none) pkt

theorem State.startSend_async {w : Nat} (hu : (s.nib p).padUpset = []) (hc : (s.nib p).scriptUpset = []) (hb : s.bedOf p = some b)
    (hq : s.physical b ((s.nib p).route (fld w 57 52)).nib = some q) :
    let n := s.nib p
    let r := n.route (fld w 57 52)
    let rows := fld w 11 8 + 1
    let a := n.ra24 (fld w 51 28) rows
    let row0 := n.hrow a.handle a.index
    let got := n.firstRows row0 rows
    let fl := n.padFlags row0 (min 2 rows)
    ∃ t, s.startSend p w true = t.setNib p { t.nib p with acts := (t.nib p).acts ++
        if 2 < rows then [.send (s.acyc + 1) { r with async := true } row0 rows (fld w 27 12) 1 got fl] else [] } ∧
      s.Packed t (if 2 < rows then [] else [movePkt r b p q (fld w 27 12) (s.acyc + 4) got fl]) := by
  intro n r rows a row0 got fl
  have self := s.setNib_self_queued p q
  have same : (s.setNib p (s.nib p)).nib p = n := (State.setNib_nib ..).trans (if_pos rfl)
  obtain ⟨t, step, packed⟩ := State.sendStep_async (s := s.setNib p (s.nib p)) (r := { r with async := true }) (p := p) (b := b) (q := q)
    rfl ((congrArg Nib.padUpset same).trans hu) ((self.target b r.nib).1.trans hb) ((self.target (p := p) b r.nib).2.trans hq)
    row0 rows (fld w 27 12)
  simp only [same, State.setNib_acyc] at step packed
  refine ⟨t, ?_, (s.setNib_self_packed p).trans packed⟩
  simp only [State.startSend, State.withRoute_clean hc, same]
  rw [step]
  dsimp only
  rw [State.updNib_eq, toList_ite]

/-- SEND_ASYNC's packet leaves in the A-cycle of its issue where it is of two rows or fewer (R101, R125). -/
theorem exec_sendAsync {w : Nat} (h : s.Ready p 2 w) (hop : slotOp w = 0x02) (hu : (s.nib p).padUpset = [])
    (hc : (s.nib p).scriptUpset = []) (hb : s.bedOf p = some b) (hq : s.physical b ((s.nib p).route (fld w 57 52)).nib = some q) :
    let n := s.nib p
    let r := n.route (fld w 57 52)
    let rows := fld w 11 8 + 1
    let a := n.ra24 (fld w 51 28) rows
    let row0 := n.hrow a.handle a.index
    let got := n.firstRows row0 rows
    let fl := n.padFlags row0 (min 2 rows)
    ∃ t, exec (.sendAsync p) s = .next t ∧ s.Posted t p
      (if 2 < rows then [.send (s.acyc + 1) { r with async := true } row0 rows (fld w 27 12) 1 got fl] else [])
      (if 2 < rows then [] else [movePkt r b p q (fld w 27 12) (s.acyc + 4) got fl]) := by
  have hsel : byOp 2 w = true := by simp [byOp, hop]
  intro n r rows a row0 got fl
  have own : (s.setNib p (n.setIssued 2)).nib p = n.setIssued 2 := (State.setNib_nib ..).trans (if_pos rfl)
  obtain ⟨t, start, packed⟩ := State.startSend_async (s := s.setNib p (n.setIssued 2)) (p := p) (b := b) (q := q) (w := w)
    (by rw [own]; exact hu) (by rw [own]; exact hc) hb (by rw [own, Nib.route_setIssued, State.issued_target]; exact hq)
  simp only [own, Nib.route_setIssued, Nib.ra24_setIssued, Nib.hrow_setIssued, State.setNib_acyc] at start packed
  refine ⟨_, ?_, State.posted_of_packed packed _⟩
  show execSendAsync p s = _
  simp only [execSendAsync, State.issue_ready h hsel, State.updNib_eq]
  exact congrArg Host.Outcome.next start

/-! ### Raw rows -/

theorem map_range_mget {α : Type} (d : α) (m : SMap α) (k n : Nat) : ((List.range n).map fun c => mget d m (k + c)) = mgetRange d m k n := by
  induction n generalizing k with
  | zero => rfl
  | succ n ih =>
    rw [List.range_succ_eq_map, List.map_cons, List.map_map, mgetRange, ← ih]
    simp [Function.comp_def, Nat.add_assoc, Nat.add_comm 1]

/-- The nine rows of a slot row sent raw: its elements, zeros where ZERO is set, and its window (R73, R120). -/
def Nib.rawRowsAt (n : Nib) (slot k : Nat) : List Row :=
  rawRows (if (n.tag slot).zero then List.replicate 16 0 else mgetRange 0 n.acc (256 * slot + 16 * k) 16) ((n.tag slot).terms k)

theorem Nib.readRaw_clean {n : Nib} (h : n.accUpset = []) {slot : Nat} (hs : slot < 64) (now k : Nat) :
    n.readRaw now slot k = (n.rawRowsAt slot k, (n.tag slot).flags k, n) := by
  have key : accKey slot k = 256 * slot + 16 * k := by rw [accKey, Nat.mod_eq_of_lt hs]
  unfold Nib.readRaw Nib.rawRowsAt
  rw [Nib.accRead_clean h, key]
  cases (n.tag slot).zero
  · simp only [Bool.false_eq_true, if_false, map_range_mget]
  · simp only [if_true, List.map_const', List.length_range]

section
variable {r : RouteEntry} {slot k count i : Nat} (hs : slot < 64) (hk : k < 16) (hu : (s.nib p).accUpset = [])
  (hb : s.bedOf p = some b) (hq : s.physical b r.nib = some q)
include hs hk hu hb hq

/-- A scheduled raw send's first slot row leaves in five flits (R120, R147, R153). -/
theorem State.rawStep_sched (hr : r.async = false) :
    ∃ t, s.rawStep p r slot k count i 0 = (t, if 1 < count then some (.raw (s.acyc + 5) r slot k count i 1) else none) ∧
      s.Queued t q ((List.range 5).flatMap fun j => (s.nib q).flitWrites r (s.acyc + j + (6 + hops p q + 3 * crossings p q))
        (i + 2 * j) ((((s.nib p).rawRowsAt slot k).drop (2 * j)).take 2) (((s.nib p).tag slot).flags k)) := by
  have self := s.setNib_self_queued p q
  have flits := State.foldl_sendFlit_queued ((self.target b r.nib).1.trans hb) ((self.target (p := p) b r.nib).2.trans hq)
    (fun j => i + 2 * j) (fun j => s.acyc + j) (fun j => (((s.nib p).rawRowsAt slot k).drop (2 * j)).take 2)
    (((s.nib p).tag slot).flags k) (List.range 5)
  unfold Nib.flitWrites at flits ⊢
  simp only [self.rowIn] at flits
  refine ⟨_, ?_, self.trans flits⟩
  have acyc := congrArg State.acyc flits.1
  simp only [State.rawStep, State.sendRaw, Nat.add_zero, Nat.mul_zero, Nat.div_eq_of_lt hk, Nat.mod_eq_of_lt hk,
    Nib.readRaw_clean hu hs, hr, Bool.false_eq_true, if_false]
  rw [acyc]
  rfl

/-- An asynchronous raw send's first slot row leaves as one packet (R101, R120, R153). -/
theorem State.rawStep_async (hr : r.async = true) :
    ∃ t, s.rawStep p r slot k count i 0 = (t, if 1 < count then some (.raw (s.acyc + 5) r slot k count i 1) else none) ∧
      s.Packed t [movePkt r b p q i (s.acyc + 8) ((s.nib p).rawRowsAt slot k) (((s.nib p).tag slot).flags k)] := by
  have self := s.setNib_self_queued p q
  have pkt := State.sendPkt_eq ((self.target b r.nib).1.trans hb) ((self.target (p := p) b r.nib).2.trans hq) i (s.acyc + 4)
    ((s.nib p).rawRowsAt slot k) (((s.nib p).tag slot).flags k)
  refine ⟨_, ?_, s.packed_setNib_self p _⟩
  simp only [State.rawStep, State.sendRaw, Nat.add_zero, Nat.mul_zero, Nat.div_eq_of_lt hk, Nat.mod_eq_of_lt hk,
    Nib.readRaw_clean hu hs, hr, if_true, pkt]
  rfl

end

/-- The state in which nib `p` has issued its MOVE slot and read its route. -/
def State.moving (s : State) (p : Nat) : State := (s.setNib p ((s.nib p).setIssued 2)).setNib p ((s.nib p).setIssued 2)

theorem State.moving_nib (s : State) (p k : Nat) : (s.moving p).nib k = if k = p then (s.nib p).setIssued 2 else s.nib k := by
  rw [State.moving, State.setNib_nib, State.setNib_nib]
  split <;> rfl

theorem State.moving_nib_self (s : State) (p : Nat) : (s.moving p).nib p = (s.nib p).setIssued 2 :=
  (s.moving_nib p p).trans (if_pos rfl)

theorem State.moving_queued (s : State) (p q : Nat) : (s.setNib p ((s.nib p).setIssued 2)).Queued (s.moving p) q [] := by
  have self := (s.setNib p ((s.nib p).setIssued 2)).setNib_self_queued p q
  rwa [State.setNib_nib, if_pos rfl] at self

theorem State.Packed.of_moving {ps : List (MUnit × AsyncPkt)} (h : (s.moving p).Packed t ps) :
    (s.setNib p ((s.nib p).setIssued 2)).Packed t ps := by
  obtain ⟨frame, nibs, mesh⟩ := h
  refine ⟨by rw [frame]; rfl, fun k => ?_, mesh⟩
  rw [nibs, State.moving_nib, State.setNib_nib]

theorem State.moving_physical (s : State) (p b n : Nat) : (s.moving p).physical b n = s.physical b n :=
  ((s.moving_queued p p).target (p := p) b n).2.trans (s.issued_target p 2 b n)

theorem State.moving_flitWrites (s : State) (p q : Nat) (r : RouteEntry) (due i fl : Nat) (l : List Row) :
    ((s.moving p).nib q).flitWrites r due i l fl = (s.nib q).flitWrites r due i l fl := by
  rw [State.moving_nib]
  split
  · next e => rw [e]; rfl
  · rfl

theorem State.moving_acyc (s : State) (p : Nat) : (s.moving p).acyc = s.acyc := rfl
theorem State.moving_bedOf (s : State) (p k : Nat) : (s.moving p).bedOf k = s.bedOf k := rfl

@[simp] theorem Nib.rawRowsAt_setIssued (n : Nib) (j slot k : Nat) : (n.setIssued j).rawRowsAt slot k = n.rawRowsAt slot k := by
  unfold Nib.setIssued; split <;> rfl

/-- READ_RAW_SEND reads its route, and its first slot row leaves in the A-cycle of its issue. -/
theorem exec_readRawSend {w : Nat} (h : s.Ready p 2 w) (hop : slotOp w = 0x03) (hc : (s.nib p).scriptUpset = []) :
    let x := (s.moving p).rawStep p ((s.nib p).route (fld w 57 52)) (fld w 51 46) (fld w 45 42) (fld w 41 38 + 1) (fld w 37 22) 0
    exec (.readRawSend p) s = .next (x.1.setNib p { x.1.nib p with acts := (x.1.nib p).acts ++ x.2.toList }) := by
  have hsel : byOp 3 w = true := by simp [byOp, hop]
  have own : (s.setNib p ((s.nib p).setIssued 2)).nib p = (s.nib p).setIssued 2 := (State.setNib_nib ..).trans (if_pos rfl)
  have hc' : ((s.setNib p ((s.nib p).setIssued 2)).nib p).scriptUpset = [] := by rw [own]; exact hc
  show execReadRawSend p s = _
  simp only [execReadRawSend, State.issue_ready h hsel, State.updNib_eq, State.withRoute_clean hc', own, Nib.route_setIssued,
    State.moving]

section
variable {w : Nat} (h : s.Ready p 2 w) (hop : slotOp w = 0x03) (hu : (s.nib p).accUpset = []) (hc : (s.nib p).scriptUpset = [])
  (hb : s.bedOf p = some b) (hq : s.physical b ((s.nib p).route (fld w 57 52)).nib = some q)
include h hop hu hc hb hq

/-- READ_RAW_SEND over a scheduled route sends five flits from the A-cycle of its issue on (R120, R147, R153). -/
theorem exec_readRawSend_sched (hr : ((s.nib p).route (fld w 57 52)).async = false) :
    let n := s.nib p
    let r := n.route (fld w 57 52)
    let slot := fld w 51 46
    let k := fld w 45 42
    let count := fld w 41 38 + 1
    ∃ t, exec (.readRawSend p) s = .next t ∧ s.Sent t p q
      (if 1 < count then [.raw (s.acyc + 5) r slot k count (fld w 37 22) 1] else [])
      ((List.range 5).flatMap fun j => (s.nib q).flitWrites r (s.acyc + j + (6 + hops p q + 3 * crossings p q))
        (fld w 37 22 + 2 * j) (((n.rawRowsAt slot k).drop (2 * j)).take 2) ((n.tag slot).flags k)) := by
  intro n r slot k count
  have own := s.moving_nib_self p
  have hs : slot < 64 := fld_lt w 51 46
  have hk : k < 16 := fld_lt w 45 42
  obtain ⟨t, step, queued⟩ := State.rawStep_sched (s := s.moving p) (p := p) (i := fld w 37 22) (count := count) hs hk
    ((congrArg Nib.accUpset own).trans hu) ((s.moving_bedOf p p).trans hb) ((s.moving_physical p b r.nib).trans hq) hr
  simp only [own, Nib.rawRowsAt_setIssued, Nib.tag_setIssued, State.moving_flitWrites, State.moving_acyc] at queued
  rw [State.moving_acyc] at step
  have he := exec_readRawSend h hop hc
  dsimp only at he
  rw [step] at he
  dsimp only at he
  rw [toList_ite] at he
  exact ⟨_, he, State.sent_of_queued ((s.moving_queued p q).trans queued) _⟩

/-- READ_RAW_SEND over an asynchronous route sends one packet for its first slot row (R101, R120, R153). -/
theorem exec_readRawSend_async (hr : ((s.nib p).route (fld w 57 52)).async = true) :
    let n := s.nib p
    let r := n.route (fld w 57 52)
    let slot := fld w 51 46
    let k := fld w 45 42
    let count := fld w 41 38 + 1
    ∃ t, exec (.readRawSend p) s = .next t ∧ s.Posted t p
      (if 1 < count then [.raw (s.acyc + 5) r slot k count (fld w 37 22) 1] else [])
      [movePkt r b p q (fld w 37 22) (s.acyc + 8) (n.rawRowsAt slot k) ((n.tag slot).flags k)] := by
  intro n r slot k count
  have own := s.moving_nib_self p
  have hs : slot < 64 := fld_lt w 51 46
  have hk : k < 16 := fld_lt w 45 42
  obtain ⟨t, step, packed⟩ := State.rawStep_async (s := s.moving p) (p := p) (i := fld w 37 22) (count := count) hs hk
    ((congrArg Nib.accUpset own).trans hu) ((s.moving_bedOf p p).trans hb) ((s.moving_physical p b r.nib).trans hq) hr
  simp only [own, Nib.rawRowsAt_setIssued, Nib.tag_setIssued, State.moving_acyc] at packed
  rw [State.moving_acyc] at step
  have he := exec_readRawSend h hop hc
  dsimp only at he
  rw [step] at he
  dsimp only at he
  rw [toList_ite] at he
  exact ⟨_, he, State.posted_of_packed packed.of_moving _⟩

end

/-! ### Transposition and gathers -/

/-- An instruction whose effect is on its own nib. -/
theorem State.issue_updNib {k w : Nat} {sel : Nat → Bool} {f : Nat → State → Nib → Nib} (h : s.Ready p k w) (hs : sel w = true)
    (seq : Bool) : s.issue p k sel (fun w s => s.updNib p (f w s)) seq =
      (s.setNib p ((s.nib p).setIssued k)).setNib p (f w (s.setNib p ((s.nib p).setIssued k)) ((s.nib p).setIssued k)) := by
  rw [State.issue_ready h hs, State.updNib_eq, State.updNib_eq, State.setNib_nib, if_pos rfl]

/-- What an instruction on its own nib alone leaves. -/
theorem State.own_next {o : Out1} {m n : Nib} (h : o = .next ((s.setNib p m).setNib p n)) :
    ∃ t, o = .next t ∧ s.OnlyNib t p ∧ t.nib p = n :=
  ⟨_, h, State.setNib_setNib_onlyNib .., (State.setNib_nib ..).trans (if_pos rfl)⟩

theorem Nib.transposeStep_clean {n : Nib} (h : n.padUpset = []) (now bits src dst : Nat) (got : List Row) (fl : Nat) :
    let all := got ++ [mget 0 n.pad ((src + got.length) % 65536)]
    ∃ fl', n.transposeStep now bits src dst got fl = if got.length + 1 < 256 / bits
      then (n, some (.transpose (now + 1) bits src dst all fl'))
      else (n.schedWrites (now + 4) dst (transposed bits (256 / bits) all) fl', none) := by
  refine ⟨fl ||| n.padFlag ((src + got.length) % 65536), ?_⟩
  simp only [Nib.transposeStep, Nib.padRead_clean h, List.length_append, List.length_singleton]

/-- Rows and columns of elements of a width that divides the row's are exchanged (R101). -/
theorem transposed_element {bits k : Nat} {rs : List Row} (hk : bits * k = 256) (hl : rs.length = k) {j i : Nat} (hj : j < k)
    (hi : i < k) : ∃ x, (transposed bits k rs)[j]? = some x ∧ ∃ r, rs[i]? = some r ∧
      bitsAt x.toNat (bits * i) bits = bitsAt r.toNat (bits * j) bits := by
  have fits : pack (rs.map fun r => (bits, bitsAt r.toNat (bits * j) bits)) < 2 ^ 256 := by
    have := pack_lt bits (fun r : Row => bitsAt r.toNat (bits * j) bits) rs
    rwa [hl, hk] at this
  refine ⟨_, by rw [transposed, List.getElem?_map, List.getElem?_range hj]; rfl, rs[i], List.getElem?_eq_getElem (hl ▸ hi), ?_⟩
  rw [BitVec.toNat_ofNat, Nat.mod_eq_of_lt fits, bitsAt_pack bits _ rs (hl ▸ hi)]
  exact Nat.mod_eq_of_lt (Nat.mod_lt _ (Nat.two_pow_pos bits))

theorem transposed_length (bits k : Nat) (rs : List Row) : (transposed bits k rs).length = k := by simp [transposed]

/-- A transposition's element widths divide a row into at least eight elements (R101). -/
theorem transpose_width (w : Nat) : 4 * 2 ^ fld w 57 56 * (256 / (4 * 2 ^ fld w 57 56)) = 256 ∧ 1 < 256 / (4 * 2 ^ fld w 57 56) := by
  have widths : ∀ f, f < 4 → 4 * 2 ^ f * (256 / (4 * 2 ^ f)) = 256 ∧ 1 < 256 / (4 * 2 ^ f) := by decide
  exact widths _ (fld_lt w 57 56)

/-- TRANSPOSE reads its first row in the A-cycle of its issue (R101, R153). -/
theorem exec_transpose {w : Nat} (h : s.Ready p 2 w) (hop : slotOp w = 0x04) (hu : (s.nib p).padUpset = []) :
    let n := s.nib p
    let bits := 4 * 2 ^ fld w 57 56
    let a := n.ra24 (fld w 55 32) (256 / bits)
    let d := n.ra24 (fld w 31 8) (256 / bits)
    let src := n.hrow a.handle a.index
    ∃ fl, exec (.transpose p) s = .next ((s.setNib p (n.setIssued 2)).setNib p { n.setIssued 2 with acts := n.acts ++
      [.transpose (s.acyc + 1) bits src (n.hrow d.handle d.index) [mget 0 n.pad (src % 65536)] fl] }) := by
  intro n bits a d src
  have hsel : byOp 4 w = true := by simp [byOp, hop]
  have hu' : (n.setIssued 2).padUpset = [] := hu
  obtain ⟨fl, step⟩ := Nib.transposeStep_clean hu' s.acyc bits src (n.hrow d.handle d.index) [] 0
  refine ⟨fl, ?_⟩
  have more : ([] : List Row).length + 1 < 256 / bits := (transpose_width w).2
  rw [if_pos more] at step
  show execTranspose p s = _
  simp only [execTranspose, State.issue_updNib h hsel, Nib.ra24_setIssued, Nib.hrow_setIssued, State.setNib_acyc]
  refine congrArg Host.Outcome.next (congrArg (State.setNib _ p) ?_)
  exact congrArg (fun x : Nib × Option Act => { x.1 with acts := x.1.acts ++ x.2.toList }) step

theorem exec_gather {w : Nat} (h : s.Ready p 2 w) (hop : slotOp w = 0x05) :
    let n := s.nib p
    let count := fld w 9 0 + 1
    let a := n.ra24 (fld w 45 22) (cdiv count 8)
    exec (.gather p) s = .next ((s.setNib p (n.setIssued 2)).setNib p { n.setIssued 2 with acts := n.acts ++ [.gather s.acyc {
      src := fld w 57 52, dst := fld w 51 46, list := a.handle, tally := fld w 21 16, group := fld w 15 10 + 1
      count := count, index := a.index } 0 0 none] }) := by
  have hsel : byOp 5 w = true := by simp [byOp, hop]
  show execGather p s = _
  simp only [execGather, State.addAct, State.issue_ready h hsel, State.updNib_eq, State.setNib_nib, if_true, Nib.ra24_setIssued,
    State.setNib_acyc]
  rfl

end Sys2Proof.Machine
end

section
open Sys2Proof Sys2Proof.Machine

/-- A send of more than one slot row has work left. -/
theorem rest_of_count {α : Type} (k : Nat) (l : List α) : (if 1 < k + 1 then l else []) = if k + 1 = 1 then [] else l := by
  by_cases hk : k = 0
  · rw [if_neg (by omega), if_pos (by omega)]
  · rw [if_pos (by omega), if_neg (by omega)]

/-- Settles O10. Every flit is queued at the route's target, and the sending nib keeps its other parts, also where it sends to itself. -/
theorem scheduledSends : Obligations.ScheduledSends := by
  intro s p w b q h hu ha hc hb hq n r lat lands only
  have isOnly {t : State} {as : List Act} {ws : List PendWrite} (sent : s.Sent t p q as ws) :
      only t ∧ (t.nib q).wq = (s.nib q).wq ++ ws ∧ (t.nib p).acts = n.acts ++ as := by
    obtain ⟨frame, others, target, own, writes⟩ := sent
    have acts : (t.nib p).acts = n.acts ++ as := congrArg Nib.acts own
    exact ⟨⟨frame, others, target, by rw [acts]; exact own⟩, writes, acts⟩
  refine ⟨fun hop => ?_, fun hop hr => ?_⟩
  · obtain ⟨t, he, sent⟩ := exec_sendSched h hop hu hc hb hq
    exact ⟨t, he, isOnly sent⟩
  · obtain ⟨t, he, sent⟩ := exec_readRawSend_sched h hop ha hc hb hq hr
    obtain ⟨honly, writes, acts⟩ := isOnly sent
    refine ⟨t, he, honly, acts.trans ?_, writes⟩
    rw [rest_of_count]

/-- Settles O11. A packet of the rows read so far enters the mesh, or the send reads on. -/
theorem asynchronousSends : Obligations.AsynchronousSends := by
  intro s p w b q h hu ha hc hb hq n r pkt only
  have isOnly {t : State} {as : List Act} {ps : List (MUnit × AsyncPkt)} (sent : s.Posted t p as ps) :
      only t ∧ t.mesh = s.mesh ++ ps ∧ (t.nib p).acts = n.acts ++ as := by
    obtain ⟨frame, others, own, mesh⟩ := sent
    have acts : (t.nib p).acts = n.acts ++ as := congrArg Nib.acts own
    exact ⟨⟨frame, others, by rw [acts]; exact own⟩, mesh, acts⟩
  refine ⟨fun hop => ?_, fun hop hr => ?_⟩
  · obtain ⟨t, he, sent⟩ := exec_sendAsync h hop hu hc hb hq
    exact ⟨t, he, isOnly sent⟩
  · obtain ⟨t, he, sent⟩ := exec_readRawSend_async h hop ha hc hb hq hr
    obtain ⟨honly, mesh, acts⟩ := isOnly sent
    refine ⟨t, he, honly, mesh, acts.trans ?_⟩
    rw [rest_of_count]

/-- Settles O12. The last row's exchange is that of packed fields, each read back at its own place. -/
theorem transposeAndGather : Obligations.TransposeAndGather := by
  intro s p w h n
  refine ⟨?_, fun hop => State.own_next (exec_gather h hop)⟩
  intro hop hu bits k a d src dst
  obtain ⟨hbits, _⟩ := transpose_width w
  obtain ⟨fl, he⟩ := exec_transpose h hop hu
  obtain ⟨t, next, only, nib⟩ := State.own_next he
  refine ⟨⟨t, fl, next, only, nib⟩, ?_⟩
  intro m now fl got hm _ all
  obtain ⟨fl', step⟩ := Nib.transposeStep_clean hm now bits src dst got fl
  refine ⟨fun more => ⟨fl', step.trans (if_pos more)⟩, fun last => ?_⟩
  have hall : all.length = k := by simp [all, last]
  have hlen := transposed_length bits k all
  rw [if_neg (by omega), Nib.schedWrites, Nib.foldl_schedWrite] at step
  refine ⟨_, step, by rw [List.length_map, List.length_zipIdx, hlen], fun j hj => ?_⟩
  have hx : (transposed bits k all)[j]? = some (transposed bits k all)[j] := List.getElem?_eq_getElem (by omega)
  refine ⟨_, by rw [List.getElem?_map, List.getElem?_zipIdx, hx]; rfl, rfl, by simp, fun i hi => ?_⟩
  obtain ⟨x, hj', r, hr, element⟩ := transposed_element hbits hall hj hi
  obtain rfl := Option.some.inj (hx.symm.trans hj')
  exact ⟨r, hr, element⟩

end

section
/-!
SUPPORT. What records and events may change of the device: what has left it, the functions' pending messages, the fault log, the
beds' queues and hold areas, and what a ring in device memory is stored in (R359, R360, R379, R402, R523).
-/
namespace Sys2Proof.Machine

variable {s t u : State}

/-- `t` is `s` with records, messages and fault-log entries added. -/
structure State.Noted (s t : State) : Prop where
  frame : t = { s with
    out := t.out, nibs := t.nibs, beds := t.beds, pcie := { s.pcie with fns := t.pcie.fns }
    twin := { s.twin with log := t.twin.log, logHead := t.twin.logHead, written := t.twin.written }
    mem := t.mem, memUpset := t.memUpset, chans := t.chans, msys := t.msys }
  pads : sansPads t.nibs = sansPads s.nibs
  bed : ∀ c, t.bed c = { s.bed c with queues := (t.bed c).queues, held := (t.bed c).held }
  sound : s.Sound → t.Sound

theorem State.Noted.refl (s : State) : s.Noted s := ⟨rfl, rfl, fun _ => rfl, id⟩

theorem State.Noted.trans (h : s.Noted t) (k : t.Noted u) : s.Noted u where
  frame := by rw [k.frame, h.frame]
  pads := k.pads.trans h.pads
  bed c := by rw [k.bed, h.bed]
  sound w := k.sound (h.sound w)

theorem State.Noted.ite {c : Prop} [Decidable c] (h : s.Noted t) (k : s.Noted u) : s.Noted (if c then t else u) := by
  split <;> assumption

theorem State.noted_foldl {α : Type} {f : State → α → State} (h : ∀ (s : State) a, s.Noted (f s a)) (s : State) (l : List α) :
    s.Noted (l.foldl f s) := by
  induction l generalizing s with
  | nil => exact .refl s
  | cons a l ih => exact (h s a).trans (ih _)

theorem State.MemOnly.noted (h : s.MemOnly t) (pads : sansPads t.nibs = sansPads s.nibs) : s.Noted t where
  frame := by rw [h.1]
  pads := pads
  bed c := by
    have beds : t.bed c = s.bed c := by rw [h.1]; rfl
    rw [beds]
  sound := h.2

theorem State.writeDev_noted (a : Nat) (bs : List Byte) : s.Noted (s.writeDev a bs).1 :=
  (State.writeDev_memOnly a bs).noted (State.writeDev_sansPads a bs)

theorem State.emit_noted (o : Out) : s.Noted (s.emit o) := ⟨rfl, rfl, fun _ => rfl, id⟩
theorem State.updFn_noted (f : Nat) (g : Fn → Fn) : s.Noted (s.updFn f g) := ⟨rfl, rfl, fun _ => rfl, id⟩

/-- A change of a bed's queues and hold area. -/
theorem State.updBed_noted {b : Nat} {f : Bed → Bed} (h : ∀ x, f x = { x with queues := (f x).queues, held := (f x).held }) :
    s.Noted (s.updBed b f) := by
  refine ⟨rfl, rfl, fun c => ?_, id⟩
  unfold State.updBed
  rw [State.setBed_bed]
  split
  · next e => rw [e]; exact h _
  · rfl

theorem State.updQueue_noted (b q : Nat) (f : Queue → Queue) : s.Noted (s.updQueue b q f) :=
  State.updBed_noted fun x => by split <;> rfl

theorem State.message_noted (f v : Nat) : s.Noted (s.message f v) := by
  unfold State.message
  exact .ite (.refl s) (.ite (State.updFn_noted ..) (State.emit_noted _))

theorem State.queueMessage_noted (b q : Nat) : s.Noted (s.queueMessage b q) := by
  unfold State.queueMessage
  split
  · exact .refl s
  · exact .ite ((State.updQueue_noted ..).trans (State.message_noted ..)) (State.updQueue_noted ..)

theorem State.moderate_noted (b q : Nat) (r : Rec) (quiet : Bool) : s.Noted (s.moderate b q r quiet) := by
  unfold State.moderate
  dsimp only
  split
  · exact .refl s
  · exact .ite (State.queueMessage_noted ..) (.ite (.refl s) (.ite (State.queueMessage_noted ..) (State.updQueue_noted ..)))

theorem State.writeRecord_noted (b q : Nat) (r : Rec) (quiet : Bool) : s.Noted (s.writeRecord b q r quiet) := by
  unfold State.writeRecord
  split
  · exact .refl s
  · exact (State.Noted.ite (State.writeDev_noted ..) (State.emit_noted _)).trans
      ((State.updQueue_noted ..).trans (State.moderate_noted ..))

theorem State.queueRecord_noted (b q : Nat) (r : Rec) (quiet : Bool) : s.Noted (s.queueRecord b q r quiet) := by
  unfold State.queueRecord
  exact .ite (State.writeRecord_noted ..) (State.updBed_noted fun _ => rfl)

theorem State.queueEvent_noted (f : Nat) (r : Rec) : s.Noted (s.queueEvent f r) := by
  unfold State.queueEvent
  refine .ite (.refl s) ?_
  split
  · exact State.updBed_noted fun _ => rfl
  · exact State.queueRecord_noted ..

theorem State.sendTwin_noted (m : TwinMsg) : s.Noted (s.sendTwin m) := by
  unfold State.sendTwin
  split
  · exact State.emit_noted _
  · exact .refl s

theorem State.logEntry_noted (code kind bed unit w aux : Nat) : s.Noted (s.logEntry code kind bed unit w aux) := by
  have logged : s.Noted { s with twin := { s.twin with
      log := mset [] s.twin.log s.twin.logHead (logBytes s.now code kind bed unit w s.boot.epoch aux)
      logHead := (s.twin.logHead + 1) % 1024, written := satAdd 32 s.twin.written 1 } } := ⟨rfl, rfl, fun _ => rfl, id⟩
  exact .ite (logged.trans (State.sendTwin_noted _)) logged

/-- An event adds records, messages and a fault-log entry (R379, R523). -/
theorem State.event_noted (fns : List Nat) (e : Ev) : s.Noted (s.event fns e) :=
  (State.Noted.ite (.refl s) (State.logEntry_noted ..)).trans (State.noted_foldl (fun _ f => State.queueEvent_noted f _) _ _)

theorem State.complete_noted (p : PktRef) (r : Rec) : s.Noted (s.complete p r) := State.queueRecord_noted ..

/-! ### What stays -/

theorem State.Noted.acyc (h : s.Noted t) : t.acyc = s.acyc := by rw [h.frame]
theorem State.Noted.boot (h : s.Noted t) : t.boot = s.boot := by rw [h.frame]
theorem State.Noted.flash (h : s.Noted t) : t.flash = s.flash := by rw [h.frame]
theorem State.Noted.runs (h : s.Noted t) : t.runs = s.runs := by rw [h.frame]; rfl
theorem State.Noted.now (h : s.Noted t) : t.now = s.now := by rw [h.frame]; rfl

end Sys2Proof.Machine
end

section
/-!
SUPPORT. Laws of the CONTROL slot: sequencing, tallies, sync points, END and the timers of a nib that runs (R86–R91, R126–R144).
-/
namespace Sys2Proof.Machine

variable {s t : State} {p b w : Nat}

/-- What a change of a nib alone leaves. -/
theorem State.own_next_one {o : Out1} {n : Nib} (h : o = .next (s.setNib p n)) : ∃ t, o = .next t ∧ s.OnlyNib t p ∧ t.nib p = n :=
  ⟨_, h, State.onlyNib_setNib .., (State.setNib_nib ..).trans (if_pos rfl)⟩

theorem byOp_of_eq {op : Nat} (h : slotOp w = op) : byOp op w = true := by simp [byOp, h]

/-! ### Sequencing -/

theorem exec_nibLoop (h : s.Ready p 3 w) (hop : slotOp w = 0x03) :
    let n := s.nib p
    exec (.nibLoop p) s = .next ((s.setNib p (n.setIssued 3)).setNib p { n.setIssued 3 with loops := {
      level := fld w 57 56, start := n.pc + 1, len := fld w 55 43, count := fld w 42 27 + 1
      run := if bitAt w 26 then cdiv ((n.shape (fld w 25 23)).field (fld w 22 20)) (2 ^ fld w 19 16) else fld w 42 27 + 1
      iter := 0 } :: n.loops }) :=
  congrArg Host.Outcome.next (State.issue_updNib h (byOp_of_eq hop) true)

theorem exec_nibPhase (h : s.Ready p 3 w) (hop : slotOp w = 0x04) :
    let n := s.nib p
    exec (.nibPhase p) s = .next ((s.setNib p (n.setIssued 3)).setNib p { n.setIssued 3 with phase := { n.phase with
      elastic := bitAt w 57, start := s.acyc, len := fld w 56 33 + 1, closed := false } }) :=
  congrArg Host.Outcome.next (State.issue_updNib h (byOp_of_eq hop) false)

theorem exec_nibIdle (h : s.Ready p 3 w) (hop : slotOp w = 0x07) :
    exec (.nibIdle p) s = .next ((s.setNib p ((s.nib p).setIssued 3)).setNib p
      { (s.nib p).setIssued 3 with hold := .idle (s.acyc + fld w 57 34 + 2) }) :=
  congrArg Host.Outcome.next (State.issue_updNib h (byOp_of_eq hop) true)

theorem exec_macroExt (h : s.Ready p 0 w) (hop : slotOp w = 0x3F) :
    exec (.macroExt p) s = .next (s.setNib p ((s.nib p).setIssued 0)) := by
  refine congrArg Host.Outcome.next ((State.issue_ready h (byOp_of_eq hop)).trans ?_)
  rw [State.updNib_eq]

/-! ### Tallies -/

theorem exec_nibWait (h : s.Ready p 3 w) (hop : slotOp w = 0x01) :
    let n := (s.nib p).setIssued 3
    exec (.nibWait p) s = .next ((s.setNib p n).setNib p
      { (if n.syncBegins then n.closePhase else n).updTally (fld w 57 52) fun x => { x with waiting := true } with
        hold := .wait (fld w 57 52) (fld w 51 28) (fld w 27 4 + 1) s.acyc (bitAt w 3) }) :=
  congrArg Host.Outcome.next (State.issue_updNib h (byOp_of_eq hop) false)

/-- The closing of a phase changes that phase alone. -/
theorem Nib.closePhase_ite (c : Bool) (n : Nib) :
    (if c then n.closePhase else n) = { n with phase := { n.phase with closed := (if c then n.closePhase else n).phase.closed } } := by
  cases c <;> rfl

theorem exec_tallyClear (h : s.Ready p 3 w) (hop : slotOp w = 0x02) :
    exec (.tallyClear p) s = .next ((s.setNib p ((s.nib p).setIssued 3)).setNib p
      (((s.nib p).setIssued 3).updTally (fld w 57 52) fun x => { x with count := x.fresh })) :=
  congrArg Host.Outcome.next (State.issue_updNib h (byOp_of_eq hop) false)

/-- What a WAIT that is met leaves: its tally no longer waits, and with CONSUME its COUNT drops by E (R88, R89). -/
def Nib.waited (n : Nib) (tl e : Nat) (c : Bool) : Nib :=
  let m := n.updTally tl fun x => { x with waiting := false }
  { (if c then m.consume tl e else m) with hold := .none }

theorem Nib.waited_frame (n : Nib) (tl e : Nat) (c : Bool) :
    n.waited tl e c = { n with hold := .none, tallies := (n.waited tl e c).tallies } := by
  cases c <;> rfl

theorem Nib.tally_waited (n : Nib) (tl e : Nat) (c : Bool) (u : Nat) : (n.waited tl e c).tally u =
    if u = tl then { n.tally tl with waiting := false, count := (n.tally tl).count - if c then e else 0 } else n.tally u := by
  have first (v : Nat) := n.tally_updTally tl v fun x => { x with waiting := false }
  cases c
  · exact first u
  · refine ((n.updTally tl fun x => { x with waiting := false }).tally_updTally tl u fun x => { x with count := x.count - e }).trans ?_
    rw [first, first, if_pos rfl]
    split <;> rfl

theorem exec_waitComplete {tl e l x : Nat} {c : Bool} (hr : s.runs = true) (hst : (s.nib p).st = .running)
    (hold : (s.nib p).hold = .wait tl e l x c) (met : e ≤ ((s.nib p).tally tl).count) :
    exec (.waitComplete p) s = .next (s.setNib p ((s.nib p).waited tl e c)) := by
  have hmet : (s.nib p).met tl e = true := decide_eq_true met
  show execWaitComplete p s = _
  simp only [execWaitComplete, hold]
  rw [if_pos ⟨hr, hst, hmet⟩, State.updNib_eq]
  rfl

/-! ### Sync points and END -/

theorem exec_nibSync (h : s.Ready p 3 w) (hop : slotOp w = 0x05) :
    let n := ((s.nib p).setIssued 3).closePhase.kvqClose
    exec (.nibSync p) s = .next ((s.setNib p ((s.nib p).setIssued 3)).setNib p
      (if bitAt w 57 then { n with signalled := true, hold := .barrier s.acyc (fld w 56 33 + 1) none } else n)) :=
  congrArg Host.Outcome.next (State.issue_updNib h (byOp_of_eq hop) false)

/-- Counting once for each key of a list counts a key once, however often it stands there. -/
theorem mget_foldl_count (m : SMap Nat) {l : List Nat} (h : l.Nodup) (k : Nat) :
    mget 0 (l.foldl (fun m h => mupd 0 m h (· + 1)) m) k = mget 0 m k + if k ∈ l then 1 else 0 := by
  induction l generalizing m with
  | nil => rfl
  | cons a l ih =>
    obtain ⟨ha, hl⟩ := List.nodup_cons.mp h
    rw [List.foldl_cons, ih _ hl, mget_mupd]
    by_cases e : k = a
    · subst e
      simp [ha]
    · simp [e]

theorem nodup_eraseDups {α : Type} [BEq α] [LawfulBEq α] (l : List α) : l.eraseDups.Nodup := by
  induction hn : l.length using Nat.strongRecOn generalizing l with
  | ind n ih =>
    cases l with
    | nil => exact List.nodup_nil
    | cons a l =>
      have shorter := List.length_filter_le (fun b => !b == a) l
      rw [List.eraseDups_cons, List.nodup_cons]
      refine ⟨by simp [List.mem_eraseDups], ih _ ?_ _ rfl⟩
      rw [← hn, List.length_cons]
      omega

/-- The KVQ records written since the last SYNC are done, each handle once (R269). -/
theorem Nib.kvqDone_kvqClose (n : Nib) (h : Nat) :
    mget 0 n.kvqClose.kvqDone h = mget 0 n.kvqDone h + if h ∈ n.phase.kvq then 1 else 0 := by
  have counted := mget_foldl_count n.kvqDone (nodup_eraseDups n.phase.kvq) h
  simp only [List.mem_eraseDups] at counted
  exact counted

/-- The nib once its script has ended: a correction its last bundle needed is counted (R144, R152). -/
def Nib.ending (n : Nib) : Nib :=
  { n with issuedC := true, hold := .ended, errCorr := if n.bundle.2 then n.errCorr + 1 else n.errCorr }

theorem Nib.fetched_setIssued (n : Nib) : { (n.setIssued 3).fetched with hold := .ended } = n.ending := by
  have bundle : (n.setIssued 3).bundle.2 = n.bundle.2 := rfl
  unfold Nib.fetched Nib.ending
  rw [bundle]
  split <;> rfl

/-- A bed whose every nib has ended reports its step done D A-cycles later (R144). -/
def State.endReport (s : State) (b : Nat) : State :=
  if (s.bedNibs b).all fun q => (s.nib q).hold == .ended then
    s.updBed b fun bd => { bd with step := bd.step.map fun t => { t with doneAt := some (s.acyc + barrierD bd) } }
  else s

theorem exec_endStep (h : s.Ready p 3 w) (hop : slotOp w = 0x06) (hb : s.bedOf p = some b) :
    exec (.endStep p) s = .next (((s.setNib p ((s.nib p).setIssued 3)).setNib p (s.nib p).ending).endReport b) := by
  refine congrArg Host.Outcome.next ((State.issue_ready h (byOp_of_eq hop)).trans ?_)
  dsimp only
  rw [State.updNib_eq, State.updNib_eq, State.setNib_nib, if_pos rfl, Nib.fetched_setIssued]
  have bed : ((s.setNib p ((s.nib p).setIssued 3)).setNib p (s.nib p).ending).bedOf p = some b := hb
  simp only [bed]
  rfl

/-- A change of a bed's step leaves the bed its nibs. -/
theorem State.bedNibs_updStep (b : Nat) (f : Option Step → Option Step) :
    (s.updBed b fun bd => { bd with step := f bd.step }).bedNibs b = s.bedNibs b := by
  have bed : (s.updBed b fun bd => { bd with step := f bd.step }).bed b = _ := (State.setBed_bed ..).trans (if_pos rfl)
  unfold State.bedNibs
  rw [bed]
  rfl

theorem State.endReport_spec (s : State) (b : Nat) :
    let t := s.endReport b
    t = { s with beds := t.beds } ∧ (∀ c, c ≠ b → t.bed c = s.bed c) ∧
      t.bed b = if (t.bedNibs b).all fun q => (t.nib q).hold == .ended then
          { s.bed b with step := (s.bed b).step.map fun x => { x with doneAt := some (s.acyc + barrierD (s.bed b)) } }
        else s.bed b := by
  unfold State.endReport
  by_cases done : ((s.bedNibs b).all fun q => (s.nib q).hold == .ended) = true
  · simp only [if_pos done]
    refine ⟨rfl, fun c hc => (State.setBed_bed ..).trans (if_neg hc), ?_⟩
    have nibs := s.bedNibs_updStep b fun o => o.map fun x => { x with doneAt := some (s.acyc + barrierD (s.bed b)) }
    exact ((State.setBed_bed ..).trans (if_pos rfl)).trans (if_pos ((congrArg (List.all · _) nibs).trans done)).symm
  · rw [if_neg done]
    exact ⟨rfl, fun _ _ => rfl, (if_neg done).symm⟩

theorem State.nib_congr {u : State} (h : t.nibs = u.nibs) (q : Nat) : t.nib q = u.nib q := congrArg (fun m => mget ({} : Nib) m q) h

theorem State.setNib_setNib_spec (s : State) (p : Nat) (m v : Nib) :
    (s.setNib p m).setNib p v = { s with nibs := ((s.setNib p m).setNib p v).nibs } ∧
      ∀ q, ((s.setNib p m).setNib p v).nib q = if q = p then v else s.nib q := by
  refine ⟨rfl, fun q => ?_⟩
  rw [State.setNib_nib, State.setNib_nib]
  split <;> rfl

/-- END ends its nib's script, and may end the step (R144). -/
theorem exec_endStep_spec (h : s.Ready p 3 w) (hop : slotOp w = 0x06) (hb : s.bedOf p = some b) :
    ∃ t, exec (.endStep p) s = .next t ∧ t = { s with nibs := t.nibs, beds := t.beds } ∧
      (∀ q, t.nib q = if q = p then (s.nib p).ending else s.nib q) ∧ (∀ c, c ≠ b → t.bed c = s.bed c) ∧
      t.bed b = if (t.bedNibs b).all fun q => (t.nib q).hold == .ended then
          { s.bed b with step := (s.bed b).step.map fun x => { x with doneAt := some (s.acyc + barrierD (s.bed b)) } }
        else s.bed b := by
  have he := exec_endStep h hop hb
  obtain ⟨frame, nib⟩ := State.setNib_setNib_spec s p ((s.nib p).setIssued 3) (s.nib p).ending
  generalize (s.setNib p ((s.nib p).setIssued 3)).setNib p (s.nib p).ending = u at he frame nib
  obtain ⟨frame', others, bed⟩ := State.endReport_spec u b
  generalize u.endReport b = t at he frame' others bed
  have beds (c : Nat) : u.bed c = s.bed c := by rw [frame]; rfl
  have acyc : u.acyc = s.acyc := by rw [frame]
  have nibs : t.nibs = u.nibs := by rw [frame']
  rw [beds, acyc] at bed
  exact ⟨t, he, by rw [frame', frame], fun q => (State.nib_congr nibs q).trans (nib q), fun c hc => (others c hc).trans (beds c), bed⟩

/-! ### Timers -/

/-- A nib that faults by a timer holds TALLY_TIMEOUT (R142, R154). -/
theorem State.nibFault_record (hb : s.bedOf p = some b) (code unit : Nat) (a : FaultAddr) :
    let t := s.nibFault p code unit a
    (t.nib p).st = .faulted ∧ (t.nib p).faultCode = code ∧ (t.nib p).faultUnit = unit ∧
      (t.nib p).faultAddr = a ∧ (t.nib p).faultCycle = s.stepCycle b ∧ (t.nib p).hold = .none := by
  have fault := State.nibFault_sansPad hb code unit a
  have faultAddr := congrArg Nib.faultAddr fault
  have faultCycle := congrArg Nib.faultCycle fault
  have hold := congrArg Nib.hold fault
  exact ⟨congrArg Nib.st fault, congrArg Nib.faultCode fault, congrArg Nib.faultUnit fault, faultAddr, faultCycle, hold⟩

theorem exec_waitTimeout {tl e l x : Nat} {c : Bool} (hr : s.runs = true) (hst : (s.nib p).st = .running)
    (hold : (s.nib p).hold = .wait tl e l x c) (unmet : ((s.nib p).tally tl).count < e) (due : x + l + 1 ≤ s.acyc) :
    exec (.waitTimeout p) s = .next (s.nibFault p 0x41 8 { tally := tl }) := by
  have hmet : ¬ (s.nib p).met tl e = true := by simp [Nib.met]; omega
  show execWaitTimeout p s = _
  simp only [execWaitTimeout, hold]
  rw [if_pos ⟨hr, hst, hmet, due⟩]
  rfl

theorem exec_elasticPhaseTimeout (hr : s.runs = true) (hst : (s.nib p).st = .running)
    (late : (s.nib p).phaseOver s.acyc = true) : exec (.elasticPhaseTimeout p) s = .next (s.nibFault p 0x41 9) :=
  congrArg Host.Outcome.next (if_pos ⟨hr, hst, late⟩)

/-- The record of a barrier's expiry in the nib that waits (R142). -/
def Nib.barrierExpired (n : Nib) (cycle : Nat) : Nib := { n with
  st := .faulted, faultCode := 0x41, faultUnit := 8, faultBundle := n.bundleAddr n.pc % 8192, faultCycle := cycle, hold := .none
  acts := n.acts.filter Act.scrubs, wq := [] }

/-- A barrier that expires faults its nib, unless one nib alone is silent a second time, which is then fenced (R142, R505). -/
theorem exec_barrierTimeout {x l : Nat} (hr : s.runs = true) (hst : (s.nib p).st = .running) (hb : s.bedOf p = some b)
    (hold : (s.nib p).hold = .barrier x l none) (due : x + l + 1 ≤ s.acyc) :
    exec (.barrierTimeout p) s = .next (match s.loneSilent b with
      | some q =>
        let t := s.updNib q fun m => { m with loneBarrier := (s.nib q).loneBarrier + 1 }
        if 2 ≤ (s.nib q).loneBarrier + 1 then (t.updNib p fun n => n.barrierExpired (s.stepCycle b)).fence q
        else t.nibFault p 0x41 8
      | none => s.nibFault p 0x41 8) := by
  show execBarrierTimeout p s = _
  simp only [execBarrierTimeout, hold, hb, hr, hst, due, decide_true, beq_self_eq_true, Bool.and_self, if_true]
  rfl

/-- A listed value that stays listed is mapped where it stands. -/
theorem mget_mmap_of_ne {α : Type} [DecidableEq α] {d : α} {f : Nat → α → α} {m : SMap α} {k : Nat} (h : mget d m k ≠ d)
    (hf : f k (mget d m k) ≠ d) : mget d (mmap d f m) k = f k (mget d m k) := by
  induction m with
  | nil => exact absurd rfl h
  | cons e m ih =>
    obtain ⟨j, v⟩ := e
    by_cases e : j = k
    · subst e
      have here : mget d ((j, v) :: m) j = v := if_pos rfl
      rw [here] at hf ⊢
      rw [mmap, if_neg hf]
      exact if_pos rfl
    · have next : mget d ((j, v) :: m) k = mget d m k := if_neg e
      rw [next] at h hf ⊢
      have rest := ih h hf
      rw [mmap]
      split
      · exact rest
      · exact (if_neg e).trans rest

/-- A nib without the counts of its epoch (R500, R505). -/
def Nib.newEpoch (n : Nib) : Nib := { n with uncorrFaults := 0, loneBarrier := 0 }

/-- A new epoch leaves a nib that has faulted or is fenced its state and its fault record (R500, R505). -/
theorem State.raiseEpoch_spec (status r1 w : Nat) : (s.raiseEpoch status r1 w).flash = s.flash ∧
    ∀ q, (s.nib q).st ≠ ({} : Nib).st → ((s.raiseEpoch status r1 w).nib q).st = (s.nib q).st ∧
      ((s.raiseEpoch status r1 w).nib q).faultCode = (s.nib q).faultCode := by
  unfold State.raiseEpoch
  split
  · exact ⟨rfl, fun _ _ => ⟨rfl, rfl⟩⟩
  · dsimp only
    generalize hu : ({ s with
      boot := { s.boot with epoch := s.boot.epoch + 1 }
      nibs := mmap {} (fun _ n => { n with uncorrFaults := 0, loneBarrier := 0 }) s.nibs
      chans := mmap {} (fun _ c => { c with epochUncorr := 0 }) s.chans } : State) = u
    have noted := State.event_noted (s := u) u.allFns
    refine ⟨(noted _).flash.trans (by rw [← hu]), fun q h => ?_⟩
    have nib : u.nib q = (s.nib q).newEpoch := by
      rw [← hu]
      exact mget_mmap_of_ne (f := fun _ => Nib.newEpoch) (fun e => h (congrArg Nib.st e))
        (fun e => h ((rfl : (s.nib q).st = (s.nib q).newEpoch.st).trans (congrArg Nib.st e)))
    have st : (u.nib q).st = (s.nib q).st := by rw [nib]; rfl
    have code : (u.nib q).faultCode = (s.nib q).faultCode := by rw [nib]; rfl
    have pad (e : Ev) := congrFun (noted e).pads q
    exact ⟨(congrArg Nib.st (pad _)).trans st, (congrArg Nib.faultCode (pad _)).trans code⟩

/-- The bed fault of a fence leaves the flash, and a nib that does not run but for its scratchpad (R104, R505). -/
theorem State.bedFault_fence (b code unit nib bundle p : Nat) : (s.bedFault b code unit nib bundle p true).flash = s.flash ∧
    ∀ q, (s.nib q).st ≠ .running → ((s.bedFault b code unit nib bundle p true).nib q).sansPad = (s.nib q).sansPad := by
  have flash : (s.stopNibs b).flash = s.flash :=
    List.foldlRecOn (motive := fun t : State => t.flash = s.flash) _ _ rfl fun (t : State) ht q _ => ht
  refine ⟨(State.event_noted ..).flash.trans flash, fun q hq => ?_⟩
  refine (congrFun (State.bedFault_sansPads ..) q).trans (congrArg Nib.sansPad (a₁ := (s.stopNibs b).nib q) ?_)
  rw [State.stopNibs_nib]
  split
  · exact if_neg hq
  · rfl

/-- A nib out of service (R505). -/
def Nib.fenced (n : Nib) : Nib := { n with st := .fenced, hold := .none }

/-- A nib taken out of service, and its mark (R505). -/
def State.fencing (s : State) (q : Nat) : State := { s.updNib q Nib.fenced with flash := { s.flash with
  nibMarks := if s.flash.nibMarks.contains q then s.flash.nibMarks else q :: s.flash.nibMarks } }

theorem State.fence_eq (s : State) (q : Nat) : s.fence q = match s.bedOf q with
    | some b => (((s.fencing q).bedFault b Status.nibRetired.code 0 (s.logical b q)
        ((s.nib q).bundleAddr (s.nib q).pc % 8192) q true).updBed b fun bd => { bd with afterFence := true }).raiseEpoch
          Status.nibRetired.code b q
    | none => (s.fencing q).raiseEpoch 0 0xFFFFFFFF q := by
  unfold State.fence
  cases h : s.bedOf q <;> rfl

/-- The fence of a nib leaves it FENCED with its mark, and another nib that has faulted its record (R505, R506). -/
theorem State.fence_spec {q : Nat} (hp : (s.nib p).st = .faulted) (hqp : q ≠ p) :
    ((s.fence q).nib q).st = .fenced ∧ q ∈ (s.fence q).flash.nibMarks ∧ ((s.fence q).nib p).st = .faulted ∧
      ((s.fence q).nib p).faultCode = (s.nib p).faultCode := by
  rw [State.fence_eq]
  generalize hu : s.fencing q = u
  have nib (k : Nat) : u.nib k = if k = q then (s.nib q).fenced else s.nib k := by
    rw [← hu]
    exact s.setNib_nib q k (s.nib q).fenced
  have hq : (u.nib q).st = .fenced := by rw [nib, if_pos rfl]; rfl
  have own : u.nib p = s.nib p := (nib p).trans (if_neg (Ne.symm hqp))
  have hp' : (u.nib p).st = .faulted := by rw [own, hp]
  have mark : q ∈ u.flash.nibMarks := by
    rw [← hu]
    unfold State.fencing
    dsimp only
    split
    · next h => exact List.contains_iff_mem.mp h
    · exact List.mem_cons_self
  have raised {t : State} (flash : t.flash = u.flash) (pad : ∀ k, (u.nib k).st ≠ .running → (t.nib k).sansPad = (u.nib k).sansPad)
      (status r1 w : Nat) : ((t.raiseEpoch status r1 w).nib q).st = .fenced ∧ q ∈ (t.raiseEpoch status r1 w).flash.nibMarks ∧
        ((t.raiseEpoch status r1 w).nib p).st = .faulted ∧ ((t.raiseEpoch status r1 w).nib p).faultCode = (s.nib p).faultCode := by
    have padq := pad q (by rw [hq]; decide)
    have padp := pad p (by rw [hp']; decide)
    have stq : (t.nib q).st = .fenced := (congrArg Nib.st padq).trans hq
    have stp : (t.nib p).st = .faulted := (congrArg Nib.st padp).trans hp'
    have code : (t.nib p).faultCode = (s.nib p).faultCode := by
      rw [← own]
      exact congrArg Nib.faultCode (a₁ := (t.nib p).sansPad) (a₂ := (u.nib p).sansPad) padp
    obtain ⟨sameFlash, keeps⟩ := State.raiseEpoch_spec (s := t) status r1 w
    obtain ⟨stq', _⟩ := keeps q (by rw [stq]; decide)
    obtain ⟨stp', code'⟩ := keeps p (by rw [stp]; decide)
    exact ⟨stq'.trans stq, by rw [sameFlash, flash]; exact mark, stp'.trans stp, code'.trans code⟩
  split
  · next b _ =>
    obtain ⟨flash, pad⟩ := State.bedFault_fence (s := u) b Status.nibRetired.code 0 (s.logical b q)
      ((s.nib q).bundleAddr (s.nib q).pc % 8192) q
    generalize u.bedFault b Status.nibRetired.code 0 (s.logical b q) ((s.nib q).bundleAddr (s.nib q).pc % 8192) q true = t at flash pad
    exact raised (t := t.updBed b fun bd => { bd with afterFence := true }) flash pad ..
  · exact raised rfl (fun _ _ => rfl) ..

end Sys2Proof.Machine
end

section
open Sys2Proof Sys2Proof.Machine

/-- Settles O13. Each issues, and changes the sequencing of its own nib. -/
theorem sequencingControl : Obligations.SequencingControl := by
  intro s p w n
  refine ⟨fun h hop => State.own_next (exec_nibLoop h hop), fun h hop => State.own_next (exec_nibPhase h hop), fun h hop => ?_,
    fun h hop => State.own_next_one (exec_macroExt h hop)⟩
  obtain ⟨t, next, only, nib⟩ := State.own_next (exec_nibIdle h hop)
  exact ⟨t, next, only, nib.trans (by rw [show s.acyc + fld w 57 34 + 2 = s.acyc + (fld w 57 34 + 1) + 1 by omega]; rfl)⟩

/-- Settles O14. A WAIT marks its tally and may close the phase; TALLY_CLEAR leaves the increments of this A-cycle. -/
theorem tallyControl : Obligations.TallyControl := by
  intro s p w h n tl
  refine ⟨fun hop => ?_, fun hop => ?_⟩
  · obtain ⟨t, next, only, nib⟩ := State.own_next (exec_nibWait h hop)
    rw [Nib.closePhase_ite] at nib
    have tallies := congrArg Nib.tallies nib
    have tally (u : Nat) : mget {} (t.nib p).tallies u = if u = tl then { n.tally tl with waiting := true } else n.tally u := by
      rw [tallies]
      exact n.tally_updTally tl u fun x => { x with waiting := true }
    refine ⟨t, next, only, ?_, (tally tl).trans (if_pos rfl), fun u hu => (tally u).trans (if_neg hu), ?_⟩
    · rw [nib]; rfl
    · rw [nib]; rfl
  · obtain ⟨t, next, only, nib⟩ := State.own_next (exec_tallyClear h hop)
    have tallies := congrArg Nib.tallies nib
    have tally (u : Nat) : mget {} (t.nib p).tallies u =
        if u = tl then { n.tally tl with count := (n.tally tl).fresh } else n.tally u := by
      rw [tallies]
      exact n.tally_updTally tl u fun x => { x with count := x.fresh }
    refine ⟨t, next, only, ?_, (tally tl).trans (if_pos rfl), fun u hu => (tally u).trans (if_neg hu)⟩
    rw [nib]; rfl

/-- Settles O17. A met WAIT leaves what `Nib.waited` says. -/
theorem waitCompletes : Obligations.WaitCompletes := by
  intro s p tl e l x c hr hst hold met
  obtain ⟨t, next, only, nib⟩ := State.own_next_one (exec_waitComplete hr hst hold met)
  have tally (u : Nat) := (s.nib p).tally_waited tl e c u
  rw [← nib] at tally
  refine ⟨t, next, only, ?_, (tally tl).trans (if_pos rfl), fun u hu => (tally u).trans (if_neg hu)⟩
  rw [nib]
  exact Nib.waited_frame ..

/-- Settles O15. SYNC counts each handle of the phase once; END's report is that of `State.endReport`. -/
theorem syncAndEnd : Obligations.SyncAndEnd := by
  intro s p w h n
  refine ⟨fun hop => ?_, fun b hop hb => ?_⟩
  · obtain ⟨t, next, only, nib⟩ := State.own_next (exec_nibSync h hop)
    have done := (n.setIssued 3).closePhase.kvqDone_kvqClose
    refine ⟨t, next, only, ?_, fun k => ?_⟩
    · rw [nib]
      split <;> rfl
    · rw [nib]
      exact (by split <;> rfl : _ = _).trans (done k)
  · obtain ⟨t, he, frame, nib, others, bed⟩ := exec_endStep_spec h hop hb
    exact ⟨t, he, frame, fun q hq => (nib q).trans (if_neg hq), (nib p).trans (if_pos rfl), others, bed⟩

/-- Settles O19. Every expiry is a fault of its nib but the second of a bed's one silent nib, which is fenced. -/
theorem nibTimeouts : Obligations.NibTimeouts := by
  intro s p b hr hst hb n faults
  refine ⟨fun tl e l x c hold unmet due => ?_, fun elastic open_ late => ?_, fun x l hold due => ?_⟩
  · exact ⟨_, exec_waitTimeout hr hst hold unmet due, rfl, State.nibFault_record hb ..⟩
  · have hover : n.phaseOver s.acyc = true := by
      rcases late with late | ⟨late, sync⟩
      · simp [Nib.phaseOver, elastic, open_, late]
      · simp [Nib.phaseOver, elastic, open_, late, sync]
    exact ⟨_, exec_elasticPhaseTimeout hr hst hover, rfl, State.nibFault_record hb ..⟩
  · have he := exec_barrierTimeout hr hst hb hold due
    refine ⟨fun silent => ?_, fun q silent first => ?_, fun q k silent hqp again => ?_⟩
    · rw [silent] at he
      exact ⟨_, he, rfl, State.nibFault_record hb ..⟩
    · rw [silent] at he
      simp only [first] at he
      exact ⟨_, he, rfl, State.nibFault_record (s := s.updNib q fun m => { m with loneBarrier := 1 }) hb ..⟩
    · rw [silent] at he
      have twice : 2 ≤ (s.nib q).loneBarrier + 1 := by omega
      simp only [if_pos twice] at he
      generalize s.updNib q (fun m => { m with loneBarrier := (s.nib q).loneBarrier + 1 }) = u at he
      have nib : (u.updNib p fun n => n.barrierExpired (s.stepCycle b)).nib p = (u.nib p).barrierExpired (s.stepCycle b) :=
        (State.setNib_nib ..).trans (if_pos rfl)
      obtain ⟨fenced, mark, faulted, code⟩ := State.fence_spec (p := p) (congrArg Nib.st nib) hqp
      have code' := congrArg Nib.faultCode nib
      exact ⟨_, he, fenced, mark, faulted, code.trans code'⟩

end

section
/-!
SUPPORT. Laws of a nib's asynchronous port and of its loads: arrivals, scrubs, segments and their timers (R25, R78–R85, R96,
R501–R504).
-/
namespace Sys2Proof.Machine

variable {s t : State} {p b : Nat}

/-! ### Arrivals -/

/-- What an arrived packet leaves in the arrival buffers (R79, R159). -/
def Nib.arrived (n : Nib) (u : MUnit) (k : AsyncPkt) (row : Nat) : Nib := { n with
  abuf := n.abuf ++ k.rows.zipIdx.map fun x => {
    row := (row + x.2) % 65536, data := x.1, tally := k.tally, fl := k.fl
    sent := match u, k.handle with | .nib q, some h => some (q, h) | _, _ => none } }

/-- A packet that the fence and the nib accept, and whose banks have room, arrives (R25, R79, R96). -/
theorem State.arrive_accepted {u : MUnit} {k : AsyncPkt} {row : Nat} (hb : s.bedOf k.nib = some b) (hu : s.unitOk u b = true)
    (awake : (s.nib k.nib).resetTo ≤ s.acyc) (on : s.nibOn k.nib = true) (takes : (s.nib k.nib).accepts k = some row)
    (clean : k.err = 0) (room : ∀ bank, bank < 16 → let new := (k.rows.zipIdx.filter fun x => (row + x.2) % 16 == bank).length
      new = 0 ∨ (s.nib k.nib).waiting bank + new ≤ 8) :
    s.arrive u k = (s.setNib k.nib ((s.nib k.nib).arrived u k row), true) := by
  have corrected : k.corrected = some (k.rows, false) := if_pos clean
  have late : decide (s.acyc < (s.nib k.nib).resetTo) = false := decide_eq_false (by omega)
  have fits : ((List.range 16).all fun bank =>
      let new := (k.rows.zipIdx.filter fun x => (row + x.2) % 16 == bank).length
      new == 0 || decide ((s.nib k.nib).waiting bank + new ≤ 8)) = true := by
    rw [List.all_eq_true]
    intro bank hbank
    rcases room bank (List.mem_range.mp hbank) with h | h
    · simp [h]
    · simp [h]
  unfold State.arrive
  simp only [hb, hu, late, on, takes, corrected, fits, Bool.not_true, Bool.or_self, Bool.false_eq_true, if_false]
  unfold Nib.arrived
  cases u <;> cases k.handle <;> rfl

/-! ### Scrubs -/

/-- What a scrub of a bank leaves of its nib: the port served it, the next row is due, and a corrected row is on its way back
(R78, R85). -/
def Nib.scrubbed (n : Nib) (now bank : Nat) (bs : Option (List Byte)) : Nib :=
  let i := mget 0 n.scrubPtr bank
  let m := { n.takePort now bank .scrub with scrubPtr := mset 0 n.scrubPtr bank ((i + 1) % 4096) }
  match bs with
  | none => m
  | some bs => { m with errCorr := n.errCorr + 1, acts := n.acts ++ [.scrub (now + 1) (16 * i + bank) (rowOf bs)] }

/-- The row a scrub reads is clean, or correctable. -/
def Nib.scrubReads (n : Nib) (bank : Nat) (bs : Option (List Byte)) : Prop :=
  let row := 16 * mget 0 n.scrubPtr bank + bank
  bs = none ∧ mget 0 n.padUpset row = 0 ∨ mget 0 n.padUpset row ≠ 0 ∧
    ∃ d, bs = some d ∧ houseRead (rowBytes (mget 0 n.pad row)) (mget 0 n.padUpset row) = (some d, true)

theorem State.scrubRow_eq {bank : Nat} {bs : Option (List Byte)} (h : (s.nib p).scrubReads bank bs) :
    s.scrubRow p bank = s.setNib p ((s.nib p).scrubbed s.acyc bank bs) := by
  unfold State.scrubRow
  rcases h with ⟨rfl, clean⟩ | ⟨wrong, d, rfl, read⟩
  · exact if_pos clean
  · refine (if_neg wrong).trans ?_
    have read' : houseRead (rowBytes (mget 0 ((s.nib p).takePort s.acyc bank .scrub).pad
        (16 * mget 0 ((s.nib p).takePort s.acyc bank .scrub).scrubPtr bank + bank)))
        (mget 0 ((s.nib p).takePort s.acyc bank .scrub).padUpset
          (16 * mget 0 ((s.nib p).takePort s.acyc bank .scrub).scrubPtr bank + bank)) = (some d, true) := read
    rw [read']
    rfl

theorem Nib.portTurn_scrubbed (n : Nib) (now : Nat) (bs : Option (List Byte)) {bank j : Nat} (hj : j ≠ bank) :
    mget 0 (n.scrubbed now bank bs).portTurn j = mget 0 n.portTurn j := by
  have turn : (n.scrubbed now bank bs).portTurn = mset 0 n.portTurn bank PortUser.scrub.turn := by cases bs <;> rfl
  rw [turn, mget_mset_ne _ _ _ hj]

theorem Nib.portIdle_of_ne {n : Nib} {now bank : Nat} (h : mget none n.portAt bank ≠ some now) : n.portIdle now bank = true := by
  unfold Nib.portIdle
  exact bne_iff_ne.mpr h

section
variable {bank : Nat} (hr : s.runs = true) (on : s.nibOn p = true) (hbank : bank < 16)
  (idle : mget none (s.nib p).portAt bank ≠ some s.acyc)
include hr on hbank idle

theorem exec_scratchpadScrub (empty : (s.nib p).waiting bank = 0)
    (due : ∀ x r, x ∈ (s.nib p).acts → (s.nib p).gatherRow s.acyc x = some r → r % 16 ≠ bank) :
    exec (.scratchpadScrub p bank) s = .next (s.scrubRow p bank) := by
  have free := Nib.portIdle_of_ne idle
  refine congrArg Host.Outcome.next (if_pos ?_)
  simp only [hr, on, hbank, empty, free, decide_true, beq_self_eq_true, Bool.and_self, Bool.true_and]
  rw [Bool.not_eq_true', List.any_eq_false]
  intro a ha
  split
  · next r hrow => simpa using due a r ha hrow
  · exact Bool.false_ne_true

theorem exec_scrubForcedGrant (due : ∀ x, mget none (s.nib p).forcedAt bank = some x → x + 4096 ≤ s.acyc) :
    exec (.scrubForcedGrant p bank) s = .next ((s.setNib p { s.nib p with
      forcedAt := mset none (s.nib p).forcedAt bank (some s.acyc) }).scrubRow p bank) := by
  have free := Nib.portIdle_of_ne idle
  have isDue : (match mget none (s.nib p).forcedAt bank with | none => true | some x => decide (x + 4096 ≤ s.acyc)) = true := by
    split
    · rfl
    · next x hx => exact decide_eq_true (due x hx)
  refine congrArg Host.Outcome.next ((if_pos ?_).trans ?_)
  · simp only [hr, on, hbank, free, decide_true, Bool.and_true, Bool.true_and]
    exact isDue
  · rw [State.updNib_eq]

end

/-! ### Loads -/

/-- What a segment leaves of its nib: its bundles, and the bit of its number (R501, R502). -/
def Nib.segmentIn (n : Nib) (slot seg : Nat) (rows : List Row) : Nib :=
  let d := mget {} n.slots slot
  let want := min 128 (d.length - 128 * seg)
  { n with
    script := msetRange 0 n.script (d.start + 128 * seg) ((rows ++ List.replicate want 0).take want)
    scriptUpset := (List.range want).foldl (fun m i => merase m (d.start + 128 * seg + i)) n.scriptUpset
    slots := mset {} n.slots slot { d with
      bitmap := if bitAt d.bitmap seg then d.bitmap else d.bitmap + 2 ^ seg, lastSeg := seg } }

theorem exec_loadSegment {slot seg : Nat} {rows : List Row} (hr : s.runs = true) (on : s.nibOn p = true)
    (loading : (mget {} (s.nib p).slots slot).st = .loading) (hseg : seg < (mget {} (s.nib p).slots slot).segs)
    (open_ : (mget {} (s.nib p).slots slot).report ≠ .ready) (hl : (s.loadOf p slot).isSome) :
    let d := mget {} (s.nib p).slots slot
    let u := s.setNib p ((s.nib p).segmentIn slot seg rows)
    exec (.loadSegment p slot seg rows false) s = .next (
      if (if bitAt d.bitmap seg then d.bitmap else d.bitmap + 2 ^ seg) ≠ 2 ^ d.segs - 1 then u
      else u.report p slot (if shake256 32 ((mgetRange 0 (u.nib p).script d.start d.length).flatMap rowBytes) = d.digest
        then .ready else .digestBad)) := by
  have taken : (!s.runs || false || !s.nibOn p || (mget {} (s.nib p).slots slot).st != .loading ||
      decide ((mget {} (s.nib p).slots slot).segs ≤ seg) || (mget {} (s.nib p).slots slot).report == .ready ||
      (s.loadOf p slot).isNone) = false := by
    have last : ¬ (mget {} (s.nib p).slots slot).segs ≤ seg := by omega
    have known : (s.loadOf p slot).isNone = false := by rw [Option.isNone_eq_false_iff]; exact hl
    have unready : ((mget {} (s.nib p).slots slot).report == .ready) = false := beq_eq_false_iff_ne.mpr open_
    simp [hr, on, loading, last, known, unready]
  show execLoadSegment p slot seg rows false s = _
  unfold execLoadSegment
  simp only [taken, Bool.false_eq_true, if_false, State.updNib_eq]
  rfl

theorem getD_padded (rows : List Row) (want i : Nat) (hi : i < ((rows ++ List.replicate want 0).take want).length) :
    ((rows ++ List.replicate want 0).take want)[i] = rows.getD i 0 := by
  rw [List.getElem_take, List.getElem_append]
  split
  · next h => exact (getD_of_lt h 0).symm
  · next h => rw [List.getElem_replicate, List.getD_eq_getElem?_getD, List.getElem?_eq_none (by omega), Option.getD_none]

theorem exec_loadGapTimer {slot : Nat} {l : Load} (hr : s.runs = true) (hl : s.loadOf p slot = some (b, l))
    (on : s.nibOn p = true) (loading : (mget {} (s.nib p).slots slot).st = .loading)
    (silent : (mget {} (s.nib p).slots slot).report = .none) (late : l.lastSent + 200000 < s.now) :
    exec (.loadGapTimer p slot) s = .next (s.report p slot .gaps) := by
  show execLoadGapTimer p slot s = _
  simp only [execLoadGapTimer, hl, hr, on, loading, silent, late, decide_true, beq_self_eq_true, Bool.and_self, if_true]

end Sys2Proof.Machine
end

section
open Sys2Proof Sys2Proof.Machine

/-- Settles O22. The packet enters the arrival buffers, and one under way leaves the mesh. -/
theorem asyncArrival : Obligations.AsyncArrival := by
  intro s u k b row hr hb hu awake on takes clean room p n'
  have arrive := State.arrive_accepted hb hu awake on takes clean room
  refine ⟨?_, fun i inflight reached => ?_⟩
  · show execAsyncWriteArrival (.ext u k) s = _
    simp only [execAsyncWriteArrival, hr, Bool.not_true, Bool.false_eq_true, if_false, arrive]
    rfl
  · have near : ¬ s.acyc < k.reach := by omega
    show execAsyncWriteArrival (.inflight i) s = _
    simp only [execAsyncWriteArrival, hr, Bool.not_true, Bool.false_eq_true, if_false, inflight, near, arrive, if_true]
    rfl

/-- Settles O23. A scrub and a forced grant leave what `Nib.scrubbed` says. -/
theorem scratchpadScrubs : Obligations.ScratchpadScrubs := by
  intro s p bank hr on hbank idle n i row next after bs reads
  have afterScrub (m : Nib) (ptr : m.scrubPtr = n.scrubPtr) : after m (m.scrubbed s.acyc bank bs) bs := by
    refine ⟨by cases bs <;> rfl, fun j hj => m.portTurn_scrubbed s.acyc bs hj, ?_⟩
    cases bs <;> (simp only [Nib.scrubbed, ptr]; rfl)
  refine ⟨fun empty due => ?_, fun due => ?_⟩
  · have he := exec_scratchpadScrub hr on hbank idle empty due
    rw [State.scrubRow_eq reads] at he
    obtain ⟨t, next, only, nib⟩ := State.own_next_one he
    exact ⟨t, next, only, by rw [nib]; exact afterScrub n rfl⟩
  · have he := exec_scrubForcedGrant hr on hbank idle due
    have own : (s.setNib p { n with forcedAt := mset none n.forcedAt bank (some s.acyc) }).nib p =
      { n with forcedAt := mset none n.forcedAt bank (some s.acyc) } := (State.setNib_nib ..).trans (if_pos rfl)
    rw [State.scrubRow_eq (by rw [own]; exact reads), own] at he
    obtain ⟨t, next, only, nib⟩ := State.own_next he
    exact ⟨t, next, only, by rw [nib]; exact afterScrub { n with forcedAt := mset none n.forcedAt bank (some s.acyc) } rfl⟩

/-- Settles O24. The segment's rows are written with the bit of its number, and the last one lets the nib report. -/
theorem loadSegmentArrives : Obligations.LoadSegmentArrives := by
  intro s p slot seg rows n d hr on loading hseg open_ hl want bitmap
  have he := exec_loadSegment (rows := rows) hr on loading hseg open_ hl
  have nib : (s.setNib p (n.segmentIn slot seg rows)).nib p = n.segmentIn slot seg rows := (State.setNib_nib ..).trans (if_pos rfl)
  have len : ((rows ++ List.replicate want 0).take want).length = want := by simp
  refine ⟨s.setNib p (n.segmentIn slot seg rows), State.onlyNib_setNib .., by rw [nib]; rfl, fun i hi => ?_, fun a ha => ?_,
    fun open' => he.trans (congrArg _ (if_pos open')), fun full => he.trans (congrArg _ (if_neg (Classical.not_not.mpr full)))⟩
  · rw [nib]
    exact (mget_msetRange 0 n.script (d.start + 128 * seg) _ i (Nat.lt_of_lt_of_eq hi len.symm)).trans
      (getD_padded rows want i (Nat.lt_of_lt_of_eq hi len.symm))
  · rw [nib]
    exact mget_msetRange_ne 0 n.script _ _ (by rw [len]; exact ha)

/-- Settles O25. A gap is reported and the round looked at; a load past its time fails. -/
theorem loadTimers : Obligations.LoadTimers := by
  intro s hr
  refine ⟨fun p slot b l hl on loading silent late => ?_, fun b h l hl unready late => ?_⟩
  · rw [exec_loadGapTimer hr hl on loading silent late]
    simp only [State.report, hl, State.updNib_eq]
    rfl
  · show execLoadTimeout b h s = _
    simp only [execLoadTimeout, hl, hr, unready, late, Bool.not_false, decide_true, Bool.and_self, if_true]

end

section
/-!
SUPPORT. What the heads of a MATMUL, a FINISH and an ATTEND leave of the nib that issues them
(R157–R159, R183–R185, R195, R196).
-/
namespace Sys2Proof.Machine

variable {s : State} {p w : Nat}

/-! ### Reads with the head -/

theorem Nib.touch_clean {n : Nib} (h : n.padUpset = []) (now : Nat) (rows : List Nat) : n.touch now rows = n := by
  induction rows with
  | nil => rfl
  | cons r rows ih => exact (congrArg (fun m => rows.foldl _ m) (congrArg Prod.snd (Nib.padRead_clean h now r))).trans ih

theorem Nib.descRead_clean {n : Nib} (h : n.padUpset = []) (now k rows : Nat) : n.descRead now k rows = n := Nib.touch_clean h ..

theorem Nib.routeRead_clean {n : Nib} (h : n.scriptUpset = []) (now r : Nat) : n.routeRead now r = n := by
  unfold Nib.routeRead
  rw [Nib.bundleAt_clean h]
  rfl

/-! ### Phases -/

/-- The phase of a nib that notes the KVQ records of an epilogue (R268, R269). -/
def Nib.kvqPhase (n : Nib) (on : Bool) (h : Nat) : PhaseSt := match (n.descriptor h).2.getLast? with
  | some st => if on ∧ st.op = 9 then { n.phase with kvq := st.h1 :: n.phase.kvq } else n.phase
  | none => n.phase

theorem Nib.noteKvq_eq (n : Nib) (on : Bool) (h : Nat) : n.noteKvq on h = { n with phase := n.kvqPhase on h } := by
  unfold Nib.noteKvq Nib.kvqPhase
  cases on
  · cases (n.descriptor h).2.getLast? <;> rfl
  · cases (n.descriptor h).2.getLast? with
    | none => rfl
    | some st => by_cases hs : st.op = 9 <;> simp [hs]

theorem Nib.kvqPhase_setIssued (n : Nib) (k : Nat) (on : Bool) (h : Nat) : (n.setIssued k).kvqPhase on h = n.kvqPhase on h := by
  have phase : (n.setIssued k).phase = n.phase := by rw [Nib.setIssued_frame]
  unfold Nib.kvqPhase
  rw [Nib.descriptor_setIssued, phase]

/-! ### MATMUL -/

/-- The work with which a MATMUL starts (R157, R183, R212, R215). -/
def Nib.matActs (n : Nib) (now : Nat) (m : Mat) : List Act :=
  let r : MatRun := { mat := m, order := tileOrder m.tr m.tc }
  let d := if m.pro then n.descriptor m.pdh else (0, [])
  match (match d.2.head? with | some st => if st.op = 12 then some st else none | none => none) with
  | some st => n.gatherActs now m d.1 st ++ [.mat (now + 1) { r with ph := .gather }]
  | none =>
    if m.pro then [.mat (now + proRowAt m d.2 0) { r with ph := .pro, vstart := now }]
    else n.nextVisit r 0 (if m.gated then now + 1 else now + m.f)

theorem Nib.matEpi_setIssued (n : Nib) (k : Nat) (m : Mat) : (n.setIssued k).matEpi m = n.matEpi m := by
  unfold Nib.matEpi
  simp only [Nib.descriptor_setIssued]

theorem Nib.nextVisit_setIssued (n : Nib) (k : Nat) (r : MatRun) (v t : Nat) : (n.setIssued k).nextVisit r v t = n.nextVisit r v t := by
  unfold Nib.nextVisit
  simp only [Nib.matEpi_setIssued, Nib.shape_setIssued]

theorem Nib.matActs_setIssued (n : Nib) (k now : Nat) (m : Mat) : (n.setIssued k).matActs now m = n.matActs now m := by
  unfold Nib.matActs Nib.gatherActs
  simp only [Nib.descriptor_setIssued, Nib.shape_setIssued, Nib.nextVisit_setIssued]

/-- A MATMUL starts with its visits where it has no prologue. -/
theorem Nib.matActs_of_no_pro {n : Nib} {m : Mat} (h : m.pro = false) (now : Nat) : n.matActs now m =
    n.nextVisit { mat := m, order := tileOrder m.tr m.tc } 0 (if m.gated then now + 1 else now + m.f) := by
  simp only [Nib.matActs, h, Bool.false_eq_true, if_false, List.head?_nil]

/-- A MATMUL with a prologue starts with its first row, unless its first stage gathers. -/
theorem Nib.matActs_of_pro {n : Nib} {m : Mat} (h : m.pro = true)
    (hst : ∀ st, (n.descriptor m.pdh).2.head? = some st → st.op ≠ 12) (now : Nat) : n.matActs now m =
      [.mat (now + proRowAt m (n.descriptor m.pdh).2 0) { mat := m, order := tileOrder m.tr m.tc, ph := .pro, vstart := now }] := by
  simp only [Nib.matActs, h, if_true]
  cases hd : (n.descriptor m.pdh).2.head? with
  | none => rfl
  | some st =>
    simp only [if_neg (hst st hd)]

/-- A GATHER stage's gathers start with the MATMUL. -/
theorem Nib.matActs_of_gather {n : Nib} {m : Mat} {st : FuseStage} (h : m.pro = true)
    (hd : (n.descriptor m.pdh).2.head? = some st) (hst : st.op = 12) (now : Nat) : n.matActs now m =
      n.gatherActs now m (n.descriptor m.pdh).1 st ++
        [.mat (now + 1) { mat := m, order := tileOrder m.tr m.tc, ph := .gather }] := by
  simp only [Nib.matActs, h, if_true, hd, if_pos hst]

/-- A first visit whose tile is live is not skipped (R179, R183, R185). -/
theorem Nib.nextVisit_live {n : Nib} {r : MatRun} (some_visit : 0 < r.mat.tt * r.mat.kc)
    (live : r.mat.live (n.shape r.mat.sreg) (r.order.getD (r.mat.visit 0).1 (0, 0)) = true) (t : Nat) :
    n.nextVisit r 0 t = if r.mat.gated then [.mat (t - 1) { r with ph := .gate, v := 0, vstart := t }]
      else [.mat (t - r.mat.f) { r with ph := .ready, v := 0, vstart := t }] := by
  obtain ⟨fuel, hfuel⟩ : ∃ fuel, r.mat.tt * r.mat.kc = fuel + 1 := ⟨_, (Nat.succ_pred_eq_of_pos some_visit).symm⟩
  have first : skipDead r.mat (n.shape r.mat.sreg) r.order (r.mat.tt * r.mat.kc) 0 t = (0, t) := by
    rw [hfuel, skipDead, if_pos (.inr live)]
  unfold Nib.nextVisit
  simp only [first]
  rw [if_neg (by omega)]

theorem exec_matmul {m : Mat} (h : s.Ready p 0 w) (hop : slotOp w = 0x20) (hu : (s.nib p).padUpset = [])
    (hc : (s.nib p).scriptUpset = []) (hm : (s.nib p).matmul w = some m) :
    let n := s.nib p
    exec (.matmul p) s = .next ((s.setNib p (n.setIssued 0)).setNib p { n.setIssued 0 with
      phase := n.kvqPhase (m.epi && m.kmode != 1) m.edh, stopAt := n.macroStop 4, rawLand := 0
      acts := n.acts ++ n.matActs s.acyc m }) := by
  have hu' : ((s.nib p).setIssued 0).padUpset = [] := hu
  have hc' : ((s.nib p).setIssued 0).scriptUpset = [] := hc
  refine congrArg Host.Outcome.next ((State.issue_updNib h (byOp_of_eq hop) false).trans (congrArg (State.setNib _ p) ?_))
  simp only [Nib.matmul_setIssued]
  rw [hm]
  dsimp only
  simp only [Nib.descRead_clean hu', Nib.routeRead_clean hc', ite_self, Nib.noteKvq_eq, Nib.kvqPhase_setIssued,
    Nib.macroStop_setIssued]
  rw [← (s.nib p).matActs_setIssued 0 s.acyc m]
  rfl

/-! ### FINISH and ATTEND -/

theorem exec_macFinish (h : s.Ready p 0 w) (hop : slotOp w = 0x21) (hu : (s.nib p).padUpset = []) :
    let n := s.nib p
    let f := finOf w
    let d := if f.epi then n.descriptor f.edh else (0, [])
    let e := (epiLatency f.ofmt f.epi d.1 d.2).1
    let q := (epiLatency f.ofmt f.epi d.1 d.2).2
    exec (.macFinish p) s = .next ((s.setNib p (n.setIssued 0)).setNib p { n.setIssued 0 with
      phase := n.kvqPhase f.epi f.edh, stopAt := n.macroStop 0
      acts := n.acts ++ [.fin (s.acyc + 12 + cdiv (f.np * q) 64) f s.acyc 0 (s.acyc + cdiv (f.mp * f.np) 64 * q + 12 + e)] }) := by
  have hu' : ((s.nib p).setIssued 0).padUpset = [] := hu
  refine congrArg Host.Outcome.next ((State.issue_updNib h (byOp_of_eq hop) false).trans (congrArg (State.setNib _ p) ?_))
  simp only [Nib.descRead_clean hu', ite_self, Nib.noteKvq_eq, Nib.kvqPhase_setIssued, Nib.macroStop_setIssued,
    Nib.descriptor_setIssued]
  rfl

theorem exec_attend (h : s.Ready p 0 w) (hop : slotOp w = 0x22) :
    let n := s.nib p
    exec (.attend p) s = .next ((s.setNib p (n.setIssued 0)).setNib p { n.setIssued 0 with
      stopAt := n.macroStop 1, rawLand := 0, acts := n.acts ++ [.attend (s.acyc + 1) (n.attendOf w) 0 false] }) := by
  intro n
  refine congrArg Host.Outcome.next ((State.issue_updNib h (byOp_of_eq hop) false).trans (congrArg (State.setNib _ p) ?_))
  simp only [Nib.macroStop_setIssued, Nib.attendOf_setIssued]
  rfl

end Sys2Proof.Machine
end

section
open Sys2Proof Sys2Proof.Machine

/-- Settles O16. Each head leaves its work, and the bundle it holds. -/
theorem macroHeads : Obligations.MacroHeads := by
  intro s p w h hu hc n ctl elastic stop kvq
  have hstop (k : Nat) : n.macroStop k = stop k := by
    simp only [Nib.macroStop, Nib.inElastic, stop, elastic, ctl, beq_iff_eq]
  refine ⟨?_, ?_, fun hop => ?_⟩
  · intro m hop hm r gated
    obtain ⟨t, next, only, nib⟩ := State.own_next (exec_matmul h hop hu hc hm)
    refine ⟨t, n.matActs s.acyc m, next, only, ?_, fun hp => n.matActs_of_no_pro hp _, fun hp hv live => ?_,
      fun hp hst => n.matActs_of_pro hp hst _, fun st hp hd hst => n.matActs_of_gather hp hd hst _⟩
    · rw [nib, hstop]
      rfl
    · rw [n.matActs_of_no_pro hp, Nib.nextVisit_live (n := n) (r := r) hv live]
      have same : gated = m.gated := rfl
      rw [same]
      cases m.gated <;> simp [r]
  · intro hop f d e q
    obtain ⟨t, next, only, nib⟩ := State.own_next (exec_macFinish h hop hu)
    exact ⟨t, next, only, by rw [nib, hstop]; rfl⟩
  · obtain ⟨t, next, only, nib⟩ := State.own_next (exec_attend h hop)
    exact ⟨t, next, only, by rw [nib, hstop]; rfl⟩

end

section
/-!
SUPPORT. A MERGE_LOCAL entry of 1,024 rows (TM 6), which a state reaches only where an ATTEND claims more slots than a store has:
rows 512 and up of the partial at SLOT 0 share their keys with the rows of the partial at slot 1, which the entry frees.
-/
namespace Sys2Proof.Machine

/-- An ATTEND over a list of one entry, with more slots than any partial needs. -/
def wideAttend : Att :=
  { lh := 0, adh := 1, base := 0, slots := 1000000, arrays := 0, sreg := 0, lmax := 1, tg := false, gtally := 0, gspan := 1 }

/-- MERGE_LOCAL of the partial at slot 1 into the one at slot 0, with TM 6. -/
def wideMerge : TileEnt := tileEnt (2 ^ 29 + 2 ^ 97 + 6 * 2 ^ 102)

/-- A nib that stands at the entry; row 512 of the partial at slot 0, and so row 0 of that at slot 1, has a reference. -/
def wideMergeNib : Nib := {
  st := .running, acts := [.attend 0 wideAttend 0 false], pad := [(0, BitVec.ofNat 256 (2 ^ 29 + 2 ^ 97 + 6 * 2 ^ 102))]
  shapes := [(0, { aux0 := 1 })], handles := [(1, { offset := 128 })], prow := [(512, some { r := 0, v := [] })] }

def wideMergeState : State := { clk := { lock := true }, nibs := [(0, wideMergeNib)] }

theorem wideMergeState_nib : wideMergeState.nib 0 = wideMergeNib := rfl

theorem wideMergeNib_entryAt : wideMergeNib.entryAt wideAttend 0 = wideMerge := by decide

theorem wideMergeState_entry : wideMergeState.entry 0 1 = some (wideAttend, 0, wideMerge) := by
  decide

theorem wideMerge_qr : wideMerge.qr = 1024 := by decide
theorem wideMerge_op : wideMerge.op = 1 := by decide
theorem wideMerge_slot : wideMerge.slot = 0 := by decide
theorem wideMerge_src : wideMerge.k0 % 64 = 1 := by decide

/-- A partial of 1,024 rows takes at most 3,136 slots, whatever the descriptor says (R226, R237). -/
theorem partialSlots_attDesc_le (w : Nat) : partialSlots (attDesc w).d 1024 ≤ 3136 := by
  have width : bitsAt w 32 2 ≤ 3 := Nat.le_of_lt_succ (Nat.mod_lt _ (by decide))
  have rows : (attDesc w).d ≤ 64 * 2 ^ 3 := Nat.mul_le_mul_left 64 (Nat.pow_le_pow_right (by decide) width)
  unfold partialSlots
  omega

theorem wideMergeNib_good : wideMergeNib.entryBad wideAttend (wideMergeNib.attDescOf wideAttend) wideMerge = false := by
  have fits : partialSlots (wideMergeNib.attDescOf wideAttend).d 1024 ≤ 3136 := partialSlots_attDesc_le _
  unfold Nib.entryBad
  simp only [wideMerge_qr, wideMerge_op, wideMerge_slot, wideMerge_src, wideAttend, Bool.or_eq_false_iff, decide_eq_false_iff_not]
  unfold wideAttend at fits
  omega

theorem wideMergeState_acts : (wideMergeState.nib 0).acts = [] ++ .attend 0 wideAttend 0 false :: [] := by
  rw [wideMergeState_nib]
  rfl

end Sys2Proof.Machine
end

section
open Sys2Proof Sys2Proof.Machine

/-- Refutes O21: with TM 6, which the entry's check lets pass where the ATTEND claims a million slots, the reference of row 512 of
the partial at SLOT 0 is that of row 0 of the partial at slot 1, which MERGE_LOCAL both ends and has to leave. -/
theorem not_tileListEntries : ¬ Obligations.TileListEntries := by
  intro h
  obtain ⟨-, merge, -⟩ := h wideMergeState 0 1 0 0 false wideAttend wideMerge [] [] wideMergeState_entry wideMergeState_acts
    (fun x hx => absurd hx List.not_mem_nil) wideMergeNib_good rfl rfl rfl
  obtain ⟨t, -, -, -, -, freed, kept⟩ := merge wideMerge_op
  simp only [wideMerge_src, wideMerge_slot, wideMerge_qr] at freed kept
  have gone : mget none (t.nib 0).prow 512 = none := freed 0 (by omega)
  have stays : mget none (t.nib 0).prow 512 = some { r := 0, v := [] } := kept 512 (by omega) (by omega) rfl
  rw [gone] at stays
  cases stays

end

section
/-!
SUPPORT. Laws of the queues: a packet taken, doorbells, records and their moderation, and the fetch (R356–R364, R382, R402).
-/
namespace Sys2Proof.Machine

variable {s t : State} {b q : Nat} {u : Queue}

/-! ### A queue's change -/

/-- A change of a queue that is there. -/
theorem State.updQueue_eq (h : mget none (s.bed b).queues q = some u) (f : Queue → Queue) :
    s.updQueue b q f = s.setBed b { s.bed b with queues := mset none (s.bed b).queues q (some (f u)) } := by
  unfold State.updQueue State.updBed
  simp only [h]

theorem State.setBed_onlyBed (s : State) (b : Nat) (v : Bed) : s.OnlyBed (s.setBed b v) b :=
  ⟨rfl, fun _ hc => (State.setBed_bed ..).trans (if_neg hc)⟩

theorem State.setBed_bed_self (s : State) (b : Nat) (v : Bed) : (s.setBed b v).bed b = v := (State.setBed_bed ..).trans (if_pos rfl)

/-- The taken packet of a queue. -/
theorem State.take_eq (hr : s.runs = true) (hc : s.boot.computeEnd = none) (hp : s.sec.pausing = false)
    (hq : mget none (s.bed b).queues q = some u) (op : Nat) : s.take b q op = match u.taken with
      | some k => if k.ref.op = op then some (k, s.updQueue b q fun u => { u with taken := none }) else none
      | none => none := by
  unfold State.take
  simp only [hr, hc, hp, hq, Option.isNone_none, Bool.not_false, Bool.and_self, if_true] <;> rfl

theorem State.command_of_take {op : Nat} {k : Pkt} (h : s.take b q op = some (k, t)) (f : State → Pkt → State) :
    s.command b q op f = f t k := by
  unfold State.command
  rw [h]

theorem State.command_of_take_none {op : Nat} (h : s.take b q op = none) (f : State → Pkt → State) : s.command b q op f = s := by
  unfold State.command
  rw [h]

/-! ### Records -/

/-- A record that asks for no message is written at the ring's next place, and nothing else happens (R359, R402; log 12). -/
theorem State.writeRecord_quiet {r : Rec} (hq : mget none (s.bed b).queues q = some u) (host : u.cqHbm = false)
    (plain : r.event = false) (ok : r.status = 0 ∨ r.status = 0x40) : s.writeRecord b q r true =
      (s.emit (.hostWrite b (u.cqBase + 32 * u.cqTail) (r.bytes u.phase))).setBed b { s.bed b with
        queues := mset none (s.bed b).queues q (some { u with
          cqTail := (u.cqTail + 1) % u.cqSize, phase := if (u.cqTail + 1) % u.cqSize = 0 then !u.phase else u.phase }) } := by
  have hq' : mget none ((s.emit (.hostWrite b (u.cqBase + 32 * u.cqTail) (r.bytes u.phase))).bed b).queues q = some u := hq
  have bed : (s.emit (.hostWrite b (u.cqBase + 32 * u.cqTail) (r.bytes u.phase))).bed b = s.bed b := rfl
  have quiet : (r.event || (r.status != 0 && r.status != 0x40)) = false := by
    rcases ok with ok | ok <;> simp [plain, ok]
  unfold State.writeRecord
  simp only [hq, host, Bool.false_eq_true, if_false]
  rw [State.updQueue_eq hq']
  unfold State.moderate
  simp only [State.setBed_bed_self, mget_mset_self, quiet, Bool.false_eq_true, if_false, if_true]
  rw [bed]
  congr 5

theorem State.complete_quiet {p : PktRef} {r : Rec} (hq : mget none (s.bed p.bed).queues p.q = some u)
    (room : s.canWrite p.bed p.q = true) (first : ∀ h, h ∈ (s.bed p.bed).held → h.q ≠ p.q) (quiet : p.quiet = true) :
    s.complete p r = s.writeRecord p.bed p.q { r with
      tag := p.tag, sq := p.q, sqHead := u.head, session := if r.session = 0 then p.session else r.session, time := s.stamp } true := by
  have none_held : ((s.bed p.bed).held.all fun h => h.q != p.q) = true :=
    List.all_eq_true.mpr fun h hh => bne_iff_ne.mpr (first h hh)
  unfold State.complete State.queueRecord
  simp only [hq, room, none_held, quiet, Bool.and_self, if_true]

theorem takeHeld_spec {l hs : List HeldRec} {h : HeldRec} (e : takeHeld q l = some (h, hs)) : h.q = q ∧ hs.length + 1 = l.length := by
  induction l generalizing hs with
  | nil => cases e
  | cons x l ih =>
    unfold takeHeld at e
    split at e
    · next hx =>
      cases e
      exact ⟨hx, rfl⟩
    · obtain ⟨⟨h', hs'⟩, rest, same⟩ := Option.map_eq_some_iff.mp e
      cases same
      obtain ⟨own, len⟩ := ih rest
      exact ⟨own, by simp [← len]⟩

theorem State.message_bed (f v c : Nat) : (s.message f v).bed c = s.bed c := by
  unfold State.message
  dsimp only
  split
  · rfl
  · split <;> rfl

/-- A queue's message begins both moderation counts again, and is owed where it cannot go (R389, R402, R403). -/
theorem State.queueMessage_queue (hq : mget none (s.bed b).queues q = some u) : mget none ((s.queueMessage b q).bed b).queues q =
    some { u with count := 0, since := none, unsent := !(s.hostOpen b && (s.bed b).intrEn) } := by
  unfold State.queueMessage
  simp only [hq]
  rw [State.updQueue_eq hq, State.updQueue_eq hq]
  cases open_ : s.hostOpen b && (s.bed b).intrEn
  · rw [if_neg Bool.false_ne_true, State.setBed_bed_self, mget_mset_self]
    rfl
  · rw [if_pos rfl, State.message_bed, State.setBed_bed_self, mget_mset_self]
    rfl

/-! ### Unfetched packets -/

/-- Packets of one slot each number as many as the slots, where their headers are known (R357, R370; log 151). -/
theorem hostPackets_single (ring : List (List Byte)) (w : Nat) (single : ∀ h, h ∈ ring → bitsAt (leNat (slice h 0 64)) 64 12 = 0)
    (known : w ≤ ring.length) : hostPackets ring w = w := by
  induction ring generalizing w with
  | nil =>
    have : w = 0 := Nat.le_zero.mp known
    simp [hostPackets, this]
  | cons h ring ih =>
    rw [hostPackets, single h List.mem_cons_self]
    split
    · next hw => exact hw.symm
    · next hw =>
      rw [List.length_cons] at known
      rw [ih (w - (1 + 0)) (fun x hx => single x (List.mem_cons_of_mem _ hx)) (by omega)]
      omega

/-! ### Turns -/

/-- Whether a bed may fetch from its queue `q` now. -/
def State.mayFetch (s : State) (b q : Nat) : Bool := match mget none (s.bed b).queues q with
  | some u => s.canFetch b q u
  | none => false

/-- The weight of a bed's queue, 0 where it is not there. -/
def State.weightOf (s : State) (b q : Nat) : Nat := match mget none (s.bed b).queues q with | some u => u.weight | none => 0

theorem State.fetchQueue_eq (s : State) (b : Nat) : s.fetchQueue b =
    if s.mayFetch b (s.bed b).fetchTurn.1 && decide ((s.bed b).fetchTurn.2 < s.weightOf b (s.bed b).fetchTurn.1) then
      some (s.bed b).fetchTurn.1
    else ((List.range 64).map fun i => ((s.bed b).fetchTurn.1 + 1 + i) % 64).find? (s.mayFetch b) := rfl

theorem State.mayFetch_of_queue (hq : mget none (s.bed b).queues q = some u) : s.mayFetch b q = s.canFetch b q u := by
  unfold State.mayFetch
  rw [hq]

/-- The queue fetched from may be, and another keeps its turn no longer than its weight (R382; log 193). -/
theorem State.fetchQueue_spec (hq : mget none (s.bed b).queues q = some u) (turn : s.fetchQueue b = some q) :
    s.canFetch b q u = true ∧ ∀ c, (s.bed b).fetchTurn.1 = c → c ≠ q → ∀ w, mget none (s.bed b).queues c = some w →
      s.canFetch b c w = true → w.weight ≤ (s.bed b).fetchTurn.2 := by
  rw [State.fetchQueue_eq] at turn
  rw [← State.mayFetch_of_queue hq]
  split at turn
  · next first =>
    obtain rfl := Option.some.inj turn
    exact ⟨(Bool.and_eq_true_iff.mp first).1, fun c hc hne => absurd hc.symm hne⟩
  · next first =>
    refine ⟨List.find?_some turn, fun c hc _ w hw can => ?_⟩
    subst hc
    have weight : s.weightOf b (s.bed b).fetchTurn.1 = w.weight := by unfold State.weightOf; rw [hw]
    rw [State.mayFetch_of_queue hw, can, weight, Bool.true_and, decide_eq_true_eq] at first
    omega

/-- A bed that may fetch from none of its queues fetches from none. -/
theorem State.fetchQueue_none (full : ∀ c w, s.canFetch b c w = false) : s.fetchQueue b = none := by
  have none_may (c : Nat) : s.mayFetch b c = false := by
    unfold State.mayFetch
    split
    · exact full _ _
    · rfl
  rw [State.fetchQueue_eq, none_may, Bool.false_and, if_neg Bool.false_ne_true, List.find?_eq_none]
  intro c _
  rw [none_may]
  exact Bool.false_ne_true

/-- What canFetch says of the ring and the reserve (R361, R389). -/
theorem State.canFetch_spec (can : s.canFetch b q u = true) : (u.sqHbm = false → s.hostOpen b = true) ∧
    heldPlain (s.bed b) + (s.bed b).reserve + (s.bed b).stuck ≤ s.holdRoom b := by
  unfold State.canFetch at can
  simp only [Bool.and_eq_true, Bool.or_eq_true, decide_eq_true_eq] at can
  obtain ⟨⟨⟨⟨⟨⟨-, reach⟩, -⟩, -⟩, room⟩, -⟩, -⟩ := can
  exact ⟨fun host => by simpa [host] using reach, room⟩

/-- A bed some packet of which could not get its reserve fetches from no queue until it fits (R361). -/
theorem State.fetchQueue_stuck (k : Nat) (full : s.holdRoom b < heldPlain (s.bed b) + (s.bed b).reserve + k) :
    (s.updBed b fun bd => { bd with stuck := k }).fetchQueue b = none := by
  refine State.fetchQueue_none fun c w => ?_
  refine Bool.eq_false_iff.mpr fun can => ?_
  have room := (State.canFetch_spec can).2
  have bed : (s.updBed b fun bd => { bd with stuck := k }).bed b = { s.bed b with stuck := k } := State.setBed_bed_self ..
  rw [bed] at room
  have same : (s.updBed b fun bd => { bd with stuck := k }).holdRoom b = s.holdRoom b := rfl
  rw [same] at room
  exact absurd room (Nat.not_le.mpr full)

/-- A queue without the turn is not fetched from (R382). -/
theorem State.fetch_of_turn_none (turn : s.fetchQueue b = none) (q : Nat) (inp : FetchIn) : s.fetch b q inp = s := by
  unfold State.fetch
  split
  · rfl
  · rw [turn]
    rfl

section
variable {inp : FetchIn} {h p : List Byte} (hq : mget none (s.bed b).queues q = some u) (turn : s.fetchQueue b = some q)
  (host : u.sqHbm = false) (hh : inp.header = some h)
include hq turn host hh

/-- A packet whose reserve does not fit holds up its bed (R361). -/
theorem State.fetch_stuck
    (order : (parseHeader b q s.ids s.now (slice h 0 64)).fence = true → ∀ x, x ∈ (s.bed b).fetched → x.q ≠ q)
    (full : s.holdRoom b < heldPlain (s.bed b) + (s.bed b).reserve + reserveOf (parseHeader b q s.ids s.now (slice h 0 64)).ref.op) :
    s.fetch b q inp =
      s.updBed b fun bd => { bd with stuck := reserveOf (parseHeader b q s.ids s.now (slice h 0 64)).ref.op } := by
  have open_ : s.hostOpen b = true := (State.canFetch_spec (State.fetchQueue_spec hq turn).1).1 host
  have free : ((parseHeader b q s.ids s.now (slice h 0 64)).fence && (s.bed b).fetched.any fun p => p.q == q) = false := by
    cases hf : (parseHeader b q s.ids s.now (slice h 0 64)).fence
    · rfl
    · rw [Bool.true_and, List.any_eq_false]
      exact fun x hx => by simpa using order hf x hx
  unfold State.fetch
  simp only [hq, turn, host, hh, bne_self_eq_false, Bool.false_eq_true, if_false, free, open_, Bool.not_true, Bool.and_false, if_pos full]

/-- The bed once it has fetched a packet from its queue, whose head has moved past it (R357, R361, R382). -/
def State.fetchedBed (s : State) (b q : Nat) (k : Pkt) : State :=
  let s1 : State := { s with ids := s.ids + 1 }
  let s2 := s1.updBed b fun bd => { bd with
    fetched := bd.fetched ++ [k.ref], reserve := bd.reserve + reserveOf k.ref.op, stuck := 0, fetchTurn := bd.turnOf q }
  (s2.updQueue b q fun u => { u with fenced := false, hostWait := false }).updQueue b q fun u =>
    { u with head := (u.head + 1 + k.plen) % u.sqSlots }

/-- A packet that fails no check is its queue's taken one (R357, R366). -/
theorem State.fetch_taken (hp : inp.payload = some p)
    (order : (parseHeader b q s.ids s.now (slice h 0 64)).fence = true → ∀ x, x ∈ (s.bed b).fetched → x.q ≠ q)
    (room : heldPlain (s.bed b) + (s.bed b).reserve + reserveOf (parseHeader b q s.ids s.now (slice h 0 64)).ref.op ≤ s.holdRoom b)
    (waits : 1 + (parseHeader b q s.ids s.now (slice h 0 64)).plen ≤ u.waiting)
    (fits : 1 + (parseHeader b q s.ids s.now (slice h 0 64)).plen ≤ u.sqSlots - 1)
    (direct : (parseHeader b q s.ids s.now (slice h 0 64)).dbytes = 0)
    (near : (parseHeader b q s.ids s.now (slice h 0 64)).ref.op ≠ 0x10 ∧ (parseHeader b q s.ids s.now (slice h 0 64)).ref.op ≠ 0x11 ∨
      (parseHeader b q s.ids s.now (slice h 0 64)).dspace = 0) :
    let k0 := parseHeader b q s.ids s.now (slice h 0 64)
    let k := { k0 with payload := slice p 0 (64 * k0.plen), data := [], pkg := inp.pkg, ring := inp.ring }
    (s.fetchedBed b q k).firstCheck (slice h 0 64) k true true true = none →
      s.fetch b q inp = (s.fetchedBed b q k).updQueue b q fun u => { u with taken := some k } := by
  unfold State.fetch
  simp only [hq, turn, host, hh, hp, bne_self_eq_false, Bool.false_eq_true, if_false]
  generalize parseHeader b q s.ids s.now (slice h 0 64) = k0 at order room waits fits direct near ⊢
  intro clean
  have free : (k0.fence && (s.bed b).fetched.any fun p => p.q == q) = false := by
    cases hf : k0.fence
    · rfl
    · rw [Bool.true_and, List.any_eq_false]
      exact fun x hx => by simpa using order hf x hx
  have inRing : ¬ (u.waiting < 1 + k0.plen ∨ u.sqSlots - 1 < 1 + k0.plen) := by
    rintro (short | short)
    · exact absurd waits (Nat.not_le.mpr short)
    · exact absurd fits (Nat.not_le.mpr short)
  have reply : (!(k0.ref.op == 0x10 || k0.ref.op == 0x11) || k0.dspace == 0) = true := by
    rcases near with ⟨hm, hs⟩ | hd
    · have hm' : (k0.ref.op == 0x10) = false := beq_eq_false_iff_ne.mpr hm
      have hs' : (k0.ref.op == 0x11) = false := beq_eq_false_iff_ne.mpr hs
      rw [hm', hs']; rfl
    · rw [show (k0.dspace == 0) = true from beq_iff_eq.mpr hd, Bool.or_true]
  simp only [State.fetchedBed, direct] at clean ⊢
  simp only [free, bne_self_eq_false, Bool.false_and, Bool.false_eq_true, if_false, Nat.not_lt.mpr room, inRing, State.indirect,
    if_true, Option.map_some, Option.getD_some, Option.isSome_some, Bool.true_and, reply, Bool.true_or, clean]

end

end Sys2Proof.Machine
end

section
open Sys2Proof Sys2Proof.Machine

/-- Settles O26. The packet is handed on, and its queue holds none. -/
theorem takenPacket : Obligations.TakenPacket := by
  intro s b q op u f hr hc hp hq
  have take := State.take_eq hr hc hp hq op
  refine ⟨fun k taken hop => ?_, fun other => ?_⟩
  · rw [taken] at take
    have take' := take.trans (if_pos hop)
    rw [State.updQueue_eq hq] at take'
    refine ⟨_, State.command_of_take take' f, State.setBed_onlyBed .., ?_, ?_, fun r hr => ?_⟩
    · rw [State.setBed_bed_self]
    · rw [State.setBed_bed_self, mget_mset_self]
    · rw [State.setBed_bed_self, mget_mset_ne _ _ _ hr]
  · refine State.command_of_take_none (take.trans ?_) f
    split
    · next k taken => exact if_neg (other k taken)
    · rfl

/-- Settles O27. A QUIET record is written with nothing else; the oldest waiting record leaves the hold area. -/
theorem completionRecords : Obligations.CompletionRecords := by
  refine ⟨?_, fun s b q => ⟨fun h hs hr can held => ?_, fun u x hq since timed due => ⟨?_, _, State.queueMessage_queue hq, rfl⟩⟩⟩
  · intro s p r u hq host room first quiet plain ok rec_ t
    have written : t = _ := (State.complete_quiet hq room first quiet).trans
      (State.writeRecord_quiet (r := rec_) hq host plain ok)
    rw [written]
    refine ⟨rfl, ?_, rfl, fun c hc => (State.setBed_bed ..).trans (if_neg hc)⟩
    rw [State.setBed_bed_self, mget_mset_self]
  · obtain ⟨own, len⟩ := takeHeld_spec held
    refine ⟨own, len, ?_⟩
    show execHoldRecordWrite b q s = _
    simp only [execHoldRecordWrite, hr, can, held, Bool.not_true, Bool.or_self, Bool.false_eq_true, if_false]
    rfl
  · show execModerationTimer b q s = _
    simp only [execModerationTimer, hq, since]
    rw [if_pos ⟨timed, due⟩]

/-- Settles O28. Each acts on the queue it names. -/
theorem queueCommands : Obligations.QueueCommands := by
  intro s t b q k
  refine ⟨fun take => congrArg Host.Outcome.next (State.command_of_take take _), fun take free => ?_, fun u take hq idle => ?_⟩
  · refine congrArg Host.Outcome.next ((State.command_of_take take _).trans ?_)
    dsimp only
    rw [free]
    rfl
  · intro x
    have beds : x.2.beds = t.beds := State.unfetched_beds u k.ring
    have bed : x.2.bed b = t.bed b := congrArg (fun m => mget ({} : Bed) m b) beds
    refine ⟨?_, beds, State.unfetched_none, fun some_wait host => ?_⟩
    · refine congrArg Host.Outcome.next ((State.command_of_take take _).trans ?_)
      have hq' : mget none (x.2.bed b).queues (bitsAt k.a0 0 6) = some u := by rw [bed, hq]
      simp only [hq, idle, Option.isSome_none, Bool.false_eq_true, if_false]
      show (x.2.updQueue b _ _).settleDelete b _ = _
      rw [State.updQueue_eq hq', bed]
    · obtain ⟨least, most, same⟩ := State.unfetched_host (s := t) (ring := k.ring) some_wait host
      refine ⟨least, most, same, fun single known => ?_⟩
      have count : x.1 = hostPackets k.ring u.waiting := by simp [x, State.unfetched, host]
      rw [count, hostPackets_single _ _ single known]

/-- Settles O29. A doorbell whose index is in range moves it. -/
theorem doorbells : Obligations.Doorbells := by
  refine ⟨?_, ?_⟩
  · intro s f q v u hr on d0 hq there x set
    have tail : bitsAt v.toNat 0 16 = x := bitsAt_zero ..
    have reached : (!s.ready || !s.fnOn f || s.inD3 f) = false := by simp [hr, on, d0]
    refine ⟨fun open_ range near => ?_, fun range near => ?_⟩
    · have good : ¬ ((u.gone || u.deleting.isSome || decide (u.sqSlots ≤ x) ||
          decide ((x + u.sqSlots - u.head) % u.sqSlots < u.waiting)) = true) := by
        simp [there, open_, range, Queue.waiting]
        exact decide_eq_false (Nat.not_lt.mpr near)
      show execSqTail f q v s = _
      simp only [execSqTail, reached, tail, hq, Bool.false_eq_true, if_false]
      rw [if_neg (by simpa using good), State.updQueue_eq hq]
    · show execCqHead f q v s = _
      simp only [execCqHead, reached, tail, hq, Bool.false_eq_true, if_false]
      rw [if_neg (by simp [there, range, near]), State.updQueue_eq hq]
  · intro s f v x hr on d0 hx own host range n step moves fits
    have num : bitsAt v.toNat 0 32 = v.toNat % 2 ^ 32 := bitsAt_zero ..
    have idx : bitsAt v.toNat 32 16 = v.toNat / 2 ^ 32 % 65536 := rfl
    have reached : (!s.ready || !s.fnOn f || s.inD3 f) = false := by simp [hr, on, d0]
    have back : (v.toNat / 2 ^ 32 % 65536 + x.target.nslots - x.cons % x.target.nslots) % x.target.nslots = step := rfl
    show execExportDb f v s = _
    simp only [execExportDb, reached, num, idx, hx, Bool.false_eq_true, if_false]
    rw [if_neg (by simp [own, host]; omega)]
    simp only [back, moves, false_and, if_false]
    rw [if_neg (by omega)]

/-- Settles O30. The fetch takes the branch of R361's reserve, or none of R366's checks stops the packet. -/
theorem packetFetched : Obligations.PacketFetched := by
  intro s b q inp u h p hq turn host hh hp k0
  obtain ⟨can, others⟩ := State.fetchQueue_spec hq turn
  refine ⟨can, others, ?_⟩
  intro order need
  refine ⟨fun full => ?_, ?_⟩
  · refine ⟨_, congrArg Host.Outcome.next (State.fetch_stuck hq turn host hh order full), rfl, fun c j => ?_⟩
    exact congrArg Host.Outcome.next (State.fetch_of_turn_none (State.fetchQueue_stuck _ full) c j)
  · intro room waits fits direct near k s1 s2 s3 clean
    exact congrArg Host.Outcome.next (State.fetch_taken hq turn host hh hp order room waits fits direct near clean)

end

section
/-!
SUPPORT. The session commands (R299, R314): a CANCEL of a request whose session is being closed.
-/
namespace Sys2Proof.Machine

/-- A CANCEL of the request with tag 0 of session 0. -/
def lateCancel : Pkt := { ref := { op := 0x38 } }

/-- Session 0 runs a request that a SESSION_CLOSE waits for, and queue 0 has taken a CANCEL of it. -/
def closingState : State := {
  clk := { lock := true }
  sessions := [(0, { st := .running })]
  beds := [(0, { reqs := [{ closing := some { op := 0x21 } }], queues := [(0, some { taken := some lateCancel })] })] }

/-- What the CANCEL leaves. -/
def closingAnswer : State := match exec (.cancel 0 0) closingState with
  | .next s => s
  | _ => closingState

/-- The CANCEL is rejected with SESSION_BUSY. -/
theorem closingState_cancel : (closingAnswer.ses 0).cancelSeen = false := by decide

end Sys2Proof.Machine
end

section
open Sys2Proof Sys2Proof.Machine

/-- Refutes O31: a CANCEL of a request whose session is already being closed is rejected with SESSION_BUSY and does not land in the
session's entry, though the request is RUNNING. -/
theorem not_sessionCommands : ¬ Obligations.SessionCommands := by
  intro h
  obtain ⟨-, -, cancel⟩ := h closingState ((closingState.take 0 0 0x38).get rfl).2 0 0 lateCancel
  obtain ⟨-, -, lands⟩ := cancel 0 { closing := some { op := 0x21 } } _ rfl (by decide) (by decide) rfl rfl
  have seen := congrArg (fun o => match o with | .next s => (State.ses s 0).cancelSeen | _ => true) (lands (by decide) (by decide) (by decide))
  exact absurd (seen.symm.trans closingState_cancel) (by decide)

end

section
/-!
SUPPORT. Admission (R295, R301, R304): a page list that lies where the tenant table does.
-/
namespace Sys2Proof.Machine

/-- A PREFILL of one token. -/
def tablePrefill : Pkt := { ref := { op := 0x31 }, a0 := 1 }

/-- A model with a plan of one row. -/
def tableModel : Model := { pkg := { vocab := 1 }, slots := [(0, { maxima := [[1]], rowRegs := [0], ctx := 1 })] }

/-- A session whose list lies in its bed's tenant table: entry 0 is the LEVEL of tenant 1's record. -/
def tableSession : Session := { st := .idle, tenant := 1, noPrefix := true, maxLen := 1, listAddr := 0x2000000, layers := 1, fpp := 1 }

/-- Tenant 1's LEVEL stands above its burst, as a present frame in HBM reads, and the bucket's refill takes it down. -/
def tableState : State := {
  clk := { lock := true }, root := 48, sessions := [(0, tableSession)]
  beds := [(0, { st := .ready, arenaBase := 0x2000000, arenaSize := 0x40000, models := [(0, some tableModel)]
                 tenants := [(1, { level := 0xA000000, burst := 1, valid := true })]
                 queues := [(0, some { taken := some tablePrefill })] })] }

/-- The state with the packet taken. -/
def tableTaken : State := ((tableState.take 0 0 0x31).get rfl).2

/-- What the PREFILL leaves. -/
def tableAnswer : State := match exec (.prefill 0 0) tableState with
  | .next s => s
  | _ => tableState

theorem tableTaken_entries : tableTaken.entries 0 = [0xA000000] := by decide
theorem tableTaken_pick : (tableModel.pick false 1 1).isSome = true := by decide
theorem tableTaken_budget : (admitCheck (tableTaken.tenant 0 1) 1 tableTaken.now) =
  some ({ level := 100000000, last := 1, burst := 1, valid := true, held := 1 }, 1) := by decide

/-- The request is rejected: the entry it found present is present no longer, and the bed has no frame for it. -/
theorem tableAnswer_idle : (tableAnswer.ses 0).st = .idle := by decide

end Sys2Proof.Machine
end

section
open Sys2Proof Sys2Proof.Machine

/-- Refutes O32: nothing says that the session's list lies outside its bed's tenant table. Where it lies there, the reservation of the
request's own tokens rewrites the entry that admission reads next, and the request is rejected at stage 9. -/
theorem not_admissionQueues : ¬ Obligations.AdmissionQueues := by
  intro h
  obtain ⟨u, run, -, -, entry, -⟩ := h tableState tableTaken 0 0 0x31 0 tablePrefill (.prefill 0 0) .prefill tableModel
    { level := 100000000, last := 1, burst := 1, valid := true, held := 1 } 1 (by simp) rfl rfl rfl (by decide) (by decide) rfl rfl rfl
    rfl rfl rfl (by simp) (by decide) rfl (by decide) rfl (by decide) (by simp) rfl rfl (by decide) (by decide) (by decide) (by decide)
    (.inr (by decide)) tableTaken_pick tableTaken_budget (.inr (.inl rfl)) (by decide) (by decide)
  have queued : (tableAnswer.ses 0).st = .queued := by
    unfold tableAnswer
    rw [run]
    dsimp only
    rw [entry]
  rw [tableAnswer_idle] at queued
  cases queued

end

section
/-!
SUPPORT. KV_EXPORT, KV_IMPORT, LIST_SWAP and PREFIX_PIN on the packet taken (R278, R279, R286, R324, R343, R344).
-/
namespace Sys2Proof.Machine

/-- The entry of a session that waits for a stream. -/
def Session.awaiting (e : Session) (k : Pkt) : Session := { e with st := .queued, noPrefix := true, reqTag := k.ref.tag, admitC := e.c }

/-- A bed with the request that waits. -/
def Bed.awaiting (bd : Bed) (i : Nat) (k : Pkt) : Bed :=
  { bd with reqs := bd.reqs ++ [{ ref := k.ref, kind := .kvImport, index := i }] }

/-- The sender a KV_IMPORT names. -/
def importOf (now b i : Nat) (k : Pkt) : Import := {
  index := i, bed := b, ref := k.ref, transport := bitsAt k.a0 0 2, port := bitsAt k.a0 2 5, node := bitsAt k.a0 16 16
  ip := leBytes 8 k.a1 ++ leBytes 8 k.a2, taken := now }

/-- The session waits, QUEUED, for a stream from the sender the packet names. -/
def State.awaitImport (s : State) (b i : Nat) (k : Pkt) : State :=
  { s with
    sessions := mset {} s.sessions i ((s.ses i).awaiting k), beds := mset {} s.beds b ((s.bed b).awaiting i k)
    imports := s.imports ++ [importOf s.now b i k] }

theorem State.awaitImport_frame (s : State) (b i : Nat) (k : Pkt) : s.awaitImport b i k = { s with
    sessions := (s.awaitImport b i k).sessions, beds := (s.awaitImport b i k).beds, imports := (s.awaitImport b i k).imports } := rfl

theorem State.awaitImport_ses_self (s : State) (b i : Nat) (k : Pkt) : (s.awaitImport b i k).ses i = (s.ses i).awaiting k :=
  mget_mset_self ({} : Session) s.sessions i ((s.ses i).awaiting k)

theorem State.awaitImport_ses_ne {i j : Nat} (s : State) (h : j ≠ i) (b : Nat) (k : Pkt) : (s.awaitImport b i k).ses j = s.ses j :=
  mget_mset_ne ({} : Session) s.sessions ((s.ses i).awaiting k) h

theorem State.awaitImport_bed_self (s : State) (b i : Nat) (k : Pkt) : (s.awaitImport b i k).bed b = (s.bed b).awaiting i k :=
  mget_mset_self ({} : Bed) s.beds b ((s.bed b).awaiting i k)

theorem State.awaitImport_bed_ne {b c : Nat} (s : State) (h : c ≠ b) (i : Nat) (k : Pkt) : (s.awaitImport b i k).bed c = s.bed c :=
  mget_mset_ne ({} : Bed) s.beds ((s.bed b).awaiting i k) h

section
variable {s t : State} {b q i : Nat} {k : Pkt}

theorem State.kvImport_awaits (taken : s.take b q 0x51 = some (k, t))
    (known : t.sesOk b k.session = some i) (idle : (t.ses i).st = .idle) (open_ : t.beingClosed i = false) :
    exec (.kvImport b q) s = .next (t.awaitImport b i k) := by
  have still : ((t.ses i).st != .idle || t.beingClosed i) = false := by simp [idle, open_]
  refine congrArg Host.Outcome.next ((State.command_of_take taken _).trans ?_)
  dsimp only
  rw [known]
  dsimp only
  rw [still]
  rfl

theorem State.kvExport_opens (taken : s.take b q 0x50 = some (k, t)) (known : t.sesOk b k.session = some i)
    (aimed : (target (slice k.payload 0 64)).kind ≠ 0)
    (fits : t.targetOk (target (slice k.payload 0 64)) (npmOf (t.ses i).maxLen) = true)
    (eweid : (target (slice k.payload 0 64)).eweid = true → (t.ses i).eweid = true)
    (licence : t.targetLicence (target (slice k.payload 0 64)) = true) (idle : (t.ses i).st = .idle)
    (open_ : t.beingClosed i = false) (short : (target (slice k.payload 0 64)).eweid = true → (t.ses i).maxLen ≤ 32768) :
    let x := target (slice k.payload 0 64)
    let e := t.ses i
    let o := t.openStream i x (some k.ref) false (t.viaOf b x)
    exec (.kvExport b q) s = .next (State.settle (State.readList (o.2.openBatch o.1 e.listGen 0
      ((o.2.listAt (t.geo i) e.listAddr).getD []) (committedItems (t.geo i).layers x.firstPage e.c) []) i)
      o.1 (.commit e.c e.lastToken 0 0 0) e.c true) := by
  refine congrArg Host.Outcome.next ((State.command_of_take taken _).trans ?_)
  generalize target (slice k.payload 0 64) = x at aimed fits eweid licence short ⊢
  have ok : ¬ (x.kind = 0 ∨ (!t.targetOk x (npmOf (t.ses i).maxLen)) = true ∨ x.eweid = true ∧ (!(t.ses i).eweid) = true) := by
    rintro (h | h | ⟨h, h'⟩)
    · exact aimed h
    · simp [fits] at h
    · simp [eweid h] at h'
  have still : ¬ ((t.ses i).st != .idle || t.beingClosed i) = true := by simp [idle, open_]
  have held : ¬ (x.eweid = true ∧ 32768 < (t.ses i).maxLen) := fun ⟨h, h'⟩ => Nat.not_lt.mpr (short h) h'
  dsimp only
  rw [known]
  dsimp only
  rw [if_neg ok, if_neg (by rw [licence]; decide), if_neg still, if_neg held]

theorem State.listSwap_publishes {u : State} (taken : s.take b q 0x52 = some (k, t)) (known : t.sesOk b k.session = some i)
    (open_ : t.beingClosed i = false) (current : bitsAt k.a0 0 32 = (t.ses i).listGen)
    (head : (listHead (t.geo i) (bitsAt k.a0 0 32) k.session).drop 4 = slice (if k.plen = 0 then k.data else k.payload) 4 12)
    (good : t.firstBad i (bytesEnts (t.geo i).nent ((if k.plen = 0 then k.data else k.payload).drop 64)) = none)
    (published : t.publish i (bytesEnts (t.geo i).nent ((if k.plen = 0 then k.data else k.payload).drop 64)) = some u) :
    exec (.listSwap b q) s = .next (State.finish (u.sesDelta i) k.ref { session := k.session, r0 := (u.ses i).listGen }) := by
  refine congrArg Host.Outcome.next ((State.command_of_take taken _).trans ?_)
  dsimp only
  rw [known]
  dsimp only
  rw [if_neg (by rw [open_]; decide), if_neg (by rw [current]; exact fun h => h rfl), if_neg (fun h => h head), good]
  dsimp only
  rw [published]

end

end Sys2Proof.Machine
end

section
open Sys2Proof Sys2Proof.Machine

/-- Settles O33: each command, past its checks, does what its definition says of the packet taken. -/
theorem sessionData : Obligations.SessionData := by
  intro s t b q k
  refine ⟨?_, ?_, ?_, ?_⟩
  · intro i taken known x e o aimed fits eweid licence idle open_ short
    exact State.kvExport_opens taken known aimed fits eweid licence idle open_ short
  · intro i taken known idle open_
    exact ⟨t.awaitImport b i k, State.kvImport_awaits taken known idle open_, t.awaitImport_frame b i k, fun j hj => t.awaitImport_ses_ne hj b k,
      t.awaitImport_ses_self b i k, fun c hc => t.awaitImport_bed_ne hc i k, t.awaitImport_bed_self b i k, rfl⟩
  · intro i u taken known open_ body g es current head good published
    exact State.listSwap_publishes taken known open_ current head good published
  · intro m taken valid loaded toks r
    refine congrArg Host.Outcome.next ((State.command_of_take taken _).trans ?_)
    dsimp only
    rw [if_neg (by rw [valid]; decide), loaded]

end

section
/-!
SUPPORT. Laws of a running step: its start, its sampler jobs and its page writers (R130, R161, R269, R317).
-/
namespace Sys2Proof.Machine

variable {s : State} {b : Nat} {t : Step}

/-- A change of the nibs of a list by their place in it. -/
theorem State.foldl_updNib_zipIdx (f : Nib → Nat → Nib) {l : List Nat} (hl : l.Nodup) (k : Nat) :
    let t := (l.zipIdx k).foldl (fun (s : State) x => s.updNib x.1 fun n => f n x.2) s
    t = { s with nibs := t.nibs } ∧ (∀ q, q ∉ l → t.nib q = s.nib q) ∧ ∀ i q, l[i]? = some q → t.nib q = f (s.nib q) (k + i) := by
  induction l generalizing s k with
  | nil => exact ⟨rfl, fun _ _ => rfl, fun i q h => by simp at h⟩
  | cons p l ih =>
    obtain ⟨hp, hl⟩ := List.nodup_cons.mp hl
    obtain ⟨frame, others, own⟩ := ih (s := s.updNib p fun n => f n k) hl (k + 1)
    refine ⟨frame, fun q hq => ?_, fun i q hi => ?_⟩
    · have hqp : q ≠ p := List.ne_of_not_mem_cons hq
      have hql : q ∉ l := List.not_mem_of_not_mem_cons hq
      exact (others q hql).trans ((State.setNib_nib ..).trans (if_neg hqp))
    · cases i with
      | zero =>
        obtain rfl : p = q := Option.some.inj hi
        exact (others p hp).trans ((State.setNib_nib ..).trans (if_pos rfl))
      | succ i =>
        have hql : q ∈ l := List.mem_of_getElem? hi
        have hqp : q ≠ p := fun e => hp (e ▸ hql)
        refine (own i q hi).trans ?_
        rw [State.updNib_eq, State.setNib_nib, if_neg hqp, Nat.add_right_comm, Nat.add_assoc]

/-! ### A nib's start -/

theorem Nib.foldl_sansPad {α : Type} {f : Nib → α → Nib} (h : ∀ n a, (f n a).sansPad = n.sansPad) (n : Nib) (l : List α) :
    (l.foldl f n).sansPad = n.sansPad := by
  induction l generalizing n with
  | nil => rfl
  | cons a l ih => exact (ih _).trans (h n a)

theorem Nib.fillHandle_sansPad (n : Nib) (h w count : Nat) (word : Nat → Nat) : (n.fillHandle h w count word).sansPad = n.sansPad :=
  Nib.foldl_sansPad (f := fun n i => n.padWrite (n.hrow h i) (putWords w
    (fun j => if 256 / w * i + j < count then some (word (256 / w * i + j)) else none) (n.peek (n.hrow h i)))) (fun _ _ => rfl) n _

/-- Row information and tile lists are rows of the scratchpad. -/
theorem Nib.withPlan_sansPad (n : Nib) (t : Step) (lg : Nat) : (n.withPlan t lg).sansPad = n.sansPad :=
  (Nib.foldl_sansPad (fun n _ => n.fillHandle_sansPad ..) _ _).trans (Nib.foldl_sansPad (fun n _ => n.fillHandle_sansPad ..) n _)

/-- A nib at the first bundle of a slot. -/
def Nib.atSlot (n : Nib) (slot : Nat) : Nib := { n with activeSlot := slot, pc := 0, loops := [] }

/-- A nib of a started step (R130, R161). -/
theorem startNib_spec (n : Nib) (t : Step) (lg : Nat) : (startNib n t lg).st = .running ∧ (startNib n t lg).activeSlot = t.slot ∧
    (startNib n t lg).pc = 0 ∧ (startNib n t lg).hold = .none ∧ (startNib n t lg).acc = n.acc ∧ (startNib n t lg).vregs = n.vregs ∧
    (startNib n t lg).tallies = n.tallies ∧ (startNib n t lg).acts = n.acts.filter Act.scrubs ∧
    (startNib n t lg).pad = (Nib.withPlan { n with activeSlot := t.slot, pc := 0, loops := [] } t lg).pad := by
  have kept : (Nib.withPlan { n with activeSlot := t.slot, pc := 0, loops := [] } t lg).sansPad = (n.atSlot t.slot).sansPad :=
    Nib.withPlan_sansPad _ t lg
  unfold startNib
  generalize Nib.withPlan { n with activeSlot := t.slot, pc := 0, loops := [] } t lg = m at kept ⊢
  have of (α : Type) (g : Nib → α) : g m.sansPad = g (n.atSlot t.slot).sansPad := congrArg g kept
  exact ⟨rfl, of _ Nib.activeSlot, of _ Nib.pc, rfl, of _ Nib.acc, of _ Nib.vregs, of _ Nib.tallies,
    congrArg (List.filter Act.scrubs) (of _ Nib.acts), rfl⟩

theorem State.startStep_of_mayStart (next : (s.bed b).next = some t) (may : s.mayStart b t = true) : s.startStep b =
    ((s.setBed b { s.bed b with next := none, step := some { t with start := s.acyc, startT := s.now } }).bedNibs b).zipIdx.foldl
      (fun (s : State) x => s.updNib x.1 fun n => startNib n t x.2)
      (s.setBed b { s.bed b with next := none, step := some { t with start := s.acyc, startT := s.now } }) := by
  unfold State.startStep
  rw [next]
  dsimp only
  rw [may]
  rfl

/-- A step's start leaves the bed's nibs where they are. -/
theorem State.bedNibs_setBed (v : Bed) (x0 : v.x0 = (s.bed b).x0) (y0 : v.y0 = (s.bed b).y0) (w : v.w = (s.bed b).w)
    (h : v.h = (s.bed b).h) : (s.setBed b v).bedNibs b = s.bedNibs b := by
  unfold State.bedNibs rectNibs
  rw [State.setBed_bed, if_pos rfl, x0, y0, w, h]
  rfl

/-! ### Sampler jobs -/

/-- Sampler `n` has the job of sequence `j` of bed `b`'s step, and the token it selects (R317, R320). -/
def State.sampled (s : State) (b n : Nat) (t : Step) (j : Nat) (x : Seq) (r : Req) (logits : List Lane) : State :=
  let till := s.acyc + samplerCycles logits r.sampling
  let x := { x with token := some (sampleToken logits r.sampling (x.pos0 + x.new)), tokenAt := till }
  let u := s.updBed b fun bd => { bd with step := some { t with seqs := t.seqs.set j x } }
  { u with
    samp := mupd {} s.samp n fun y => { y with job := some (b, till) }
    sampTurn := (b, if s.sampTurn.1 = b ∧ s.sampTurn.2 < max 1 (s.sampWeight b) then s.sampTurn.2 + 1 else 1) }

theorem State.samplerJob_samples {j n : Nat} {x : Seq} {r : Req} {logits : List Lane} (step : (s.bed b).step = some t)
    (seq : t.seqs[j]? = some x) (runs : s.runs = true) (known : n < 4) (kept : (mget {} s.samp n).retired = false)
    (free : (mget {} s.samp n).job = none) (turn : s.samplerBed = some b) (waits : s.samplerWaits b = some j)
    (req : s.reqOf x.index = some r) (vocab : logits.length = (s.pkgOf x.index).vocab) :
    exec (.samplerJob n b j logits) s = .next (s.sampled b n t j x r logits) := by
  refine congrArg Host.Outcome.next ?_
  rw [step]
  dsimp only
  rw [seq]
  dsimp only
  rw [if_neg (by simp [runs, known, kept, free, turn, waits, vocab]), req]
  rfl

end Sys2Proof.Machine
end

section
open Sys2Proof Sys2Proof.Machine

/-- Settles O35: a start takes each nib of the bed once, and the other three rows do what they say once their checks have passed. -/
theorem stepsRun : Obligations.StepsRun := by
  intro s b
  refine ⟨?_, ?_, ?_, ?_⟩
  · intro t runs ready going intake up idle next published sealed_ distinct
    have may : s.mayStart b t = true := by
      unfold State.mayStart
      simp only [runs, ready, going, intake, up, idle, published, BEq.rfl, Bool.not_false, Option.isNone_none, Bool.and_self,
        Bool.true_and, decide_true]
      split
      · next c hc => exact decide_eq_true (sealed_ c hc)
      · rfl
    refine ⟨_, congrArg Host.Outcome.next (State.startStep_of_mayStart next may), ?_⟩
    generalize hv : { s.bed b with next := none, step := some { t with start := s.acyc, startT := s.now } } = v
    have nibs : (s.setBed b v).bedNibs b = s.bedNibs b := by
      subst hv
      exact State.bedNibs_setBed _ rfl rfl rfl rfl
    rw [nibs]
    obtain ⟨frame, others, own⟩ := State.foldl_updNib_zipIdx (s := s.setBed b v) (fun n lg => startNib n t lg) distinct 0
    generalize (s.bedNibs b).zipIdx.foldl (fun (s : State) x => s.updNib x.1 fun n => startNib n t x.2) (s.setBed b v) = u
      at frame others own ⊢
    have beds : u.beds = (s.setBed b v).beds := by rw [frame]
    refine ⟨?_, fun c hc => ?_, ?_, fun p hp => others p hp, fun p hp => ?_⟩
    · rw [frame]
      rfl
    · show mget {} u.beds c = _
      rw [beds]
      exact mget_mset_ne _ _ _ hc
    · show mget {} u.beds b = _
      rw [beds]
      exact mget_mset_self ..
    · obtain ⟨lg, hlg⟩ := List.mem_iff_getElem?.mp hp
      have nib : u.nib p = startNib (s.nib p) t lg := (own lg p hlg).trans (by rw [Nat.zero_add]; rfl)
      rw [nib]
      obtain ⟨st, slot, pc, hold, acc, vregs, tallies, acts, pad⟩ := startNib_spec (s.nib p) t lg
      exact ⟨st, slot, pc, hold, acc, vregs, tallies, acts, lg, hlg, pad⟩
  · intro t step can
    refine congrArg Host.Outcome.next ?_
    unfold State.sealStep
    rw [step]
    exact if_pos can
  · intro t j x r n logits step seq runs known kept free turn waits req vocab
    refine ⟨s.sampled b n t j x r logits, State.samplerJob_samples step seq runs known kept free turn waits req vocab, rfl,
      fun c hc => mget_mset_ne _ _ _ hc, mget_mset_self .., rfl, mget_mset_self .., fun m hm => mget_mset_ne _ _ _ hm⟩
  · intro t j x layer prog c fl u step seq runs ready fresh inside sources channel written has v w z
    refine congrArg Host.Outcome.next ?_
    rw [step]
    dsimp only
    rw [seq]
    dsimp only
    rw [if_neg (by simp [runs, ready, inside, sources, fresh]), channel]
    dsimp only
    rw [written]
    rfl

end

section
/-!
SUPPORT. The staging shadow bank (R415, R416).
-/
namespace Sys2Proof.Machine

/-- The shadow bank after a record. -/
def stageRecord (m : SMap (Option Word)) (r : Nat × Nat) : SMap (Option Word) := mset none m r.1 (some (BitVec.ofNat 64 r.2))

theorem foldl_stageRecord_other {o : Nat} {rs : List (Nat × Nat)} (h : ∀ r, r ∈ rs → r.1 ≠ o) (m : SMap (Option Word)) :
    mget none (rs.foldl stageRecord m) o = mget none m o := by
  induction rs generalizing m with
  | nil => rfl
  | cons r rs ih =>
    exact (ih (fun x hx => h x (List.mem_cons_of_mem _ hx)) _).trans (mget_mset_ne _ _ _ (h r List.mem_cons_self).symm)

theorem foldl_stageRecord_last {r : Nat × Nat} {rs : List (Nat × Nat)} (h : rs.getLast? = some r) (m : SMap (Option Word)) :
    mget none (rs.foldl stageRecord m) r.1 = some (BitVec.ofNat 64 r.2) := by
  obtain ⟨front, rfl⟩ := List.getLast?_eq_some_iff.mp h
  rw [List.foldl_append]
  exact mget_mset_self none (front.foldl stageRecord m) r.1 (some (BitVec.ofNat 64 r.2))

/-- The state with records staged. -/
def State.staged (s : State) (rs : List (Nat × Nat)) : State :=
  { s with shadow := rs.foldl stageRecord s.shadow, stage := { s.stage with checked := false } }

theorem State.stageWrite_stages {s t : State} {b q : Nat} {k : Pkt} (taken : s.take b q 0x60 = some (k, t))
    (some_ : stageRecords k.payload (4 * k.plen) ≠ []) (none_ : t.stage.pending = false)
    (good : ∀ r, r ∈ stageRecords k.payload (4 * k.plen) →
      r.1 % 8 = 0 ∧ t.stageable r.1 = true ∧ ∀ f, f ∈ stagedReserved r.1 → bitsAt r.2 f.1 f.2 = 0) :
    exec (.stageWrite b q) s = .next (State.finish (t.staged (stageRecords k.payload (4 * k.plen))) k.ref {}) := by
  refine congrArg Host.Outcome.next ((State.command_of_take taken _).trans ?_)
  dsimp only
  generalize stageRecords k.payload (4 * k.plen) = rs at some_ good ⊢
  have clean : (rs.findIdx? fun r => t.stage.pending || r.1 % 8 != 0 || !t.stageable r.1 ||
      (stagedReserved r.1).any fun f => bitsAt r.2 f.1 f.2 != 0) = none := by
    rw [List.findIdx?_eq_none_iff]
    intro r hr
    obtain ⟨aligned, known, reserved⟩ := good r hr
    have zero : ((stagedReserved r.1).any fun f => bitsAt r.2 f.1 f.2 != 0) = false := by
      simpa using fun x y hf => reserved (x, y) hf
    simp [none_, aligned, known, zero]
  rw [clean, if_neg (by simpa using some_)]
  rfl

end Sys2Proof.Machine
end

section
open Sys2Proof Sys2Proof.Machine

/-- Settles O37: staged records fold into the shadow bank; the other rows follow their definitions once the checks have passed. -/
theorem stagingCommands : Obligations.StagingCommands := by
  refine ⟨fun s t b q k => ⟨?_, ?_, ?_⟩, fun s runs pending mode due => ⟨?_, ?_⟩⟩
  · intro taken rs some_ none_ good
    exact ⟨t.staged rs, State.stageWrite_stages taken some_ none_ good, rfl, fun o ho => foldl_stageRecord_other ho _,
      fun r hr => foldl_stageRecord_last hr _⟩
  · intro taken clear
    refine congrArg Host.Outcome.next ((State.command_of_take taken _).trans ?_)
    dsimp only
    rw [clear]
  · intro taken upd checked none_
    refine ⟨fun mode => ?_, fun mode => ?_, fun mode later => ?_⟩ <;>
      refine congrArg Host.Outcome.next ((State.command_of_take taken _).trans ?_)
    · dsimp only
      rw [if_neg upd, if_neg (by simp [checked, none_, mode]), mode]
      rfl
    · dsimp only
      rw [if_neg upd, if_neg (by simp [checked, none_, mode]), mode]
      rfl
    · dsimp only
      rw [if_neg upd, if_neg (by simp [checked, none_, later]), mode]
      rfl
  · intro quiet
    have none_ : bedNums.any s.sealable = false := by
      rw [List.any_eq_false]
      exact fun b hb => by rw [quiet b (List.mem_range.mp hb)]; decide
    refine congrArg Host.Outcome.next ?_
    unfold State.commitTime
    rw [none_, if_neg Bool.false_ne_true, if_pos (by simp [runs, pending, mode, due])]
  · intro b hb can
    exact congrArg Host.Outcome.next (if_pos (List.any_eq_true.mpr ⟨b, List.mem_range.mpr hb, can⟩))

end

section
/-!
SUPPORT. BED_DESTROY and TENANT_SET on the packet taken (R301, R397, R414).
-/
namespace Sys2Proof.Machine

variable {s t : State} {b q : Nat} {k : Pkt}

theorem State.bedDestroy_orders (taken : s.take b q 0x71 = some (k, t))
    (st : (t.bed (bitsAt k.a0 0 5)).st = .ready ∨ (t.bed (bitsAt k.a0 0 5)).st = .faulted) :
    exec (.bedDestroy b q) s = .next (State.orderReset
      (t.updBed (bitsAt k.a0 0 5) fun bd => { bd with destroy := some k.ref }) (bitsAt k.a0 0 5) 3) := by
  refine congrArg Host.Outcome.next ((State.command_of_take taken _).trans ?_)
  rcases st with st | st <;>
  · dsimp only
    rw [st]

theorem State.updTenant_onlyBed (s : State) (b n : Nat) (f : Tenant → Tenant) : s.OnlyBed (s.updTenant b n f) b :=
  State.setBed_onlyBed ..

theorem State.updTenant_tenant (s : State) (b n : Nat) (x : Tenant) : (s.updTenant b n fun _ => x).tenant b n = x := by
  unfold State.tenant State.updTenant State.updBed
  rw [State.setBed_bed_self]
  exact mget_mset_self ..

theorem State.updTenant_tenant_ne {n m : Nat} (h : m ≠ n) (s : State) (b : Nat) (x : Tenant) :
    (s.updTenant b n fun _ => x).tenant b m = s.tenant b m := by
  unfold State.tenant State.updTenant State.updBed
  rw [State.setBed_bed_self]
  exact mget_mset_ne _ _ _ h

/-- What TENANT_SET makes of a record that is not valid yet, and what it draws its salt from (R301). -/
def tenantNew (k : Pkt) (t : State) : Tenant := {
  level := (bitsAt k.a1 32 32 * 100000000 : Nat), last := t.now, rate := bitsAt k.a1 0 32, burst := bitsAt k.a1 32 32
  valid := true, unlimited := bitAt k.a0 13
  salt := if bitsAt k.a0 14 2 = 2 then k.a2 + 2 ^ 64 * k.a3 else Config.random t.draws % 2 ^ 128 }

/-- What TENANT_SET keeps of a valid record (R301, R302). -/
def tenantKept (k : Pkt) (t : State) (old : Tenant) : Tenant := { refill old t.now with
  rate := bitsAt k.a1 0 32, burst := bitsAt k.a1 32 32, unlimited := bitAt k.a0 13
  salt := if bitsAt k.a0 14 2 = 2 then k.a2 + 2 ^ 64 * k.a3 else old.salt }

theorem State.tenantSet_valid {z : Tenant} (taken : s.take b q 0x72 = some (k, t)) (valid : bitAt k.a0 12 = true)
    (which : ((t.tenant (bitsAt k.a0 16 5) (bitsAt k.a0 0 12)).valid = false ∧ z = tenantNew k t) ∨
      ((t.tenant (bitsAt k.a0 16 5) (bitsAt k.a0 0 12)).valid = true ∧ bitsAt k.a0 14 2 ≠ 1 ∧
        z = tenantKept k t (t.tenant (bitsAt k.a0 16 5) (bitsAt k.a0 0 12)))) :
    let v : State := if bitsAt k.a0 14 2 = 2 ∨ (t.tenant (bitsAt k.a0 16 5) (bitsAt k.a0 0 12)).valid = true then t
      else { t with draws := t.draws + 1 }
    exec (.tenantSet b q) s = .next (State.finish ((v.updTenant (bitsAt k.a0 16 5) (bitsAt k.a0 0 12) fun _ => z).delta
      (bitsAt k.a0 16 5) (.tenant (bitsAt k.a0 16 5) (bitsAt k.a0 0 12) z)) k.ref {}) ∧
    v.bed (bitsAt k.a0 16 5) = t.bed (bitsAt k.a0 16 5) := by
  intro v
  refine ⟨congrArg Host.Outcome.next ((State.command_of_take taken _).trans ?_), by unfold v; split <;> rfl⟩
  dsimp only
  rw [valid, if_neg (by decide)]
  rcases which with ⟨old, rfl⟩ | ⟨old, other, rfl⟩
  · rw [old]
    by_cases given : bitsAt k.a0 14 2 = 2
    · simp [v, old, given, tenantNew]
    · simp [v, old, given, tenantNew, State.random] <;> rfl
  · simp [v, old, other, tenantKept]

end Sys2Proof.Machine
end

section
open Sys2Proof Sys2Proof.Machine

/-- Settles O38: each command, past its checks, does what its definition says of the packet taken. -/
theorem bedAndTenantCommands : Obligations.BedAndTenantCommands := by
  intro s t b q k
  refine ⟨?_, ?_, ?_, ?_, ?_⟩
  · intro u taken n w rect get licensed absent wide high some_ few window arena clear enabled quota made
    have lic : ¬ (decide (3 < n) && !t.licensed 2) = true := by simpa using licensed
    have good : ¬ (t.bedExists n || decide (10 < rect.x0 + rect.w) || decide (8 < rect.y0 + rect.h) || bitsAt w 32 18 == 0 ||
        decide (200000 < bitsAt w 32 18) || bitsAt w 236 12 == 0 || bitsAt w 256 16 == 0) = true := by
      simp only [absent, Nat.not_lt.mpr wide, Nat.not_lt.mpr high, Nat.not_lt.mpr few, some_, window, arena, beq_iff_eq, Bool.or_eq_true,
        decide_false, decide_eq_true_eq, or_self, not_false_iff, Bool.false_eq_true]
    have fits : ¬ (!(rectNibs rect).any t.nibOn ||
        decide (200000 < sumNat (t.liveSet.beds.map fun x => t.quota x.1) + bitsAt w 32 18)) = true := by
      simp only [enabled, Nat.not_lt.mpr quota, Bool.not_true, Bool.false_or, decide_eq_true_eq, not_false_iff]
    refine congrArg Host.Outcome.next ((State.command_of_take taken _).trans ?_)
    dsimp only
    rw [if_neg lic, if_neg good]
    split
    · next conflict => exact absurd (conflict.symm.trans clear) (by simp)
    rw [if_neg fits, made]
  · intro taken n st u
    exact State.bedDestroy_orders taken st
  · intro taken n tb mode old v x y
    refine ⟨fun z valid which => ?_, fun invalid unused => ?_⟩
    · obtain ⟨run, bed⟩ := State.tenantSet_valid taken valid which
      exact ⟨v.updTenant tb n fun _ => z, run, State.updTenant_onlyBed .., State.updTenant_tenant ..,
        fun m hm => (State.updTenant_tenant_ne hm ..).trans (congrArg (fun bd : Bed => mget ({} : Tenant) bd.tenants m) bed)⟩
    · have none_ : ¬ (t.sessions.any fun e => e.2.st != .free && e.2.bed == tb && e.2.tenant == n && !e.2.mirror) = true := by
        simp only [List.any_eq_true, Bool.and_eq_true, bne_iff_ne, beq_iff_eq, Bool.not_eq_true', not_exists, not_and]
        intro e he ⟨⟨st, bed⟩, tenant⟩
        rw [unused e he st bed tenant]
        decide
      refine ⟨t.updTenant tb n fun _ => {}, congrArg Host.Outcome.next ((State.command_of_take taken _).trans ?_),
        State.updTenant_onlyBed .., State.updTenant_tenant .., fun m hm => State.updTenant_tenant_ne hm ..⟩
      dsimp only
      rw [invalid, if_pos (by decide), if_neg none_]
  · intro taken room bs
    refine congrArg Host.Outcome.next ((State.command_of_take taken _).trans ?_)
    exact if_neg (Nat.not_lt.mpr room)
  · intro taken room bs u
    refine congrArg Host.Outcome.next ((State.command_of_take taken _).trans ?_)
    exact if_neg (Nat.not_lt.mpr room)

end

section
/-!
SUPPORT. Bed control, queue 0 and the functions (R384, R389, R394, R400, R403).
-/
namespace Sys2Proof.Machine

variable {s : State} {b f : Nat}

theorem State.resetBed_eq (st : (s.bed b).st = .ready ∨ (s.bed b).st = .faulted) : s.resetBed b = s.orderReset b 1 := by
  unfold State.resetBed
  rcases st with st | st <;> rw [st]

theorem State.setIntr_eq (there : s.bedExists b = true ∨ b = 0) (en : Bool) : s.setIntr b en =
    if en then (s.updBed b fun bd => { bd with intrEn := en }).sendOwed b else s.updBed b fun bd => { bd with intrEn := en } := by
  unfold State.setIntr
  exact if_pos (by simpa using there)

/-! ### Queue 0 -/

/-- BED.Q0_CFG keeps a queue's fields as they were written. -/
theorem q0Fields_bits (v : Nat) : bitsAt (q0Fields v) 0 5 = bitsAt v 0 5 ∧ bitsAt (q0Fields v) 5 1 = bitsAt v 5 1 ∧
    bitsAt (q0Fields v) 8 5 = bitsAt v 8 5 ∧ bitsAt (q0Fields v) 13 1 = bitsAt v 13 1 ∧ bitsAt (q0Fields v) 24 8 = bitsAt v 24 8 := by
  simp only [q0Fields, pack, bitsAt, Nat.reducePow]
  omega

/-- Queue 0 as its registers and the value written make it. -/
def q0Queue (bd : Bed) (v : Nat) : Queue := {
  sqBase := bd.sq0Base, sqSlots := 2 ^ bitsAt v 0 5, sqHbm := bitAt v 5, weight := bitsAt v 24 8, cqBase := bd.cq0Base
  cqSize := 2 ^ bitsAt v 8 5, cqHbm := bitAt v 13, vector := 0, taken := ((mget none bd.queues 0).getD {}).taken }

theorem State.q0Enable_bed (s : State) (b : Nat) : s.OnlyBed (s.q0Enable b) b ∧
    mget none ((s.q0Enable b).bed b).queues 0 = some (q0Queue (s.bed b) (s.bed b).q0cfg) := by
  refine ⟨State.setBed_onlyBed .., ?_⟩
  unfold State.q0Enable State.updBed
  rw [State.setBed_bed_self]
  exact mget_mset_self none (s.bed b).queues 0 (some (q0Queue (s.bed b) (s.bed b).q0cfg))

theorem State.OnlyBed.trans {t u : State} (h : s.OnlyBed t b) (k : t.OnlyBed u b) : s.OnlyBed u b :=
  ⟨by rw [k.1, h.1], fun c hc => (k.2 c hc).trans (h.2 c hc)⟩

theorem State.writeQ0_enables {v : Nat} (there : s.bedExists b = true ∨ b = 0) (on : bitAt v 16 = true)
    (off : bitAt (s.bed b).q0cfg 16 = false) (ok : q0Ok (s.bed b) v = true) :
    s.writeQ0 b v = (s.setBed b { s.bed b with q0cfg := q0Fields v }).q0Enable b := by
  have here : ¬ (!(s.bedExists b || b == 0)) = true := by rcases there with h | h <;> simp [h]
  unfold State.writeQ0
  rw [if_neg here]
  dsimp only [State.updBed]
  rw [off, if_neg Bool.false_ne_true, State.setBed_bed_self, on]
  exact if_pos ok

theorem State.writeQ0_disables {v : Nat} (there : s.bedExists b = true ∨ b = 0) (off : bitAt v 16 = false)
    (on : bitAt (s.bed b).q0cfg 16 = true) : s.writeQ0 b v = s.q0Disable b := by
  have here : ¬ (!(s.bedExists b || b == 0)) = true := by rcases there with h | h <;> simp [h]
  unfold State.writeQ0
  rw [if_neg here]
  dsimp only
  rw [on, off]
  rfl

/-! ### Functions -/

theorem mget_foldl_mset {α : Type} [DecidableEq α] (d v : α) (l : List Nat) (m : SMap α) (k : Nat) :
    mget d (l.foldl (fun m f => mset d m f v) m) k = if k ∈ l then v else mget d m k := by
  induction l generalizing m with
  | nil => simp
  | cons a l ih =>
    rw [List.foldl_cons, ih, mget_mset]
    by_cases h : k = a <;> simp [h]

/-- A pending commit goes without a record (R421). -/
def State.dropsCommit (s : State) : State :=
  { s with stage := { s.stage with pending := false, ref := none, mode := 0, bed := 0, at_ := 0 } }

/-- The functions as the PF's reset leaves them (R409). -/
def State.sansFunctions (s : State) : State := { s with pcie := { s.pcie with fns := [], numVfs := 0 } }

/-- The functions a new VF Enable takes away start anew (R394). -/
def State.withVfs (s : State) (n : Nat) : State :=
  { s with pcie := { s.pcie with numVfs := n, fns :=
      ((List.range 32).filter fun f => decide (n < f) && decide (f ≤ s.pcie.numVfs)).foldl (fun m f => mset {} m f {}) s.pcie.fns } }

theorem State.withVfs_fn (s : State) (n : Nat) {f : Nat} (h : f < 32) :
    (s.withVfs n).fn f = if n < f ∧ f ≤ s.pcie.numVfs then {} else s.fn f := by
  refine (mget_foldl_mset ..).trans ?_
  simp [h, State.fn]

end Sys2Proof.Machine
end

section
open Sys2Proof Sys2Proof.Machine

/-- Settles O42: each access, where it may act, does what its definition says; queue 0 has the fields BED.Q0_CFG keeps. -/
theorem functionsAndBedControl : Obligations.FunctionsAndBedControl := by
  intro s
  refine ⟨?_, ?_, ?_, ?_, ?_, ?_, ?_, ?_, ?_⟩
  · intro f b may st
    exact congrArg Host.Outcome.next ((if_pos may).trans (State.resetBed_eq st))
  · intro f b en may there t
    exact congrArg Host.Outcome.next ((if_pos may).trans (State.setIntr_eq there en))
  · intro f b v may there bd
    refine ⟨fun on off ok => ?_, fun off on => ?_⟩
    · refine ⟨(s.setBed b { s.bed b with q0cfg := q0Fields v.toNat }).q0Enable b, congrArg Host.Outcome.next
        ((if_pos (by rw [may, on]; rfl)).trans (State.writeQ0_enables there on off ok)), ?_⟩
      obtain ⟨only, queue⟩ := State.q0Enable_bed (s.setBed b { s.bed b with q0cfg := q0Fields v.toNat }) b
      rw [State.setBed_bed_self] at queue
      obtain ⟨slots, hbm, size, chbm, weight⟩ := q0Fields_bits v.toNat
      refine ⟨(State.setBed_onlyBed ..).trans only, _, queue, rfl, rfl, rfl, rfl, rfl, rfl, rfl, congrArg (2 ^ ·) slots,
        congrArg (2 ^ ·) size, congrArg (· == 1) hbm, congrArg (· == 1) chbm, weight, rfl⟩
    · refine congrArg Host.Outcome.next ((if_pos (by rw [may, off]; rfl)).trans ((State.writeQ0_disables there off on).trans ?_))
      have low : q0Off (s.bed b).q0cfg = (s.bed b).q0cfg - 65536 := if_pos on
      unfold State.q0Disable State.updBed
      dsimp only
      rw [low]
      rfl
  · intro n other on ready
    exact congrArg Host.Outcome.next ((if_neg (by simp [other, on])).trans (if_pos ready))
  · intro ready
    refine ⟨bedNums.foldl State.resetBedFlr s.dropsCommit, congrArg Host.Outcome.next ?_, rfl⟩
    exact congrArg State.sansFunctions (if_pos (c := s.ready = true) ready)
  · intro f on
    exact ⟨_, congrArg Host.Outcome.next (if_pos on), rfl, (State.updFn_fn ..).trans (if_pos rfl),
      fun g hg => (State.updFn_fn ..).trans (if_neg hg)⟩
  · intro f t
    exact ⟨congrArg Fn.d3 ((State.updFn_fn s f f _).trans (if_pos rfl)), fun g hg => (State.updFn_fn ..).trans (if_neg hg), rfl⟩
  · intro n up
    exact ⟨s.withVfs n, congrArg Host.Outcome.next (if_neg (by simp [up])), rfl, fun f hf => State.withVfs_fn s n hf⟩
  · intro speed width flit up
    exact congrArg Host.Outcome.next (if_pos up)

end

section
/-!
SUPPORT. Bring-up (R486–R500): what the steps disable, train and install.
-/
namespace Sys2Proof.Machine

variable {s : State}

/-! ### Nibs and samplers (R489, R490) -/

/-- The nibs listed, and no other, are disabled. -/
theorem State.disable_spec (s : State) (ps : List Nat) : s.disable ps = { s with nibs := (s.disable ps).nibs } ∧
    (∀ p, p ∈ ps → p < 1280 → ((s.disable ps).nib p).st = .disabled) ∧ ∀ p, p ∉ ps → (s.disable ps).nib p = s.nib p := by
  suffices h : ∀ s : State, s.disable ps = { s with nibs := (s.disable ps).nibs } ∧ ∀ p,
      ((p ∈ ps ∧ p < 1280) ∨ (s.nib p).st = .disabled → ((s.disable ps).nib p).st = .disabled) ∧
        (p ∉ ps → (s.disable ps).nib p = s.nib p) from
    ⟨(h s).1, fun p hp hb => ((h s).2 p).1 (.inl ⟨hp, hb⟩), fun p hp => ((h s).2 p).2 hp⟩
  induction ps with
  | nil => exact fun s => ⟨rfl, fun p => ⟨fun h => h.elim (fun h => absurd h.1 List.not_mem_nil) id, fun _ => rfl⟩⟩
  | cons a ps ih =>
    intro s
    have next (t : State) (ht : t = if a < 1280 then s.updNib a fun n => { n with st := .disabled } else s) :
        s.disable (a :: ps) = t.disable ps := by
      subst ht
      rfl
    rw [next _ rfl]
    by_cases ha : a < 1280
    · rw [if_pos ha]
      obtain ⟨frame, nibs⟩ := ih (s.updNib a fun n => { n with st := .disabled })
      refine ⟨frame, fun p => ⟨fun h => (nibs p).1 ?_, fun h => ?_⟩⟩
      · rw [State.updNib_eq, State.setNib_nib]
        by_cases e : p = a
        · exact .inr (by rw [if_pos e])
        · rw [if_neg e]
          exact h.imp (fun h => ⟨(List.mem_cons.mp h.1).resolve_left e, h.2⟩) id
      · obtain ⟨e, hp⟩ := List.ne_and_not_mem_of_not_mem_cons h
        exact ((nibs p).2 hp).trans ((State.setNib_nib ..).trans (if_neg e))
    · rw [if_neg ha]
      obtain ⟨frame, nibs⟩ := ih s
      refine ⟨frame, fun p => ⟨fun h => (nibs p).1 (h.imp (fun h => ⟨(List.mem_cons.mp h.1).resolve_left fun e => ha (by omega), h.2⟩) id),
        fun h => (nibs p).2 (List.not_mem_of_not_mem_cons h)⟩⟩

/-- The samplers listed are retired, those retired before stay so. -/
theorem retired_foldl (ks : List Nat) (m : SMap Samp) (k : Nat) :
    (mget {} (ks.foldl (fun m k => mupd {} m k fun x => { x with retired := true }) m) k).retired = true ↔
      (mget {} m k).retired = true ∨ k ∈ ks := by
  induction ks generalizing m with
  | nil => simp
  | cons a ks ih =>
    rw [List.foldl_cons, ih, mupd, mget_mset]
    by_cases h : k = a <;> simp [h]

/-! ### Channels (R437, R493) -/

/-- A change of a range of channels, which does not depend on the channels. -/
theorem State.foldl_updChan {g : State → Nat → Chan} (hg : ∀ (s : State) c f d, g (s.updChan c f) d = g s d) (n : Nat) (s : State) :
    let t := (List.range n).foldl (fun (s : State) c => s.updChan c fun _ => g s c) s
    t = { s with chans := t.chans } ∧ (∀ c, t.chan c = if c < n then g s c else s.chan c) ∧ ∀ d, g t d = g s d := by
  induction n with
  | zero => exact ⟨rfl, fun c => rfl, fun d => rfl⟩
  | succ n ih =>
    obtain ⟨frame, chans, same⟩ := ih
    rw [List.range_succ, List.foldl_append]
    generalize (List.range n).foldl (fun (s : State) c => s.updChan c fun _ => g s c) s = u at frame chans same ⊢
    refine ⟨by rw [frame]; rfl, fun c => (State.updChan_chan ..).trans ?_, fun d => (hg ..).trans (same d)⟩
    rw [chans, same]
    by_cases h : c = n
    · simp [h]
    · have step : c < n + 1 ↔ c < n := by omega
      simp only [h, if_false, step]

/-! ### Licences (R543) -/

/-- Five feature bits. -/
theorem State.licensedBits_lt (s : State) : s.licensedBits < 2 ^ 5 := by
  unfold State.licensedBits
  generalize (s.flash.licences.filter fun l => l.kind == 1 && s.unexpired l) = l
  suffices h : ∀ a, a < 2 ^ 5 → l.foldl (fun a l => a ||| bitsAt (leField l.bytes 16 1) 0 5) a < 2 ^ 5 from h 0 (by decide)
  induction l with
  | nil => exact fun a h => h
  | cons x l ih => exact fun a h => ih _ (Nat.or_lt_two_pow h (Nat.mod_lt _ (by decide)))

/-! ### The steps that wait for nothing outside -/

/-- No stored setting. -/
theorem State.applyStore_empty (h : s.flash.store = []) (p : Nat → Bool) : s.applyStore p = s := by
  unfold State.applyStore
  rw [h]
  rfl

theorem State.cfgAt_reset (h : s.cfg = []) (o : Nat) : s.cfgAt o = (regReset o).toNat := by
  unfold State.cfgAt
  rw [h]
  rfl

/-- No channel carries a mark at reset (R438). -/
theorem State.marked_reset (h : s.cfg = []) (c : Nat) : s.marked c = false := by
  unfold State.marked
  rw [State.cfgAt_reset h, State.cfgAt_reset h, State.cfgAt_reset h, show (regReset (retire0Reg false)).toNat = 0 by decide,
    show (regReset retire1Reg).toNat = 0 by decide, show (regReset (retire0Reg true)).toNat = 0 by decide]
  unfold bitAt
  simp

/-- The root PLL has locked (R472, R473). -/
def State.pllLocked (s : State) : State := { s with clk := { lock := true }, root := 0, acyc := 0 }

/-- The fuses are read. -/
def State.fusesRead (s : State) : State := { s with boot := { s.boot with fuses := true } }

/-- The quill of an image runs, without the scribes listed (R489, R538). -/
def State.quillStarts (s : State) (slot : Nat) (out : List Nat) : State :=
  let m := s.flash.image slot
  { s with
    draws := s.draws + 1
    scribesOut := out
    sec := { s.sec with running := slot, cl := manifest m 3 1 }
    flash := { s.flash with
      store := if decide (s.flash.storeVersion < manifest m 8 1) then [] else s.flash.store
      storeVersion := max s.flash.storeVersion (manifest m 3 1) }
    boot := { s.boot with qmbStart := s.now, drawnEpoch := Config.random s.draws % 2 ^ 64 } }

/-- The mesh is up without the nibs and samplers listed (R490, R492). -/
def State.meshStarts (s : State) (ps samplers : List Nat) : State :=
  let u := s.disable ps
  { u with
    samp := (samplers.filter (· < 4)).foldl (fun m k => mupd {} m k fun x => { x with retired := true }) u.samp
    boot := { u.boot with meshUp := true } }

/-- What training channel `c` answers. -/
def trainResult (hbm lp : List TrainResult) (c : Nat) : TrainResult :=
  if c < 128 then hbm.getD c { answered := false } else lp.getD (c - 128) { answered := false }

/-- The channels trained. -/
def State.trains (s : State) (hbm lp : List TrainResult) : State :=
  (List.range 160).foldl (fun (s : State) c => s.updChan c fun _ => trained (s.marked c) (trainResult hbm lp c)) s

/-- Both tiers are zero-filled (R493). -/
def State.zeroFilled (s : State) : State :=
  { s with mem := [], memUpset := [], frames := [], lpFrames := [], msys := {} }

/-- Device memory may be used (R493). -/
def State.memoryUp (s : State) : State := { s with boot := { s.boot with memUp := true } }

/-- The HBM channels in service of 64 (R429). -/
def State.activeOf (s : State) (lo : Nat) : Nat := ((List.range 64).filter fun c => (s.chan (lo + c)).st == .active).length

/-- Step 6 ends, or fails for want of channels (R429, R491). -/
def State.memoryOutcome (s : State) : State :=
  if s.activeOf 0 < 16 ∨ s.activeOf 64 < 16 then s.failBoot 8 0 0 else s.memoryUp.endBoot 6 0

theorem State.memoryOutcome_active (h : ∀ c, c < 128 → (s.chan c).st = .active) : s.memoryOutcome = s.memoryUp.endBoot 6 0 := by
  have half (lo : Nat) (hlo : lo ≤ 64) : s.activeOf lo = 64 := by
    unfold State.activeOf
    rw [List.filter_eq_self.mpr, List.length_range]
    intro c hc
    have small : c < 64 := List.mem_range.mp hc
    exact beq_iff_eq.mpr (h (lo + c) (by omega))
  unfold State.memoryOutcome
  rw [half 0 (by omega), half 64 (by omega)]
  exact if_neg (by decide)

theorem State.bringUpStep6_trains {hbm lp : List TrainResult} (on : s.booting 6 = true) (store : s.flash.store = []) :
    exec (.bringUpStep6 hbm lp) s = .next (s.trains hbm lp).zeroFilled.memoryOutcome := by
  refine congrArg Host.Outcome.next ((if_neg (by rw [on]; decide)).trans ?_)
  dsimp only
  rw [State.applyStore_empty store]
  rfl

/-- Without a mark, and where every training succeeds, every HBM channel is in service. -/
theorem State.trains_active {hbm lp : List TrainResult} (cfg : s.cfg = []) (good : ∀ r, r ∈ hbm → r.code = 0)
    (len : hbm.length = 128) : s.trains hbm lp = { s with chans := (s.trains hbm lp).chans } ∧
      ∀ c, c < 128 → ((s.trains hbm lp).chan c).st = .active := by
  obtain ⟨frame, chans, -⟩ := State.foldl_updChan
    (g := fun (s : State) c => trained (s.marked c) (trainResult hbm lp c)) (fun _ _ _ _ => rfl) 160 s
  refine ⟨frame, fun c hc => ?_⟩
  have code : (trainResult hbm lp c).code = 0 := by
    unfold trainResult
    rw [if_pos hc, getD_of_lt (len ▸ hc)]
    exact good _ (List.getElem_mem _)
  have chan : (s.trains hbm lp).chan c = trained (s.marked c) (trainResult hbm lp c) := (chans c).trans (if_pos (by omega))
  rw [chan, State.marked_reset cfg]
  unfold trained
  rw [if_neg Bool.false_ne_true]
  dsimp only
  rw [if_pos code]

/-- What the licences in effect allow (R543, R544). -/
def State.licensesRead (s : State) : State :=
  let s := { s with sec := { s.sec with lifeEight := s.flash.life } }
  { s with sec := { s.sec with licIn := s.licensedBits, debug := s.flash.licences.any fun l => l.kind == 2 && s.unexpired l } }

/-- The licences and the settings come into force (R479, R545). -/
def State.licencesApply (s : State) : State :=
  let s := s.licensesRead.setCfg licenceReg (BitVec.ofNat 64 s.licensesRead.sec.licIn)
  let floor := 4 + s.cfgAt throttleReg % 4
  { s with clk := { s.clk with div := floor, source := if floor = 4 then 0 else 2 } }.repend

theorem State.licencesApply_licence (s : State) : s.licencesApply.cfgAt licenceReg = s.licencesApply.sec.licIn := by
  refine ((State.setCfg_cfgAt (s := s.licensesRead) ..).trans (if_pos rfl)).trans ?_
  have bits : s.licensesRead.sec.licIn < 2 ^ 5 := State.licensedBits_lt _
  rw [BitVec.toNat_ofNat, Nat.mod_eq_of_lt (by omega)]
  rfl

/-- The throttle's floor is no licence. -/
theorem State.licensesRead_floor (s : State) (v : Word) : (s.licensesRead.setCfg licenceReg v).cfgAt throttleReg = s.cfgAt throttleReg :=
  (State.setCfg_cfgAt ..).trans (if_neg (by decide))

theorem State.licencesApply_div (s : State) : s.licencesApply.clk.div = 4 + s.cfgAt throttleReg % 4 := by
  rw [← State.licensesRead_floor s (BitVec.ofNat 64 s.licensesRead.sec.licIn)]
  rfl

theorem State.licencesApply_pend (s : State) : s.licencesApply.clk.pend =
    if max s.therm.divReq (4 + s.cfgAt throttleReg % 4) = 4 + s.cfgAt throttleReg % 4 then 0
    else max s.therm.divReq (4 + s.cfgAt throttleReg % 4) := by
  rw [← State.licensesRead_floor s (BitVec.ofNat 64 s.licensesRead.sec.licIn)]
  rfl

/-- The device is READY in epoch 1 (R500). -/
def State.becomesReady (s : State) : State :=
  { s with boot := { s.boot with beds := true, epoch := 1, fallback := false }, sec := { s.sec with lifeAt := s.now } }

end Sys2Proof.Machine
end

section
open Sys2Proof Sys2Proof.Machine

/-- Settles O45: every step is its own change of the state, then the end of the step. -/
theorem bringUpSteps : Obligations.BringUpSteps := by
  intro s ended
  refine ⟨?_, ?_, ?_, ?_, ?_, ?_, ?_, ?_, ?_, ?_⟩
  · intro on
    exact ⟨s.pllLocked.endBoot 1 0, congrArg Host.Outcome.next ((if_neg (by rw [on]; decide)).trans (if_neg (by decide))),
      ⟨rfl, rfl, rfl, rfl⟩, rfl, Nat.zero_div 48, rfl⟩
  · intro on check
    exact ⟨s.fusesRead.endBoot 2 0, congrArg Host.Outcome.next ((if_neg (by rw [on]; decide)).trans (if_neg (by rw [check]; decide))),
      ⟨rfl, rfl, rfl, rfl⟩, rfl, rfl⟩
  · intro nibs on bad
    obtain ⟨frame, down, others⟩ := State.disable_spec s bad
    refine ⟨(s.disable bad).endBoot 3 bad.length, congrArg Host.Outcome.next ((if_neg (by rw [on]; decide)).trans (if_neg (by decide))),
      ?_, ?_, fun p hp => down p hp (by simpa using (List.mem_filter.mp hp).2), fun p hp => others p hp⟩
    · rw [frame]
      exact ⟨rfl, rfl, rfl, rfl⟩
    · unfold State.endBoot
      rw [frame]
  · intro a b bad slot on pick few
    have enough : ¬ 32 - (bad.eraseDups.filter (· < 32)).length < 4 := by omega
    refine ⟨(s.quillStarts slot (bad.eraseDups.filter (· < 32))).endBoot 4 (32 - (bad.eraseDups.filter (· < 32)).length),
      congrArg Host.Outcome.next ((if_neg (by rw [on]; decide)).trans ?_), ⟨rfl, rfl, rfl, rfl⟩, rfl, rfl, rfl, rfl, rfl⟩
    rw [pick]
    exact if_neg enough
  · intro nibs samplers on
    obtain ⟨frame, down, -⟩ := State.disable_spec s (s.flash.defects ++ nibs ++ s.flash.nibMarks)
    refine ⟨(s.meshStarts (s.flash.defects ++ nibs ++ s.flash.nibMarks) samplers).endBoot 5 0,
      congrArg Host.Outcome.next ((if_neg (by rw [on]; decide)).trans (if_neg (by decide))), ?_, rfl, ?_, fun p hp which => ?_,
      fun k hk => ?_⟩
    · unfold State.meshStarts
      rw [frame]
      exact ⟨rfl, rfl, rfl, rfl⟩
    · unfold State.meshStarts State.endBoot
      rw [frame]
    · exact down p (by simpa [or_assoc] using which) hp
    · unfold State.meshStarts
      rw [frame]
      exact (retired_foldl ..).trans (by simp [hk])
  · intro hbm lp on store cfg good len
    obtain ⟨frame, active⟩ := State.trains_active (lp := lp) cfg good len
    refine ⟨(s.trains hbm lp).zeroFilled.memoryOutcome, State.bringUpStep6_trains on store, ?_⟩
    generalize s.trains hbm lp = u at frame active ⊢
    rw [State.memoryOutcome_active (s := u.zeroFilled) fun c hc => active c hc]
    refine ⟨?_, rfl, rfl, rfl, rfl, rfl, fun c hc => active c hc⟩
    rw [frame]
    exact ⟨rfl, rfl, rfl, rfl⟩
  · intro ports on t
    exact congrArg Host.Outcome.next (if_neg (by rw [on]; decide))
  · intro on store
    refine ⟨(s.licencesApply.endBoot 8 s.licencesApply.sec.licIn), congrArg Host.Outcome.next ((if_neg (by rw [on]; decide)).trans ?_),
      rfl, rfl, ?_, rfl, rfl, ?_⟩
    · dsimp only
      rw [State.applyStore_empty store]
      rfl
    · exact State.licencesApply_licence s
    · exact ⟨State.licencesApply_div s, State.licencesApply_pend s⟩
  · intro on fresh
    refine ⟨s.becomesReady.endBoot 9 0, congrArg Host.Outcome.next ((if_neg (by rw [on]; decide)).trans (if_neg ?_)),
      ⟨rfl, rfl, rfl, rfl⟩, rfl, rfl, rfl⟩
    rw [fresh]
    decide
  · intro up busy mem late
    refine congrArg Host.Outcome.next ((if_pos (by simp [up, busy, late])).trans ?_)
    unfold State.failBoot
    exact if_neg (by rw [mem]; decide)

end

section
open Sys2Proof Sys2Proof.Machine

/-- Settles O1: the meaning of every command is a next state. -/
theorem stepRunsFront : Obligations.StepRunsFront := by
  have answers (c : Instr) (s : State) : ∃ t, exec c s = .next t := by
    cases c <;> exact ⟨_, rfl⟩
  refine ⟨fun c r s h => ?_, answers, fun s => ?_⟩
  · unfold step
    rw [h]
  · unfold step
    split
    · exact ⟨_, rfl⟩
    · exact answers ..

/-- Settles O58, by the values of the reset state. -/
theorem resetState : Obligations.ResetState := by
  refine ⟨rfl, rfl, rfl, rfl, by decide, rfl, rfl, fun b => rfl, fun n => rfl, rfl, rfl, rfl, by decide, by decide, by decide, by decide,
    by decide, rfl, rfl⟩

end

section
/-!
SUPPORT. A load that passes its checks starts (R199, R370, R501).
-/
namespace Sys2Proof.Machine

theorem State.load_begins {t u : State} {h : Nat} {k : Pkt} {m : Package} {v w : Variant} {script : Bool}
    (named : w = if script then { v with slots := v.slots.map fun x => (bitsAt k.a0 8 3, x.2) } else v)
    (st : (t.bed k.ref.bed).st = .ready) (pkg : k.pkg = some m) (formed : packageOk m script = true)
    (handle : (if bitsAt k.a0 0 8 = 0xFF then (t.bed k.ref.bed).freeHandle else some (bitsAt k.a0 0 8)) = some h)
    (variant : t.variantFor k.ref.bed m = some v) (other : ∀ l, l ∈ (t.bed k.ref.bed).loads → l.handle ≠ h)
    (free : ∀ x, x ∈ w.slots → slotBusy (t.bed k.ref.bed) x.1 = false) (room : script = false → t.noRoom k.ref.bed m = false)
    (passes : t.checkLoad k.ref.bed w m.fixedFold = none) (fits : (loaderReport w m.fixedFold).length ≤ bitsAt k.a2 0 32)
    (begun : t.beginLoad k.ref.bed (some k.ref) h m w k.a1 (bitsAt k.a2 0 32) k.dspace = some u) : t.load k script = u := by
  have taken : ¬ ((t.bed k.ref.bed).loads.any (fun l => l.handle == h) || w.slots.any fun x => slotBusy (t.bed k.ref.bed) x.1) = true := by
    simpa using ⟨other, fun a b c hx => free (a, b, c) hx⟩
  have full : ¬ (!script && t.noRoom k.ref.bed m) = true := by
    cases script <;> simp [room]
  unfold State.load
  dsimp only
  rw [if_neg (by rw [st]; decide), pkg]
  dsimp only
  rw [if_neg (by rw [formed]; decide), handle, variant]
  dsimp only
  rw [← named, if_neg taken, if_neg full, passes]
  dsimp only
  rw [if_neg (Nat.not_lt.mpr fits), begun]

end Sys2Proof.Machine
end

section
open Sys2Proof Sys2Proof.Machine

/-- Settles O39: MODEL_LOAD and SCRIPT_LOAD are the one load, of a whole package and of one slot's image. -/
theorem loadsStart : Obligations.LoadsStart := by
  rintro s t u b q h k m v script c (⟨rfl, rfl, taken⟩ | ⟨rfl, rfl, taken⟩) n w st pkg formed handle variant other free room passes fits
    begun <;>
  exact congrArg Host.Outcome.next ((State.command_of_take taken _).trans
    (State.load_begins rfl st pkg formed handle variant other free room passes fits begun))

end

section
/-!
SUPPORT. The staging slot and the handover (R531–R541).
-/
namespace Sys2Proof.Machine

variable {s t : State} {b q : Nat} {k : Pkt}

/-! ### The staging slot -/

theorem State.stageBytes_frame (s : State) (off : Nat) (bs : List Byte) : s.stageBytes off bs = { s with
    flash := { s.flash with staging := (s.stageBytes off bs).flash.staging, coverage := (s.stageBytes off bs).flash.coverage }
    sec := { s.sec with upd := .writing } } := rfl

theorem State.stageBytes_staging (s : State) (off : Nat) (bs : List Byte) {i : Nat} (h : i < bs.length) :
    mget 0 (s.stageBytes off bs).flash.staging (off + i) = bs[i] := mget_msetRange 0 s.flash.staging off bs i h

theorem State.stageBytes_staging_ne (s : State) (off : Nat) (bs : List Byte) {i : Nat} (h : i < off ∨ off + bs.length ≤ i) :
    mget 0 (s.stageBytes off bs).flash.staging i = mget 0 s.flash.staging i := mget_msetRange_ne 0 s.flash.staging off bs h

theorem State.updateWrite_stages (taken : s.take b q 0x80 = some (k, t))
    (st : t.sec.upd = .empty ∨ t.sec.upd = .writing ∨ t.sec.upd = .verified) :
    exec (.updateWrite b q) s = .next (State.endUpdate (t.stageBytes k.a0 (slice k.data 0 k.dbytes)) k.ref .ok) := by
  refine congrArg Host.Outcome.next ((State.command_of_take taken _).trans ?_)
  rcases st with st | st | st <;> rw [st]

theorem State.updateVerify_verifies (taken : s.take b q 0x81 = some (k, t)) (st : t.sec.upd = .writing ∨ t.sec.upd = .verified) :
    exec (.updateVerify b q) s = .next (match t.verifyFail [1, 2, 3, 4, 5, 6, 7] with
      | none => State.endUpdate { t with sec := { t.sec with upd := .verified } } k.ref .ok 0 (manifest t.flash.staging 3 1)
      | some c => State.endUpdate { t with sec := { t.sec with upd := .writing } } k.ref (verifyStatus c) c) := by
  refine congrArg Host.Outcome.next ((State.command_of_take taken _).trans ?_)
  generalize t.verifyFail [1, 2, 3, 4, 5, 6, 7] = c
  rcases st with st | st <;> rw [st] <;> cases c <;> rfl

end Sys2Proof.Machine
end

section
open Sys2Proof Sys2Proof.Machine

/-- Settles O40: each command, past its checks, does what its definition says of the packet taken. -/
theorem updateCommands : Obligations.UpdateCommands := by
  intro s t b q k
  refine ⟨?_, State.updateVerify_verifies, ?_, ?_, ?_⟩
  · intro taken st
    refine ⟨_, State.updateWrite_stages taken st, State.stageBytes_frame .., fun i hi => ?_, fun i hi => State.stageBytes_staging_ne _ _ _ hi⟩
    rw [State.stageBytes_staging _ _ _ hi, List.getElem?_eq_getElem hi]
  · intro taken st scripts peer
    refine congrArg Host.Outcome.next ((State.command_of_take taken _).trans ?_)
    dsimp only
    rw [if_neg (by rw [st]; decide), if_neg (by rw [scripts]; decide), if_neg (by rw [peer]; decide)]
  · intro slot taken st tested trial m
    refine congrArg Host.Outcome.next ((State.command_of_take taken _).trans ?_)
    dsimp only
    rw [if_neg (by rw [st, tested]; decide), trial]
    rfl
  · intro taken r l list u
    refine congrArg Host.Outcome.next ((State.command_of_take taken _).trans ?_)
    show (match t.licenceFail r with | some st => t.reject k.ref st | none => _) = _
    cases t.licenceFail r <;> rfl

end

section
/-!
SUPPORT. The handover, the health window and the recovery mailbox (R534–R541).
-/
namespace Sys2Proof.Machine

variable {s : State}

/-- The bundle copied to the slot that is not active (R534). -/
def State.copied (s : State) : State :=
  let slot := 1 - s.flash.active
  { s with
    flash := { s.flash with
      slotA := if slot = 0 then s.flash.staging else s.flash.slotA
      slotB := if slot = 0 then s.flash.slotB else s.flash.staging, trial := some slot, seq := s.flash.seq + 1 }
    sec := { s.sec with upd := .handover } }

theorem State.copied_image (s : State) : s.copied.flash.image (1 - s.flash.active) = s.flash.staging := by
  unfold Flash.image State.copied
  split
  · next h => exact if_pos h
  · next h => exact if_neg h

theorem State.handover_copies (runs : s.runs = true) (st : s.sec.upd = .copying) : exec .handover s = .next s.copied.startPause := by
  refine congrArg Host.Outcome.next ((if_neg (by rw [runs]; decide)).trans ?_)
  rw [st]
  rfl

theorem State.handover_resumes (runs : s.runs = true) (st : s.sec.upd = .handover) (pausing : s.sec.pausing = true)
    (paused : s.allPaused = true) : exec .handover s = .next (match s.sec.back with | none => s.toTrial | some c => s.toActive c) := by
  refine congrArg Host.Outcome.next ((if_neg (by rw [runs]; decide)).trans ?_)
  rw [st]
  dsimp only
  refine (if_neg (by rw [pausing, paused]; decide)).trans ?_
  cases s.sec.back <;> rfl

/-- Intake resumes in the beds; nothing else but the pause changes. -/
theorem State.resume_frame (s : State) : s.resume = { s with
    beds := s.resume.beds, sec := { s.sec with pausing := false, firstPause := none, retryAt := none } } := by
  have beds (l : List Nat) (s : State) : l.foldl (fun (s : State) b => s.updBed b fun bd => { bd with paused := false }) s = { s with
      beds := (l.foldl (fun (s : State) b => s.updBed b fun bd => { bd with paused := false }) s).beds } := by
    induction l generalizing s with
    | nil => rfl
    | cons b l ih => exact ih _
  unfold State.resume
  dsimp only
  rw [beds]

theorem State.handoverPauseTimeout_retries {x : Nat} (runs : s.runs = true) (pausing : s.sec.pausing = true)
    (first : s.sec.firstPause = some x) (some_ : s.allPaused = false) (late : x + 1500000 < s.now) (few : s.sec.attempts < 15) :
    exec .handoverPauseTimeout s = .next { s.resume with sec := { s.resume.sec with
      attempts := s.sec.attempts + 1, retryAt := some s.now } } := by
  have kept : s.resume.sec.attempts = s.sec.attempts := by
    rw [State.resume_frame]
  have attempts : satAdd 8 s.resume.sec.attempts 1 = s.sec.attempts + 1 := by
    rw [kept]
    exact Nat.min_eq_left (by omega)
  have now : s.resume.now = s.now := by
    rw [State.resume_frame]
    rfl
  refine congrArg Host.Outcome.next ?_
  rw [first]
  dsimp only
  rw [if_neg (by simp [runs, pausing, some_, late]), attempts]
  refine (if_pos (.inl (by omega))).trans ?_
  rw [now]

/-! ### The recovery mailbox -/

theorem State.recWrite_stages (busy : s.recBusy 1 = true) (some_ : 1 ≤ s.sec.recLength) (few : s.sec.recLength ≤ 16384)
    (aligned : s.sec.recOffset % 64 = 0) (inside : s.sec.recOffset + s.sec.recLength ≤ 0x4000000) :
    let u := s.stageBytes s.sec.recOffset (mgetRange 0 s.sec.recBuf 0 s.sec.recLength)
    exec .recWrite s = .next { u with sec := { u.sec with recVerified := false, recSt := 2, recCode := 0, recDetail := 0 } } :=
  congrArg Host.Outcome.next ((if_neg (by rw [busy]; decide)).trans (if_neg (by omega)))

theorem mgetRange_getElem {α : Type} (d : α) (m : SMap α) (k n : Nat) {i : Nat} (h : i < (mgetRange d m k n).length) :
    (mgetRange d m k n)[i] = mget d m (k + i) := by
  have small : i < n := by rwa [mgetRange_length] at h
  have at_ : (mgetRange d m k n)[i]? = some (mget d m (k + i)) := by
    rw [← map_range_mget, List.getElem?_map, List.getElem?_range small]
    rfl
  exact Option.some.inj ((List.getElem?_eq_getElem h).symm.trans at_)

theorem State.recVerify_verifies (busy : s.recBusy 2 = true) :
    exec .recVerify s = .next (match s.verifyFail [1, 2, 3, 4, 6, 7] with
      | none => { s with sec := { s.sec with recVerified := true, recSt := 2, recCode := 0, recDetail := 0 } }
      | some c => { s with sec := { s.sec with
          recVerified := false, recSt := 3, recCode := (verifyStatus c).code, recDetail := c } }) := by
  refine congrArg Host.Outcome.next ((if_neg (by rw [busy]; decide)).trans ?_)
  generalize s.verifyFail [1, 2, 3, 4, 6, 7] = c
  cases c <;> rfl

end Sys2Proof.Machine
end

section
open Sys2Proof Sys2Proof.Machine

/-- Settles O41: each row, where it comes about, does what its definition says. -/
theorem handoverAndRecovery : Obligations.HandoverAndRecovery := by
  intro s
  refine ⟨?_, ?_, ?_, ?_, ?_, ?_, ?_, State.recVerify_verifies, ?_⟩
  · intro runs st
    exact ⟨s.copied, State.handover_copies runs st, rfl, s.copied_image, rfl, rfl⟩
  · intro runs st pausing paused
    have run := State.handover_resumes runs st pausing paused
    exact ⟨fun back => by rw [run, back], fun c back => by rw [run, back]⟩
  · intro x runs pausing first some_ late few
    exact State.handoverPauseTimeout_retries runs pausing first some_ late few
  · intro x runs st going retry due
    refine congrArg Host.Outcome.next ?_
    rw [retry]
    exact if_pos (by simp [runs, st, going, due])
  · intro runs st
    refine ⟨fun fresh => ⟨congrArg Host.Outcome.next ((if_pos (by simp [runs, st, fresh])).trans (if_pos rfl)),
      congrArg Host.Outcome.next ((if_pos (by simp [runs, st, fresh])).trans (if_neg Bool.false_ne_true))⟩,
      fun fresh late => congrArg Host.Outcome.next (if_pos (by simp [runs, st, fresh, late])),
      fun late => congrArg Host.Outcome.next (if_pos (by simp [runs, st, late]))⟩
  · intro runs beds due
    exact congrArg Host.Outcome.next (if_pos (by simp [runs, beds, due]))
  · intro busy some_ few aligned inside
    refine ⟨_, State.recWrite_stages busy some_ few aligned inside, rfl, fun i hi => ?_, rfl⟩
    exact (State.stageBytes_staging _ _ _ (by rw [mgetRange_length]; exact hi)).trans
      ((mgetRange_getElem ..).trans (by rw [Nat.zero_add]))
  · intro busy verified m
    exact congrArg Host.Outcome.next ((if_neg (by rw [busy]; decide)).trans (if_neg (by rw [verified]; decide)))

end

section
/-! SUPPORT. Register space and device memory as the physical function reaches them (R386–R392, R569–R579): what a write of a
register of one size does, what a read answers and clears, the MSI-X table, and a row written to a nib's window. -/
namespace Sys2Proof.Machine
open Sys2Proof

variable {s : State}

/-! ### BAR0 of the physical function -/

/-- The physical function's BAR0 answers on a device that answers, is READY and is not in D3hot. -/
theorem State.bar0Open_pf (ready : s.ready = true) (awake : s.inD3 0 = false) (hi : Nat) : s.bar0Open 0 hi = true := by
  simp [State.bar0Open, State.fnOn, ready, awake]

section
variable (up : s.answers = true) (ready : s.ready = true) (awake : s.inD3 0 = false)
include up ready awake

/-- A write within BAR0 of a size that divides its offset reaches the register there. -/
theorem State.writeBar0_aligned {off len : Nat} (v : Word) (inside : off + len ≤ 0x4000000) (size : len = 4 ∨ len = 8)
    (aligned : off % len = 0) : s.writeBar0 0 off len v = s.writeReg (off - off % 8) (len == 8 || !(len == 8 || off % 8 == 4))
      (len == 8 || off % 8 == 4)
      (if len = 8 then v.toNat else v.toNat % 2 ^ 32 * (if (len == 8 || off % 8 == 4) = true then 2 ^ 32 else 1)) := by
  have inBar : s.inBar 0 0 off len = true := decide_eq_true inside
  refine (if_neg (by rw [up]; decide)).trans ((if_neg (by rw [inBar]; decide)).trans
    ((if_neg (by rw [State.bar0Open_pf ready awake]; decide)).trans ?_))
  exact (if_pos ⟨size, aligned⟩).trans (if_neg fun h => h.1 rfl)

theorem State.registerWrite_whole {off : Nat} (v : Word) (inside : off + 8 ≤ 0x4000000) (aligned : off % 8 = 0) :
    exec (.registerWrite 0 (.bar0 off) 8 v) s = .next (s.writeReg off true true v.toNat) := by
  refine congrArg Host.Outcome.next ((State.writeBar0_aligned up ready awake v inside (.inr rfl) aligned).trans ?_)
  rw [aligned]
  rfl

theorem State.registerWrite_half {off : Nat} (v : Word) (inside : off + 4 ≤ 0x4000000) (aligned : off % 4 = 0) :
    exec (.registerWrite 0 (.bar0 off) 4 v) s = .next (if off % 8 = 0 then s.writeReg off true false (v.toNat % 2 ^ 32)
      else s.writeReg (off - 4) false true (v.toNat % 2 ^ 32 * 2 ^ 32)) := by
  refine congrArg Host.Outcome.next ((State.writeBar0_aligned up ready awake v inside (.inl rfl) aligned).trans ?_)
  by_cases low : off % 8 = 0
  · rw [if_pos low, low]
    exact congrArg _ (Nat.mul_one _)
  · have high : off % 8 = 4 := by omega
    rw [if_neg low, high]
    rfl

omit up ready awake in
theorem mergeHalves_both (old : Nat) (v : Word) : mergeHalves old v.toNat true true = v.toNat := by
  have small : v.toNat < 2 ^ 64 := v.isLt
  unfold mergeHalves
  simp only [if_true]
  omega

theorem State.registerWrite_win {b : Nat} (v : Word) (hb : b < 32) : exec (.registerWrite 0 (.bar0 (bedReg b 0x50)) 8 v) s =
    .next (s.updBed b fun bd => { bd with win := v.toNat % 2 ^ 48 / 65536 * 65536 }) := by
  have at_ : bedReg b 0x50 = 0x208000 + 0x4000 * b + 0x50 := rfl
  rw [State.registerWrite_whole up ready awake v (by omega) (by omega)]
  refine congrArg Host.Outcome.next ?_
  unfold State.writeReg
  rw [if_neg (by omega), if_pos (by omega), show (bedReg b 0x50 - 0x208000) / 0x4000 = b by omega,
    show (bedReg b 0x50 - 0x208000) % 0x4000 = 0x50 by omega]
  unfold State.writeBed
  dsimp only
  rw [if_neg (by decide : ¬ (0x50 : Nat) = 0x08), if_pos rfl]
  simp only [mergeHalves_both]

theorem State.registerWrite_two_bad {off : Nat} (v : Word) (inside : off + 2 ≤ 0x4000000) (aligned : off % 8 = 0)
    (there : (s.regAt off).isSome) :
    exec (.registerWrite 0 (.bar0 off) 2 v) s = .next { s with pcie := { s.pcie with badAccess := s.pcie.badAccess + 1 } } := by
  have inBar : s.inBar 0 0 off 2 = true := decide_eq_true inside
  have one : cdiv (off + 2 - (off - off % 8)) 8 = 1 := by
    rw [aligned, Nat.sub_zero, Nat.add_sub_cancel_left]
    rfl
  refine congrArg Host.Outcome.next ((if_neg (by rw [up]; decide)).trans ((if_neg (by rw [inBar]; decide)).trans
    ((if_neg (by rw [State.bar0Open_pf ready awake]; decide)).trans ?_)))
  refine (if_neg fun h => absurd h.1 (by decide)).trans (if_pos ?_)
  rw [one, aligned]
  exact (Bool.or_false _).trans there

/-! ### MSI-X and the BAR's size -/

theorem State.registerWrite_vector {k : Nat} (v : Word) (hk : k < 2048) :
    ∃ t : State, exec (.registerWrite 0 (.bar2 (0x8000 + 16 * k)) 8 v) s = .next (t.sendPending 0) ∧
      t = { s with pcie := { s.pcie with fns := t.pcie.fns } } ∧ (∀ f, f ≠ 0 → t.fn f = s.fn f) ∧
      t.fn 0 = { s.fn 0 with vecs := (t.fn 0).vecs } ∧ (∀ j, j ≠ k → mget {} (t.fn 0).vecs j = mget {} (s.fn 0).vecs j) ∧
      mget {} (t.fn 0).vecs k = { mget {} (s.fn 0).vecs k with addr := v.toNat / 4 * 4 } := by
  have inBar : s.inBar 0 2 (0x8000 + 16 * k) 8 = true := decide_eq_true (by show _ ≤ 0x10000; omega)
  have open_ : s.bar2Open 0 = true := by simp [State.bar2Open, State.fnOn, ready, awake]
  have base : 0x8000 + 16 * k - (0x8000 + 16 * k) % 8 = 0x8000 + 16 * k := by omega
  have entry : (0x8000 + 16 * k - 0x8000) / 16 = k := by omega
  have low : (0x8000 + 16 * k) % 16 = 0 := by omega
  let put (m : Msix) : Msix := { m with addr := v.toNat / 4 * 4 }
  refine ⟨s.updFn 0 fun y => { y with vecs := mupd {} y.vecs k put }, ?_, rfl, fun f hf => ?_, ?_, fun j hj => ?_, ?_⟩
  · refine congrArg Host.Outcome.next ((if_neg (by rw [up]; decide)).trans ((if_neg (by rw [inBar]; decide)).trans
      ((if_neg (by rw [open_]; decide)).trans ?_)))
    dsimp only
    rw [base, if_pos ⟨.inr rfl, by omega, by omega, by show _ < 0x8000 + 16 * 2048; omega⟩, entry]
    simp only [low, if_true, show (8 == 8) = true from rfl, Bool.true_or, mergeHalves_both, put]
  · rw [State.updFn_fn, if_neg hf]
  · rw [State.updFn_fn, if_pos rfl]
  · rw [State.updFn_fn, if_pos rfl]
    exact (mget_mupd ..).trans (if_neg hj)
  · rw [State.updFn_fn, if_pos rfl]
    exact (mget_mupd ..).trans (if_pos rfl)

omit ready awake in
theorem State.registerWrite_msixControl (v : Word) :
    ∃ t : State, exec (.registerWrite 0 .msixControl 2 v) s = .next (t.sendPending 0) ∧
      t = { s with pcie := { s.pcie with fns := t.pcie.fns } } ∧ (∀ f, f ≠ 0 → t.fn f = s.fn f) ∧
      t.fn 0 = { s.fn 0 with msixOn := bitAt v.toNat 15, fnMask := bitAt v.toNat 14 } := by
  refine ⟨s.updFn 0 fun x => { x with msixOn := bitAt v.toNat 15, fnMask := bitAt v.toNat 14 }, ?_, rfl, fun f hf => ?_, ?_⟩
  · exact congrArg Host.Outcome.next ((if_neg (by rw [up]; decide)).trans (if_neg (by simp [State.fnOn])))
  · rw [State.updFn_fn, if_neg hf]
  · rw [State.updFn_fn, if_pos rfl]

omit ready awake in
theorem State.registerWrite_barSize (v : Word) (large : 10 ≤ bitsAt v.toNat 8 6) (small : bitsAt v.toNat 8 6 ≤ 16) :
    ∃ t : State, exec (.registerWrite 0 .barSize 4 v) s = .next t ∧ t = { s with pcie := { s.pcie with fns := t.pcie.fns } } ∧
      (∀ f, f ≠ 0 → t.fn f = s.fn f) ∧ t.fn 0 = { s.fn 0 with barGiB := 2 ^ (bitsAt v.toNat 8 6 - 10) } := by
  refine ⟨s.updFn 0 fun x => { x with barGiB := 2 ^ (bitsAt v.toNat 8 6 - 10) }, ?_, rfl, fun f hf => ?_, ?_⟩
  · exact congrArg Host.Outcome.next ((if_neg (by rw [up]; decide)).trans ((if_neg (by simp [State.fnOn])).trans
      (if_pos ⟨rfl, large, small⟩)))
  · rw [State.updFn_fn, if_neg hf]
  · rw [State.updFn_fn, if_pos rfl]

/-! ### Reads of registers and their read-to-clear counts -/

/-- A read of one whole register answers its bytes, and leaves what the read of it leaves. -/
theorem State.rcFieldRead_whole {off : Nat} (inside : off + 8 ≤ 0x4000000) (aligned : off % 8 = 0) :
    exec (.rcFieldRead 0 (.bar0 off) 8) s = .next ((s.readReg off 0 8).2.emit (.readReply 0 (leBytes 8 (s.readReg off 0 8).1))) := by
  have inBar : s.inBar 0 0 off 8 = true := decide_eq_true inside
  have offsets : (List.range (cdiv (off + 8 - (off - off % 8)) 8)).map (fun i => off - off % 8 + 8 * i) = [off] := by
    rw [aligned, Nat.sub_zero, Nat.add_sub_cancel_left]
    rfl
  refine congrArg Host.Outcome.next ((if_neg (by rw [up]; decide)).trans ((if_neg (by rw [inBar]; decide)).trans
    ((if_neg (by rw [State.bar0Open_pf ready awake]; decide)).trans ?_)))
  dsimp only
  rw [show (8 == 4) = false from rfl, Bool.and_false, Bool.false_and, Bool.false_and, if_neg Bool.false_ne_true,
    if_neg Bool.false_ne_true, offsets]
  have one : s.readRegs 0 off (off + 8) [off] =
      (((leBytes 8 (s.readReg off 0 8).1).take 8).drop 0 ++ [], (s.readReg off 0 8).2) := by
    simp only [State.readRegs, State.pfOffset, if_true, Nat.sub_self, Nat.min_self, Nat.add_sub_cancel_left]
  rw [one, List.append_nil, List.drop_zero, List.take_of_length_le (Nat.le_of_eq (Laws.leBytes_length ..))]

omit up ready awake in
/-- A property of both branches holds of a conditional. -/
theorem all_ite {α : Type} {c : Prop} [Decidable c] {p : α → Bool} {a b : Option α} (ha : a.all p = true) (hb : b.all p = true) :
    (if c then a else b).all p = true := by
  split
  · exact ha
  · exact hb

omit up ready awake in
/-- The bytes of every read-to-clear field lie in the register, and there is one at least. -/
theorem rcBytes_inside {off lo hi : Nat} (h : rcBytes off = some (lo, hi)) : 0 < hi ∧ lo < 8 := by
  have all : (rcBytes off).all (fun x => decide (0 < x.2) && decide (x.1 < 8)) = true :=
    all_ite rfl (all_ite rfl (all_ite rfl (all_ite rfl (all_ite rfl (all_ite rfl
      (all_ite (all_ite rfl rfl) (all_ite (all_ite rfl rfl) (all_ite (all_ite rfl rfl) (all_ite (all_ite rfl rfl) rfl)))))))))
  rw [h] at all
  simpa using all

/-- Read by `get`, the state answers `v`. -/
def Answers (get : State → Nat) (t : State) (v : Nat) : Prop := get t = v

omit up ready awake in
/-- A reading and a state that turn on one condition agree where both their branches do. -/
theorem answers_ite {c : Prop} [Decidable c] {f g : State → Nat} {a b : State} {v : Nat} (ha : Answers f a v) (hb : Answers g b v) :
    Answers (fun t => if c then f t else g t) (if c then a else b) v := by
  unfold Answers at *
  split
  · exact ha
  · exact hb

omit up ready awake in
/-- A count that is set is what is read afterwards. -/
theorem State.rcGet_rcSet (s : State) (off v : Nat) : Answers (fun t => t.rcGet off) (s.rcSet off v) v := by
  refine answers_ite rfl (answers_ite rfl (answers_ite rfl (answers_ite rfl (answers_ite rfl (answers_ite rfl (answers_ite rfl
    (answers_ite rfl (answers_ite ?chan (answers_ite ?port (answers_ite ?dma (answers_ite ?samp ?nib)))))))))))
  case chan =>
    unfold Answers
    dsimp only
    rw [State.updChan_chan, if_pos rfl]
    split <;> rfl
  case port =>
    unfold Answers
    dsimp only
    rw [show ∀ f n, (s.updPort n f).port n = f (s.port n) from fun f n => (mget_mset ..).trans (if_pos rfl)]
    generalize off % 0x10000 = x
    split
    · rfl
    · rfl
    · rfl
    next low high again =>
      split
      · exact absurd rfl low
      · exact absurd rfl high
      · exact absurd rfl again
      · rfl
  case dma =>
    unfold Answers
    dsimp only
    rw [show ∀ f n, (s.updDma n f).dmaCh n = f (s.dmaCh n) from fun f n => (mget_mupd ..).trans (if_pos rfl)]
  case samp =>
    unfold Answers
    dsimp only
    rw [mget_mupd, if_pos rfl]
  case nib =>
    unfold Answers
    dsimp only
    rw [State.updNib_eq, State.setNib_nib, if_pos rfl]
    generalize off % 0x8000 = x
    split
    · rfl
    · rfl
    next low high =>
      split
      · exact absurd rfl low
      · exact absurd rfl high
      · rfl

omit up ready awake in
theorem State.rcClear_rcGet (s : State) (off : Nat) : (s.rcClear off).rcGet off = s.rcGet off - mget 0 s.mark.counts off :=
  State.rcGet_rcSet ..

/-! ### Device memory through BAR4 -/

omit up awake ready in
theorem State.bar4Open_pf (ready : s.ready = true) (awake : s.inD3 0 = false) : s.bar4Open 0 = true := by
  simp [State.bar4Open, State.fnOn, ready, awake]

theorem State.bar4Read_answers {off len : Nat} {bs : List Byte} {t : State} (inBar : s.inBar 0 4 off len = true)
    (ok : s.bar4Ok 0 ((s.bed 0).win + off) len = true) (read : s.readDev ((s.bed 0).win + off) len = (.ok bs, t)) :
    exec (.bar4Read 0 off len) s = .next (t.emit (.readReply 0 bs)) := by
  refine congrArg Host.Outcome.next ((if_neg (by rw [up]; decide)).trans ((if_neg (by rw [inBar]; decide)).trans
    ((if_neg (by rw [State.bar4Open_pf ready awake]; decide)).trans ((if_neg (by rw [ok]; decide)).trans ?_))))
  rw [read]

theorem State.bar4Write_memory {off : Nat} {bytes : List Byte} {t : State} (inBar : s.inBar 0 4 off bytes.length = true)
    (some_ : bytes ≠ []) (below : (s.bed 0).win + off + bytes.length ≤ 0x010000000000)
    (ok : s.bar4Ok 0 ((s.bed 0).win + off) bytes.length = true)
    (write : s.writeDev ((s.bed 0).win + off) bytes = (t, [])) : exec (.bar4Write 0 off bytes false) s = .next t := by
  have all : bytes.take (0x010000000000 - ((s.bed 0).win + off)) = bytes := List.take_of_length_le (by omega)
  have none_ : bytes.drop (0x010000000000 - ((s.bed 0).win + off)) = [] := List.drop_eq_nil_of_le (by omega)
  refine congrArg Host.Outcome.next ((if_neg (by rw [up]; decide)).trans ((if_neg (by rw [inBar]; decide)).trans
    ((if_neg (by rw [State.bar4Open_pf ready awake]; decide)).trans ((if_neg Bool.false_ne_true).trans
      ((if_neg (by rw [ok]; decide)).trans ?_)))))
  dsimp only
  rw [all, none_, if_neg some_, write]
  rfl

omit up ready awake in
/-- Only its first 32 bytes make a row. -/
theorem rowOf_append {bs : List Byte} (whole : bs.length = 32) (rest : List Byte) : rowOf (bs ++ rest) = rowOf bs := by
  unfold rowOf
  rw [List.take_left' whole, List.take_of_length_le (by omega)]

omit up ready awake in
/-- The address of a row in a nib's window. -/
theorem placeOf_window {p row : Nat} (hp : p < 1280) (hrow : row < 65536) :
    placeOf (0x010000000000 + 0x400000 * p + 32 * row) = .pad p row := by
  unfold placeOf
  rw [if_neg (by omega), if_neg (by omega), if_pos (by omega)]
  dsimp only
  rw [show (0x010000000000 + 0x400000 * p + 32 * row - 0x010000000000) % 0x400000 = 32 * row by omega, if_pos (by omega),
    show (0x010000000000 + 0x400000 * p + 32 * row - 0x010000000000) / 0x400000 = p by omega, Nat.mul_div_cancel_left _ (by omega)]

omit up ready awake in
/-- An aligned row written to a nib's window is one packet of that row. -/
theorem State.windowPkts_row {p row : Nat} {bs : List Byte} (hp : p < 1280) (hrow : row < 65536) (whole : bs.length = 32) :
    s.windowPkts (0x010000000000 + 0x400000 * p + 32 * row) (0x010000000000 + 0x400000 * p + 32 * row) bs 1 =
      [(p, row, [rowOf bs])] := by
  unfold State.windowPkts
  rw [placeOf_window hp hrow]
  simp only [Nat.max_self, Nat.sub_self, List.drop_zero, List.take_zero, List.nil_append, Nat.add_sub_cancel_left]
  rw [List.take_of_length_le (by omega), rowOf_append whole]
  rfl

theorem State.bar4Write_window {off p row : Nat} {bytes : List Byte} (inBar : s.inBar 0 4 off 32 = true)
    (whole : bytes.length = 32) (hp : p < 1280) (hrow : row < 65536)
    (at_ : (s.bed 0).win + off = 0x010000000000 + 0x400000 * p + 32 * row)
    (ok : s.bar4Ok 0 ((s.bed 0).win + off) 32 = true) :
    exec (.bar4Write 0 off bytes false) s = .next { s with
      draws := s.draws + 1
      mesh := s.mesh ++ [(.pcie, {
        bed := (s.bedOf p).getD 0, nib := p, slot := 0, handle := none, index := row, tally := (s.free 6).1.toNat
        rows := [rowOf bytes], reach := s.acyc + meshTime (MUnit.router .pcie) p })] } := by
  have past : 0x010000000000 - ((s.bed 0).win + off) = 0 := by omega
  have some_ : bytes ≠ [] := fun h => by rw [h] at whole; exact absurd whole (by decide)
  refine congrArg Host.Outcome.next ((if_neg (by rw [up]; decide)).trans ((if_neg (by rw [whole, inBar]; decide)).trans
    ((if_neg (by rw [State.bar4Open_pf ready awake]; decide)).trans ((if_neg Bool.false_ne_true).trans
      ((if_neg (by rw [whole, ok]; decide)).trans ?_)))))
  dsimp only
  rw [past, List.take_zero, List.drop_zero, if_pos rfl, if_neg some_, List.length_nil, Nat.add_zero]
  dsimp only
  unfold State.sendWindow
  rw [whole, at_, show (0x010000000000 + 0x400000 * p + 32 * row) / 32 * 32 = 0x010000000000 + 0x400000 * p + 32 * row by omega,
    show cdiv ((0x010000000000 + 0x400000 * p + 32 * row) % 32 + 32) 32 = 1 by unfold cdiv; omega,
    State.windowPkts_row hp hrow whole]
  rfl

end

theorem State.unservedMemoryRequest_answer (up : s.answers = true) {f bar off len : Nat} (out : s.inBar f bar off len = false)
    (write : Bool) : exec (.unservedMemoryRequest f bar off len write) s = .next (s.unserved f write) :=
  congrArg Host.Outcome.next (if_neg (by rw [up, out]; decide))

theorem State.badAccess_read (up : s.answers = true) (ready : s.ready = true) (awake : s.inD3 0 = false) :
    ∃ t, exec (.rcFieldRead 0 (.bar0 0xC00008) 8) s = .next t ∧
      t.out = s.out ++ [.readReply 0 (leBytes 8 (min (2 ^ 32 - 1) (min s.pcie.badAccess (mget 0 s.mark.counts 0xC00008))))] ∧
      t = { s with out := t.out, mark := t.mark, pcie := { s.pcie with
        badAccess := s.pcie.badAccess - mget 0 s.mark.counts 0xC00008 } } :=
  ⟨_, State.rcFieldRead_whole up ready awake (by decide) (by decide), rfl, rfl⟩

theorem State.timeNowLowRead_latches (up : s.answers = true) (ready : s.ready = true) (awake : s.inD3 0 = false) :
    ∃ t, exec (.timeNowLowRead 0) s = .next t ∧ t.out = s.out ++ [.readReply 0 (leBytes 4 s.now)] ∧
      (t.fn 0).latch = some (s.now / 2 ^ 32) ∧ t = { s with out := t.out, pcie := { s.pcie with fns := t.pcie.fns } } := by
  have inBar : s.inBar 0 0 (if 0 = 0 then 0x300000 else 0x4000) 4 = true := decide_eq_true (by show 0x300000 + 4 ≤ 0x4000000; decide)
  refine ⟨(s.updFn 0 fun x => { x with latch := some (s.now / 2 ^ 32) }).emit (.readReply 0 (leBytes 4 s.now)), ?_, rfl, ?_, rfl⟩
  · exact congrArg Host.Outcome.next ((if_neg (by rw [up]; decide)).trans ((if_neg (by rw [inBar]; decide)).trans
      ((if_neg (by rw [State.bar0Open_pf ready awake]; decide)).trans (if_pos rfl))))
  · exact congrArg Fn.latch ((State.updFn_fn ..).trans (if_pos rfl))

end Sys2Proof.Machine
end

section
open Sys2Proof Sys2Proof.Machine

/-- Settles O43: each access is in a BAR that answers; an aligned write reaches its register whole or by halves, a read of a
register with a count clears it but for what its C-cycle added, and an aligned row in a window is one packet of that row. -/
theorem registerAccess : Obligations.RegisterAccess := by
  intro s up ready awake
  refine ⟨fun off v => State.registerWrite_whole up ready awake v, fun off v => State.registerWrite_half up ready awake v,
    fun b v => State.registerWrite_win up ready awake v, fun off v => State.registerWrite_two_bad up ready awake v,
    fun k v => State.registerWrite_vector up ready awake v, State.registerWrite_msixControl up,
    State.registerWrite_barSize up, ?_, State.badAccess_read up ready awake, State.timeNowLowRead_latches up ready awake,
    fun off len bs t => State.bar4Read_answers up ready awake, fun off bytes t => State.bar4Write_memory up ready awake,
    fun off bytes p row => State.bar4Write_window up ready awake,
    fun f bar off len out => ⟨State.unservedMemoryRequest_answer up out _, State.unservedMemoryRequest_answer up out _⟩⟩
  intro off inside aligned old
  have read := State.rcFieldRead_whole up ready awake inside aligned
  cases h : rcBytes off with
  | none =>
    have plain : s.readReg off 0 8 = ((old.regAt off).getD 0, s) := by
      unfold State.readReg
      rw [h]
    rw [plain] at read
    exact ⟨fun _ => read, fun none_ => absurd rfl none_⟩
  | some bounds =>
    obtain ⟨lo, hi⟩ := bounds
    have counted : s.readReg off 0 8 = (((old.rcSet off (s.rcRead off)).regAt off).getD 0, s.rcClear off) := by
      unfold State.readReg
      rw [h]
      exact if_pos (rcBytes_inside h)
    rw [counted] at read
    exact ⟨fun none_ => (nomatch none_), fun _ => ⟨_, read, State.rcClear_rcGet ..⟩⟩

end

section
/-!
SUPPORT. Resets of the whole device (R412): a state whose table of functions lists one function twice, off its canonical form.
-/
namespace Sys2Proof.Machine

/-- The PF listed twice: first with a latch alone, which is the entry that is read, then in D3hot. -/
def twiceListed : State := { pcie := { fns := [(0, { latch := some 0 }), (0, { d3 := true })] } }

/-- What a warm reset of it leaves. -/
def twiceListedReset : State := match exec (.bootWarmReset 0) twiceListed with
  | .next s => s
  | _ => twiceListed

theorem twiceListed_awake : (twiceListed.fn 0).d3 = false := by decide

/-- The first entry without its latch is the default and goes, which uncovers the second. -/
theorem twiceListedReset_asleep : (twiceListedReset.fn 0).d3 = true := by decide

end Sys2Proof.Machine
end

section
open Sys2Proof Sys2Proof.Machine

/-- Refutes O44: nothing says that the table of functions is in its canonical form. Where it lists the PF twice, the warm reset
empties the first entry, and the second, in D3hot, is read from then on. -/
theorem not_powerAndResets : ¬ Obligations.PowerAndResets := by
  intro h
  obtain ⟨-, -, -, -, -, warm⟩ := h twiceListed
  obtain ⟨t, run, fns, -⟩ := warm 0 (by decide)
  have reset : twiceListedReset = t := by
    unfold twiceListedReset
    rw [run]
  have kept := (fns 0).2
  rw [← reset, twiceListedReset_asleep, twiceListed_awake] at kept
  cases kept

end

section
/-! SUPPORT. Fences and retirement (R500, R505, R509), the retraining of a channel (R442, R443), and the scrub of device memory (R436):
what the queue of retrainings does when nothing waits before, and what a codeword's reading rests on. -/
namespace Sys2Proof.Machine
open Sys2Proof

variable {s : State}

/-! ### Nibs, scribes and samplers -/

theorem State.fenceNow_fences {f p : Nat} (open_ : s.bootOpen f = true) (runs : s.runs = true) (on : s.nibOn p = true) :
    exec (.fenceNow f p) s = .next (s.fence p) :=
  congrArg Host.Outcome.next (if_pos (by rw [open_, runs, on]; rfl))

theorem State.clearRetirementMark_clears {f p : Nat} (open_ : s.bootOpen f = true) (runs : s.runs = true) (four : 4 ≤ s.boot.done) :
    ∃ t, exec (.clearRetirementMark f p) s = .next t ∧ t = { s with flash := { s.flash with nibMarks := t.flash.nibMarks } } ∧
      ∀ q, q ∈ t.flash.nibMarks ↔ q ∈ s.flash.nibMarks ∧ q ≠ p :=
  ⟨{ s with flash := { s.flash with nibMarks := s.flash.nibMarks.filter (· != p) } },
    congrArg Host.Outcome.next (if_pos (by simp [open_, runs, four])), rfl, fun q => by simp⟩

theorem State.scribeRetirement_raises {k : Nat} (ready : s.ready = true) (small : k < 32) (serves : k ∉ s.scribesOut) :
    exec (.scribeRetirement k) s = .next (State.raiseEpoch { s with scribesOut := k :: s.scribesOut } 0 0xFFFFFFFF k) :=
  congrArg Host.Outcome.next (if_neg (by simp [ready, small, serves]))

theorem State.samplerRetirement_raises {k : Nat} (ready : s.ready = true) (small : k < 4)
    (serves : (mget {} s.samp k).retired = false) : exec (.samplerRetirement k) s = .next (State.raiseEpoch
      { s with samp := mset {} s.samp k { mget {} s.samp k with retired := true } } 0 0xFFFFFFFF k) :=
  congrArg Host.Outcome.next (if_neg (by simp [ready, small, serves]))

/-! ### Retraining -/

theorem MemSys.setNow_now (m : MemSys) (lp : Bool) (v : Option (Nat × Nat)) : (m.setNow lp v).now lp = v := by
  cases lp <;> rfl

/-- With no request waiting, none starts. -/
theorem State.retrainNext_idle {lp : Bool} (none_ : s.msys.retrainQ = []) : s.retrainNext lp = s := by
  have same : { s with msys := { s.msys with retrainQ := [] } } = s := by rw [← none_]
  unfold State.retrainNext
  simp only [none_, List.filter_nil, List.foldl_nil, ite_self]
  exact same

/-- The one request of an ACTIVE channel, of the mode that waits for nothing, starts in a tier where none runs. -/
theorem State.retrainNext_one {lp : Bool} {ch : Nat} (active : (s.chan (ch + if lp then 128 else 0)).st = .active)
    (none_ : s.msys.now lp = none) (one : s.msys.retrainQ = [(lp, ch, false)]) :
    s.retrainNext lp = { s.updChan ((if lp then 128 else 0) + ch) fun c => { c with st := .retraining } with
      msys := { s.msys with retrainQ := [] }.setNow lp (some (ch, s.now)) } := by
  have free : ({ s.msys with retrainQ := [(lp, ch, false)] } : MemSys).now lp = none := none_
  unfold State.retrainNext
  rw [one]
  simp only [List.filter_cons, active, if_true, List.filter_nil, free, Option.isSome_none, Bool.false_eq_true, if_false, Bool.false_and,
    Bool.not_false, Bool.and_true, beq_self_eq_true, List.foldl_cons, List.foldl_nil]
  have last : [(lp, ch, false)].erase (lp, ch, false) = [] := List.erase_cons_head ..
  exact congrArg (fun q => { s.updChan ((if lp then 128 else 0) + ch) fun c => { c with st := .retraining } with
    msys := { s.msys with retrainQ := q }.setNow lp (some (ch, s.now)) }) last

theorem State.queueRetrain_starts {lp : Bool} {ch : Nat} (there : ch < (if lp then 32 else 128))
    (active : (s.chan (ch + if lp then 128 else 0)).st = .active) (none_ : s.msys.now lp = none) (empty : s.msys.retrainQ = []) :
    ∃ t, s.queueRetrain lp ch false = t ∧ t = { s with msys := t.msys, chans := t.chans } ∧
      t.msys.now lp = some (ch, s.now) ∧ (t.chan (ch + if lp then 128 else 0)).st = .retraining := by
  refine ⟨{ s.updChan ((if lp then 128 else 0) + ch) fun c => { c with st := .retraining } with
    msys := { s.msys with retrainQ := [] }.setNow lp (some (ch, s.now)) }, ?_, rfl, MemSys.setNow_now .., ?_⟩
  · refine (if_neg (by rw [active]; simpa using there)).trans ?_
    exact State.retrainNext_one (s := { s with msys := { s.msys with retrainQ := s.msys.retrainQ ++ [(lp, ch, false)] } }) active none_
      (by rw [empty]; rfl)
  · show ((s.updChan ((if lp then 128 else 0) + ch) fun c => { c with st := .retraining }).chan (ch + if lp then 128 else 0)).st = _
    rw [State.updChan_chan, if_pos (Nat.add_comm ..)]

theorem State.memoryRetrainEnd_takes {lp : Bool} {q x : Nat} {r : TrainResult} (runs : s.runs = true)
    (now : s.msys.now lp = some (q, x)) (ok : r.code = 0) (empty : s.msys.retrainQ = []) :
    let c := q + if lp then 128 else 0
    ∃ t, exec (.memoryRetrainEnd lp r) s = .next t ∧ t = { s with msys := t.msys, chans := t.chans } ∧ t.msys.now lp = none ∧
      t.chan c = { s.chan c with st := .active, rdMargin := r.rd % 64, wrMargin := r.wr % 64, vref := r.vref % 256, result := 0 } ∧
      ∀ d, d ≠ c → t.chan d = s.chan d := by
  intro c
  let taken (ch : Chan) : Chan :=
    { ch with st := .active, rdMargin := r.rd % 64, wrMargin := r.wr % 64, vref := r.vref % 256, result := 0 }
  refine ⟨{ s.updChan c taken with msys := s.msys.setNow lp none }, ?_, rfl, MemSys.setNow_now .., ?_, fun d hd => ?_⟩
  · refine congrArg Host.Outcome.next ?_
    rw [if_pos runs, now]
    dsimp only
    rw [if_pos ok, State.retrainNext_idle (by cases lp <;> exact empty), ok]
    rfl
  · exact (mget_mupd ..).trans (if_pos rfl)
  · exact (mget_mupd ..).trans (if_neg hd)

/-! ### Scrubs -/

/-- A channel's reading and retirement decide what its codewords read as, and no other field of it. -/
theorem State.codeword_updChan {c : Nat} {f : Chan → Chan} (st : (f (s.chan c)).st = (s.chan c).st)
    (dead : (f (s.chan c)).dead = (s.chan c).dead) (a : Nat) : (s.updChan c f).codeword a = s.codeword a := by
  have sts (d : Nat) : ((s.updChan c f).chan d).st = (s.chan d).st := by
    rw [State.updChan_chan]
    split
    · next same => rw [st, same]
    · rfl
  have deads (d : Nat) : ((s.updChan c f).chan d).dead = (s.chan d).dead := by
    rw [State.updChan_chan]
    split
    · next same => rw [dead, same]
    · rfl
  have copies (b : Bool) : (s.updChan c f).copyChans b = s.copyChans b := by
    simp only [State.copyChans, sts]
  have offset : (s.updChan c f).sysOffset a = s.sysOffset a := by
    simp only [State.sysOffset, sts, copies]
  have stored : (s.updChan c f).stored a = s.stored a := by
    unfold State.stored
    rw [offset]
    rfl
  unfold State.codeword
  rw [stored]
  simp only [deads]
  rfl

/-- A scrub of a channel in service goes on to the next codeword, and does what the one it read asks for. -/
theorem State.memoryScrub_reads {lp : Bool} {q : Nat} (runs : s.runs = true) (up : s.boot.memUp = true)
    (on : bitAt (s.cfgAt (ctrlReg lp)) 24 = true) (there : q < (if lp then 32 else 128)) :
    let c := q + if lp then 128 else 0
    let a := chanBase c + 32 * (s.chan c).scrubPtr
    let next := s.updChan c fun ch => { ch with scrubPtr := (ch.scrubPtr + 1) % (chanSize c / 32) }
    (s.chan c).st = .active ∨ (s.chan c).st = .retiring →
    exec (.memoryScrub lp q) s = .next (match s.codeword a with
      | (none, _) => next.uncorrEvent a
      | (some d, true) => (next.countCorr a).putOne a d
      | (some _, false) => next) := by
  intro c a next serves
  have live : ((s.chan c).st == .retired) = false ∧ ((s.chan c).st == .retraining) = false := by
    rcases serves with st | st <;> rw [st] <;> exact ⟨rfl, rfl⟩
  refine congrArg Host.Outcome.next ((if_neg ?_).trans ?_)
  · rw [runs, up, on, live.1, live.2]
    simpa using there
  · have reads : next.codeword a = s.codeword a := State.codeword_updChan rfl rfl a
    rw [← reads] <;> rfl

end Sys2Proof.Machine
end

section
open Sys2Proof Sys2Proof.Machine

/-- Settles O46: a retraining asked for where none runs or waits is the one that starts, its end leaves no other to start, and a scrub's
codeword reads as it did before the scrub went on. -/
theorem retirementAndMemory : Obligations.RetirementAndMemory := by
  intro s
  refine ⟨fun f p open_ runs => ⟨State.fenceNow_fences open_ runs, State.clearRetirementMark_clears open_ runs⟩,
    fun k => State.scribeRetirement_raises, fun k => State.samplerRetirement_raises,
    fun f lp ch open_ => ⟨congrArg Host.Outcome.next (if_pos open_), congrArg Host.Outcome.next (if_pos open_)⟩,
    fun lp ch ready => congrArg Host.Outcome.next (if_pos ready), fun lp ch => State.queueRetrain_starts,
    fun lp q x r => State.memoryRetrainEnd_takes, ?_⟩
  intro lp q runs up on there c a next serves
  have reads := State.memoryScrub_reads runs up on there serves
  exact ⟨fun d h => by rw [reads, h], fun d h => by rw [reads, h], fun x h => by rw [reads, h]⟩

end

section
/-! SUPPORT. Copies of frames and spills (R287–R289). -/
namespace Sys2Proof.Machine
open Sys2Proof

variable {s : State}

/-- A copy whose page no step writes, which has kept its purpose and whose units can be read, publishes its swap and ends. -/
theorem State.frameCopyComplete_publishes {i p : Nat} {k : PageCopy} {l : List (Nat × List Byte)} {u v : State} (runs : s.runs = true)
    (known : s.copies.find? (fun k => k.index == i && k.page == p) = some k)
    (moving : (s.dma.any fun d => d.2.job == some (.copy i p)) = true) (unwritten : p ∉ s.writtenPages i)
    (purpose : s.copyMoot k = false) (hbm : k.toLp = false) (read : s.readUnits (s.geo i) (s.entries i) k.moves = (.ok l, u))
    (published : (l.foldl (fun (s : State) (x : Nat × List Byte) => match s.frame k.toLp x.1 with
      | some f => (s.writeDev (65536 * f.addr) x.2).1
      | none => s) u).publishCopy k = some v) :
    exec (.frameCopyComplete i p) s = .next (State.emptyChans (State.prefetched (State.endCopyJob
      { v with copies := v.copies.filter fun x => !(x.index == i && x.page == p) } i p
      (k.moves.length * frameBytes (s.geo i).fsize)) i)) := by
  refine congrArg Host.Outcome.next ?_
  rw [known]
  dsimp only
  rw [if_neg (by simp [runs, moving, unwritten]), if_neg (by rw [purpose]; decide), read]
  dsimp only
  generalize copy : State.publishCopy _ k = w
  obtain rfl : w = some v := copy.symm.trans published
  dsimp only
  rw [hbm]
  rfl

theorem State.kvSpill_spills {b : Nat} (runs : s.runs = true) (ready : (s.bed b).st = .ready) :
    let hbm := bitsAt (s.cfgAt (bedReg b 0x28)) 0 22
    let high := hbm * bitsAt (s.cfgAt (bedReg b 0x40)) 40 8 / 256
    s.freeOutside b < hbm * bitsAt (s.cfgAt (bedReg b 0x40)) 32 8 / 256 →
    let t := s.evictTo b high s.pfx.length
    exec (.kvSpill b) s = .next (((mkeys (fun _ (e : Session) => e.st == .idle && e.bed == b) t.sessions).foldr t.sealInsert
      []).foldl (fun s i => s.spillPages b i high (List.range (s.geo i).npm)) t) := by
  intro hbm high low
  exact congrArg Host.Outcome.next (if_neg (by simpa [runs, ready] using low))

end Sys2Proof.Machine
end

section
open Sys2Proof Sys2Proof.Machine

/-- Settles O47: each is the path its command takes when nothing in its way holds. -/
theorem copiesAndSpills : Obligations.CopiesAndSpills := fun _ runs =>
  ⟨fun _ _ _ _ _ _ => State.frameCopyComplete_publishes runs, fun _ => State.kvSpill_spills runs⟩

end

section
/-! SUPPORT. Ports (R456–R465): which of its cases each training command and each timer takes, and what a change of one port's record
leaves. -/
namespace Sys2Proof.Machine
open Sys2Proof

variable {s : State} {n : Nat}

/-- A change of one port's record changes that port alone. -/
theorem State.updPort_onlyPort (f : Port → Port) : s.OnlyPort (s.updPort n f) n :=
  ⟨rfl, fun _ hm => (State.setPort_port ..).trans (if_neg hm)⟩

theorem State.updPort_port_self (f : Port → Port) : (s.updPort n f).port n = f (s.port n) :=
  (State.setPort_port ..).trans (if_pos rfl)

/-! ### Retraining -/

theorem State.linkRetrain_write (ready : s.ready = true) (awake : s.inD3 0 = false) :
    exec (.linkRetrain 0 n) s = .next (s.retrainGo n) :=
  congrArg Host.Outcome.next (if_pos ⟨rfl, ready, by rw [awake]; decide⟩)

theorem State.retrainGo_up (up : (s.port n).st = .up) : s.retrainGo n = s.startRetrain n .none := by
  unfold State.retrainGo
  rw [up]

theorem State.retrainGo_trains (rest : (s.port n).st = .failed ∨ (s.port n).st = .down) (used : s.role n ≠ 3) :
    s.retrainGo n = s.startTraining n 50000000 := by
  unfold State.retrainGo
  rcases rest with st | st <;> rw [st] <;> exact if_neg used

theorem State.startRetrain_port (cause : PortCause) : ∃ t, s.startRetrain n cause = t ∧ t = { s with ports := t.ports, tx := t.tx } ∧
    (∀ m, m ≠ n → t.port m = s.port m) ∧ t.port n = { s.port n with
      st := .retraining, cause := cause, trainStart := s.now, trainLimit := 1000000, wasUp := true
      nego := none, working := 0, negoAt := s.now, fruitless := 0 } := by
  let stops (p : Port) : Port := { p with
    st := .retraining, cause := cause, trainStart := s.now, trainLimit := 1000000, wasUp := true, nego := none
    working := 0, negoAt := s.now, fruitless := 0 }
  exact ⟨_, rfl, rfl, (State.updPort_onlyPort (s := s) (n := n) stops).2, State.updPort_port_self (s := s) (n := n) stops⟩

/-! ### Training -/

section
variable (runs : s.runs = true) (trains : (s.port n).training = true)
include runs trains

theorem State.retrainComplete_direct {lanes : Nat} (all : s.role n = 2 ∨ (s.port n).working = 0 ∧ (lanes &&& s.lanesAllowed n) = 0) :
    exec (.retrainComplete n lanes) s = .next (s.portUp n lanes) := by
  refine congrArg Host.Outcome.next ((if_neg (by rw [runs, trains]; decide)).trans (if_pos ?_))
  rcases all with eth | ⟨idle, none_⟩
  · simp [eth]
  · simp [idle, none_]

theorem State.retrainComplete_known {lanes : Nat} (ruxel : s.role n ≠ 2) (works : (s.port n).working ≠ 0)
    (peer : (s.port n).nego.isSome) : exec (.retrainComplete n lanes) s = .next (s.portUp n (s.port n).working) := by
  refine congrArg Host.Outcome.next ((if_neg (by rw [runs, trains]; decide)).trans ((if_neg (by simp [ruxel, works])).trans ?_))
  simp only [works, if_false]
  exact if_pos peer

theorem State.retrainComplete_names {lanes : Nat} (ruxel : s.role n ≠ 2) (fresh : (s.port n).working = 0)
    (some_ : (lanes &&& s.lanesAllowed n) ≠ 0) :
    ∃ u, s.OnlyPort u n ∧ u.port n = { s.port n with working := lanes &&& s.lanesAllowed n } ∧
      ((s.port n).nego = none → exec (.retrainComplete n lanes) s = .next (State.sendNegotiate u n)) ∧
      ((s.port n).nego.isSome → exec (.retrainComplete n lanes) s =
        .next ((State.sendNegotiate u n).portUp n (lanes &&& s.lanesAllowed n))) := by
  let u := s.updPort n fun p => { p with working := lanes &&& s.lanesAllowed n }
  have sends : exec (.retrainComplete n lanes) s = .next (if (s.port n).nego.isSome then
      (u.sendNegotiate n).portUp n (lanes &&& s.lanesAllowed n) else u.sendNegotiate n) := by
    refine congrArg Host.Outcome.next ((if_neg (by rw [runs, trains]; decide)).trans ((if_neg (by simp [ruxel, fresh, some_])).trans ?_))
    simp only [fresh, if_true, u]
  refine ⟨u, State.updPort_onlyPort _, State.updPort_port_self _, fun unknown => ?_, fun known => ?_⟩
  · rw [sends, unknown]
    rfl
  · rw [sends, if_pos known]

theorem State.linkTrainingTimeout_fails (late : (s.port n).trainStart + (s.port n).trainLimit < s.now) :
    exec (.linkTrainingTimeout n) s = .next (s.failPort n (if (s.port n).working = 0 then .noSignal else .lanes) (s.port n).wasUp) :=
  congrArg Host.Outcome.next (if_pos (by simp [runs, trains, late]))

theorem State.negotiateRepeat_sends (ruxel : s.role n ≤ 1) (works : (s.port n).working ≠ 0)
    (due : (s.port n).negoAt + 100 < s.now) : exec (.negotiateRepeat n) s = .next (s.sendNegotiate n) :=
  congrArg Host.Outcome.next (if_pos (by simp [runs, trains, ruxel, works, due]))

end

/-! ### Replay -/

theorem State.replayTimer_due (runs : s.runs = true) (up : (s.port n).st = .up) (late : (s.port n).progress + 200 < s.now)
    (held : (s.port n).replayBuf ≠ []) : exec (.replayTimer n) s = .next
      (if 8 ≤ (s.port n).fruitless then s.startRetrain n .replayLimit else s.replay n) :=
  congrArg Host.Outcome.next ((if_pos (by simp [runs, up, late])).trans (if_neg (by simpa using held)))

theorem State.nakRepeatTimer_sends {x : Nat} (runs : s.runs = true) (up : (s.port n).st = .up) (gap : (s.port n).gap = some x)
    (late : x + 200 < s.now) : ∃ u, exec (.nakRepeatTimer n) s = .next (State.sendIdle u n true) ∧ s.OnlyPort u n ∧
      u.port n = { s.port n with gap := some s.now } := by
  refine ⟨s.updPort n fun p => { p with gap := some s.now }, congrArg Host.Outcome.next ?_, State.updPort_onlyPort _,
    State.updPort_port_self _⟩
  rw [gap]
  exact if_pos ⟨runs, up, late⟩

end Sys2Proof.Machine
end

section
open Sys2Proof Sys2Proof.Machine

/-- Settles O48: each command and timer takes the case its port is in. -/
theorem portTraining : Obligations.PortTraining := by
  intro s n runs
  refine ⟨fun ready awake => ⟨fun up => ?_, fun rest used => ?_⟩, fun lane up active =>
    congrArg Host.Outcome.next (if_pos ⟨runs, up, active⟩), fun cause => State.startRetrain_port cause, fun trains =>
    ⟨fun lanes => State.retrainComplete_direct runs trains, fun lanes => State.retrainComplete_known runs trains,
      fun lanes => State.retrainComplete_names runs trains, State.linkTrainingTimeout_fails runs trains,
      State.negotiateRepeat_sends runs trains⟩, fun up held late => ⟨fun few => ?_, fun many => ?_⟩,
    fun x up gap late => State.nakRepeatTimer_sends runs up gap late⟩
  · rw [State.linkRetrain_write ready awake, State.retrainGo_up up]
  · rw [State.linkRetrain_write ready awake, State.retrainGo_trains rest used]
  · rw [State.replayTimer_due runs up late held, if_neg (by omega)]
  · rw [State.replayTimer_due runs up late held, if_pos many]

end

section
/-! SUPPORT. Received frames (R449–R460): what an accepted frame's news leaves of a port on which nothing waits, where a DATA frame's
body goes, and the messages and datagrams a port takes in. -/
namespace Sys2Proof.Machine
open Sys2Proof

variable {s : State} {n : Nat}

/-! ### Receiving -/

/-- A frame whose codewords need no correction is received as it is. -/
theorem State.receive_clean {raw bs : List Byte} {t : Nat} (ruxel : s.role n ≤ 1) (decoded : decodeFrame 8 raw = (some bs, 0))
    (ok : (parseFrame bs).ok = true) (type : (parseFrame bs).type = t) : s.receive n t raw = (some (parseFrame bs), s) := by
  refine (if_neg (by omega)).trans ?_
  rw [decoded]
  refine (if_neg (by rw [ok]; decide)).trans ((if_neg fun h => h type).trans (if_neg fun h => h rfl))

theorem State.receive_uncorrected {raw : List Byte} {t : Nat} (ruxel : s.role n ≤ 1) (lost : decodeFrame 8 raw = (none, 0)) :
    s.receive n t raw = (none, s.updPort n fun p => { p with errUncorr := p.errUncorr + 1 }) := by
  refine (if_neg (by omega)).trans ?_
  rw [lost]
  rfl

/-- What an accepted frame tells a port: the acknowledgement and the credits it carries. -/
def Port.told (p : Port) (f : RxFrame) (now : Nat) : Port :=
  (((p.applyAck f.ack now).applyCr 0 f.cr0).applyCr 1 f.cr1).applyCr 2 f.cr2

/-- On a port with nothing to send, and nothing to replay where the frame asks for it, a frame's news changes the port's record alone. -/
theorem State.frameNews_quiet {f : RxFrame} (none0 : (s.port n).vc0.txq = []) (none1 : (s.port n).vc1.txq = [])
    (none2 : (s.port n).vc2.txq = []) (still : f.nak = false ∨ ((s.port n).told f s.now).replayBuf = []) :
    s.frameNews n f = s.updPort n fun p => p.told f s.now := by
  have told : (s.updPort n fun p => p.told f s.now).port n = (s.port n).told f s.now := State.updPort_port_self _
  have replays : (if f.nak then (s.updPort n fun p => p.told f s.now).replayDue n else s.updPort n fun p => p.told f s.now) =
      s.updPort n fun p => p.told f s.now := by
    rcases still with quiet | empty
    · rw [quiet]
      rfl
    · split
      · exact if_pos (by rw [told, empty]; rfl)
      · rfl
  have backlog : ((s.port n).told f s.now).backlog = 0 := by
    have kept : ((s.port n).told f s.now).vc0.txq = (s.port n).vc0.txq ∧ ((s.port n).told f s.now).vc1.txq = (s.port n).vc1.txq ∧
        ((s.port n).told f s.now).vc2.txq = (s.port n).vc2.txq := by
      unfold Port.told Port.applyAck
      dsimp only
      split <;> exact ⟨rfl, rfl, rfl⟩
    obtain ⟨kept0, kept1, kept2⟩ := kept
    show ((s.port n).told f s.now).vc0.txq.length + ((s.port n).told f s.now).vc1.txq.length +
      ((s.port n).told f s.now).vc2.txq.length = 0
    rw [kept0, kept1, kept2, none0, none1, none2]
    rfl
  unfold State.frameNews
  dsimp only
  refine (congrArg (State.pumpAll · n) replays).trans ?_
  unfold State.pumpAll
  rw [told, backlog]
  rfl

theorem Port.told_eq (p : Port) (f : RxFrame) (now : Nat) :
    let cr (x : Vc) (v : Nat) : Vc := { x with credits := x.credits + (v + 65536 - x.crSeen) % 65536, crSeen := v }
    let k := (p.replayBuf.takeWhile fun x => decide ((f.ack + 4096 - x.seq) % 4096 < 1024)).length
    p.told f now = { p with
      replayBuf := p.replayBuf.drop k, progress := if k = 0 then p.progress else now
      fruitless := if k = 0 then p.fruitless else 0, vc0 := cr p.vc0 f.cr0, vc1 := cr p.vc1 f.cr1, vc2 := cr p.vc2 f.cr2 } := by
  intro cr k
  unfold Port.told Port.applyAck
  by_cases none_ : k = 0
  · rw [if_pos none_, if_pos none_, if_pos none_, none_]
    rfl
  · rw [if_neg none_, if_neg none_, if_neg none_]
    rfl

/-! ### DATA frames -/

/-- What a DATA frame in order makes of its channel: it joins the message it opens or continues; one that does neither returns its credit. -/
def Vc.takes (x : Vc) (f : RxFrame) : Vc :=
  let part := (if f.som then [] else x.rxPart) ++ f.body.take f.len
  let frames := (if f.som then 0 else x.rxFrames) + 1
  if f.som || x.rxOpen then
    (if f.eom then { x with rxq := x.rxq ++ [(frames, part)], rxPart := [], rxFrames := 0, rxOpen := false }
     else { x with rxPart := part, rxFrames := frames, rxOpen := true })
  else { x with crGiven := (x.crGiven + 1) % 65536 }

/-- A channel of a port, set, is what is read of it. -/
theorem Port.setVc_vc (p : Port) (v : Nat) (x : Vc) : (p.setVc v x).vc v = x := by
  match v with
  | 0 => rfl
  | 1 => rfl
  | _ + 2 => rfl

theorem Port.setVc_setVc (p : Port) (v : Nat) (x y : Vc) : (p.setVc v x).setVc v y = p.setVc v y := by
  match v with
  | 0 => rfl
  | 1 => rfl
  | _ + 2 => rfl

/-- What a DATA frame in order makes of its port. -/
def Port.accepts (p : Port) (f : RxFrame) : Port :=
  { p.setVc f.vc ((p.vc f.vc).takes f) with
    rxSeq := (p.rxSeq + 1) % 4096, gap := none
    level := match p.offer with | some (k, l) => if k = f.seq then l else p.level | none => p.level
    offer := match p.offer with | some (k, l) => if k = f.seq then none else some (k, l) | none => none }

theorem Vc.take_eq (x : Vc) (f : RxFrame) :
    x.take f = if (f.som || x.rxOpen) = true then (x.takes f, true) else (x, false) := by
  unfold Vc.take Vc.takes
  cases som : f.som <;> cases x.rxOpen <;> cases eom : f.eom <;> rfl

theorem Port.switchLevel_eq (p : Port) (seq : Nat) : p.switchLevel seq = { p with
    level := match p.offer with | some (k, l) => if k = seq then l else p.level | none => p.level
    offer := match p.offer with | some (k, l) => if k = seq then none else some (k, l) | none => none } := by
  unfold Port.switchLevel
  cases offer : p.offer with
  | none =>
    dsimp only
    rw [← offer]
  | some o =>
    dsimp only
    split
    · rfl
    · rw [show some (o.1, o.2) = p.offer from offer.symm]

theorem Port.setVc_offer (p : Port) (v : Nat) (x : Vc) : (p.setVc v x).offer = p.offer ∧ (p.setVc v x).level = p.level ∧
    (p.setVc v x).rxSeq = p.rxSeq := by
  match v with
  | 0 => exact ⟨rfl, rfl, rfl⟩
  | 1 => exact ⟨rfl, rfl, rfl⟩
  | _ + 2 => exact ⟨rfl, rfl, rfl⟩

/-- The frame's place in its channel and its level together make the port's record. -/
theorem Port.take_accepts (p : Port) (f : RxFrame) :
    (match (p.vc f.vc).take f with
     | (x, ok) =>
       let q := { (p.setVc f.vc x).switchLevel f.seq with rxSeq := (p.rxSeq + 1) % 4096, gap := none }
       if ok then q else q.giveCr f.vc 1) = p.accepts f := by
  obtain ⟨offer, level, -⟩ := Port.setVc_offer p f.vc ((p.vc f.vc).take f).1
  unfold Port.accepts
  rw [Vc.take_eq] at offer level ⊢
  by_cases joins : (f.som || (p.vc f.vc).rxOpen) = true
  · rw [if_pos joins] at offer level ⊢
    dsimp only at offer level ⊢
    rw [if_pos rfl, Port.switchLevel_eq, offer, level]
  · have returns : (p.vc f.vc).takes f = { p.vc f.vc with crGiven := ((p.vc f.vc).crGiven + 1) % 65536 } := if_neg joins
    rw [if_neg joins] at offer level ⊢
    dsimp only at offer level ⊢
    rw [if_neg Bool.false_ne_true, Port.switchLevel_eq, offer, level, returns]
    generalize f.vc = v
    match v with
    | 0 => rfl
    | 1 => rfl
    | _ + 2 => rfl

section
variable (runs : s.runs = true)
include runs

theorem State.idleFrame_news {raw : List Byte} {f : RxFrame} {t : State} (up : (s.port n).st = .up)
    (received : s.receive n 0 raw = (some f, t)) : exec (.idleFrame n raw) s = .next (t.frameNews n f) := by
  refine congrArg Host.Outcome.next ((if_neg (by rw [runs, up]; decide)).trans ?_)
  rw [received]

theorem State.frame_uncorrected {raw : List Byte} (up : (s.port n).st = .up) (ruxel : s.role n ≤ 1)
    (lost : decodeFrame 8 raw = (none, 0)) : ∃ t, exec (.idleFrame n raw) s = .next t ∧ exec (.dataFrame n raw) s = .next t ∧
      s.OnlyPort t n ∧ t.port n = { s.port n with errUncorr := (s.port n).errUncorr + 1 } := by
  refine ⟨s.updPort n fun p => { p with errUncorr := p.errUncorr + 1 }, ?_, ?_, State.updPort_onlyPort _, State.updPort_port_self _⟩
  all_goals
    refine congrArg Host.Outcome.next ((if_neg (by rw [runs, up]; decide)).trans ?_)
    rw [State.receive_uncorrected ruxel lost]

/-- A clean DATA frame on a quiet port: its news first, then its place, or a NAK for a gap that is new. -/
theorem State.dataFrame_arrives {raw : List Byte} {f : RxFrame} {u : State} (up : (s.port n).st = .up)
    (received : s.receive n 1 raw = (some f, s)) (news : s.frameNews n f = u) (still : (u.port n).st = .up) :
    exec (.dataFrame n raw) s = .next (if f.seq = (u.port n).rxSeq then u.updPort n fun p => p.accepts f
      else match (u.port n).gap with
        | some _ => u
        | none => (u.updPort n fun p => { p with gap := some u.now }).sendIdle n true) := by
  refine congrArg Host.Outcome.next ((if_neg (by rw [runs, up]; decide)).trans ?_)
  rw [received]
  dsimp only
  rw [news, if_neg fun h => h still]
  split
  · exact congrArg (u.setPort n) (Port.take_accepts (u.port n) f)
  · cases (u.port n).gap <;> rfl

/-! ### NEGOTIATE bodies -/

theorem State.negotiate_malformed {raw : List Byte} {f : RxFrame} (trains : (s.port n).training = true)
    (received : s.receive n 2 raw = (some f, s)) (bad : bitsAt (leField f.body 0 16) 44 20 ≠ 0 ∨ ∃ x, x ∈ f.body.drop 16 ∧ x ≠ 0) :
    exec (.negotiate n raw) s = .next (s.updPort n fun p => { p with errUncorr := p.errUncorr + 1 }) := by
  refine congrArg Host.Outcome.next ((if_neg (by rw [runs, trains]; decide)).trans ?_)
  rw [received]
  exact if_pos (bad.imp_right fun ⟨x, mem, some_⟩ => List.any_eq_true.mpr ⟨x, mem, bne_iff_ne.mpr some_⟩)

/-- A well-formed body is judged, and kept where nothing forbids the port to come up with it. -/
theorem State.negotiate_judged {raw : List Byte} {f : RxFrame} (trains : (s.port n).training = true)
    (received : s.receive n 2 raw = (some f, s)) (zero : bitsAt (leField f.body 0 16) 44 20 = 0)
    (zeros : ∀ x, x ∈ f.body.drop 16 → x = 0) :
    let w := leField f.body 0 16
    let g : Nego := { node := bitsAt w 0 16, cl := bitsAt w 16 8, clmin := bitsAt w 24 8, role := bitsAt w 32 8
                      lanes := bitsAt w 40 4, epoch := bitsAt w 64 64 }
    exec (.negotiate n raw) s = .next (match s.negoFault n g with
      | some c => s.failPort n c true
      | none => s.updPort n fun p => { p with nego := some g }) := by
  refine congrArg Host.Outcome.next ((if_neg (by rw [runs, trains]; decide)).trans ?_)
  rw [received]
  refine (if_neg ?_).trans ?_
  · rintro (some_ | some_)
    · exact some_ zero
    · obtain ⟨x, mem, ne⟩ := List.any_eq_true.mp some_
      exact bne_iff_ne.mp ne (zeros x mem)
  · rfl

omit runs in
/-- A port with no active lane fails without a lane going out of service. -/
theorem State.failPort_idle {c : PortCause} (idle : (s.port n).active = 0) : ∃ t, s.failPort n c true = State.linkEvent t n .linkDown ∧
    s.OnlyPort t n ∧ t.port n = { s.port n with
      st := .failed, cause := c, wasUp := false, everFailed := true, nego := none } := by
  let fails (p : Port) : Port := { p with st := .failed, cause := c, wasUp := false, everFailed := true, nego := none }
  have failed : (s.updPort n fails).port n = fails (s.port n) := State.updPort_port_self _
  have still : (s.updPort n fails).setActive n 0 = (s.updPort n fails).updPort n fun p => { p with active := 0 } := by
    unfold State.setActive
    rw [show ((s.updPort n fails).port n).active = 0 by rw [failed]; exact idle]
    rfl
  refine ⟨(s.updPort n fails).updPort n fun p => { p with active := 0 }, congrArg (State.linkEvent · n .linkDown) still,
    ⟨rfl, fun m hm => ?_⟩, ?_⟩
  · exact ((State.updPort_onlyPort _).2 m hm).trans ((State.updPort_onlyPort _).2 m hm)
  · rw [State.updPort_port_self, failed, ← idle]

end

/-! ### Messages and datagrams -/

/-- The front message of a channel, taken: its frames' credits return. -/
theorem State.takeRx_front {v k : Nat} {m : List Byte} {r : List (Nat × List Byte)} (front : ((s.port n).vc v).rxq = (k, m) :: r) :
    s.takeRx n v = some (m, s.updPort n fun p => (p.setVc v { p.vc v with rxq := r }).giveCr v k) := by
  unfold State.takeRx
  rw [front]

/-- The packet of a remote write that keeps its layout, from a bed that may use the port, to a nib of it. -/
theorem State.remotePkt_some {m : List Byte} {d : Nat} :
    let w := leField m 0 16
    let rows := bitsAt w 47 6 + 1
    bitsAt w 53 75 = 0 → m.length = 16 + 32 * rows → s.bedMayUse (bitsAt w 0 5) n = true →
    s.physical (bitsAt w 0 5) (bitsAt w 5 11) = some d → s.remotePkt n m = some {
      bed := bitsAt w 0 5, nib := d, slot := bitsAt w 16 3, handle := some (bitsAt w 19 6), index := bitsAt w 25 16
      tally := bitsAt w 41 6, rows := rowsOf rows (m.drop 16), reach := s.acyc + meshTime (MUnit.router (.port n)) d } := by
  intro w rows zero whole may nib
  refine (if_neg ?_).trans ?_
  · rintro (short | some_ | partial_ | barred)
    · omega
    · exact some_ zero
    · exact partial_ whole
    · exact barred may
  · rw [nib]
    rfl

theorem State.remotePkt_none {m : List Byte} :
    let w := leField m 0 16
    bitsAt w 53 75 ≠ 0 ∨ m.length ≠ 16 + 32 * (bitsAt w 47 6 + 1) ∨ s.bedMayUse (bitsAt w 0 5) n = false ∨
      s.physical (bitsAt w 0 5) (bitsAt w 5 11) = none → s.remotePkt n m = none := by
  intro w bad
  by_cases broken : m.length < 16 ∨ bitsAt w 53 75 ≠ 0 ∨ m.length ≠ 16 + 32 * (bitsAt w 47 6 + 1) ∨ ¬ s.bedMayUse (bitsAt w 0 5) n
  · exact if_pos broken
  · refine (if_neg broken).trans ?_
    have nowhere : s.physical (bitsAt w 0 5) (bitsAt w 5 11) = none := by
      rcases bad with some_ | partial_ | barred | nowhere
      · exact absurd (.inr (.inl some_)) broken
      · exact absurd (.inr (.inr (.inl partial_))) broken
      · exact absurd (.inr (.inr (.inr (by rw [barred]; decide)))) broken
      · exact nowhere
    rw [nowhere]
    rfl

/-- A remote write at the front of VC1 leaves the receive buffer and goes to the asynchronous plane, or is dropped and counted. -/
theorem State.remoteWrite_front (runs : s.runs = true) {k : Nat} {m : List Byte} {r : List (Nat × List Byte)}
    (front : (s.port n).vc1.rxq = (k, m) :: r) :
    let t := s.updPort n fun p => { p with vc1 := { p.vc1 with rxq := r, crGiven := (p.vc1.crGiven + k) % 65536 } }
    exec (.remoteWrite n) s = .next (match (if s.boot.computeEnd.isSome then none else s.remotePkt n m) with
      | some k => { t with mesh := s.mesh ++ [(.port n, k)] }
      | none => t.updPort n fun p => { p with rxDrop := p.rxDrop + 1 }) := by
  intro t
  refine congrArg Host.Outcome.next ?_
  rw [if_pos runs, State.takeRx_front (v := 1) front] <;> rfl

/-- The front message of VC2 leaves the receive buffer. -/
theorem State.popControl_port : s.OnlyPort (s.popControl n) n ∧ (s.popControl n).port n = match (s.port n).vc2.rxq with
    | [] => s.port n
    | (k, _) :: r => { s.port n with vc2 := { (s.port n).vc2 with rxq := r, crGiven := ((s.port n).vc2.crGiven + k) % 65536 } } := by
  unfold State.popControl
  cases front : (s.port n).vc2.rxq with
  | nil =>
    have none_ : s.takeRx n 2 = none := by
      unfold State.takeRx
      rw [show ((s.port n).vc 2).rxq = [] from front]
    rw [none_]
    exact ⟨⟨rfl, fun _ _ => rfl⟩, rfl⟩
  | cons x r =>
    rw [State.takeRx_front (v := 2) front]
    exact ⟨State.updPort_onlyPort _, State.updPort_port_self _⟩

theorem State.levelChange_offers (runs : s.runs = true) {cl clmin seq : Nat} (serves : s.boot.computeEnd = none)
    (up : (s.port n).st = .up) (ruxel : s.role n ≤ 1) :
    let q := match (s.port n).vc2.rxq with
      | [] => s.port n
      | (k, _) :: r => { s.port n with vc2 := { (s.port n).vc2 with rxq := r, crGiven := ((s.port n).vc2.crGiven + k) % 65536 } }
    let l := min s.sec.cl cl
    ∃ t, exec (.levelChange n cl clmin seq) s = .next t ∧ s.OnlyPort t n ∧
      t.port n = if s.sec.cl - 1 ≤ l ∧ clmin ≤ l ∧ q.level < l then { q with offer := some (seq % 4096, l) } else q := by
  intro q l
  obtain ⟨only, popped⟩ := State.popControl_port (s := s) (n := n)
  have sec : (s.popControl n).sec = s.sec := by rw [only.1]
  have run : exec (.levelChange n cl clmin seq) s = .next (match commonLevel s.sec.cl (s.sec.cl - 1) cl clmin with
      | none => s.popControl n
      | some l => (s.popControl n).updPort n fun p => if p.level < l then { p with offer := some (seq % 4096, l) } else p) := by
    refine congrArg Host.Outcome.next ((if_neg (by simp [runs, serves, up]; omega)).trans ?_)
    dsimp only
    rw [sec] <;> rfl
  rw [run]
  by_cases common : s.sec.cl - 1 ≤ l ∧ clmin ≤ l
  · rw [show commonLevel s.sec.cl (s.sec.cl - 1) cl clmin = some l from if_pos common]
    refine ⟨_, rfl, ⟨by rw [only.1]; rfl, fun m hm => ((State.updPort_onlyPort _).2 m hm).trans (only.2 m hm)⟩, ?_⟩
    rw [State.updPort_port_self, popped]
    by_cases higher : q.level < l
    · rw [if_pos higher, if_pos ⟨common.1, common.2, higher⟩]
    · rw [if_neg higher, if_neg fun h => higher h.2.2]
  · rw [show commonLevel s.sec.cl (s.sec.cl - 1) cl clmin = none from if_neg common]
    exact ⟨_, rfl, only, popped.trans (if_neg fun h => common ⟨h.1, h.2.1⟩).symm⟩

theorem State.ethernetFrame_arrives (runs : s.runs = true) {raw : List Byte} (eth : s.role n = 2) (up : (s.port n).st = .up) :
    exec (.ethernetFrame n raw) s = .next (match s.ethAccept n raw with
      | some d => s.updPort n fun p => { p with ethRx := p.ethRx ++ [d] }
      | none => s.updPort n fun p => { p with rxDrop := p.rxDrop + 1 }) := by
  refine congrArg Host.Outcome.next ((if_neg (by simp [runs, eth, up])).trans ?_)
  cases s.ethAccept n raw <;> rfl

end Sys2Proof.Machine
end

section
open Sys2Proof Sys2Proof.Machine

/-- Settles O49: a clean frame's news changes its port's record alone where nothing waits there, and each kind of frame or message
then takes its own place. -/
theorem framesArrive : Obligations.FramesArrive := by
  intro s n runs p add cr news quiet clean
  have received (raw : List Byte) (t : Nat) (f : RxFrame) (h : clean raw t f) : s.receive n t raw = (some f, s) := by
    obtain ⟨ruxel, bs, decoded, rfl, ok, type⟩ := h
    exact State.receive_clean ruxel decoded ok type
  have told (f : RxFrame) : p.told f s.now = news f := Port.told_eq p f s.now
  have quietly (f : RxFrame) (h : quiet f) : s.frameNews n f = s.updPort n fun p => p.told f s.now := by
    obtain ⟨none0, none1, none2, still⟩ := h
    exact State.frameNews_quiet none0 none1 none2 (still.imp_right fun empty => by rw [told f]; exact empty)
  have port (f : RxFrame) : (s.updPort n fun p => p.told f s.now).port n = news f := (State.updPort_port_self _).trans (told f)
  refine ⟨fun raw f up h still => ?_, fun raw f t up => State.idleFrame_news runs up, fun raw up => State.frame_uncorrected runs up,
    fun raw f up h still => ?_, fun raw f trains h => ?_, fun k m r front => ?_, fun cl clmin seq serves up =>
    State.levelChange_offers runs serves up, fun raw eth up => ?_⟩
  · rw [State.idleFrame_news runs up (received raw 0 f h), quietly f still]
    exact ⟨_, rfl, State.updPort_onlyPort _, port f⟩
  · have arrives := State.dataFrame_arrives runs up (received raw 1 f h) (quietly f still) (by rw [port f]; exact up)
    intro q x part frames y
    have accepts : q.accepts f = { q.setVc f.vc y with
        rxSeq := (p.rxSeq + 1) % 4096, gap := none
        level := match p.offer with | some (k, l) => if k = f.seq then l else p.level | none => p.level
        offer := match p.offer with | some (k, l) => if k = f.seq then none else some (k, l) | none => none } := rfl
    rw [arrives, port f]
    refine ⟨fun next => ?_, fun late fresh => ?_, fun late known => ?_⟩
    · rw [if_pos (show f.seq = (news f).rxSeq from next)]
      refine ⟨_, rfl, ⟨rfl, fun m hm => ((State.updPort_onlyPort _).2 m hm).trans ((State.updPort_onlyPort _).2 m hm)⟩, ?_⟩
      rw [State.updPort_port_self, port f]
      exact accepts
    · rw [if_neg (show ¬ f.seq = (news f).rxSeq from late), show (news f).gap = none from fresh]
      refine ⟨_, rfl, ⟨rfl, fun m hm => ((State.updPort_onlyPort _).2 m hm).trans ((State.updPort_onlyPort _).2 m hm)⟩, ?_⟩
      rw [State.updPort_port_self, port f]
      rfl
    · obtain ⟨t, gap⟩ := Option.ne_none_iff_exists'.mp known
      rw [if_neg (show ¬ f.seq = (news f).rxSeq from late), show (news f).gap = some t from gap]
      exact ⟨_, rfl, State.updPort_onlyPort _, port f⟩
  · intro w g
    refine ⟨fun bad => ⟨_, State.negotiate_malformed runs trains (received raw 2 f h) bad, State.updPort_onlyPort _,
      State.updPort_port_self _⟩, fun zero zeros => ?_⟩
    have judged := State.negotiate_judged runs trains (received raw 2 f h) zero zeros
    refine ⟨fun c fault => ?_, fun c fault idle => ?_, fun ok => ?_⟩
    · rw [judged, fault]
    · obtain ⟨t, fails, only⟩ := State.failPort_idle (s := s) (n := n) (c := c) idle
      exact ⟨t, by rw [judged, fault]; exact congrArg _ fails, only⟩
    · rw [judged, ok]
      exact ⟨_, rfl, State.updPort_onlyPort _, State.updPort_port_self _⟩
  · intro q w rows
    have run := State.remoteWrite_front runs front
    let taken (p : Port) : Port := { p with vc1 := { p.vc1 with rxq := r, crGiven := (p.vc1.crGiven + k) % 65536 } }
    refine ⟨fun d serves zero whole may nib => ⟨s.updPort n taken, ?_, State.updPort_onlyPort _, State.updPort_port_self taken⟩,
      fun bad => ?_⟩
    · rw [run, serves, State.remotePkt_some zero whole may nib]
      rfl
    · have none_ : (if s.boot.computeEnd.isSome then none else s.remotePkt n m) = none := by
        rcases bad with resets | bad
        · exact if_pos resets
        · rw [State.remotePkt_none bad, ite_self]
      rw [run, none_]
      refine ⟨_, rfl, ⟨rfl, fun m hm => ((State.updPort_onlyPort _).2 m hm).trans ((State.updPort_onlyPort _).2 m hm)⟩, ?_⟩
      rw [State.updPort_port_self, State.updPort_port_self]
  · rw [State.ethernetFrame_arrives runs eth up]
    refine ⟨fun d ok => ?_, fun bad => ?_⟩
    · rw [ok]
      exact ⟨_, rfl, State.updPort_onlyPort _, State.updPort_port_self _⟩
    · rw [bad]
      exact ⟨_, rfl, State.updPort_onlyPort _, State.updPort_port_self _⟩

end

section
/-! SUPPORT. What a stream's sender does (R325–R345): the stream of a number under changes of its record, the streams that ending, draining
and DMA assignment leave, and the choice of the next message. -/
namespace Sys2Proof.Machine
open Sys2Proof

variable {s : State}

/-! ### The stream of a number -/

theorem State.txAt_num {num : Nat} {t : TxStream} (known : s.txAt num = some t) : t.num = num :=
  beq_iff_eq.mp (List.find?_some (p := fun t : TxStream => t.num == num) known)

/-- The first stream of a number, after a change of the streams of that number. -/
theorem find?_map_num {num : Nat} {f : TxStream → TxStream} (keeps : ∀ t, (f t).num = t.num) (l : List TxStream) :
    (l.map fun t => if t.num = num then f t else t).find? (fun t => t.num == num) = (l.find? fun t => t.num == num).map f := by
  induction l with
  | nil => rfl
  | cons t l ih =>
    by_cases same : t.num = num
    · simp [List.map_cons, same, keeps]
    · simp [List.map_cons, same, ih]

theorem State.updTx_txAt {num : Nat} {f : TxStream → TxStream} (keeps : ∀ t, (f t).num = t.num) :
    (s.updTx num f).txAt num = (s.txAt num).map f := find?_map_num keeps s.tx

/-- The streams of other numbers are those that were. -/
theorem State.updTx_others {num : Nat} {f : TxStream → TxStream} (keeps : ∀ t, (f t).num = t.num) :
    (s.updTx num f).tx.filter (fun x => x.num != num) = s.tx.filter fun x => x.num != num := by
  show (s.tx.map _).filter _ = _
  induction s.tx with
  | nil => rfl
  | cons t l ih =>
    by_cases same : t.num = num
    · simpa [List.map_cons, List.filter_cons, same, keeps] using ih
    · simpa [List.map_cons, List.filter_cons, same] using ih

/-! ### What ending a stream leaves -/

/-- A fold whose steps keep the streams keeps them. -/
theorem State.foldl_tx {α : Type} {f : State → α → State} (keeps : ∀ s x, (f s x).tx = s.tx) (l : List α) (s : State) :
    (l.foldl f s).tx = s.tx := by
  induction l generalizing s with
  | nil => rfl
  | cons x l ih => exact (ih _).trans (keeps s x)

theorem State.updFrame_tx (lp : Bool) (n : Nat) (f : Frame → Frame) : (s.updFrame lp n f).tx = s.tx := by
  unfold State.updFrame State.setFrame
  split
  · split <;> rfl
  · rfl

theorem State.freeGen_tx (g : OldGen) : (s.freeGen g).tx = s.tx := by
  unfold State.freeGen
  dsimp only
  rw [State.foldl_tx fun s n => (rfl : (s.pfxUnref n).tx = s.tx), State.foldl_tx fun s d => State.updFrame_tx ..]
  rfl

theorem State.drain_tx (num : Nat) : (s.drain num).tx = s.tx := by
  unfold State.drain
  dsimp only
  split
  · exact State.foldl_tx (fun s g => State.freeGen_tx g) _ _
  · rfl

theorem State.assignDma_dma : s.assignDma = { s with dma := s.assignDma.dma } := by
  have folded (l : List PageCopy) (f : State → PageCopy → State) (hf : ∀ s k, f s k = { s with dma := (f s k).dma }) (s : State) :
      l.foldl f s = { s with dma := (l.foldl f s).dma } := by
    induction l generalizing s with
    | nil => rfl
    | cons k l ih =>
      rw [List.foldl_cons, ih, hf]
  refine folded _ _ (fun s k => ?_) s
  dsimp only
  split
  · rfl
  · split <;> rfl

theorem State.dropShip_dma (num : Nat) : s.dropShip num = { s with dma := (s.dropShip num).dma } := by
  unfold State.dropShip
  rw [State.assignDma_dma]

/-- A stream that no failure has marked and whose packet's request is over ends with the record of what it sent. -/
theorem State.endStream_ends {num status detail : Nat} {t : TxStream} {p : PktRef} (known : s.txAt num = some t)
    (ref : t.ref = some p) (ok : t.failure = none) (past : s.inFlight p = false) :
    ∃ v : State, v.tx = s.tx.filter (fun x => x.num != t.num) ∧ s.endStream num status detail = v.finish p
      { status := status, exported := true, detail := if status = 0x63 then detail else 0, session := t.session
        r0 := t.pages, r1 := t.resent, r2 := t.lastC, r3 := t.num } := by
  have still : (s.dropShip num).inFlight p = false := by
    rw [State.dropShip_dma]
    exact past
  have tx : (s.dropShip num).tx = s.tx := by rw [State.dropShip_dma]
  refine ⟨State.drain { s.dropShip num with tx := (s.dropShip num).tx.filter fun x => x.num != num } t.session, ?_, ?_⟩
  · rw [State.drain_tx, State.txAt_num known, ← tx]
  · unfold State.endStream
    rw [known]
    dsimp only
    rw [ok, ref]
    dsimp only
    exact if_neg (by rw [still]; exact Bool.false_ne_true)

/-! ### Sending -/

/-- A stream that has sent a message: the next number, and what is kept to be sent again. -/
def TxStream.sent (now : Nat) (kept : List SentMsg) (x : TxStream) : TxStream :=
  { x with seq := x.seq + 1, unacked := kept, progress := if x.unacked.isEmpty then now else x.progress }

/-- A message that can be built is numbered, kept where the transport loses messages, and sent. -/
theorem State.post_sends {num batch : Nat} {k : ActKind} {t : TxStream} {bs : List Byte} (known : s.txAt num = some t)
    (built : s.buildMsg t { seq := t.seq, batch := batch, kind := k } = (.ok bs, s)) :
    (s.post num batch k).1 = State.sendTx (s.updTx num fun x => x.sent s.now
      (match t.via with | .eth _ => x.unacked ++ [{ seq := t.seq, batch := batch, kind := k }] | _ => [])) t bs := by
  unfold State.post
  rw [known]
  dsimp only
  rw [built]
  cases t.via <;> rfl

/-- Over a Ruxel link nothing is kept: delivery is the port's. -/
theorem State.post_ruxel {num batch k : Nat} {a : ActKind} {t : TxStream} {bs : List Byte} (known : s.txAt num = some t)
    (via : t.via = .ruxel k) (built : s.buildMsg t { seq := t.seq, batch := batch, kind := a } = (.ok bs, s)) :
    (s.post num batch a).1 = (s.updTx num fun x => x.sent s.now []).sendMessage k 0 t.bed bs := by
  rw [State.post_sends known built, via]
  unfold State.sendTx
  rw [via]
  rfl

section
variable (runs : s.runs = true) (serves : s.boot.computeEnd = none)
include runs serves

theorem State.shipperSend_next {num : Nat} {t : TxStream} (known : s.txAt num = some t) (going : t.finished = false)
    (up : t.downSince = none) : exec (.shipperSend num) s = .next (s.shipNext t) := by
  refine congrArg Host.Outcome.next ?_
  rw [known]
  exact if_neg (by rw [runs, serves, going, up]; decide)

end

theorem State.shipNext_open {t : TxStream} (first : t.seq = 0) (act : t.target.eweid = false) :
    s.shipNext t = (s.post t.num 0 .open_).1 := if_pos (by rw [first, act]; rfl)

theorem State.shipNext_open_ruxel {num k : Nat} {t : TxStream} (known : s.txAt num = some t) (first : t.seq = 0)
    (act : t.target.eweid = false) (via : t.via = .ruxel k) : s.shipNext t = (s.updTx num fun x => x.sent s.now []).sendMessage k 0 t.bed
      (actMessage 1 s.sec.cl num 0 t.target.remote 0 0 0 0 0 (s.openBody t)) := by
  have same := State.txAt_num known
  have built : s.buildMsg t { seq := t.seq, batch := 0, kind := .open_ } =
      (.ok (actMessage 1 s.sec.cl num 0 t.target.remote 0 0 0 0 0 (s.openBody t)), s) := by
    rw [first, ← same]
    unfold State.buildMsg
    dsimp only
    rw [via]
    rfl
  rw [State.shipNext_open first act, same, State.post_ruxel known via built]

theorem State.shipNext_open_eth {num k : Nat} {t : TxStream} (known : s.txAt num = some t) (first : t.seq = 0)
    (act : t.target.eweid = false) (via : t.via = .eth k) (fresh : ∀ x, x ∈ s.tx → x.num = num → x.unacked = []) :
    s.shipNext t = State.emit (s.updTx num fun x => x.sent s.now [{ seq := 0, batch := 0, kind := .open_ }])
      (.ethFrame k (s.ethFrame k num t.target.destMac t.target.destIp t.udpSrc t.udpPort
        (actMessage 1 t.level num 0 t.target.remote 0 0 0 0 0 (s.openBody t)))) := by
  have same := State.txAt_num known
  have built : s.buildMsg t { seq := t.seq, batch := 0, kind := .open_ } =
      (.ok (actMessage 1 t.level num 0 t.target.remote 0 0 0 0 0 (s.openBody t)), s) := by
    rw [first, ← same]
    unfold State.buildMsg
    dsimp only
    rw [via]
    rfl
  have kept : (s.updTx num fun x => x.sent s.now (x.unacked ++ [{ seq := 0, batch := 0, kind := .open_ }])) =
      s.updTx num fun x => x.sent s.now [{ seq := 0, batch := 0, kind := .open_ }] := by
    unfold State.updTx
    refine congrArg (fun l => { s with tx := l }) (List.map_congr_left fun x mem => ?_)
    by_cases mine : x.num = num
    · rw [if_pos mine, if_pos mine]
      dsimp only
      rw [fresh x mem mine, List.nil_append]
    · rw [if_neg mine, if_neg mine]
  rw [State.shipNext_open first act, same, State.post_sends known built, first, via]
  dsimp only
  rw [kept]
  unfold State.sendTx
  rw [via, same]
  rfl

/-- A LAYER_DONE that is due goes before any page. -/
theorem State.shipNext_layerDone {num k l c : Nat} {t : TxStream} {b : Batch} (known : s.txAt num = some t) (later : t.seq ≠ 0)
    (act : t.target.eweid = false) (via : t.via = .ruxel k)
    (first : t.batches.find? (fun b => !b.closed && b.layerDue.isSome) = some b) (due : b.layerDue = some (l, c)) :
    s.shipNext t = State.updBatch ((s.updTx num fun x => x.sent s.now []).sendMessage k 0 t.bed
      (actMessage 4 t.level num t.seq t.target.remote l 0 b.num 0 0 (leBytes 4 c))) num b.num
        fun x => { x with doneLayers := l :: x.doneLayers } := by
  have same := State.txAt_num known
  have built : s.buildMsg t { seq := t.seq, batch := b.num, kind := .layerDone l c } =
      (.ok (actMessage 4 t.level num t.seq t.target.remote l 0 b.num 0 0 (leBytes 4 c)), s) := by
    rw [← same]
    rfl
  have found : (t.batches.findSome? fun x => if x.closed then none else x.layerDue.map fun d => (x, d)) = some (b, (l, c)) := by
    generalize t.batches = bs at first
    induction bs with
    | nil => cases first
    | cons x xs ih =>
      rw [List.find?_cons] at first
      rw [List.findSome?_cons]
      by_cases mine : (!x.closed && x.layerDue.isSome) = true
      · rw [mine] at first
        cases first
        rw [Bool.and_eq_true] at mine
        rw [if_neg (by simpa using mine.1), due]
        rfl
      · rw [Bool.eq_false_iff.mpr mine] at first
        have skip : (if x.closed then none else x.layerDue.map fun d => (x, d)) = none := by
          by_cases closed : x.closed = true
          · rw [if_pos closed]
          · rw [if_neg closed]
            have none_ : x.layerDue = none := by simpa [closed] using mine
            rw [none_]
            rfl
        rw [skip]
        exact ih first
  have opened : ∃ y, t.batches.find? (fun b => !b.closed) = some y := by
    have mem := List.mem_of_find?_eq_some first
    have open_ := List.find?_some first
    rw [Bool.and_eq_true] at open_
    exact Option.isSome_iff_exists.mp (List.find?_isSome.mpr ⟨b, mem, open_.1⟩)
  obtain ⟨y, opened⟩ := opened
  unfold State.shipNext
  rw [if_neg (by simp [later]), if_neg (by rw [via]; exact Bool.false_ne_true), opened]
  dsimp only
  rw [act, if_neg Bool.false_ne_true, found]
  dsimp only
  rw [same, State.post_ruxel known via built]

/-- The item at the head of a batch that is still open. -/
def Batch.front (b : Batch) : Option (Nat × Nat) := if b.closed then none else b.items.head?

/-- What the search for the next item has found among the batches it has seen: an item at the head of one that none is before. -/
structure LeastItem (seen : List Batch) (m : Option (Batch × Nat × Nat)) : Prop where
  found : ∀ x, m = some x → x.1 ∈ seen ∧ x.1.front = some x.2 ∧
    ∀ y i, y ∈ seen → y.front = some i → ¬(i.1 < x.2.1 ∨ i.1 = x.2.1 ∧ i.2 < x.2.2)
  missed : m = none → ∀ y, y ∈ seen → y.front = none

/-- The search, one batch further: an item before the one found takes its place. -/
def nextOf (m : Option (Batch × Nat × Nat)) (b : Batch) : Option (Batch × Nat × Nat) :=
  match b.front, m with
  | none, m => m
  | some i, none => some (b, i.1, i.2)
  | some i, some x => if i.1 < x.2.1 ∨ (i.1 = x.2.1 ∧ i.2 < x.2.2) then some (b, i.1, i.2) else m

/-- One batch more. -/
theorem LeastItem.step {seen : List Batch} {m : Option (Batch × Nat × Nat)} (h : LeastItem seen m) (b : Batch) :
    LeastItem (seen ++ [b]) (nextOf m b) := by
  obtain ⟨found, missed⟩ := h
  have mem {y : Batch} : y ∈ seen ++ [b] ↔ y ∈ seen ∨ y = b := by simp
  unfold nextOf
  cases front : b.front with
  | none =>
    refine ⟨fun x hx => ?_, fun hm y hy => ?_⟩
    · obtain ⟨in_, head, least⟩ := found x hx
      refine ⟨mem.mpr (.inl in_), head, fun y i hy hi => ?_⟩
      rcases mem.mp hy with hy | rfl
      · exact least y i hy hi
      · rw [front] at hi
        cases hi
    · rcases mem.mp hy with hy | rfl
      · exact missed hm y hy
      · exact front
  | some i =>
    cases m with
    | none =>
      refine ⟨fun x hx => ?_, fun hm => (nomatch hm)⟩
      cases hx
      refine ⟨mem.mpr (.inr rfl), front, fun y j hy hj => ?_⟩
      rcases mem.mp hy with hy | rfl
      · rw [missed rfl y hy] at hj
        cases hj
      · rw [front] at hj
        cases hj
        dsimp only
        omega
    | some z =>
      obtain ⟨in_, head, least⟩ := found z rfl
      dsimp only
      by_cases before : i.1 < z.2.1 ∨ i.1 = z.2.1 ∧ i.2 < z.2.2
      · rw [if_pos before]
        refine ⟨fun x hx => ?_, fun hm => (nomatch hm)⟩
        cases hx
        refine ⟨mem.mpr (.inr rfl), front, fun y j hy hj => ?_⟩
        rcases mem.mp hy with hy | rfl
        · have late := least y j hy hj
          dsimp only
          omega
        · rw [front] at hj
          cases hj
          dsimp only
          omega
      · rw [if_neg before]
        refine ⟨fun x hx => ?_, fun hm => (nomatch hm)⟩
        cases hx
        refine ⟨mem.mpr (.inl in_), head, fun y j hy hj => ?_⟩
        rcases mem.mp hy with hy | rfl
        · exact least y j hy hj
        · rw [front] at hj
          cases hj
          exact before

/-- The item a stream sends next is at the head of an open batch, and none at the head of an open batch is before it. -/
theorem TxStream.nextItem_least {t : TxStream} {b : Batch} {l p : Nat} (next : t.nextItem = some (b, l, p)) :
    b ∈ t.batches ∧ b.closed = false ∧ b.items.head? = some (l, p) ∧
      ∀ y i, y ∈ t.batches → y.closed = false → y.items.head? = some i → ¬(i.1 < l ∨ i.1 = l ∧ i.2 < p) := by
  have folded (rest seen : List Batch) (m : Option (Batch × Nat × Nat)) (h : LeastItem seen m) :
      LeastItem (seen ++ rest) (rest.foldl nextOf m) := by
    induction rest generalizing seen m with
    | nil => rwa [List.append_nil]
    | cons b rest ih =>
      rw [List.append_cons]
      exact ih _ _ (h.step b)
  have least := folded t.batches [] none ⟨fun _ h => (nomatch h), fun _ _ h => absurd h List.not_mem_nil⟩
  obtain ⟨mem, head, before⟩ := least.found _ next
  have open_ : b.closed = false := by
    refine Bool.eq_false_iff.mpr fun closed => ?_
    rw [show b.front = none from if_pos closed] at head
    cases head
  have front {y : Batch} (h : y.closed = false) : y.front = y.items.head? := if_neg (by rw [h]; decide)
  exact ⟨mem, open_, (front open_).symm.trans head, fun y i hy hc hi => before y i hy ((front hc).trans hi)⟩

/-- With no OPEN, LAYER_DONE or settlement due, the next item goes. -/
theorem State.shipNext_item {t : TxStream} {x b : Batch} {l p : Nat} (later : t.seq ≠ 0) (acked : ∀ k, t.via = .eth k → t.acked = true)
    (layers : ∀ y, y ∈ t.batches → y.closed = false → y.layerDue = none) (first : t.batches.find? (fun y => !y.closed) = some x)
    (work : x.items ≠ [] ∨ x.settle = none) (next : t.nextItem = some (b, l, p)) : s.shipNext t = s.sendItem t b l p := by
  have open_ : ¬((match t.via with | .eth _ => true | _ => false) && !t.acked) = true := by
    cases via : t.via with
    | eth k =>
      rw [acked k via]
      exact Bool.false_ne_true
    | ruxel k => exact Bool.false_ne_true
    | host => exact Bool.false_ne_true
  have none_ : (if t.target.eweid then none else t.batches.findSome? fun x => if x.closed then none else x.layerDue.map fun d => (x, d)) =
      none := by
    split
    · rfl
    · refine List.findSome?_eq_none_iff.mpr fun y hy => ?_
      by_cases closed : y.closed = true
      · exact if_pos closed
      · rw [if_neg closed, layers y hy (by simpa using closed)]
        rfl
  unfold State.shipNext
  rw [if_neg (by simp [later])]
  refine (if_neg open_).trans ?_
  rw [first]
  dsimp only
  rw [none_]
  dsimp only
  cases items : x.items with
  | cons i is => rw [next]
  | nil =>
    have settle : x.settle = none := work.resolve_left fun h => h items
    rw [settle, next]

/-! ### Sending again -/

/-- A kept message below its limit of resends goes again. -/
theorem State.resend_again {num seq : Nat} {t : TxStream} {m : SentMsg} {bs : List Byte} {v : State} (known : s.txAt num = some t)
    (kept : t.unacked.find? (fun y => y.seq == seq) = some m) (going : t.finished = false) (few : m.resends < t.retryLimit)
    (built : s.buildMsg t { m with resends := m.resends + 1 } = (.ok bs, v)) :
    s.resend num seq = State.sendTx (v.updTx num fun x => { x with
      resent := x.resent + 1
      unacked := x.unacked.map fun y => if y.seq = seq then { m with resends := m.resends + 1 } else y }) t bs := by
  unfold State.resend
  rw [known]
  dsimp only
  rw [kept]
  dsimp only
  rw [if_neg (by rw [going]; decide), if_neg (by omega), built]

theorem State.resend_gives_up {num seq : Nat} {t : TxStream} {m : SentMsg} (known : s.txAt num = some t)
    (kept : t.unacked.find? (fun y => y.seq == seq) = some m) (going : t.finished = false) (many : t.retryLimit ≤ m.resends) :
    s.resend num seq = s.endStream num Status.exportTimeout.code 0 := by
  unfold State.resend
  rw [known]
  dsimp only
  rw [kept]
  dsimp only
  rw [if_neg (by rw [going]; decide), if_pos many]

theorem State.ackTimeout_resends {num : Nat} {t : TxStream} {m : SentMsg} {l : List SentMsg} (runs : s.runs = true)
    (known : s.txAt num = some t) (kept : t.unacked = m :: l) (up : t.downSince = none)
    (late : t.progress + 100 * t.ackTimeout < s.now) :
    exec (.ackTimeout num) s = .next ((s.updTx num fun x => { x with progress := s.now }).resend num m.seq) := by
  refine congrArg Host.Outcome.next ?_
  rw [known]
  dsimp only
  rw [kept]
  exact if_pos ⟨runs, by rw [up]; rfl, late⟩

theorem State.exportLinkWaitExpiry_ends {num d : Nat} {t : TxStream} (runs : s.runs = true) (known : s.txAt num = some t)
    (down : t.downSince = some d) (going : t.finished = false) (late : d + 100 * t.ackTimeout * t.retryLimit < s.now) :
    exec (.exportLinkWaitExpiry num) s = .next (s.endStream num Status.linkDown.code 0) := by
  refine congrArg Host.Outcome.next ?_
  rw [known]
  dsimp only
  rw [down]
  exact if_pos ⟨runs, by rw [going]; rfl, late⟩

/-! ### Answers -/

/-- A row of the table acts on the front message of its own type, whatever form it came in. -/
theorem State.actRow_acts {n type : Nat} {f : State → ActMsg → List Byte → List Byte → State} {bs src : List Byte} {u : State} {m : ActMsg}
    (runs : s.runs = true) (serves : s.boot.computeEnd = none) (front : s.frontAct n = some (bs, src, u))
    (parsed : parseAct bs = some m ∨ parseAct bs = none ∧ s.role n = 2 ∧ parseEweid bs = some m) (mine : m.type = type) :
    s.actRow n type f = f u m src bs := by
  have read : ((parseAct bs).orElse fun _ => if s.role n = 2 then parseEweid bs else none) = some m := by
    rcases parsed with act | ⟨none_, eth, eweid⟩
    · rw [act]
      rfl
    · rw [none_, if_pos eth, eweid]
      rfl
  unfold State.actRow
  rw [if_neg (by rw [runs, serves]; decide), front]
  dsimp only
  rw [read]
  exact if_pos mine

/-- A stream that answers a message runs. -/
theorem State.txFrom_going {n : Nat} {m : ActMsg} {src : List Byte} {t : TxStream} (h : s.txFrom n m src = some t) : t.finished = false := by
  have found := List.find?_some h
  rw [Bool.and_eq_true, Bool.and_eq_true] at found
  simpa using found.1.2

/-- What an acknowledgement leaves of the stream that a batch may still follow. -/
theorem State.dropBatches_txAt {num : Nat} {t : TxStream} (known : s.txAt num = some t) (whole : t.streamed = false) :
    (s.dropBatches num).txAt num = some { t with batches := t.batches.filter fun b => !b.closed || t.unacked.any fun m => m.batch == b.num } := by
  let cut (t : TxStream) : TxStream := { t with batches := t.batches.filter fun b => !b.closed || t.unacked.any fun m => m.batch == b.num }
  have drained : ((s.updTx num cut).drain t.session).txAt num = some (cut t) := by
    unfold State.txAt
    rw [State.drain_tx]
    exact (State.updTx_txAt (f := cut) fun _ => rfl).trans (congrArg (Option.map cut) known)
  have kept : ((s.updTx num cut).drain t.session).releaseShipped num = (s.updTx num cut).drain t.session := by
    unfold State.releaseShipped
    rw [drained]
    dsimp only
    rw [if_pos (by simp [cut, whole])]
  unfold State.dropBatches
  rw [known]
  dsimp only
  rw [kept]
  exact drained

/-- A stream that another batch may follow is not done. -/
theorem State.streamDone_waits {num : Nat} {t : TxStream} (known : s.txAt num = some t) (more : t.endAfter = false) :
    s.streamDone num = s := by
  unfold State.streamDone
  rw [known]
  dsimp only
  rw [if_neg (by simp [more])]

end Sys2Proof.Machine
end

section
open Sys2Proof Sys2Proof.Machine

/-- Settles O50: a stream's next message is the first of its kinds that is due; an answer finds the stream it answers, and a stream
that ends says what it sent. -/
theorem senderSide : Obligations.SenderSide := by
  intro s runs serves ends again
  refine ⟨fun num t known going up => ?_, fun num t m l known kept up late going => ?_, fun num t d known down going late => ?_,
    fun n bs src u m t front parsed from_ known => ?_⟩
  · have next := State.shipperSend_next runs serves known going up
    refine ⟨next, ?opens, ?items, fun k b l c later act via first due =>
      ⟨_, next, State.shipNext_layerDone known later act via first due⟩⟩
    case opens =>
      intro first act sent
      refine ⟨fun k via => ?_, fun k via _ fresh => ?_⟩
      · rw [next, State.shipNext_open_ruxel known first act via]
        rfl
      · rw [next, State.shipNext_open_eth known first act via fresh]
        rfl
    case items =>
      intro x b l p later acked layers first work item
      rw [next, State.shipNext_item later acked layers first work item]
      exact ⟨rfl, TxStream.nextItem_least item⟩
  · have run := State.ackTimeout_resends runs known kept up late
    have same := State.txAt_num known
    have renewed : (s.updTx num fun x => { x with progress := s.now }).txAt num = some { t with progress := s.now } :=
      (State.updTx_txAt (f := fun x => { x with progress := s.now }) fun _ => rfl).trans (congrArg (Option.map _) known)
    have oldest : t.unacked.find? (fun y => y.seq == m.seq) = some m := by
      rw [kept]
      exact List.find?_cons_of_pos (beq_self_eq_true _)
    refine ⟨fun bs v few built => ?_, fun many p ref ok past => ?_⟩
    · rw [run, State.resend_again renewed oldest going few built, same]
    · obtain ⟨v, tx, ending⟩ := State.endStream_ends (status := Status.exportTimeout.code) (detail := 0) renewed ref ok past
      refine ⟨v, ?_, ?_⟩
      · rw [tx, ← State.updTx_others (s := s) (num := t.num) (f := fun x => { x with progress := s.now }) fun _ => rfl, same]
      · rw [run, State.resend_gives_up renewed oldest going many, ending]
        rfl
  · have run := State.exportLinkWaitExpiry_ends runs known down going late
    refine ⟨run, fun p ref ok past => ?_⟩
    obtain ⟨v, tx, ending⟩ := State.endStream_ends (status := Status.linkDown.code) (detail := 0) known ref ok past
    exact ⟨v, tx, by rw [run, ending]; rfl⟩
  · have going := State.txFrom_going from_
    refine ⟨fun k mine via low high => ?_, fun k mine via => ?_, ?_, ?_, fun mine => ?_⟩
    · refine congrArg Host.Outcome.next ((State.actRow_acts runs serves front parsed mine).trans ?_)
      rw [from_]
      dsimp only
      rw [via]
      exact if_neg (by omega)
    · refine congrArg Host.Outcome.next ((State.actRow_acts runs serves front parsed mine).trans ?_)
      rw [from_]
      dsimp only
      rw [via]
    · intro mine k left
      let acked (x : TxStream) : TxStream := { x with
        unacked := left, lowest := max x.lowest k, progress := if x.lowest < k then u.now else x.progress }
      have run : exec (.actAck n) s = .next (((u.updTx t.num acked).dropBatches t.num).streamDone t.num) := by
        refine congrArg Host.Outcome.next ((State.actRow_acts runs serves front parsed mine).trans ?_)
        rw [from_]
      refine ⟨run, fun more whole => ?_⟩
      have told : (u.updTx t.num acked).txAt t.num = some (acked t) :=
        (State.updTx_txAt (f := acked) fun _ => rfl).trans (congrArg (Option.map acked) known)
      have dropped := State.dropBatches_txAt told whole
      exact ⟨_, run, by rw [State.streamDone_waits dropped more]; exact dropped⟩
    · intro mine named
      have run : exec (.actNack n) s = .next (named.foldl (fun (s : State) x => s.resend t.num x.seq) u) := by
        refine congrArg Host.Outcome.next ((State.actRow_acts runs serves front parsed mine).trans ?_)
        rw [from_]
        simp only [List.any_map]
        rfl
      refine ⟨run, fun x one found bs v few built => ?_⟩
      rw [run, one]
      exact congrArg Host.Outcome.next (State.resend_again known found going few built)
    · have run : exec (.actRefuse n) s = .next (u.endStream t.num Status.peerRefused.code (leField m.payload 0 1)) := by
        refine congrArg Host.Outcome.next ((State.actRow_acts runs serves front parsed mine).trans ?_)
        rw [from_]
      refine ⟨run, fun p ref ok past => ?_⟩
      obtain ⟨v, tx, ending⟩ := State.endStream_ends (status := Status.peerRefused.code) (detail := leField m.payload 0 1) known ref ok past
      exact ⟨v, tx, by rw [run, ending]; rfl⟩

end

section
/-! SUPPORT. What a stream's receiver does (R335–R345): the stream a message belongs to under changes of its record, its batches, and
the ends of an import. -/
namespace Sys2Proof.Machine
open Sys2Proof

variable {s u : State}

/-! ### Batches of a received stream -/

/-- A batch, replaced, is what is read of its number. -/
theorem RxStream.setBatch_batch (r : RxStream) {b : RxBatch} {k : Nat} (num : b.num = k) : (r.setBatch b).batch k = b := by
  subst num
  have others : (r.batches.filter fun x => x.num != b.num).find? (fun x => x.num == b.num) = none := by
    refine List.find?_eq_none.mpr fun x hx => ?_
    simpa using (List.mem_filter.mp hx).2
  unfold RxStream.batch RxStream.setBatch
  rw [List.find?_append, others]
  simp

/-! ### The stream a message belongs to -/

/-- The streams of a sender's number, changed by a message that has come over a port. -/
def State.heard (u : State) (n : Nat) (m : ActMsg) (src : List Byte) (f : RxStream → RxStream) : State :=
  { u with rx := u.rx.map fun x =>
    if x.from_ m.stream (u.portVia n) src = true then f { x with lastMsg := u.now, next := m.seq + 1 } else x }

/-- A change that leaves a stream's number, transport and sender. -/
def KeepsSender (f : RxStream → RxStream) : Prop := ∀ x, (f x).num = x.num ∧ (f x).via = x.via ∧ (f x).src = x.src

theorem KeepsSender.from_ {f : RxStream → RxStream} (h : KeepsSender f) (x : RxStream) (num : Nat) (via : Transport) (src : List Byte) :
    (f x).from_ num via src = x.from_ num via src := by
  obtain ⟨hn, hv, hs⟩ := h x
  unfold RxStream.from_
  rw [hn, hv, hs]

theorem RxStream.from_iff {r : RxStream} {num : Nat} {via : Transport} {src : List Byte} :
    r.from_ num via src = true ↔ r.num = num ∧ r.via = via ∧ r.src = src := by
  unfold RxStream.from_
  rw [Bool.and_eq_true, Bool.and_eq_true, beq_iff_eq, beq_iff_eq, beq_iff_eq, and_assoc]

/-- The first element of a kind, after a change of the elements of that kind that keeps them so. -/
theorem find?_map_of_keeps {α : Type} {P : α → Bool} {g : α → α} (keeps : ∀ x, P x = true → P (g x) = true) (l : List α) :
    (l.map fun x => if P x = true then g x else x).find? P = (l.find? P).map g := by
  induction l with
  | nil => rfl
  | cons x l ih =>
    by_cases mine : P x = true
    · rw [List.map_cons, if_pos mine, List.find?_cons_of_pos (keeps x mine), List.find?_cons_of_pos mine]
      rfl
    · rw [List.map_cons, if_neg mine, List.find?_cons_of_neg mine, List.find?_cons_of_neg mine, ih]

/-- Two changes of the elements of a kind, of which the first keeps them so, are one. -/
theorem map_map_of_keeps {α : Type} {P : α → Bool} {g h : α → α} (keeps : ∀ x, P x = true → P (g x) = true) (l : List α) :
    (l.map fun x => if P x = true then g x else x).map (fun x => if P x = true then h x else x) =
      l.map fun x => if P x = true then h (g x) else x := by
  rw [List.map_map]
  refine List.map_congr_left fun x _ => ?_
  by_cases mine : P x = true
  · simp [mine, keeps x mine]
  · simp [mine]

section
variable {n : Nat} {m : ActMsg} {src : List Byte} {f g : RxStream → RxStream} {r : RxStream}

theorem State.heard_find (keeps : KeepsSender f) (found : u.rx.find? (fun r => r.from_ m.stream (u.portVia n) src) = some r) :
    (u.heard n m src f).rx.find? (fun x => x.from_ m.stream (u.portVia n) src) = some (f { r with lastMsg := u.now, next := m.seq + 1 }) :=
  (find?_map_of_keeps (P := fun x => x.from_ m.stream (u.portVia n) src)
    (fun x mine => (keeps.from_ { x with lastMsg := u.now, next := m.seq + 1 } ..).trans mine) u.rx).trans
    (congrArg (Option.map _) found)

/-- A further change of the stream that was heard. -/
theorem State.heard_updRx {q : RxStream} (keeps : KeepsSender f) (sender : q.from_ m.stream (u.portVia n) src = true) :
    (u.heard n m src f).updRx q g = u.heard n m src fun x => g (f x) := by
  obtain ⟨hn, hv, hs⟩ := RxStream.from_iff.mp sender
  unfold State.updRx State.heard
  rw [hn, hv, hs]
  have lists := map_map_of_keeps (P := fun x => x.from_ m.stream (u.portVia n) src)
    (g := fun x => f { x with lastMsg := u.now, next := m.seq + 1 }) (h := g)
    (fun x mine => (keeps.from_ { x with lastMsg := u.now, next := m.seq + 1 } ..).trans mine) u.rx
  dsimp only at lists ⊢
  rw [lists]

theorem State.rxMessage_ruxel {raw : List Byte} (found : u.rx.find? (fun r => r.from_ m.stream (u.portVia n) src) = some r)
    (ruxel : u.role n ≠ 2) : u.rxMessage n m src raw = (u.heard n m src id).rxProcess { r with next := m.seq + 1 } m := by
  have sender := List.find?_some (p := fun r : RxStream => r.from_ m.stream (u.portVia n) src) found
  obtain ⟨hn, hv, hs⟩ := RxStream.from_iff.mp sender
  have twice : (u.updRx r fun r => { r with lastMsg := u.now }).updRx r (fun r => { r with next := m.seq + 1 }) = u.heard n m src id := by
    unfold State.updRx State.heard
    rw [hn, hv, hs]
    have lists := map_map_of_keeps (P := fun x => x.from_ m.stream (u.portVia n) src) (g := fun x => { x with lastMsg := u.now })
      (h := fun x => { x with next := m.seq + 1 }) (fun x mine => mine) u.rx
    dsimp only [id] at lists ⊢
    rw [lists]
  unfold State.rxMessage
  rw [found]
  dsimp only
  refine (if_pos ruxel).trans ?_
  rw [twice]

theorem KeepsSender.setBatch (b : RxStream → RxBatch) : KeepsSender fun x => x.setBatch (b x) := fun _ => ⟨rfl, rfl, rfl⟩

end

/-! ### Messages over a Ruxel link -/

section
variable {n : Nat} {m : ActMsg} {src : List Byte} {r : RxStream}
variable (found : u.rx.find? (fun r => r.from_ m.stream (u.portVia n) src) = some r) (kept : r.discarded = false)
include found kept

theorem State.rxProcess_page (mine : m.type = 3) (layer : m.layer < (u.pkgOf r.index).layers) (page : m.page < (u.geo r.index).npm)
    (inside : m.off + m.payload.length ≤ pageBytes (u.pkgOf r.index)) :
    (u.heard n m src id).rxProcess { r with next := m.seq + 1 } m = u.heard n m src fun x => x.setBatch { x.batch m.batch with
      chunks := (List.range (cdiv m.payload.length 1024)).foldl (fun l k => putChunk
        (m.layer, m.page, m.off + 1024 * k, (m.payload.drop (1024 * k)).take 1024) l) (x.batch m.batch).chunks } := by
  have sender := List.find?_some (p := fun r : RxStream => r.from_ m.stream (u.portVia n) src) found
  unfold State.rxProcess
  rw [mine]
  have fits : ¬((r.discarded || decide ((u.pkgOf r.index).layers ≤ m.layer) || decide ((u.geo r.index).npm ≤ m.page) ||
      decide (pageBytes (u.pkgOf r.index) < m.off + m.payload.length)) = true) := by
    rw [kept]
    simp
    omega
  refine (if_neg fits).trans ((State.heard_updRx (fun _ => ⟨rfl, rfl, rfl⟩) sender).trans ?_)
  simp only [List.foldl_map, id]

omit kept in
/-- A LAYER_DONE or a COMMIT changes its batch, and the batch is applied where its COMMIT is there. -/
theorem State.heard_again {f : RxBatch → RxBatch} (num : ∀ b, (f b).num = b.num) :
    (match ((u.heard n m src id).updRx { r with next := m.seq + 1 } fun x => x.setBatch (f (x.batch m.batch))).rx.find?
        fun x => x.from_ r.num r.via r.src with
      | some x => ((u.heard n m src id).updRx { r with next := m.seq + 1 } fun x => x.setBatch (f (x.batch m.batch))).applyBatch x
          (x.batch m.batch)
      | none => (u.heard n m src id).updRx { r with next := m.seq + 1 } fun x => x.setBatch (f (x.batch m.batch))) =
    (u.heard n m src fun x => x.setBatch (f (x.batch m.batch))).applyBatch
      ({ r with lastMsg := u.now, next := m.seq + 1 }.setBatch (f (r.batch m.batch))) (f (r.batch m.batch)) := by
  have sender := List.find?_some (p := fun r : RxStream => r.from_ m.stream (u.portVia n) src) found
  obtain ⟨hn, hv, hs⟩ := RxStream.from_iff.mp sender
  have own : ({ r with lastMsg := u.now, next := m.seq + 1 }.setBatch (f (r.batch m.batch))).batch m.batch = f (r.batch m.batch) :=
    RxStream.setBatch_batch _ ((num _).trans (RxStream.batch_num ..))
  have changed : ((u.heard n m src id).updRx { r with next := m.seq + 1 } fun x => x.setBatch (f (x.batch m.batch))) =
      u.heard n m src fun x => x.setBatch (f (x.batch m.batch)) := State.heard_updRx (fun _ => ⟨rfl, rfl, rfl⟩) sender
  have kind : (fun x : RxStream => x.from_ r.num r.via r.src) = fun x => x.from_ m.stream (u.portVia n) src := by rw [hn, hv, hs]
  rw [changed, kind, State.heard_find (KeepsSender.setBatch _) found]
  exact congrArg (State.applyBatch _ _) own

theorem State.rxProcess_layerDone (mine : m.type = 4) (open_ : (r.batch m.batch).commit = none) :
    (u.heard n m src id).rxProcess { r with next := m.seq + 1 } m = u.heard n m src fun x => x.setBatch { x.batch m.batch with
      layerDone := (x.batch m.batch).layerDone + 1 } := by
  unfold State.rxProcess
  rw [mine]
  refine (if_neg (by rw [kept]; exact Bool.false_ne_true)).trans
    ((State.heard_again found (f := fun b => { b with layerDone := b.layerDone + 1 }) fun _ => rfl).trans ?_)
  unfold State.applyBatch
  rw [show ({ r.batch m.batch with layerDone := (r.batch m.batch).layerDone + 1 } : RxBatch).commit = none from open_]

theorem State.rxProcess_commit (mine : m.type = 5) :
    (u.heard n m src id).rxProcess { r with next := m.seq + 1 } m =
      (u.heard n m src fun x => x.setBatch { x.batch m.batch with commit := some m.payload }).applyBatch
        ({ r with lastMsg := u.now, next := m.seq + 1 }.setBatch { r.batch m.batch with commit := some m.payload })
        { r.batch m.batch with commit := some m.payload } := by
  unfold State.rxProcess
  rw [mine]
  exact (if_neg (by rw [kept]; exact Bool.false_ne_true)).trans
    (State.heard_again found (f := fun b => { b with commit := some m.payload }) fun _ => rfl)

theorem State.rxProcess_abort (mine : m.type = 6) : (u.heard n m src id).rxProcess { r with next := m.seq + 1 } m =
    State.updSes (u.heard n m src fun x => { x with batches := x.batches.filter fun b => b.num != m.batch }) r.index fun e =>
      if r.mirror then { e with warmC := leField m.payload 4 4 }
      else { e with c := leField m.payload 4 4, admitC := leField m.payload 4 4 } := by
  have sender := List.find?_some (p := fun r : RxStream => r.from_ m.stream (u.portVia n) src) found
  have changed : ((u.heard n m src id).updRx { r with next := m.seq + 1 } fun x => { x with
      batches := x.batches.filter fun b => b.num != m.batch }) = u.heard n m src fun x => { x with
      batches := x.batches.filter fun b => b.num != m.batch } := State.heard_updRx (fun _ => ⟨rfl, rfl, rfl⟩) sender
  unfold State.rxProcess
  rw [mine]
  refine (if_neg (by rw [kept]; exact Bool.false_ne_true)).trans ?_
  rw [changed]
  cases r.mirror <;> rfl

theorem State.rxProcess_close (ruxel : u.role n ≠ 2) (mine : m.type = 9) (own : r.mirror = false) :
    (u.heard n m src id).rxProcess { r with next := m.seq + 1 } m = (u.heard n m src id).endImport r.index .ok := by
  have sender := List.find?_some (p := fun r : RxStream => r.from_ m.stream (u.portVia n) src) found
  have via : r.via = .ruxel n := (RxStream.from_iff.mp sender).2.1.trans (if_neg ruxel)
  unfold State.rxProcess
  rw [mine]
  dsimp only
  rw [via]
  exact (if_neg (by rw [kept]; exact Bool.false_ne_true)).trans (if_neg (by rw [own]; exact Bool.false_ne_true))

end

/-- A COMMIT waits for the layers it counts. -/
theorem State.applyBatch_waits {r : RxStream} {b : RxBatch} {body : List Byte} (commit : b.commit = some body)
    (few : b.layerDone < leField body 10 2) : s.applyBatch r b = s := by
  unfold State.applyBatch
  rw [commit]
  exact if_pos (by simp [few])

/-- A COMMIT of a batch without pages gives the session its length with a swap of the list as it stands. -/
theorem State.applyBatch_empty {r : RxStream} {b : RxBatch} {body : List Byte} {v : State} (commit : b.commit = some body)
    (whole : leField body 10 2 ≤ b.layerDone) (none_ : b.chunks = []) (edited : s.edit r.index (s.entries r.index) = some v) :
    s.applyBatch r b = State.updSes (v.updRx r fun x => { x with batches := x.batches.filter fun y => y.num != b.num }) r.index fun e =>
      if r.mirror then { e with warmC := leField body 0 4, warm := decide (e.c ≤ leField body 0 4) }
      else { e with
        c := leField body 0 4, admitC := leField body 0 4, lastToken := leField body 4 4
        tailInexact := e.tailInexact || bitAt (leField body 9 1) 0
        tailSaturated := e.tailSaturated || bitAt (leField body 9 1) 1 } := by
  unfold State.applyBatch
  rw [commit]
  dsimp only
  rw [none_]
  refine (if_neg (by simp; omega)).trans ?_
  have filled : fillUnits (s.entries r.index) false [] (s.freeFrames (s.ses r.index).bed false) = some (s.entries r.index) := rfl
  simp only [List.map_nil, List.eraseDups_nil, List.flatMap_nil, List.foldl_nil, filled, edited]
  cases r.mirror <;> rfl

/-! ### OPEN -/

/-- The stream an OPEN makes, before its session is known. -/
def State.opened (u : State) (n : Nat) (m : ActMsg) (src : List Byte) : RxStream :=
  { num := m.stream, via := u.portVia n, src := src, level := m.cl, next := 1, lastMsg := u.now
    udp := bitsAt (u.cfgAt kvxReg0) 0 16, hold := bitsAt (u.cfgAt kvxReg0) 48 16
    unackedSince := if u.role n = 2 then some u.now else none, unackedCount := b2n (u.role n == 2) }

/-- An OPEN of a stream that does not run is judged, and answered with REFUSE or with OPEN_ACK. -/
theorem State.actOpen_judged {n : Nat} {bs src : List Byte} {m : ActMsg} (runs : s.runs = true) (serves : s.boot.computeEnd = none)
    (front : s.frontAct n = some (bs, src, u)) (parsed : parseAct bs = some m) (mine : m.type = 1)
    (fresh : ∀ r, r ∈ u.rx → r.from_ m.stream (u.portVia n) src = false ∨ r.discarded = true) :
    exec (.actOpen n) s = .next (match u.judgeOpen n m src with
      | .error st => u.sendBack (u.opened n m src) m.session 0x0A [BitVec.ofNat 8 st.code]
      | .ok (i, mir, l, f, v) =>
        let r := { u.opened n m src with bed := (v.ses i).bed, index := i, level := l, frames := f, mirror := mir }
        let w := v.dropRx r
        State.sendBack { w with
          rx := w.rx ++ [r]
          imports := w.imports.map fun (x : Import) => if x.index = i ∧ !mir then { x with stream := some m.stream } else x }
          r m.session 2 (leBytes 1 l)) := by
  have none_ : u.rx.find? (fun r => r.from_ m.stream (u.portVia n) src && !r.discarded) = none := by
    refine List.find?_eq_none.mpr fun r hr => ?_
    rcases fresh r hr with other | discarded
    · rw [other]
      exact Bool.false_ne_true
    · rw [discarded, Bool.not_true, Bool.and_false]
      exact Bool.false_ne_true
  refine congrArg Host.Outcome.next ((State.actRow_acts runs serves front (.inl parsed) mine).trans ?_)
  dsimp only
  rw [none_]
  dsimp only
  unfold State.opened
  generalize u.judgeOpen n m src = j
  rcases j with st | ⟨i, mir, l, f, v⟩ <;> rfl

/-! ### Timers -/

/-- An import that ends by itself: its streams are forgotten, what it had brought beyond C goes, and its request completes. -/
theorem State.endImport_eq {i : Nat} {st : Status} (alone : st ≠ .cancelled) :
    s.endImport i st =
      let u : State := { s with
        imports := s.imports.filter fun x => x.index != i
        rx := s.rx.filter fun r => !(r.index == i && !r.mirror) }
      let v := u.dropAbove i (s.ses i).c
      v.endRequest i { (v.reqRecord i st) with r1 := 0, r3 := 0 } := by
  unfold State.endImport
  dsimp only
  rw [if_neg alone]

/-- The one stream of a number over a port is the one its sender's messages find. -/
theorem State.rxOver_find {n num : Nat} {r : RxStream} (one : s.rxOver n num = [r]) :
    r.num = num ∧ r.via = .eth n ∧ s.rx.find? (fun x => x.from_ r.num r.via r.src) = some r := by
  have mem : r ∈ s.rxOver n num := by rw [one]; exact List.mem_singleton_self r
  obtain ⟨there, kind⟩ := List.mem_filter.mp mem
  rw [Bool.and_eq_true, beq_iff_eq, beq_iff_eq] at kind
  refine ⟨kind.1, kind.2, ?_⟩
  obtain ⟨x, found⟩ := Option.isSome_iff_exists.mp
    (List.find?_isSome.mpr ⟨r, there, RxStream.from_iff.mpr ⟨rfl, rfl, rfl⟩⟩ : (s.rx.find? fun x => x.from_ r.num r.via r.src).isSome)
  have same := RxStream.from_iff.mp (List.find?_some (p := fun x : RxStream => x.from_ r.num r.via r.src) found)
  have listed : x ∈ s.rxOver n num := List.mem_filter.mpr ⟨List.mem_of_find?_eq_some found, by
    rw [same.1, same.2.1, kind.1, kind.2, beq_self_eq_true, beq_self_eq_true, Bool.and_true]⟩
  rw [one, List.mem_singleton] at listed
  rw [found, listed]

theorem State.ackDelayTimer_acks {n num x : Nat} {r : RxStream} (runs : s.runs = true) (serves : s.boot.computeEnd = none)
    (one : s.rxOver n num = [r]) (since : r.unackedSince = some x) (late : x + 2000 < s.now) :
    exec (.ackDelayTimer n num) s = .next (State.emit (s.updRx r fun r => { r with unackedSince := none, unackedCount := 0 })
      (.ethFrame n (s.ethFrame n num (slice r.src 0 6) (slice r.src 6 16) r.udp r.udp
        (actMessage 7 r.level num 0 (s.sesNumber r.index) 0 0 0 0 0 (leBytes 4 r.next))))) := by
  obtain ⟨num_, via, found⟩ := State.rxOver_find one
  refine congrArg Host.Outcome.next ((if_neg (by rw [runs, serves]; decide)).trans ?_)
  rw [one, List.foldl_cons, List.foldl_nil, since]
  refine (if_pos late).trans ?_
  unfold State.sendAck
  rw [found]
  dsimp only
  unfold State.sendBack
  rw [via, num_]
  rfl

theorem State.nackGapTimer_nacks {n num : Nat} {r : RxStream} (runs : s.runs = true) (serves : s.boot.computeEnd = none)
    (one : s.rxOver n num = [r]) (some_ : (r.gaps.filter (·.due s.now)).take 64 ≠ []) :
    exec (.nackGapTimer n num) s = .next (State.sendBack (s.updRx r fun x => { x with
      gaps := x.gaps.map fun g => if g ∈ (r.gaps.filter (·.due s.now)).take 64 then { g with nacked := some s.now } else g }) r
        (s.sesNumber r.index) 8 (((r.gaps.filter (·.due s.now)).take 64).flatMap fun g => leBytes 4 g.first ++ leBytes 4 g.count)) := by
  refine congrArg Host.Outcome.next ((if_neg (by rw [runs, serves]; decide)).trans ?_)
  rw [one, List.foldl_cons, List.foldl_nil]
  refine (if_neg (by simpa using some_)).trans ?_
  simp only [List.contains_eq_mem, decide_eq_true_eq]

/-- A silent sender's stream loses its import, and is remembered where a batch of it had come. -/
theorem State.holdOver_ends {r : RxStream} (late : r.lastMsg + 100000 * r.hold < s.now) (own : r.mirror = false)
    (ends : s.endImport r.index .exportTimeout = u) :
    s.holdOver r = if r.batches = [] then u else { u with rx := (u.dropRx r).rx ++ [{ r with discarded := true, batches := [] }] } := by
  unfold State.holdOver
  dsimp only
  rw [if_neg (by omega), own, if_neg Bool.false_ne_true, ends]
  by_cases none_ : r.batches = []
  · rw [if_pos none_, if_pos (by rw [none_]; rfl)]
  · rw [if_neg none_, if_neg (by simpa using none_)]
    rfl

theorem State.holdLimit_batch {num : Nat} {r : RxStream} (runs : s.runs = true)
    (one : s.rx.filter (fun r => r.num == num && !r.discarded) = [r]) : exec (.holdLimit (.batch num)) s = .next (s.holdOver r) := by
  refine congrArg Host.Outcome.next ((if_neg (by rw [runs]; decide)).trans ?_)
  dsimp only
  rw [one, List.foldl_cons, List.foldl_nil]

theorem State.holdLimit_noOpen {i : Nat} {x : Import} (runs : s.runs = true) (found : s.imports.find? (fun (x : Import) => x.index == i) = some x)
    (none_ : x.stream = none) (late : x.taken + s.holdLimit < s.now) :
    exec (.holdLimit (.noOpen i)) s = .next (s.endImport i .exportTimeout) := by
  refine congrArg Host.Outcome.next ((if_neg (by rw [runs]; decide)).trans ?_)
  dsimp only
  rw [found]
  exact if_pos ⟨by rw [none_]; rfl, late⟩

theorem State.holdLimit_ring {num f : Nat} {t : TxStream} (runs : s.runs = true) (known : s.txAt num = some t) (full : t.fullSince = some f)
    (going : t.finished = false) (late : f + 100000 * t.holdLimit < s.now) :
    exec (.holdLimit (.ring num)) s = .next (s.endStream num Status.exportTimeout.code 0) := by
  refine congrArg Host.Outcome.next ((if_neg (by rw [runs]; decide)).trans ?_)
  dsimp only
  rw [known]
  dsimp only
  rw [full]
  exact if_pos ⟨by rw [going]; rfl, late⟩

end Sys2Proof.Machine
end

section
open Sys2Proof Sys2Proof.Machine

/-- Settles O51: an OPEN is answered as it is judged, a message over a Ruxel link acts on its stream's record alone until a COMMIT or
an end takes what has come, and each timer acts on the one stream or import it is for. -/
theorem receiverSide : Obligations.ReceiverSide := by
  intro s runs serves ended
  have ends (w : State) (i : Nat) {st : Status} (alone : st ≠ .cancelled) : w.endImport i st = ended w i st := State.endImport_eq alone
  refine ⟨fun n bs src u m front parsed => ⟨fun mine fresh => ?_, fun r found ruxel kept => ?_⟩, fun n num r one => ⟨fun x since late =>
    State.ackDelayTimer_acks runs serves one since late, ?_⟩, fun num r one late own => ?_, fun i x found none_ late => ?_,
    fun num t f known full going late => State.holdLimit_ring runs known full going late⟩
  · have judged := State.actOpen_judged runs serves front parsed mine fresh
    refine ⟨fun st refused => ?_, ?_⟩
    · rw [judged, refused]
      rfl
    · intro i mir l f v ok
      rw [judged, ok]
      rfl
  · intro i upd
    have act (type : Nat) (f) (mine : m.type = type) := State.actRow_acts (f := f) runs serves front (.inl parsed) mine
    refine ⟨fun mine layer page inside => ?_, fun mine open_ => ?_, ?_, fun mine => ?_, fun mine own => ?_⟩
    · exact congrArg Host.Outcome.next ((act _ _ mine).trans ((State.rxMessage_ruxel found ruxel).trans
        (State.rxProcess_page found kept mine layer page inside)))
    · exact congrArg Host.Outcome.next ((act _ _ mine).trans ((State.rxMessage_ruxel found ruxel).trans
        (State.rxProcess_layerDone found kept mine open_)))
    · intro mine w c
      let b : RxBatch := { r.batch m.batch with commit := some m.payload }
      let q : RxStream := { r with lastMsg := u.now, next := m.seq + 1 }.setBatch b
      have commits : exec (.actCommit n) s = .next (w.applyBatch q b) :=
        congrArg Host.Outcome.next ((act _ _ mine).trans ((State.rxMessage_ruxel found ruxel).trans
          (State.rxProcess_commit found kept mine)))
      refine ⟨fun few => commits.trans (congrArg Host.Outcome.next (State.applyBatch_waits (b := b) rfl few)),
        fun v whole none_ edited => ?_⟩
      refine commits.trans (congrArg Host.Outcome.next ((State.applyBatch_empty (r := q) (b := b) rfl whole none_ edited).trans ?_))
      rw [show b.num = m.batch from RxStream.batch_num ..]
      rfl
    · exact congrArg Host.Outcome.next ((act _ _ mine).trans ((State.rxMessage_ruxel found ruxel).trans
        (State.rxProcess_abort found kept mine)))
    · exact congrArg Host.Outcome.next ((act _ _ mine).trans ((State.rxMessage_ruxel found ruxel).trans
        ((State.rxProcess_close found kept ruxel mine own).trans (ends _ _ (by decide)))))
  · exact fun some_ => State.nackGapTimer_nacks runs serves one some_
  · rw [State.holdLimit_batch runs one]
    exact congrArg Host.Outcome.next (State.holdOver_ends late own (ends _ _ (by decide)))
  · rw [State.holdLimit_noOpen runs found none_ late, ends _ _ (by decide)]

end

section
/-! SUPPORT. The messages of the twin protocol (R511–R523): each acts on the state its message has left. -/
namespace Sys2Proof.Machine
open Sys2Proof

variable {s : State} {n : Nat}

/-- A message on a port in the twin role leaves the receive buffer and then acts. -/
theorem State.twinRow_acts (runs : s.runs = true) (serves : s.boot.computeEnd = none) (twin : s.role n = 1) (f : State → State) :
    s.twinRow n f = f (s.popControl n) := if_neg (by rw [runs, serves, twin]; decide)

/-- The states in which deltas are applied. -/
def TwinSt.applies (st : TwinSt) : Prop := st = .pairing ∨ st = .paired ∨ st = .degraded ∨ st = .suspect

/-- One delta that is the next is applied. -/
theorem State.applyDeltas_next (d : Delta) :
    s.applyDeltas [(s.twin.applied, d)] = { s.applyDelta d with twin := { (s.applyDelta d).twin with applied := s.twin.applied + 1 } } :=
  if_pos rfl

/-- What is acknowledged once `k + 1` is the next delta: delta `k`. -/
theorem State.ackDeltas_succ {k : Nat} (h : s.twin.applied = k + 1) :
    s.ackDeltas = s.sendTwin (.deltaAck ((k + 2 ^ 32) % 2 ^ 32)) := by
  have number : s.twin.applied + (2 ^ 32 - 1) = k + 2 ^ 32 := by omega
  unfold State.ackDeltas
  rw [number]

section
variable (runs : s.runs = true) (serves : s.boot.computeEnd = none) (twin : s.role n = 1)
include runs serves twin

theorem State.twinHello_pairs {h : Hello} {l : Nat} : let u := s.popControl n
    u.twin.st = .pairing → h.side ≠ u.twinSide → commonLevel u.sec.cl (u.sec.cl - 1) h.cl h.clmin = some l → u.twin.hellod = false →
    let v : State := { u with twin := { u.twin with
      hellod := true, level := l, peerBeds := h.beds, peerDigests := h.digests, cause := 0 } }
    exec (.twinHello n h) s = .next (v.sendTwin (.hello v.hello)).sendCopy := by
  intro u st sides common fresh v
  refine congrArg Host.Outcome.next ((State.twinRow_acts runs serves twin _).trans ?_)
  rw [st]
  dsimp only
  rw [if_neg sides, common]
  dsimp only
  rw [if_pos (show (TwinSt.pairing == TwinSt.pairing) = true from rfl), if_neg (by rw [fresh]; exact Bool.false_ne_true)]
  exact congrArg State.sendCopy (if_pos rfl)

theorem State.twinHello_same {h : Hello} : let u := s.popControl n
    u.twin.st = .pairing → h.side = u.twinSide → exec (.twinHello n h) s =
      .next (State.moveTwin { u with twin := { u.twin with cause := 1, queue := [], hellod := false } } .alone) := by
  intro u st sides
  refine congrArg Host.Outcome.next ((State.twinRow_acts runs serves twin _).trans ?_)
  rw [st]
  exact if_pos sides

theorem State.twinBeat_ends {count upd : Nat} {u : State} (left : s.popControl n = u) (whole : u.twin.overflow = false) :
    let v : State := { u with twin := { u.twin with
      peerUpdate := upd % 4, linkMiss := 0, linkBeating := true, linkAt := u.now
      graceTo := if upd % 4 = 1 then u.now + 5000000 else u.twin.graceTo } }
    (u.twin.st = .degraded ∨ u.twin.st = .suspect → exec (.twinBeat n count upd) s = .next (v.moveTwin .paired).flushDeltas) ∧
    (u.twin.st = .paired → exec (.twinBeat n count upd) s = .next v) := by
  have row (f : State → State) : s.twinRow n f = f u := left ▸ State.twinRow_acts runs serves twin f
  refine ⟨fun st => ?_, fun st => ?_⟩
  · refine congrArg Host.Outcome.next ((row _).trans ?_)
    dsimp only
    rcases st with st | st
    all_goals
      rw [st]
      exact if_neg (Bool.eq_false_iff.mp whole)
  · refine congrArg Host.Outcome.next ((row _).trans ?_)
    dsimp only
    rw [st]
    exact if_neg (Bool.eq_false_iff.mp whole)

theorem State.twinDelta_applies {recs : List (Nat × Delta)} : let u := s.popControl n
    u.twin.st.applies → exec (.twinDelta n recs) s = .next (u.applyDeltas recs).ackDeltas := by
  intro u st
  refine congrArg Host.Outcome.next ((State.twinRow_acts runs serves twin _).trans ?_)
  rcases st with st | st | st | st <;> rw [st]

theorem State.twinDelta_late {recs : List (Nat × Delta)} : let u := s.popControl n
    u.twin.st = .solo → exec (.twinDelta n recs) s = .next { u with twin := { u.twin with late := u.twin.late + recs.length } } := by
  intro u st
  refine congrArg Host.Outcome.next ((State.twinRow_acts runs serves twin _).trans ?_)
  rw [st]

theorem State.twinDeltaAck_lets {k : Nat} (small : k < 2 ^ 32 - 1) : let u := s.popControl n
    u.twin.st ≠ .pairing → exec (.twinDeltaAck n k) s = .next { u with twin := { u.twin with
      queue := u.twin.queue.filter fun x => decide (k + 1 ≤ x.1) } } := by
  intro u st
  refine congrArg Host.Outcome.next ((State.twinRow_acts runs serves twin _).trans ?_)
  have none_ : (u.twin.st == .pairing) = false := by simpa using st
  dsimp only
  rw [Nat.mod_eq_of_lt (by omega : k + 1 < 2 ^ 32), none_, Bool.false_and, Bool.false_and, Bool.or_false]
  exact if_neg fun h => st h.1

theorem State.twinSyncEnd_ends : let u := s.popControl n
    u.twin.syncing = true → u.twin.stale = [] → exec (.twinSyncEnd n) s =
      .next (State.ackDeltas { u with twin := { u.twin with syncing := false, syncIn := true, stale := [] } }).checkPaired := by
  intro u syncing none_
  refine congrArg Host.Outcome.next ((State.twinRow_acts runs serves twin _).trans ?_)
  refine (if_neg (by rw [syncing]; exact Bool.false_ne_true)).trans ?_
  rw [none_, List.foldl_nil]

end

end Sys2Proof.Machine
end

section
open Sys2Proof Sys2Proof.Machine

/-- Settles O52: each message leaves the receive buffer and takes the case of the twin's state. -/
theorem twinMessages : Obligations.TwinMessages := by
  intro s n runs serves twin u w
  have row (f : State → State) : s.twinRow n f = f u := State.twinRow_acts runs serves twin f
  refine ⟨fun h l => State.twinHello_pairs runs serves twin, fun h => State.twinHello_same runs serves twin,
    fun count upd => State.twinBeat_ends runs serves twin rfl, fun recs => State.twinDelta_applies runs serves twin, fun b k tok st => ?_,
    fun recs => State.twinDelta_late runs serves twin, fun k small st => ⟨_, State.twinDeltaAck_lets runs serves twin small st, rfl⟩,
    fun e => congrArg Host.Outcome.next (row _), fun st => congrArg Host.Outcome.next ((row _).trans (if_pos st)),
    State.twinSyncEnd_ends runs serves twin, congrArg Host.Outcome.next (row _)⟩
  rw [State.twinDelta_applies runs serves twin st, State.applyDeltas_next, State.ackDeltas_succ (k := w.applied) rfl]
  rfl

end

section
/-!
SUPPORT. The THERM block (R559, R560, R565, R568): what a change of its events, readings and divider request leaves alone.
-/
namespace Sys2Proof.Machine

theorem bitAt_or_two_pow (x k : Nat) : bitAt (x ||| 2 ^ k) k = true := by
  rw [bitAt_eq_testBit, Nat.testBit_or, Nat.testBit_two_pow_self, Bool.or_true]

/-- An asserted ALERT# changes at most what has left the package. -/
theorem State.noteAlert_eq (s t : State) : ∃ o, s.noteAlert t = { t with out := o } := by
  unfold State.noteAlert
  split
  · exact ⟨_, rfl⟩
  · exact ⟨t.out, rfl⟩

/-- Events set in the THERM block: their marks, and what leaves the package. -/
theorem State.thermEvent_eq (s : State) (bits : Nat) : ∃ o, s.thermEvent bits =
    { s with therm := { s.therm with events := s.therm.events ||| bits }, out := o
             mark := { s.mark with events := s.mark.events ||| bits } } :=
  State.noteAlert_eq s _

/-- A reading changes the readings alone, but for an event and what leaves the package. -/
theorem State.sense_eq (s : State) (r : Readings) : ∃ e m o, s.sense r = { s with
    therm := { s.therm with
      die := temp16 r.die, field := r.field % 4, hbm := r.hbm.map temp16, watts := r.watts % 65536, amps := r.amps % 65536
      events := e }
    mark := m, out := o } := by
  unfold State.sense
  dsimp only
  split
  · obtain ⟨o, event⟩ := State.thermEvent_eq { s with therm := { s.therm with
      die := temp16 r.die, field := r.field % 4, hbm := r.hbm.map temp16, watts := r.watts % 65536, amps := r.amps % 65536 } } 4
    exact ⟨_, _, o, event⟩
  · exact ⟨s.therm.events, s.mark, s.out, rfl⟩

theorem State.sense_stuck (s : State) (r : Readings) : (s.sense r).therm.stuck = s.therm.stuck := by
  obtain ⟨e, m, o, sensed⟩ := State.sense_eq s r
  rw [sensed]

theorem State.sense_divReq (s : State) (r : Readings) : (s.sense r).therm.divReq = s.therm.divReq := by
  obtain ⟨e, m, o, sensed⟩ := State.sense_eq s r
  rw [sensed]

/-- A new divider request: the pending divider follows it, and the conditions' 100 ms begin again. -/
theorem State.setDivReq_eq (s : State) (d : Nat) : ∃ m o, s.setDivReq d = { s with
    therm := { s.therm with divReq := d, below := none, events := s.therm.events ||| 1 }
    clk := { s.clk with
      pend := if max d (4 + s.cfgAt throttleReg % 4) = s.clk.div then 0 else max d (4 + s.cfgAt throttleReg % 4)
      seen := some s.acyc }
    mark := m, out := o } := by
  unfold State.setDivReq
  obtain ⟨o, event⟩ := State.thermEvent_eq { s with therm := { s.therm with divReq := d, below := none } } 1
  refine ⟨{ s.mark with events := s.mark.events ||| 1 }, o, ?_⟩
  dsimp only
  rw [event] <;> rfl

/-- A stack of the list at 85 °C or above leaves the sum of the hot stacks' bits above what it began with. -/
theorem lt_foldl_hot {l : List (Int × Nat)} {x : Int × Nat} (listed : x ∈ l) (hot : 680 ≤ x.1) (a : Nat) :
    a < l.foldl (fun a (y : Int × Nat) => if 680 ≤ y.1 then a + 2 ^ y.2 else a) a := by
  have grows : ∀ (l : List (Int × Nat)) a, a ≤ l.foldl (fun a (y : Int × Nat) => if 680 ≤ y.1 then a + 2 ^ y.2 else a) a := by
    intro l
    induction l with
    | nil => exact Nat.le_refl
    | cons y l ih =>
      intro a
      rw [List.foldl_cons]
      refine Nat.le_trans ?_ (ih _)
      split
      · exact Nat.le_add_right _ _
      · exact Nat.le_refl _
  induction l generalizing a with
  | nil => cases listed
  | cons y l ih =>
    rw [List.foldl_cons]
    rcases List.mem_cons.mp listed with rfl | later
    · rw [if_pos hot]
      exact Nat.lt_of_lt_of_le (Nat.lt_add_of_pos_right (Nat.two_pow_pos _)) (grows l _)
    · refine Nat.lt_of_le_of_lt ?_ (ih later _)
      split
      · exact Nat.le_add_right _ _
      · exact Nat.le_refl _

/-- THERMTRIP# stops the clocks. -/
theorem State.runs_of_thermtrip {s : State} (trip : s.pins.thermtrip = true) : s.runs = false := by
  unfold State.runs
  rw [trip, Bool.not_true, Bool.and_false]

theorem exec_throttleRequest (s : State) (r : Readings) : exec (.throttleRequest r) s = .next (State.noteBelow
    (if s.therm.divReq < divOf s.therm.stuck r then (s.sense r).setDivReq (divOf s.therm.stuck r) else s.sense r) r) := by
  refine Eq.trans (b := .next (State.noteBelow (if (s.sense r).therm.divReq < divOf (s.sense r).therm.stuck r
    then (s.sense r).setDivReq (divOf (s.sense r).therm.stuck r) else s.sense r) r)) rfl ?_
  rw [State.sense_divReq, State.sense_stuck]

/-- Once the requesting condition has stood clear for 100 ms the divider falls by one. -/
theorem exec_divReqFall {s t : State} {r : Readings} {x : Nat} (sensed : (s.sense r).noteBelow r = t)
    (below : t.therm.below = some x) (run : t.runs = true) (free : t.therm.stuck = false) (slow : 4 < t.therm.divReq)
    (late : x + 10000000 < t.now) : exec (.divReqFall r) s = .next (State.noteBelow (t.setDivReq (t.therm.divReq - 1)) r) := by
  show execDivReqFall r s = _
  unfold execDivReqFall
  dsimp only
  rw [sensed, below]
  dsimp only
  rw [run, free, decide_eq_true slow, decide_eq_true late] <;> rfl

theorem exec_thermtrip {s : State} {r : Readings} (hot : 880 ≤ r.die ∨ 840 ≤ r.hot) :
    ∃ t, exec (.thermtrip r) s = .next t ∧ t.pins = { s.pins with thermtrip := true } ∧ t.runs = false := by
  obtain ⟨e, m, o, sensed⟩ := State.sense_eq s r
  obtain ⟨o', noted⟩ := State.noteAlert_eq (s.sense r) { s.sense r with pins := { (s.sense r).pins with thermtrip := true } }
  refine ⟨State.noteAlert (s.sense r) { s.sense r with pins := { (s.sense r).pins with thermtrip := true } }, ?_, ?_, ?_⟩
  · refine congrArg Host.Outcome.next (if_pos ?_)
    simpa using hot
  · rw [noted, sensed]
  · refine State.runs_of_thermtrip ?_
    rw [noted]

theorem exec_hbmHot (s : State) (r : Readings) : ∃ t, exec (.hbmHot r) s = .next t ∧ t.clk = s.clk ∧
    ((∃ x, x ∈ r.hbm ∧ 680 ≤ x) → bitAt t.therm.events 1 = true ∧ t.therm.hotStacks ≠ 0) := by
  obtain ⟨e, m, o, sensed⟩ := State.sense_eq s r
  generalize hot : (r.hbm.zipIdx).foldl (fun a (y : Int × Nat) => if 680 ≤ y.1 then a + 2 ^ y.2 else a) 0 = bits
  have run : exec (.hbmHot r) s = .next (if bits = 0 then { s.sense r with therm := { (s.sense r).therm with hotStacks := bits } }
      else State.thermEvent { s.sense r with therm := { (s.sense r).therm with hotStacks := bits } } 2) := by
    rw [← hot] <;> rfl
  refine ⟨_, run, ?_⟩
  by_cases none : bits = 0
  · rw [if_pos none]
    refine ⟨by rw [sensed], fun ⟨x, listed, warm⟩ => ?_⟩
    obtain ⟨i, bound, at_i⟩ := List.getElem_of_mem listed
    have := lt_foldl_hot (List.mem_zipIdx_iff_getElem?.mpr (List.getElem?_eq_some_iff.mpr ⟨bound, at_i⟩) :
      (x, i) ∈ r.hbm.zipIdx) warm 0
    omega
  · rw [if_neg none]
    obtain ⟨o', event⟩ := State.thermEvent_eq { s.sense r with therm := { (s.sense r).therm with hotStacks := bits } } 2
    rw [event]
    exact ⟨by rw [sensed], fun _ => ⟨bitAt_or_two_pow _ 1, none⟩⟩

/-- A sensor that fails once the divider request is stuck. -/
theorem exec_sensorFailure {s : State} {k : Nat} (stuck : s.therm.stuck = true) (works : k ∉ s.therm.failedSensors) :
    ∃ t, exec (.sensorFailure k) s = .next t ∧ t.therm.failedSensors = k :: s.therm.failedSensors ∧
      bitAt t.therm.events 5 = true ∧ t.therm.divReq = s.therm.divReq := by
  obtain ⟨o, event⟩ := State.thermEvent_eq { s with therm := { s.therm with failedSensors := k :: s.therm.failedSensors } } 32
  refine ⟨State.thermEvent { s with therm := { s.therm with failedSensors := k :: s.therm.failedSensors } } 32, ?_, ?_⟩
  · show execSensorFailure k s = _
    unfold execSensorFailure
    dsimp only
    have new : s.therm.failedSensors.contains k = false := by simpa using works
    have still : (State.thermEvent { s with therm := { s.therm with failedSensors := k :: s.therm.failedSensors } } 32).therm.stuck
        = true := by
      rw [event]
      exact stuck
    rw [new, if_neg Bool.false_ne_true, still, Bool.not_true, Bool.and_false]
    rfl
  · rw [event]
    exact ⟨rfl, bitAt_or_two_pow _ 5, rfl⟩

/-- What PLL_LOSS leaves, before an alert it may raise. -/
def State.pllLost (s : State) : State := { s with
  clk := { s.clk with lock := false, lost := true }
  boot := { s.boot with
    st := .failed, cause := 2, elapsed := if s.boot.st = BootSt.busy then s.ref - s.boot.started else s.boot.elapsed }
  therm := { s.therm with events := s.therm.events ||| 8 }, mark := { s.mark with events := s.mark.events ||| 8 } }

theorem exec_pllLoss {s : State} (lock : s.clk.lock = true) : ∃ t, exec .pllLoss s = .next t ∧
    t.clk = { s.clk with lock := false, lost := true } ∧ t.runs = false ∧ t.boot.st = .failed ∧ t.boot.cause = 2 ∧
      bitAt t.therm.events 3 = true := by
  refine ⟨s.noteAlert s.pllLost, ?_, ?_⟩
  · refine congrArg Host.Outcome.next (if_neg ?_)
    rw [lock]
    exact Bool.false_ne_true
  · obtain ⟨o, noted⟩ := State.noteAlert_eq s s.pllLost
    rw [noted]
    exact ⟨rfl, rfl, rfl, rfl, bitAt_or_two_pow _ 3⟩

end Sys2Proof.Machine
end

section
open Sys2Proof Sys2Proof.Machine

/-- Settles O54: each command on the THERM block by its own lemma, over what an event, a reading and a new divider request
leave alone. -/
theorem thermalAndClocks : Obligations.ThermalAndClocks := by
  intro s r
  refine ⟨⟨_, rfl, ?_⟩, exec_throttleRequest s r, fun d => ⟨_, rfl, ?_⟩, ?fall, exec_thermtrip, exec_hbmHot s r,
    fun k stuck works => exec_sensorFailure stuck works, exec_pllLoss⟩
  · obtain ⟨e, m, o, sensed⟩ := State.sense_eq s r
    rw [sensed]
    exact ⟨rfl, rfl, rfl, rfl, rfl, rfl, rfl⟩
  · obtain ⟨m, o, set⟩ := State.setDivReq_eq s d
    rw [set]
    exact ⟨rfl, rfl, bitAt_or_two_pow _ 0, rfl⟩
  case fall =>
    intro t x below run free slow late
    exact exec_divReqFall rfl below run free slow late

end

section
/-! SUPPORT. The sideband (R562–R565) and the test port (R546, R567). -/
namespace Sys2Proof.Machine

variable {s : State}

/-- A read on a sideband that answers: SMBus leads with the count, I3C does not. -/
theorem State.sbRead_on (on : s.sbOn = true) (bs : List Byte) :
    s.sbRead bs = s.emit (.sideband (if s.pins.sbMode then bs else leBytes 1 bs.length ++ bs)) := by
  unfold State.sbRead
  rw [on] <;> rfl

theorem State.sbRead_off (off : s.sbOn = false) (bs : List Byte) : s.sbRead bs = s.emit .sbNak := by
  unfold State.sbRead
  rw [off] <;> rfl

/-- A write is taken in I3C mode, and on SMBus with the right PEC. -/
theorem State.sbWrites_of {pec : Bool} (taken : s.pins.sbMode = true ∨ pec = true) : s.sbWrites pec = true :=
  Bool.or_eq_true_iff.mpr taken

theorem State.sbWrites_wrong (smbus : s.pins.sbMode = false) : s.sbWrites false = false := by
  unfold State.sbWrites
  rw [smbus, Bool.or_false]

/-- Five flags packed one bit each are the sum of their weights. -/
theorem pack_flags (a b c d e : Bool) : pack [(1, b2n a), (1, b2n b), (1, b2n c), (1, b2n d), (1, b2n e)] =
    b2n a + 2 * b2n b + 4 * b2n c + 8 * b2n d + 16 * b2n e := by
  revert a b c d e
  decide

/-- The parity of a difference whose subtrahend is a part of the minuend's bits. -/
theorem and_mod_two_le (e v : Nat) : (e &&& v) % 2 ≤ e % 2 := by
  rcases Nat.mod_two_eq_zero_or_one (e &&& v) with even | odd
  · omega
  · have := (Nat.and_mod_two_eq_one.mp odd).1
    omega

/-- What `e` keeps when the bits of `v` leave it. -/
theorem testBit_sub_and (e v i : Nat) : (e - (e &&& v)).testBit i = (e.testBit i && !v.testBit i) := by
  have part : e &&& v ≤ e := Nat.and_le_left
  have parity := and_mod_two_le e v
  induction i generalizing e v with
  | zero =>
    have both : (e &&& v) % 2 = 1 ↔ e % 2 = 1 ∧ v % 2 = 1 := Nat.and_mod_two_eq_one
    simp only [Nat.testBit_zero]
    rw [Bool.eq_iff_iff, Bool.and_eq_true, Bool.not_eq_true', decide_eq_true_iff, decide_eq_true_iff, decide_eq_false_iff_not]
    omega
  | succ i ih =>
    have half : (e - (e &&& v)) / 2 = e / 2 - (e / 2 &&& v / 2) := by
      rw [← Nat.and_div_two]
      omega
    rw [Nat.testBit_succ, Nat.testBit_succ, Nat.testBit_succ, half]
    exact ih _ _ Nat.and_le_left (and_mod_two_le _ _)

theorem State.bitAt_clearEvents {v i : Nat} (small : i < 16) : bitAt (s.clearEvents (v % 65536)).therm.events i =
    (bitAt s.therm.events i && (!bitAt v i || bitAt s.mark.events i)) := by
  refine Eq.trans (b := bitAt ((s.therm.events - (s.therm.events &&& v % 2 ^ 16)) ||| (s.therm.events &&& s.mark.events)) i) rfl ?_
  simp only [bitAt_eq_testBit, Nat.testBit_or, testBit_sub_and, Nat.testBit_and, Nat.testBit_mod_two_pow, small, decide_true,
    Bool.true_and, Bool.and_or_distrib_left]

theorem exec_eventsClear {v : Nat} {pec : Bool} (on : s.sbOn = true) (taken : s.pins.sbMode = true ∨ pec = true) :
    exec (.eventsClear v pec) s = .next (s.clearEvents (v % 65536)) := by
  refine congrArg Host.Outcome.next ((if_neg ?_).trans (if_pos (State.sbWrites_of taken)))
  rw [on]
  exact Bool.false_ne_true

theorem exec_eventsClear_wrong {v : Nat} (on : s.sbOn = true) (smbus : s.pins.sbMode = false) :
    exec (.eventsClear v false) s = .next s := by
  refine congrArg Host.Outcome.next ((if_neg ?_).trans (if_neg ?_))
  · rw [on]
    exact Bool.false_ne_true
  · rw [State.sbWrites_wrong smbus]
    exact Bool.false_ne_true

theorem exec_sbWarmReset {pec : Bool} (on : s.sbOn = true) (taken : s.pins.sbMode = true ∨ pec = true) :
    exec (.sbWarmReset 0xC7 pec) s = .next s.warmReset := by
  refine congrArg Host.Outcome.next ((if_neg ?_).trans (if_pos ?_))
  · rw [on]
    exact Bool.false_ne_true
  · rw [State.sbWrites_of taken] <;> rfl

theorem exec_sbWarmReset_wrong {v : Nat} (on : s.sbOn = true) (smbus : s.pins.sbMode = false) :
    exec (.sbWarmReset v false) s = .next s := by
  refine congrArg Host.Outcome.next ((if_neg ?_).trans (if_neg ?_))
  · rw [on]
    exact Bool.false_ne_true
  · rw [State.sbWrites_wrong smbus]
    exact Bool.false_ne_true

/-- What a warm reset of a device that is up leaves. -/
theorem State.warmReset_up (up : s.boot.up = true) (cool : s.pins.thermtrip = false) : let t := s.warmReset
    t.boot.up = true ∧ t.boot.done = 0 ∧ t.boot.st = .idle ∧ t.clk.lock = false ∧ t.mem = [] ∧ t.beds = [] ∧ t.nibs = [] ∧
      t.sessions = [] ∧ t.cfg = [] ∧ t.out = s.out := by
  intro t
  have run : t = s.restart { qmbCause := if s.boot.mailbox && s.sec.recCmd == 3 && s.sec.recSt == 2 then 5 else 1 }
      { s.pcie with badAccess := 0, fns := mmap {} (fun _ (f : Fn) => { f with latch := none }) s.pcie.fns }
      s.therm.readingsOnly := by
    refine if_neg ?_
    rw [up, cool]
    exact Bool.false_ne_true
  have out : s.resetTrial.out = s.out := by
    unfold State.resetTrial
    split <;> rfl
  rw [run]
  exact ⟨rfl, rfl, rfl, rfl, rfl, rfl, rfl, rfl, rfl, out⟩

/-- Without a debug token the port answers with high impedance and does not move. -/
theorem exec_jtagTck_closed {tms tdi trst : Bool} (closed : s.sec.debug = false) :
    exec (.jtagTck tms tdi trst) s = .next (s.emit (.tdo none)) := by
  refine congrArg Host.Outcome.next (if_pos ?_)
  rw [closed]
  rfl

/-- TRST# resets the TAP controller. -/
theorem exec_jtagTck_reset {tms tdi : Bool} (opened : s.sec.debug = true) :
    exec (.jtagTck tms tdi true) s = .next (State.emit { s with tap := {} } (.tdo none)) := by
  refine congrArg Host.Outcome.next ((if_neg ?_).trans (if_pos rfl))
  rw [opened]
  exact Bool.false_ne_true

theorem exec_jtagTck_edge {tms tdi : Bool} (opened : s.sec.debug = true) :
    exec (.jtagTck tms tdi false) s = .next (State.emit
      { s with tap := (s.tap.edge s.draws tms tdi).2, draws := s.draws + 1 } (.tdo (s.tap.edge s.draws tms tdi).1)) := by
  refine congrArg Host.Outcome.next ((if_neg ?_).trans (if_neg Bool.false_ne_true))
  rw [opened]
  exact Bool.false_ne_true

/-- A clock edge moves the TAP controller as IEEE 1149.1 says. -/
theorem Tap.edge_st (t : Tap) (draw : Nat) (tms tdi : Bool) : (t.edge draw tms tdi).2.st = t.st.next tms := by
  cases t with | mk st ir irShift dr bypass =>
  cases st <;> cases tms <;> unfold Tap.edge <;> dsimp only [TapSt.next] <;> split <;> rfl

/-- BYPASS shifts its one bit. -/
theorem Tap.edge_bypass {t : Tap} (shift : t.st = .shDr) (bypass : t.inBypass = true) (draw : Nat) (tdi : Bool) :
    (t.edge draw false tdi).1 = some t.bypass ∧ (t.edge draw false tdi).2.bypass = tdi := by
  unfold Tap.edge
  dsimp only
  rw [shift]
  dsimp only
  rw [bypass]
  exact ⟨rfl, rfl⟩

end Sys2Proof.Machine
end

section
open Sys2Proof Sys2Proof.Machine

/-- Settles O55: reads by the layout each names, writes by whether they are taken, and the test port by the state of its TAP
controller. -/
theorem sidebandAndTestPort : Obligations.SidebandAndTestPort := by
  intro s
  refine ⟨fun on => ?sideband, fun off c listed => ?nak, fun tms tdi trst closed => exec_jtagTck_closed closed,
    fun tms tdi opened => ⟨exec_jtagTck_reset opened, _, exec_jtagTck_edge opened, Tap.edge_st .., fun shift bypass tms0 => ?shifts⟩⟩
  case sideband =>
    intro bs
    have read (l : List Byte) : s.sbRead l = s.emit (.sideband (bs l)) := State.sbRead_on on l
    refine ⟨congrArg Host.Outcome.next (read _), ?status, congrArg Host.Outcome.next (read _), congrArg Host.Outcome.next (read _),
      congrArg Host.Outcome.next (read _), fun v pec taken => ⟨_, exec_eventsClear on taken, rfl, fun i => State.bitAt_clearEvents⟩,
      fun pec taken up cool => ⟨_, exec_sbWarmReset on taken, rfl, State.warmReset_up up cool⟩,
      fun v smbus => ⟨exec_eventsClear_wrong on smbus, exec_sbWarmReset_wrong on smbus⟩⟩
    case status =>
      rw [← pack_flags]
      exact congrArg Host.Outcome.next (read _)
  case nak =>
    have read (l : List Byte) : s.sbRead l = s.emit .sbNak := State.sbRead_off off l
    simp only [List.mem_cons, List.not_mem_nil, or_false] at listed
    rcases listed with rfl | rfl | rfl | rfl | rfl <;> exact congrArg Host.Outcome.next (read _)
  case shifts =>
    subst tms0
    obtain ⟨out, bit⟩ := Tap.edge_bypass shift bypass s.draws tdi
    refine ⟨bit, ?_⟩
    rw [out] <;> rfl

end

section
set_option Elab.async false
/-!
SUPPORT. What every operation of the model keeps. `State.Kept k s t` says that `t`, reached from `s`, has canonical device memory
where `s` has; up to level 1 that the queue of commands and the clocks stand as they did; at level 0 that the configuration
registers do too. One rule an operation, each for every state `t` already reached. The lemmas are elaborated one after the other: a
thread for each would be more than the check may start.
-/
namespace Sys2Proof.Machine

/-- `t` keeps of `s` what level `k` asks: canonical memory, up to level 1 the queue and the clocks, at level 0 the registers. -/
def State.Kept (s : State) (k : Nat) (t : State) : Prop :=
  (s.Sound → t.Sound) ∧
  (k ≤ 1 → t.pending = s.pending ∧ t.acyc = s.acyc ∧ t.root = s.root ∧ t.ref = s.ref ∧ t.clk = s.clk) ∧
  (k = 0 → t.cfg = s.cfg)

/-- What the three levels look at. -/
def State.core0 (s : State) := (s.mem, s.pending, s.acyc, s.root, s.ref, s.clk, s.cfg)
@[inherit_doc State.core0] def State.core1 (s : State) := (s.mem, s.pending, s.acyc, s.root, s.ref, s.clk)

namespace State.Kept

variable {s t u : State} {k : Nat}

theorem refl (s : State) (k : Nat) : s.Kept k s := ⟨id, fun _ => ⟨rfl, rfl, rfl, rfl, rfl⟩, fun _ => rfl⟩

theorem trans (h : s.Kept k t) (g : t.Kept k u) : s.Kept k u := by
  obtain ⟨h2, h1, h0⟩ := h
  obtain ⟨g2, g1, g0⟩ := g
  refine ⟨g2 ∘ h2, fun hk => ?_, fun hk => (g0 hk).trans (h0 hk)⟩
  obtain ⟨a, b, c, d, e⟩ := h1 hk
  obtain ⟨a', b', c', d', e'⟩ := g1 hk
  exact ⟨a'.trans a, b'.trans b, c'.trans c, d'.trans d, e'.trans e⟩

/-- A change of none of the fields any level looks at. -/
theorem same (h : s.Kept k t) (e : u.core0 = t.core0 := by rfl) : s.Kept k u := by
  unfold State.core0 at e
  obtain ⟨em, ep, ea, er, ef, ec, eg⟩ : _ ∧ _ ∧ _ ∧ _ ∧ _ ∧ _ ∧ _ := by simpa only [Prod.mk.injEq] using e
  unfold State.Kept State.Sound at *
  rw [em, ep, ea, er, ef, ec, eg]
  exact h

/-- A change of no such field but the configuration registers. -/
theorem same1 (h : s.Kept (k + 1) t) (e : u.core1 = t.core1 := by rfl) : s.Kept (k + 1) u := by
  unfold State.core1 at e
  obtain ⟨em, ep, ea, er, ef, ec⟩ : _ ∧ _ ∧ _ ∧ _ ∧ _ ∧ _ := by simpa only [Prod.mk.injEq] using e
  unfold State.Kept State.Sound at *
  rw [em, ep, ea, er, ef, ec]
  exact ⟨h.1, h.2.1, fun hk => absurd hk (Nat.succ_ne_zero k)⟩

/-- A change that leaves device memory alone. -/
theorem same2 (h : s.Kept (k + 2) t) (e : u.mem = t.mem := by rfl) : s.Kept (k + 2) u := by
  unfold State.Kept State.Sound at *
  rw [e]
  exact ⟨h.1, fun hk => absurd hk (by omega), fun hk => absurd hk (Nat.succ_ne_zero _)⟩

theorem of_memOnly (h : s.Kept k t) (m : t.MemOnly u) : s.Kept k u := by
  refine h.trans ⟨m.2, ?_⟩
  rw [m.1]
  exact ⟨fun _ => ⟨rfl, rfl, rfl, rfl, rfl⟩, fun _ => rfl⟩

theorem ite {c : Prop} [Decidable c] (h : s.Kept k t) (g : s.Kept k u) : s.Kept k (if c then t else u) := by
  split
  · exact h
  · exact g

theorem foldl {α : Type} {f : State → α → State} {l : List α} (h : s.Kept k t)
    (step : ∀ u x, s.Kept k u → s.Kept k (f u x)) : s.Kept k (l.foldl f t) := by
  induction l generalizing t with
  | nil => exact h
  | cons x l ih => exact ih (step t x h)

theorem fst {α : Type} {p : State × α} {x : α} (h : s.Kept k p.1) (e : p = (t, x)) : s.Kept k t := by
  rw [e] at h
  exact h

theorem snd {α : Type} {p : α × State} {x : α} (h : s.Kept k p.2) (e : p = (x, t)) : s.Kept k t := by
  rw [e] at h
  exact h

theorem getD {o : Option State} (h : s.Kept k t) (g : ∀ u, o = some u → s.Kept k u) : s.Kept k (o.getD t) := by
  cases o with
  | none => exact h
  | some u => exact g u rfl

theorem ite_fst {α : Type} {c : Prop} [Decidable c] {p q : State × α} (h : s.Kept k p.1) (g : s.Kept k q.1) :
    s.Kept k (if c then p else q).1 := by
  split
  · exact h
  · exact g

theorem ite_snd {α : Type} {c : Prop} [Decidable c] {p q : α × State} (h : s.Kept k p.2) (g : s.Kept k q.2) :
    s.Kept k (if c then p else q).2 := by
  split
  · exact h
  · exact g

theorem of_foldl_option {α : Type} {f : Option State → α → Option State} {l : List α} {o : Option State}
    (h : ∀ u, o = some u → s.Kept k u)
    (step : ∀ o x, (∀ u, o = some u → s.Kept k u) → ∀ u, f o x = some u → s.Kept k u) (e : l.foldl f o = some u) :
    s.Kept k u := by
  induction l generalizing o with
  | nil => exact h u e
  | cons x l ih => exact ih (step o x h) e

end State.Kept

/-- An answer that is a next state keeps what level 2 asks. -/
def State.KeptBy (s : State) (o : Out1) : Prop := ∀ u, o = .next u → s.Kept 2 u

theorem State.KeptBy.next {s t : State} (h : s.Kept 2 t) : s.KeptBy (.next t) := by
  intro u e
  cases e
  exact h

end Sys2Proof.Machine
end

section
set_option Elab.async false
/-! SUPPORT. What is kept by configuration, device memory, records and events. -/
namespace Sys2Proof.Machine.State.Kept

variable {s t u : State} {k : Nat}

theorem emit (h : s.Kept k t) {o} : s.Kept k (t.emit o) :=
  h.same

theorem setBed (h : s.Kept k t) {b v} : s.Kept k (t.setBed b v) :=
  h.same

theorem updBed (h : s.Kept k t) {b f} : s.Kept k (t.updBed b f) :=
  h.setBed

theorem setNib (h : s.Kept k t) {p v} : s.Kept k (t.setNib p v) :=
  h.same

theorem updNib (h : s.Kept k t) {p f} : s.Kept k (t.updNib p f) :=
  h.setNib

theorem setPort (h : s.Kept k t) {n v} : s.Kept k (t.setPort n v) :=
  h.same

theorem updPort (h : s.Kept k t) {n f} : s.Kept k (t.updPort n f) :=
  h.setPort

theorem setSes (h : s.Kept k t) {i v} : s.Kept k (t.setSes i v) :=
  h.same

theorem updSes (h : s.Kept k t) {i f} : s.Kept k (t.updSes i f) :=
  h.setSes

theorem updChan (h : s.Kept k t) {c f} : s.Kept k (t.updChan c f) :=
  h.same

theorem updDma (h : s.Kept k t) {c f} : s.Kept k (t.updDma c f) :=
  h.same

theorem updFn (h : s.Kept k t) {f g} : s.Kept k (t.updFn f g) :=
  h.same

theorem setFrame (h : s.Kept k t) {lp n v} : s.Kept k (t.setFrame lp n v) :=
  .ite h.same h.same

theorem updFrame (h : s.Kept k t) {lp n f} : s.Kept k (t.updFrame lp n f) := by
  unfold State.updFrame
  split
  · exact h.setFrame
  · exact h

theorem updPfx (h : s.Kept k t) {n f} : s.Kept k (t.updPfx n f) :=
  h.same

theorem random (h : s.Kept k t) : s.Kept k t.random.2 :=
  h.same

theorem free (h : s.Kept k t) {w} : s.Kept k (t.free w).2 :=
  h.same

theorem setCfg (h : s.Kept (k + 1) t) {off v} : s.Kept (k + 1) (t.setCfg off v) :=
  h.same1

theorem retrainNext (h : s.Kept k t) {lp} : s.Kept k (t.retrainNext lp) := by
  unfold State.retrainNext
  dsimp only
  refine .ite h.same ?_
  split
  · exact h.same
  · exact h.same.same

theorem queueRetrain (h : s.Kept k t) {lp ch migrate} : s.Kept k (t.queueRetrain lp ch migrate) :=
  .ite h h.same.retrainNext

theorem countCorr (h : s.Kept k t) {a} : s.Kept k (t.countCorr a) := by
  unfold State.countCorr
  dsimp only
  split
  · exact h.updNib
  · exact .ite h.updChan.queueRetrain h.updChan
  · exact h

theorem putOne (h : s.Kept k t) {a bs} : s.Kept k (t.putOne a bs) :=
  h.of_memOnly (State.putOne_memOnly ..)

theorem putCw (h : s.Kept k t) {a bs} : s.Kept k (t.putCw a bs) :=
  h.of_memOnly (State.putCw_memOnly ..)

theorem countUncorr (h : s.Kept k t) {a} : s.Kept k (t.countUncorr a) := by
  unfold State.countUncorr
  split
  · exact h.updChan
  · exact h

theorem served (h : s.Kept k t) {x} : s.Kept k (t.served x).2 :=
  h.of_memOnly (State.served_memOnly ..)

theorem readDev (h : s.Kept k t) {a n} : s.Kept k (t.readDev a n).2 :=
  h.of_memOnly (State.readDev_memOnly ..)

theorem writeDev (h : s.Kept k t) {a bs} : s.Kept k (t.writeDev a bs).1 :=
  h.of_memOnly (State.writeDev_memOnly ..)

theorem sendTwin (h : s.Kept k t) {m} : s.Kept k (t.sendTwin m) := by
  unfold State.sendTwin
  split
  · exact h.emit
  · exact h

theorem logEntry (h : s.Kept k t) {code kind bed unit where_ aux} : s.Kept k (t.logEntry code kind bed unit where_ aux) :=
  .ite h.same.sendTwin h.same

theorem message (h : s.Kept k t) {f v} : s.Kept k (t.message f v) :=
  .ite h (.ite h.updFn h.emit)

theorem sendPending (h : s.Kept k t) {f} : s.Kept k (t.sendPending f) :=
  h.updFn.foldl fun _ _ hu => hu.message

theorem updQueue (h : s.Kept k t) {b q f} : s.Kept k (t.updQueue b q f) :=
  h.updBed

theorem queueMessage (h : s.Kept k t) {b q} : s.Kept k (t.queueMessage b q) := by
  unfold State.queueMessage
  split
  · exact h
  · exact .ite h.updQueue.message h.updQueue

theorem sendOwed (h : s.Kept k t) {b} : s.Kept k (t.sendOwed b) :=
  .foldl (.ite (.updFn (h.foldl fun _ _ hu => hu.emit)) h) fun _ _ hu => hu.queueMessage

theorem moderate (h : s.Kept k t) {b q r quiet} : s.Kept k (t.moderate b q r quiet) := by
  unfold State.moderate
  dsimp only
  split
  · exact h
  · exact .ite h.queueMessage (.ite h (.ite h.queueMessage h.updQueue))

theorem writeRecord (h : s.Kept k t) {b q r quiet} : s.Kept k (t.writeRecord b q r quiet) := by
  unfold State.writeRecord
  dsimp only
  split
  · exact h
  · exact .moderate (.updQueue (.ite h.writeDev h.emit))

theorem queueRecord (h : s.Kept k t) {b q r quiet} : s.Kept k (t.queueRecord b q r quiet) :=
  .ite h.writeRecord h.updBed

theorem queueEvent (h : s.Kept k t) {f r} : s.Kept k (t.queueEvent f r) := by
  unfold State.queueEvent
  refine .ite h ?_
  split
  · exact h.updBed
  · exact h.queueRecord

theorem event (h : s.Kept k t) {fns e} : s.Kept k (t.event fns e) :=
  .foldl (.ite h h.logEntry) fun _ _ hu => hu.queueEvent

theorem complete (h : s.Kept k t) {p r} : s.Kept k (t.complete p r) :=
  h.queueRecord

theorem closeRaw (h : s.Kept k t) {p} : s.Kept k (t.closeRaw p) :=
  h.updBed

theorem halfClose (h : s.Kept k t) {p} : s.Kept k (t.halfClose p) :=
  h.updBed

theorem settleDelete (h : s.Kept k t) {b q} : s.Kept k (t.settleDelete b q) := by
  unfold State.settleDelete
  dsimp only
  split
  · exact h
  · split
    · exact h
    · exact .ite h h.updBed.complete.closeRaw

theorem closePkt (h : s.Kept k t) {p} : s.Kept k (t.closePkt p) :=
  h.closeRaw.settleDelete

theorem finish (h : s.Kept k t) {p r} : s.Kept k (t.finish p r) :=
  h.complete.closePkt

theorem reject (h : s.Kept k t) {p st detail r0 r2} : s.Kept k (t.reject p st detail r0 r2) :=
  h.finish

theorem memoryEvent (h : s.Kept k t) {st c beds} : s.Kept k (t.memoryEvent st c beds) :=
  h.event

theorem padUncorr (h : s.Kept k t) {p} : s.Kept k (t.padUncorr p) :=
  h.same.event

theorem uncorrEvent (h : s.Kept k t) {a} : s.Kept k (t.uncorrEvent a) := by
  unfold State.uncorrEvent
  dsimp only
  split
  · exact h.countUncorr.memoryEvent
  · exact h.padUncorr
  · exact h

theorem dropEvents (h : s.Kept k t) {ds} : s.Kept k (t.dropEvents ds) :=
  h.foldl fun _ _ hu => hu.uncorrEvent

end Sys2Proof.Machine.State.Kept
end

section
set_option Elab.async false
/-! SUPPORT. What is kept by the links, tenants, pages and the index of blocks. -/
namespace Sys2Proof.Machine.State.Kept

variable {s t u : State} {k : Nat}

theorem raiseEpoch (h : s.Kept k t) {status r1 where_} : s.Kept k (t.raiseEpoch status r1 where_) :=
  .ite h h.same.event

theorem bedFaulted (h : s.Kept k t) {b code unit cycle nib bundle p} : s.Kept k (t.bedFaulted b code unit cycle nib bundle p) :=
  h.event

theorem stopNibs (h : s.Kept k t) {b} : s.Kept k (t.stopNibs b) :=
  h.foldl fun _ _ hu => hu.updNib

theorem sendCodeword (h : s.Kept k t) {n data} : s.Kept k (t.sendCodeword n data) := by
  unfold State.sendCodeword
  dsimp only
  split
  · exact h
  · exact .ite h.updPort.emit.emit h.updPort.emit

theorem sendFrame (h : s.Kept k t) {n bytes} : s.Kept k (t.sendFrame n bytes) :=
  h.emit.foldl fun _ _ hu => hu.sendCodeword

theorem sendData (h : s.Kept k t) {n f} : s.Kept k (t.sendData n f) :=
  h.sendFrame

theorem sendIdle (h : s.Kept k t) {n nak} : s.Kept k (t.sendIdle n nak) :=
  h.sendFrame

theorem pump (h : s.Kept k t) {n fuel} : s.Kept k (t.pump n fuel) := by
  induction fuel generalizing t with
  | zero => exact h
  | succ fuel ih =>
    unfold State.pump
    refine .ite h ?_
    split
    · exact h
    · split
      · exact h
      · exact ih h.setPort.sendData

theorem pumpAll (h : s.Kept k t) {n} : s.Kept k (t.pumpAll n) :=
  h.pump

theorem sendMessage (h : s.Kept k t) {n v b bs} : s.Kept k (t.sendMessage n v b bs) :=
  h.updPort.pumpAll

theorem replay (h : s.Kept k t) {n} : s.Kept k (t.replay n) :=
  .updPort (h.foldl fun _ _ hu => hu.sendData)

theorem streamsDown (h : s.Kept k t) {n} : s.Kept k (t.streamsDown n) :=
  h.same

theorem startRetrain (h : s.Kept k t) {n cause} : s.Kept k (t.startRetrain n cause) :=
  h.updPort.streamsDown

theorem startTraining (h : s.Kept k t) {n limit} : s.Kept k (t.startTraining n limit) :=
  h.updPort.streamsDown

theorem takeRx (h : s.Kept k t) {n v bs} (e : t.takeRx n v = some (bs, u)) : s.Kept k u := by
  unfold State.takeRx at e
  split at e
  · cases e
  · cases e
    exact h.updPort

theorem portCorr (h : s.Kept k t) {n k₁} : s.Kept k (t.portCorr n k₁) :=
  .ite h (.ite h.updPort.startRetrain h.updPort)

theorem receive (h : s.Kept k t) {n type raw} : s.Kept k (t.receive n type raw).2 := by
  unfold State.receive
  split
  · exact h
  · obtain ⟨d, c⟩ := decodeFrame 8 raw
    have corr : s.Kept k (t.portCorr n c) := h.portCorr
    dsimp only
    generalize t.portCorr n c = v at corr ⊢
    split
    · exact corr.updPort
    · split
      · exact corr.updPort
      · split
        · exact h
        · split
          · exact corr
          · exact corr

theorem replayDue (h : s.Kept k t) {n} : s.Kept k (t.replayDue n) :=
  .ite h (.ite h.startRetrain h.replay)

theorem frameNews (h : s.Kept k t) {n f} : s.Kept k (t.frameNews n f) :=
  .pumpAll (.ite h.updPort.replayDue h.updPort)

theorem sendVia (h : s.Kept k t) {b via stream mac ip src dst bs} : s.Kept k (t.sendVia b via stream mac ip src dst bs) := by
  unfold State.sendVia
  split
  · exact h.sendMessage
  · exact h.emit
  · exact h

theorem sendBack (h : s.Kept k t) {r session type payload} : s.Kept k (t.sendBack r session type payload) :=
  h.sendVia

theorem updTenant (h : s.Kept k t) {b n f} : s.Kept k (t.updTenant b n f) :=
  h.updBed

theorem delta (h : s.Kept k t) {b d} : s.Kept k (t.delta b d) :=
  .ite h (.ite h.same (.ite h.same.sendTwin h.same))

theorem releaseHeld (h : s.Kept k t) {i n} : s.Kept k (t.releaseHeld i n) :=
  .ite h h.updTenant.updSes.delta

theorem charge (h : s.Kept k t) {i computed} : s.Kept k (t.charge i computed) :=
  h.updTenant.delta.releaseHeld

theorem readList (h : s.Kept k t) {i} : s.Kept k (t.readList i) := by
  unfold State.readList
  split
  · next e =>
      exact h.readDev.snd e
  · next e =>
      exact .uncorrEvent (h.readDev.snd e)

theorem arenaTake (h : s.Kept k t) {b n a} (e : t.arenaTake b n = some (a, u)) : s.Kept k u := by
  obtain ⟨_, -, e⟩ := Option.map_eq_some_iff.mp e
  cases e
  exact h.updBed

theorem arenaFree (h : s.Kept k t) {b a} : s.Kept k (t.arenaFree b a) :=
  h.updBed

theorem pfxUnref (h : s.Kept k t) {n} : s.Kept k (t.pfxUnref n) :=
  h.updPfx

theorem freeGen (h : s.Kept k t) {g} : s.Kept k (t.freeGen g) :=
  .foldl (h.arenaFree.foldl fun _ _ hu => hu.updFrame) fun _ _ hu => hu.pfxUnref

theorem drain (h : s.Kept k t) {num} : s.Kept k (t.drain num) :=
  .ite (h.same.foldl fun _ _ hu => hu.freeGen) h

theorem publish (h : s.Kept k t) {i es} (e : t.publish i es = some u) : s.Kept k u := by
  unfold State.publish at e
  dsimp only at e
  split at e
  · cases e
  · next taken =>
    cases e
    exact .drain (.updSes (.same (.foldl (.foldl (.writeDev (h.arenaTake taken)) fun _ _ hu => .ite hu.updFrame hu)
      fun _ _ hu => hu.updFrame)))

theorem dropList (h : s.Kept k t) {i} : s.Kept k (t.dropList i) :=
  .drain (.same (h.foldl fun _ _ hu => hu.updFrame))

theorem edit (h : s.Kept k t) {i es} (e : t.edit i es = some u) : s.Kept k u := by
  unfold State.edit at e
  split at e
  · cases e
  · exact h.readList.publish e

theorem swap (h : s.Kept k t) {i es} : s.Kept k (t.swap i es) :=
  h.getD fun _ => h.edit

theorem shed (h : s.Kept k t) {i drops refs} : s.Kept k (t.shed i drops refs) :=
  .ite h (.drain (.same (h.foldl fun _ _ hu => hu.updFrame)))

theorem dropAbove (h : s.Kept k t) {i c} : s.Kept k (t.dropAbove i c) :=
  .shed (.ite h h.swap)

theorem assignDma (h : s.Kept k t) : s.Kept k t.assignDma := by
  unfold State.assignDma
  dsimp only
  refine h.foldl fun _ _ hu => .ite hu ?_
  split
  · exact hu.updDma
  · exact hu

theorem planCopies (h : s.Kept k t) {i toLp units} (e : t.planCopies i toLp units = some u) : s.Kept k u := by
  unfold State.planCopies at e
  dsimp only at e
  split at e
  · cases e
  · cases e
    exact .assignDma (.same (.foldl h fun _ _ hu => hu.updFrame))

theorem endCopyJob (h : s.Kept k t) {i p bytes} : s.Kept k (t.endCopyJob i p bytes) :=
  h.same.assignDma

theorem evict (h : s.Kept k t) {n} : s.Kept k (t.evict n) :=
  .updPfx (.ite (h.foldl fun _ _ hu => hu.updFrame) (.updPfx (h.foldl fun _ _ hu => hu.updFrame)))

theorem pfxHit (h : s.Kept k t) {n} : s.Kept k (t.pfxHit n) :=
  h.updPfx

theorem pfxInsert (h : s.Kept k t) {ses i y es inexact saturated} : s.Kept k (t.pfxInsert ses i y es inexact saturated) := by
  unfold State.pfxInsert
  dsimp only
  refine .ite h ?_
  split
  · exact h
  · exact .delta (.updSes (.updPfx (.ite (.foldl (.ite h.evict h) fun _ _ hu => hu.updFrame) (.updPfx (.foldl (.ite h.evict h)
      fun _ _ hu => hu.updFrame)))))

theorem evictTo (h : s.Kept k t) {b mark fuel} : s.Kept k (t.evictTo b mark fuel) := by
  induction fuel generalizing t with
  | zero => exact h
  | succ fuel ih =>
    unfold State.evictTo
    refine .ite h ?_
    dsimp only
    split
    · exact h
    · exact ih h.evict

end Sys2Proof.Machine.State.Kept
end

section
set_option Elab.async false
/-! SUPPORT. What is kept by streams, requests and the issue of a bundle's slots. -/
namespace Sys2Proof.Machine.State.Kept

variable {s t u : State} {k : Nat}

theorem updTx (h : s.Kept k t) {num f} : s.Kept k (t.updTx num f) :=
  h.same

theorem openStream (h : s.Kept k t) {i t₁ ref warm via} : s.Kept k (t.openStream i t₁ ref warm via).2 :=
  h.same

theorem openBatch (h : s.Kept k t) {num gen start list items layers} : s.Kept k (t.openBatch num gen start list items layers) :=
  h.updTx

theorem openFirst (h : s.Kept k t) {num i t₁} : s.Kept k (t.openFirst num i t₁) :=
  h.readList.openBatch

theorem stepBatch (h : s.Kept k t) {num gen start list layers} : s.Kept k (t.stepBatch num gen start list layers) := by
  unfold State.stepBatch
  split
  · exact .ite h.updTx h.openBatch
  · exact h.openBatch

theorem eligible (h : s.Kept k t) {num layer pages} : s.Kept k (t.eligible num layer pages) :=
  h.updTx

theorem settle (h : s.Kept k t) {num k₁ c last} : s.Kept k (t.settle num k₁ c last) :=
  h.updTx

theorem dropShip (h : s.Kept k t) {num} : s.Kept k (t.dropShip num) :=
  h.same.assignDma

theorem endStream (h : s.Kept k t) {num status detail} : s.Kept k (t.endStream num status detail) := by
  unfold State.endStream
  dsimp only
  split
  · exact h
  · refine .ite h.dropShip.updTx.drain ?_
    split
    · exact h.dropShip.same.drain.finish
    · exact h.dropShip.same.drain

theorem abortStream (h : s.Kept k t) {num status admitC} : s.Kept k (t.abortStream num status admitC) :=
  h.updTx

theorem updReq (h : s.Kept k t) {i f} : s.Kept k (t.updReq i f) :=
  h.updBed

theorem sesDelta (h : s.Kept k t) {i} : s.Kept k (t.sesDelta i) :=
  h.delta

theorem rollback (h : s.Kept k t) {i} : s.Kept k (t.rollback i) := by
  unfold State.rollback
  dsimp only
  split
  · exact h
  · exact h.dropAbove.updSes

theorem keepHash (h : s.Kept k t) {i} : s.Kept k (t.keepHash i) := by
  unfold State.keepHash
  split
  · exact h
  · exact .ite h.updSes h

theorem freeSession (h : s.Kept k t) {i} : s.Kept k (t.freeSession i) := by
  unfold State.freeSession
  dsimp only
  split
  · exact h.dropList.updSes.sesDelta.finish
  · exact h.dropList.updSes.sesDelta

theorem closeNow (h : s.Kept k t) {i} : s.Kept k (t.closeNow i) :=
  .freeSession (.updSes (h.foldl fun _ _ hu => hu.abortStream))

theorem lateExports (h : s.Kept k t) {id} : s.Kept k (t.lateExports id) := by
  unfold State.lateExports
  refine h.foldl fun _ _ hu => ?_
  split
  · exact hu.endStream
  · exact hu

theorem endRequest (h : s.Kept k t) {i rec} : s.Kept k (t.endRequest i rec) := by
  unfold State.endRequest
  dsimp only
  split
  · exact h
  · split
    · exact .closeNow (.updSes (.foldl (.ite h.releaseHeld.updBed.updSes.complete.halfClose.lateExports
        h.releaseHeld.updBed.updSes.complete.closePkt) fun _ _ hu => hu.finish))
    · exact .ite (.closeNow (.foldl (.ite h.releaseHeld.updBed.updSes.complete.halfClose.lateExports
        h.releaseHeld.updBed.updSes.complete.closePkt) fun _ _ hu => hu.finish)) (.sesDelta (.foldl (.ite
            h.releaseHeld.updBed.updSes.complete.halfClose.lateExports h.releaseHeld.updBed.updSes.complete.closePkt)
                fun _ _ hu => hu.finish))

theorem settleAll (h : s.Kept k t) {i k₁ c last} : s.Kept k (t.settleAll i k₁ c last) :=
  h.foldl fun _ _ hu => hu.settle

theorem abortBatch (h : s.Kept k t) {i st} : s.Kept k (t.abortBatch i st) :=
  h.settleAll

theorem dropRequest (h : s.Kept k t) {i st rec} : s.Kept k (t.dropRequest i st rec) :=
  h.abortBatch.rollback.endRequest

theorem missDeadline (h : s.Kept k t) {i} : s.Kept k (t.missDeadline i) :=
  .endRequest (.ite h.abortBatch.dropAbove.keepHash h.abortBatch.rollback)

theorem failStep (h : s.Kept k t) {b code unit cycle nib bundle} : s.Kept k (t.failStep b code unit cycle nib bundle) := by
  unfold State.failStep
  dsimp only
  refine .foldl ?_ fun _ _ hu => hu.drain
  split
  · exact .finish (h.updBed.foldl fun _ _ hu => hu.dropRequest)
  · exact h.updBed.foldl fun _ _ hu => hu.dropRequest

theorem bedFault (h : s.Kept k t) {b code unit nib bundle p fence} : s.Kept k (t.bedFault b code unit nib bundle p fence) :=
  .ite h.stopNibs.updBed.bedFaulted h.stopNibs.updBed.bedFaulted.failStep

theorem uncorrRead (h : s.Kept k t) {a} : s.Kept k (t.uncorrRead a) :=
  .ite (h.uncorrEvent.foldl fun _ _ hu => hu.bedFault) h.uncorrEvent

theorem fence (h : s.Kept k t) {p} : s.Kept k (t.fence p) := by
  unfold State.fence
  dsimp only
  split
  · exact h.same.bedFault.updBed.raiseEpoch
  · exact h.same.raiseEpoch

theorem nibFault (h : s.Kept k t) {p code unit addr own} : s.Kept k (t.nibFault p code unit addr own) := by
  unfold State.nibFault
  dsimp only
  split
  · exact h
  · exact .ite h.updNib.fence (.ite h.updNib h.bedFault.updNib)

theorem endImport (h : s.Kept k t) {i st} : s.Kept k (t.endImport i st) :=
  .endRequest (.dropAbove (.same (.ite (h.foldl fun _ _ hu => hu.sendBack) h)))

theorem cancelReq (h : s.Kept k t) {i by_} : s.Kept k (t.cancelReq i by_) := by
  unfold State.cancelReq
  dsimp only
  split
  · split
    · exact h.finish
    · exact h
  · refine .ite (.endImport ?_) (.ite (.dropRequest ?_) (.updSes ?_))
    · split
      · exact h.updReq
      · exact h
    · split
      · exact h.updReq
      · exact h
    · split
      · exact h.updReq
      · exact h

theorem issue (h : s.Kept k t) {p k₁ sel f seq}
    (f_kept : ∀ x0 u, s.Kept k u → s.Kept k (f x0 u)) : s.Kept k (t.issue p k₁ sel f seq) := by
  unfold State.issue
  dsimp only
  refine .ite h ?_
  split
  · exact h.nibFault
  · exact .ite h (.ite h.updNib (f_kept _ _ h.updNib))

theorem withRoute (h : s.Kept k t) {p r f}
    (f_kept : ∀ x0 u, s.Kept k u → s.Kept k (f x0 u)) : s.Kept k (t.withRoute p r f) := by
  unfold State.withRoute
  dsimp only
  split
  · exact f_kept _ _ h.setNib
  · exact h.nibFault

theorem sendFlit (h : s.Kept k t) {p r i x ds fl} : s.Kept k (t.sendFlit p r i x ds fl) := by
  unfold State.sendFlit
  split
  · exact h
  · split
    · exact h
    · exact h.updNib

theorem sendPkt (h : s.Kept k t) {p r i x ds fl} : s.Kept k (t.sendPkt p r i x ds fl) := by
  unfold State.sendPkt
  split
  · exact h
  · split
    · exact h
    · exact h.same

theorem addAct (h : s.Kept k t) {p a} : s.Kept k (t.addAct p a) :=
  h.updNib

theorem fetchPages (h : s.Kept k t) {b} : s.Kept k (t.fetchPages b) :=
  h.foldl fun _ _ hu => .ite hu (.ite hu.updReq (hu.updReq.getD fun _ => hu.updReq.planCopies))

end Sys2Proof.Machine.State.Kept
end

section
set_option Elab.async false
/-! SUPPORT. What is kept by admission, fetching and the queues. -/
namespace Sys2Proof.Machine.State.Kept

variable {s t u : State} {k : Nat}

theorem undoAdmission (h : s.Kept k t) {v : State} {i record} (record_kept : ∀ u, s.Kept k u → s.Kept k (record u)) :
    s.Kept k (v.undoAdmission t i record) :=
  record_kept _ (.updTenant h.same)

theorem openWarm (h : s.Kept k t) {i} : s.Kept k (t.openWarm i) := by
  unfold State.openWarm
  dsimp only
  refine .ite h ?_
  split
  · exact h
  · exact h.openStream.openFirst

theorem admitStages (h : s.Kept k t) {b i r deadline keep} : s.Kept k (t.admitStages b i r deadline keep) := by
  unfold State.admitStages
  extract_lets e bd held absent streams n
  split
  · exact h.reject
  · extract_lets chunked rows firstEnd
    refine .ite h.reject (.ite h.reject ?_)
    split
    · exact h.updTenant.reject
    · extract_lets s1 s1' g
      have paid : s.Kept k s1' := h.updTenant.updSes.delta
      clear_value s1'
      split
      extract_lets s2 es matched s2' s2'' r' s3 need lpUnits free resident ships total es' s4 pre r''
      have matched : s.Kept k s3 := .updSes (.updSes (.releaseHeld (.foldl paid fun _ _ hu => hu.pfxHit)))
      refine .ite (h.undoAdmission fun _ hu => hu.reject) ?_
      have placed : ∀ v, s4 = some v → s.Kept k v := by
        intro v edited
        unfold s4 at edited
        split at edited
        · exact Option.some.inj edited ▸ matched
        · exact matched.edit edited
      clear_value s4
      split
      · split
        · exact h.undoAdmission fun _ hu => hu.finish
        · exact h.undoAdmission fun _ hu => hu.reject
      · next v =>
        have placed : s.Kept k v := placed v rfl
        extract_lets s5 est s6 s7 s8 s9
        refine .ite (h.undoAdmission fun _ hu => hu.reject) (.openWarm ?_)
        have queued : s.Kept k s7 := .updBed (.updSes placed.updSes)
        have fetching : s.Kept k s8 := .ite (.getD queued fun _ => queued.planCopies) queued
        clear_value s8
        show s.Kept k s9
        unfold s9
        split
        · exact .ite fetching (.updReq (.openFirst fetching.openStream.updTx))
        · exact fetching

theorem admission (h : s.Kept k t) {b k₁ kind} : s.Kept k (t.admission b k₁ kind) := by
  unfold State.admission
  dsimp only
  refine .ite h.reject (.ite h.reject (.ite h.reject ?_))
  split
  · exact h.reject
  · exact .ite h.reject (.ite h.reject (.ite h.reject (.ite h.reject (.ite h.reject (.ite h.reject h.admitStages)))))

theorem ringRead (h : s.Kept k t) {q i n} : s.Kept k (t.ringRead q i n).2 := by
  induction n generalizing t i with
  | zero => exact h
  | succ n ih =>
    unfold State.ringRead
    split
    · next e => exact .snd h.readDev e
    · next e =>
      split
      · next e2 => exact .snd (ih (.snd h.readDev e)) e2
      · next e2 => exact .snd (ih (.snd h.readDev e)) e2

theorem stopQueue (h : s.Kept k t) {b q bad} : s.Kept k (t.stopQueue b q bad) := by
  unfold State.stopQueue
  dsimp only
  split
  · exact h.updQueue.event.uncorrRead
  · exact h.updQueue.event

theorem indirect (h : s.Kept k t) {k₁ inp} : s.Kept k (t.indirect k₁ inp).2.2.2 := by
  unfold State.indirect
  split
  · exact h
  · split
    · split
      · exact h
      · exact h
    · split
      · exact h
      · split
        · exact h
        · split
          · next e =>
              exact h.readDev.snd e
          · next e =>
              exact .uncorrRead (h.readDev.snd e)

theorem noteUpdate (h : s.Kept k t) {p code} : s.Kept k (t.noteUpdate p code) :=
  .ite h.same h

theorem fetch (h : s.Kept k t) {b q inp} : s.Kept k (t.fetch b q inp) := by
  unfold State.fetch
  split
  · exact h
  · refine .ite h ?_
    split
    next e =>
    have header := State.Kept.snd (s := s) (k := k) (.ite_snd
      (by
        split
        · next e => exact h.ringRead.snd e
        · next e => exact h.ringRead.snd e)
      (by split <;> exact h)) e
    split
    · exact header.stopQueue
    · refine .ite header.updQueue (.ite header.updQueue (.ite header.updBed ?_))
      extract_lets s1 s2 s3
      have counted : s.Kept k s3 := .updQueue (.updBed header.same)
      clear_value s3
      refine .ite counted.updQueue.finish ?_
      split
      next e =>
      have payload := State.Kept.snd (s := s) (k := k) (.ite_snd
        (by
          split
          · next e => exact counted.ringRead.snd e
          · next e => exact .uncorrRead (counted.ringRead.snd e))
        counted) e
      dsimp only
      split
      · exact .finish (.noteUpdate (.updQueue payload.indirect))
      · exact .updQueue (.updQueue payload.indirect)

theorem take (h : s.Kept k t) {b q op c} (e : t.take b q op = some (c, u)) : s.Kept k u := by
  unfold State.take at e
  split at e
  · cases e
  · split at e
    · split at e
      · cases e
        exact h.updQueue
      · cases e
    · cases e

theorem command (h : s.Kept k t) {b q op f}
    (f_kept : ∀ u x1, s.Kept k u → s.Kept k (f u x1)) : s.Kept k (t.command b q op f) := by
  unfold State.command
  split
  · next e =>
      exact f_kept _ _ (h.take e)
  · exact h

theorem reply (h : s.Kept k t) {f space addr bs} : s.Kept k (t.reply f space addr bs) :=
  .ite h (.ite (.ite h.emit h.updFn) h.writeDev.dropEvents)

theorem replyDone (h : s.Kept k t) {p space addr bs r} : s.Kept k (t.replyDone p space addr bs r) :=
  h.reply.finish

theorem badDoorbell (h : s.Kept k t) {f off} : s.Kept k (t.badDoorbell f off) :=
  h.event

theorem execNop (h : s.Kept 2 t) {b q} : s.KeptBy (execNop b q t) :=
  .next (h.command (fun _ _ hu => hu.finish))

theorem execQueueCreate (h : s.Kept 2 t) {b q} : s.KeptBy (execQueueCreate b q t) := by
  unfold Machine.execQueueCreate
  dsimp only
  refine .next (h.command (fun _ _ hu => ?_))
  split
  · exact hu.reject
  · exact hu.updBed.finish

theorem ringPackets (h : s.Kept k t) {q i w fuel} : s.Kept k (t.ringPackets q i w fuel).2 := by
  induction fuel generalizing t i w with
  | zero => exact h
  | succ fuel ih =>
    unfold State.ringPackets
    split
    · exact h
    · split
      · next e => exact .snd h.ringRead e
      · next e => exact ih (.snd h.ringRead e)

theorem unfetched (h : s.Kept k t) {u₁ ring} : s.Kept k (t.unfetched u₁ ring).2 := by
  unfold State.unfetched
  split
  · exact h.ringPackets
  · exact h

theorem execQueueDelete (h : s.Kept 2 t) {b q} : s.KeptBy (execQueueDelete b q t) := by
  unfold Machine.execQueueDelete
  dsimp only
  refine .next (h.command (fun _ _ hu => ?_))
  split
  · exact hu.reject
  · exact .ite hu.reject hu.unfetched.updQueue.settleDelete

theorem execSqTail (h : s.Kept 2 t) {f q v} : s.KeptBy (execSqTail f q v t) := by
  unfold Machine.execSqTail
  dsimp only
  refine .next (.ite h.emit ?_)
  split
  · exact h.badDoorbell
  · exact .ite h.badDoorbell h.updQueue

theorem execCqHead (h : s.Kept 2 t) {f q v} : s.KeptBy (execCqHead f q v t) := by
  unfold Machine.execCqHead
  dsimp only
  refine .next (.ite h.emit ?_)
  split
  · exact h.badDoorbell
  · exact .ite h.badDoorbell h.updQueue

theorem execExportDb (h : s.Kept 2 t) {f v} : s.KeptBy (execExportDb f v t) := by
  unfold Machine.execExportDb
  dsimp only
  refine .next (.ite h.emit ?_)
  split
  · exact h
  · exact .ite h (.ite h h.updTx)

theorem execPacketFetch (h : s.Kept 2 t) {b q inp} : s.KeptBy (execPacketFetch b q inp t) :=
  .next h.fetch

theorem execHoldRecordWrite (h : s.Kept 2 t) {b q} : s.KeptBy (execHoldRecordWrite b q t) := by
  unfold Machine.execHoldRecordWrite
  refine .next (.ite h ?_)
  split
  · exact h
  · exact h.updBed.writeRecord.settleDelete

theorem execModerationTimer (h : s.Kept 2 t) {b q} : s.KeptBy (execModerationTimer b q t) := by
  unfold Machine.execModerationTimer
  dsimp only
  refine .next ?_
  split
  · exact h
  · split
    · exact h
    · exact .ite h.queueMessage h

end Sys2Proof.Machine.State.Kept
end

section
set_option Elab.async false
/-! SUPPORT. What is kept by the units of a nib. -/
namespace Sys2Proof.Machine.State.Kept

variable {s t u : State} {k : Nat}

theorem execFront (h : s.Kept 2 t) {p} : s.KeptBy (execFront p t) := by
  unfold Machine.execFront
  refine .next (h.issue (fun _ _ hu => ?_))
  split
  · exact hu
  · exact hu.updNib

theorem execNibPass (h : s.Kept 2 t) {p} : s.KeptBy (execNibPass p t) := by
  unfold Machine.execNibPass
  refine .next (h.issue (fun _ _ hu => ?_))
  split
  · exact hu
  · exact hu.updNib

theorem execPrescan (h : s.Kept 2 t) {p} : s.KeptBy (execPrescan p t) := by
  unfold Machine.execPrescan
  refine .next (h.issue (fun _ _ hu => ?_))
  split
  · exact hu.updNib
  · exact hu

theorem execAccClear (h : s.Kept 2 t) {p} : s.KeptBy (execAccClear p t) :=
  .next (h.issue (fun _ _ hu => hu.updNib))

theorem execAccShift (h : s.Kept 2 t) {p} : s.KeptBy (execAccShift p t) :=
  .next (h.issue (fun _ _ hu => .ite hu.nibFault hu.updNib))

theorem execAccRead (h : s.Kept 2 t) {p} : s.KeptBy (execAccRead p t) := by
  unfold Machine.execAccRead
  refine .next (h.issue (fun _ _ hu => ?_))
  split
  · exact hu
  · exact hu.updNib

theorem execAccCombine (h : s.Kept 2 t) {p} : s.KeptBy (execAccCombine p t) :=
  .next (h.issue (fun _ _ hu => .ite hu.setNib hu.setNib.nibFault))

theorem sendStep (h :
    s.Kept k t) {p r row0 rows tindex flit got fl} : s.Kept k (t.sendStep p r row0 rows tindex flit got fl).1 := by
  unfold State.sendStep
  dsimp only
  split
  · split
    · exact h.setNib
    · exact h.setNib.sendPkt
  · exact h.setNib.sendFlit

theorem startSend (h : s.Kept k t) {p w async} : s.Kept k (t.startSend p w async) :=
  h.withRoute (fun _ _ hu => hu.sendStep.updNib)

theorem execSendSched (h : s.Kept 2 t) {p} : s.KeptBy (execSendSched p t) :=
  .next (h.issue (fun _ _ hu => hu.startSend))

theorem execSendAsync (h : s.Kept 2 t) {p} : s.KeptBy (execSendAsync p t) :=
  .next (h.issue (fun _ _ hu => hu.startSend))

theorem sendRaw (h : s.Kept k t) {p r x slot row index} : s.Kept k (t.sendRaw p r x slot row index) :=
  .ite h.setNib.sendPkt (h.setNib.foldl fun _ _ hu => hu.sendFlit)

theorem rawStep (h : s.Kept k t) {p r slot first count tindex k₁} : s.Kept k (t.rawStep p r slot first count tindex k₁).1 :=
  h.sendRaw

theorem execReadRawSend (h : s.Kept 2 t) {p} : s.KeptBy (execReadRawSend p t) := by
  refine .next (h.issue fun _ _ hu => hu.withRoute fun _ _ hv => ?_)
  split
  next e => exact .updNib (State.Kept.fst hv.rawStep e)

theorem execTranspose (h : s.Kept 2 t) {p} : s.KeptBy (execTranspose p t) :=
  .next (h.issue (fun _ _ hu => hu.updNib))

theorem bedFaultAt (h : s.Kept k t) {p code unit addr own} : s.Kept k (t.bedFaultAt p code unit addr own) := by
  unfold State.bedFaultAt
  dsimp only
  refine .ite h.nibFault ?_
  split
  · exact h.updNib
  · exact h.updNib.bedFault

theorem gatherStep (h : s.Kept k t) {p x g j idx} : s.Kept k (t.gatherStep p x g j idx).1 := by
  unfold State.gatherStep
  dsimp only
  split
  · split
    · exact h
    · split
      · exact h.setNib
      · split
        · exact h.setNib.bedFaultAt
        · exact h.setNib
  · split
    · exact h.setNib
    · split
      · exact h
      · split
        · exact h.setNib
        · exact h.setNib

theorem execGather (h : s.Kept 2 t) {p} : s.KeptBy (execGather p t) :=
  .next (h.issue (fun _ _ hu => hu.addAct))

theorem dropFence (h : s.Kept k t) : s.Kept k t.dropFence :=
  h.same.event

theorem dropAsync (h : s.Kept k t) {p} : s.Kept k (t.dropAsync p) := by
  unfold State.dropAsync
  dsimp only
  split
  · exact h.updNib
  · exact .ite h.updNib h.updNib.event

theorem lostPacket (h : s.Kept k t) {k₁} : s.Kept k (t.lostPacket k₁) :=
  h.same.bedFaultAt

theorem arrive (h : s.Kept k t) {u₁ k₁} : s.Kept k (t.arrive u₁ k₁).1 := by
  unfold State.arrive
  dsimp only
  split
  · exact h.dropAsync
  · split
    · exact h.dropFence
    · split
      · exact h.dropAsync
      · split
        · exact h.dropAsync
        · exact h.lostPacket
        · split
          · exact h
          · exact .setNib (.ite h.same h)

theorem scrubRow (h : s.Kept k t) {p bank} : s.Kept k (t.scrubRow p bank) := by
  unfold State.scrubRow
  dsimp only
  refine .ite h.setNib ?_
  split
  · exact h.setNib
  · exact h.setNib
  · exact h.setNib.padUncorr

theorem execScratchpadScrub (h : s.Kept 2 t) {p bank} : s.KeptBy (execScratchpadScrub p bank t) :=
  .next (.ite h.scrubRow h)

theorem execScrubForcedGrant (h : s.Kept 2 t) {p bank} : s.KeptBy (execScrubForcedGrant p bank t) :=
  .next (.ite h.updNib.scrubRow h)

theorem execNibWait (h : s.Kept 2 t) {p} : s.KeptBy (execNibWait p t) :=
  .next (h.issue (fun _ _ hu => hu.updNib))

theorem execWaitComplete (h : s.Kept 2 t) {p} : s.KeptBy (execWaitComplete p t) := by
  unfold Machine.execWaitComplete
  dsimp only
  refine .next ?_
  split
  · exact .ite h.updNib h
  · exact h

theorem execWaitTimeout (h : s.Kept 2 t) {p} : s.KeptBy (execWaitTimeout p t) := by
  unfold Machine.execWaitTimeout
  dsimp only
  refine .next ?_
  split
  · exact .ite h.nibFault h
  · exact h

theorem execTallyClear (h : s.Kept 2 t) {p} : s.KeptBy (execTallyClear p t) :=
  .next (h.issue (fun _ _ hu => hu.updNib))

theorem execNibLoop (h : s.Kept 2 t) {p} : s.KeptBy (execNibLoop p t) :=
  .next (h.issue (fun _ _ hu => hu.updNib))

theorem execNibIdle (h : s.Kept 2 t) {p} : s.KeptBy (execNibIdle p t) :=
  .next (h.issue (fun _ _ hu => hu.updNib))

theorem execNibPhase (h : s.Kept 2 t) {p} : s.KeptBy (execNibPhase p t) :=
  .next (h.issue (fun _ _ hu => hu.updNib))

theorem execNibSync (h : s.Kept 2 t) {p} : s.KeptBy (execNibSync p t) :=
  .next (h.issue (fun _ _ hu => hu.updNib))

theorem execBarrierRelease (h : s.Kept 2 t) {b} : s.KeptBy (execBarrierRelease b t) :=
  .next (.ite (h.foldl fun _ _ hu => hu.updNib) h)

theorem execBarrierTimeout (h : s.Kept 2 t) {p} : s.KeptBy (execBarrierTimeout p t) := by
  unfold Machine.execBarrierTimeout
  dsimp only
  refine .next ?_
  split
  · refine .ite ?_ h
    split
    · exact .ite h.updNib.updNib.fence h.updNib.nibFault
    · exact h.nibFault
  · exact h

theorem execElasticPhaseTimeout (h : s.Kept 2 t) {p} : s.KeptBy (execElasticPhaseTimeout p t) :=
  .next (.ite h.nibFault h)

theorem execEndStep (h : s.Kept 2 t) {p} : s.KeptBy (execEndStep p t) := by
  unfold Machine.execEndStep
  dsimp only
  refine .next (h.issue (fun _ _ hu => ?_))
  split
  · exact hu.updNib
  · exact .ite hu.updNib.updBed hu.updNib

theorem execMacroExt (h : s.Kept 2 t) {p} : s.KeptBy (execMacroExt p t) :=
  .next (h.issue (fun _ _ hu => hu))

theorem execVload (h : s.Kept 2 t) {p} : s.KeptBy (execVload p t) :=
  .next (h.issue (fun _ _ hu => hu.updNib))

theorem execVstore (h : s.Kept 2 t) {p} : s.KeptBy (execVstore p t) :=
  .next (h.issue (fun _ _ hu => hu.updNib))

theorem execVop (h : s.Kept 2 t) {p} : s.KeptBy (execVop p t) :=
  .next (h.issue (fun _ _ hu => hu.updNib))

theorem execVcvt (h : s.Kept 2 t) {p} : s.KeptBy (execVcvt p t) := by
  unfold Machine.execVcvt
  refine .next (h.issue (fun _ _ hu => ?_))
  split
  · exact hu
  · exact hu.updNib

theorem execVquant (h : s.Kept 2 t) {p} : s.KeptBy (execVquant p t) := by
  unfold Machine.execVquant
  refine .next (h.issue (fun _ _ hu => ?_))
  split
  · exact hu
  · exact hu.updNib

theorem execVred (h : s.Kept 2 t) {p} : s.KeptBy (execVred p t) :=
  .next (h.issue (fun _ _ hu => hu.updNib))

theorem execVsfu (h : s.Kept 2 t) {p} : s.KeptBy (execVsfu p t) := by
  unfold Machine.execVsfu
  refine .next (h.issue (fun _ _ hu => ?_))
  split
  · exact hu
  · exact hu.updNib

theorem forward (h : s.Kept k t) {p m route index rows fl} : s.Kept k (t.forward p m route index rows fl) :=
  .ite h.sendFlit h

theorem scanStep (h : s.Kept k t) {p r j cm ra} : s.Kept k (t.scanStep p r j cm ra).1 := by
  unfold State.scanStep
  dsimp only
  split
  · split
    · exact h.setNib
    · exact h.setNib
  · split
    · refine .ite_fst ?_ h
      exact h.setNib.forward
    · refine .updNib (.ite_fst ?_ h)
      exact h.setNib.forward

theorem streamStep (h : s.Kept k t) {p r blk row sc half} : s.Kept k (t.streamStep p r blk row sc half).1 := by
  unfold State.streamStep
  have own : s.Kept k (if row = 0 ∧ half.isEmpty then t.updNib p fun n => n.ownTile r else t) := .ite h.updNib h
  generalize (if row = 0 ∧ half.isEmpty then t.updNib p fun n => n.ownTile r else t) = v at own ⊢
  exact .ite_fst own (.ite_fst own.setNib (.ite_fst own.setNib.forward own.setNib.forward.updNib))

theorem rawOut (h : s.Kept k t) {p r} : s.Kept k (t.rawOut p r) :=
  h.sendRaw.updNib

theorem readStep (h : s.Kept k t) {p r} : s.Kept k (t.readStep p r).1 := by
  unfold State.readStep
  dsimp only
  split
  · exact h.rawOut
  · split
    · exact h
    · split
      · exact h.setNib
      · exact h.setNib

theorem combStep (h : s.Kept k t) {p r} : s.Kept k (t.combStep p r).1 := by
  unfold State.combStep
  dsimp only
  split
  · exact h.setNib.nibFault
  · exact h.setNib

theorem matStep (h : s.Kept k t) {p r} : s.Kept k (t.matStep p r).1 := by
  unfold State.matStep
  dsimp only
  split
  · split
    · exact h.setNib
    · exact h
  · split
    · exact h.setNib
    · exact h.setNib.updNib
  · exact h.updNib
  · exact h.updNib
  · split
    · exact h.updNib
    · exact h

theorem execMatmul (h : s.Kept 2 t) {p} : s.KeptBy (execMatmul p t) :=
  .next (h.issue (fun _ _ hu => hu.updNib))

theorem finStep (h : s.Kept k t) {p f x row last} : s.Kept k (t.finStep p f x row last).1 := by
  unfold State.finStep
  dsimp only
  split
  · split
    · exact h.updNib
    · exact h
  · exact h.setNib

theorem execMacFinish (h : s.Kept 2 t) {p} : s.KeptBy (execMacFinish p t) :=
  .next (h.issue (fun _ _ hu => hu.updNib))

theorem execGatedVisitStart (h : s.Kept 2 t) {p} : s.KeptBy (execGatedVisitStart p t) := by
  unfold Machine.execGatedVisitStart
  dsimp only
  refine .next ?_
  split
  · exact h
  · exact .ite h.updNib h

end Sys2Proof.Machine.State.Kept
end

section
set_option Elab.async false
/-! SUPPORT. What is kept by the attention entries. -/
namespace Sys2Proof.Machine.State.Kept

variable {s t u : State} {k : Nat}

theorem nextEntry (h : s.Kept k t) {p due} : s.Kept k (t.nextEntry p due) :=
  h.updNib

theorem runEntry (h : s.Kept k t) {p op lat f}
    (f_kept : ∀ x0 x1 x2 u, s.Kept k u → s.Kept k (f x0 x1 x2 u)) : s.Kept k (t.runEntry p op lat f) := by
  unfold State.runEntry
  dsimp only
  split
  · exact h
  · exact .ite h.bedFaultAt (.nextEntry (f_kept _ _ _ _ h.updNib))

theorem spanRow (h : s.Kept k t) {p a ad e j i} : s.Kept k (t.spanRow p a ad e j i) :=
  h.setNib

theorem spanStep (h : s.Kept k t) {p a v j} : s.Kept k (t.spanStep p a v j).1 :=
  h.setNib.foldl fun _ _ hu => hu.spanRow

theorem execAttSpan (h : s.Kept 2 t) {p} : s.KeptBy (execAttSpan p t) := by
  unfold Machine.execAttSpan
  dsimp only
  refine .next ?_
  split
  · exact h
  · exact .ite h.bedFaultAt h.updNib

theorem execMergeLocal (h : s.Kept 2 t) {p} : s.KeptBy (execMergeLocal p t) :=
  .next (h.runEntry (fun _ _ _ _ hu => hu.updNib))

theorem execMergeIn (h : s.Kept 2 t) {p} : s.KeptBy (execMergeIn p t) :=
  .next (h.runEntry (fun _ _ _ _ hu => hu.updNib))

theorem execAttendSend (h : s.Kept 2 t) {p} : s.KeptBy (execAttendSend p t) := by
  unfold Machine.execAttendSend
  dsimp only
  refine .next ?_
  split
  · exact h
  · exact .ite (.withRoute (h.runEntry (fun _ _ _ _ hu => hu)) (fun _ _ hu => hu.updNib.addAct)) (h.runEntry (fun _ _ _ _ hu =>
      hu))

theorem execAttendFinish (h : s.Kept 2 t) {p} : s.KeptBy (execAttendFinish p t) :=
  .next (h.runEntry (fun _ _ _ _ hu => hu.updNib))

theorem attStep (h : s.Kept k t) {p a v started} : s.Kept k (t.attStep p a v started).1 := by
  unfold State.attStep
  dsimp only
  split
  · split
    · exact h.setNib
    · exact h
  · split
    · exact h.setNib
    · exact h

theorem execAttend (h : s.Kept 2 t) {p} : s.KeptBy (execAttend p t) :=
  .next (h.issue (fun _ _ hu => hu.updNib))

end Sys2Proof.Machine.State.Kept
end

section
set_option Elab.async false
/-! SUPPORT. What is kept by the channels, serving and staging. -/
namespace Sys2Proof.Machine.State.Kept

variable {s t u : State} {k : Nat}

theorem addFrames (h : s.Kept k t) {b lp fsize n} (e : t.addFrames b lp fsize n = some u) : s.Kept k u := by
  induction n generalizing t with
  | zero => exact Option.some.inj e ▸ h
  | succ n ih =>
    unfold State.addFrames at e
    split at e
    · exact ih h.setFrame.same e
    · cases e

theorem dropFrames (h : s.Kept k t) {b lp n} (e : t.dropFrames b lp n = some u) : s.Kept k u := by
  unfold State.dropFrames at e
  dsimp only at e
  split at e
  · cases e
  · cases e
    exact h.foldl fun _ _ hu => hu.setFrame

theorem resizeFrames (h : s.Kept k t) {b lp old new} (e : t.resizeFrames b lp old new = some u) : s.Kept k u := by
  unfold State.resizeFrames at e
  split at e
  · exact h.dropFrames e
  · exact h.addFrames e

theorem storeMark (h : s.Kept (k + 1) t) {c} : s.Kept (k + 1) (t.storeMark c) :=
  h.same1

theorem leavePools (h : s.Kept (k + 1) t) {c} : s.Kept (k + 1) (t.leavePools c) := by
  unfold State.leavePools
  dsimp only
  refine h.foldl fun _ _ hu => ?_
  split
  · next e =>
      exact hu.setFrame.addFrames e
  · exact hu.setFrame.setCfg

theorem evictIn (h : s.Kept k t) {c} : s.Kept k (t.evictIn c) :=
  h.foldl fun _ _ hu => hu.evict

theorem tendRetiring (h : s.Kept (k + 1) t) : s.Kept (k + 1) t.tendRetiring :=
  h.foldl fun _ _ hu => hu.evictIn.leavePools

theorem emptyChan (h : s.Kept k t) {c} : s.Kept k (t.emptyChan c) := by
  unfold State.emptyChan
  dsimp only
  refine h.foldl fun _ _ hu => .ite hu ?_
  split
  · next e =>
      exact .foldl (.planCopies (hu.foldl fun _ _ hu => hu.updFrame) e) fun _ _ hu => hu.updFrame
  · exact hu

theorem emptyChans (h : s.Kept k t) : s.Kept k t.emptyChans :=
  h.foldl fun _ _ hu => hu.emptyChan

theorem markChannel (h : s.Kept (k + 1) t) {c cause} : s.Kept (k + 1) (t.markChannel c cause) :=
  .ite h h.updChan.storeMark.memoryEvent.raiseEpoch.leavePools.emptyChan

theorem repend (h : s.Kept (k + 2) t) : s.Kept (k + 2) t.repend :=
  h.same2

theorem execSessionOpen (h : s.Kept 2 t) {b q} : s.KeptBy (execSessionOpen b q t) := by
  unfold Machine.execSessionOpen
  dsimp only
  refine .next (h.command (fun _ _ hu => .ite hu.reject ?_))
  split
  · exact hu.reject
  · split
    · exact hu.reject
    · split
      · exact hu.reject
      · next e =>
          exact .finish (.sesDelta (.setSes (.writeDev (hu.arenaTake e))))

theorem execSessionClose (h : s.Kept 2 t) {b q} : s.KeptBy (execSessionClose b q t) := by
  unfold Machine.execSessionClose
  refine .next (h.command (fun _ _ hu => ?_))
  split
  · exact hu.reject
  · refine .ite hu.reject ?_
    split
    · exact hu.updSes.closeNow
    · exact hu.updReq.cancelReq

theorem execPrefill (h : s.Kept 2 t) {b q} : s.KeptBy (execPrefill b q t) :=
  .next (h.command (fun _ _ hu => hu.admission))

theorem execAdmit (h : s.Kept 2 t) {b q} : s.KeptBy (execAdmit b q t) :=
  .next (h.command (fun _ _ hu => hu.admission))

theorem execDecode (h : s.Kept 2 t) {b q} : s.KeptBy (execDecode b q t) :=
  .next (h.command (fun _ _ hu => hu.admission))

theorem execCancel (h : s.Kept 2 t) {b q} : s.KeptBy (execCancel b q t) := by
  unfold Machine.execCancel
  refine .next (h.command (fun _ _ hu => ?_))
  split
  · exact hu.reject
  · refine .ite hu.reject ?_
    split
    · exact hu.reject
    · exact .ite hu.reject hu.cancelReq

theorem execKvExport (h : s.Kept 2 t) {b q} : s.KeptBy (execKvExport b q t) := by
  unfold Machine.execKvExport
  dsimp only
  refine .next (h.command (fun _ _ hu => ?_))
  split
  · exact hu.reject
  · exact .ite hu.reject (.ite hu.reject (.ite hu.reject (.ite hu.reject hu.openStream.openBatch.readList.settle)))

theorem execKvImport (h : s.Kept 2 t) {b q} : s.KeptBy (execKvImport b q t) := by
  unfold Machine.execKvImport
  dsimp only
  refine .next (h.command (fun _ _ hu => ?_))
  split
  · exact hu.reject
  · exact .ite hu.reject hu.same

theorem execListSwap (h : s.Kept 2 t) {b q} : s.KeptBy (execListSwap b q t) := by
  unfold Machine.execListSwap
  dsimp only
  refine .next (h.command (fun _ _ hu => ?_))
  split
  · exact hu.reject
  · refine .ite hu.reject (.ite hu.finish (.ite hu.finish ?_))
    split
    · exact hu.finish
    · split
      · exact hu.reject
      · next e =>
          exact .finish (.sesDelta (hu.publish e))

theorem pinChain (h : s.Kept k t) {b salt digest pin prev blocks} :
    s.Kept k (t.pinChain b salt digest pin prev blocks).2.2.2 := by
  induction blocks generalizing t prev with
  | nil => exact h
  | cons blk bs ih =>
    unfold State.pinChain
    dsimp only
    split
    · exact h
    · exact ih h.updPfx

theorem execPrefixPin (h : s.Kept 2 t) {b q} : s.KeptBy (execPrefixPin b q t) := by
  unfold Machine.execPrefixPin
  dsimp only
  refine .next (h.command (fun _ _ hu => .ite hu.reject ?_))
  split
  · exact hu.reject
  · exact hu.pinChain.delta.finish

theorem execTenantSet (h : s.Kept 2 t) {b q} : s.KeptBy (execTenantSet b q t) :=
  .next (h.command (fun _ _ hu => .ite (.ite hu.reject hu.updTenant.delta.finish) (.finish (.delta (.updTenant (.ite_snd
      hu.same hu))))))

theorem resizeAll (h : s.Kept k t) {g} (e : t.resizeAll g = some u) : s.Kept k u := by
  refine .of_foldl_option (fun _ e => Option.some.inj e ▸ h) (fun o x ho u e => ?_) e
  cases o with
  | none => cases e
  | some v => exact (ho v rfl).resizeFrames e

theorem rejectSet (h : s.Kept k t) {p c} : s.Kept k (t.rejectSet p c) :=
  h.same.finish

theorem roleChange (h : s.Kept k t) {n} : s.Kept k (t.roleChange n) :=
  .ite (.ite h.updPort.streamsDown.raiseEpoch h.updPort.streamsDown) h.updPort.startTraining

theorem markNew (h : s.Kept (k + 1) t) {old} : s.Kept (k + 1) (t.markNew old) :=
  h.foldl fun _ _ hu => hu.markChannel

theorem installSet (h : s.Kept (k + 2) t) {v : State} : s.Kept (k + 2) (v.installSet t) := by
  unfold State.installSet
  refine .assignDma (.markNew (.ite ?_ (.repend ?_))) <;>
  exact .foldl h.same2 fun _ _ hu => hu.roleChange

theorem applyCommit (h : s.Kept (k + 2) t) : s.Kept (k + 2) t.applyCommit := by
  unfold State.applyCommit
  have taken : s.Kept (k + 2)
    { t with stage := { t.stage with pending := false, ref := none, mode := 0, bed := 0, at_ := 0 } } := h.same
  generalize ({ t with stage := { t.stage with pending := false, ref := none, mode := 0, bed := 0, at_ := 0 } } : State) = v
    at taken ⊢
  dsimp only
  split
  · split
    · exact taken.rejectSet
    · exact taken
  · exact taken
  · next e =>
    have installed {w : State} : s.Kept (k + 2) (w.installSet _) := (taken.resizeAll e).installSet
    split
    · exact installed.finish
    · exact installed

theorem cancelCommit (h : s.Kept k t) : s.Kept k t.cancelCommit := by
  unfold State.cancelCommit
  dsimp only
  refine .ite h ?_
  split
  · exact h.same.finish
  · exact h.same

theorem cancelCommitOf (h : s.Kept k t) {b} : s.Kept k (t.cancelCommitOf b) :=
  .ite h.cancelCommit h

theorem execStageWrite (h : s.Kept 2 t) {b q} : s.KeptBy (execStageWrite b q t) := by
  unfold Machine.execStageWrite
  dsimp only
  refine .next (h.command (fun _ _ hu => ?_))
  split
  · exact hu.finish
  · exact hu.same.finish

theorem execStageCheck (h : s.Kept 2 t) {b q} : s.KeptBy (execStageCheck b q t) := by
  unfold Machine.execStageCheck
  refine .next (h.command (fun _ _ hu => ?_))
  split
  · exact hu.rejectSet
  · exact hu.same.finish

theorem execStageCommit (h : s.Kept 2 t) {b q} : s.KeptBy (execStageCommit b q t) :=
  .next (h.command (fun _ _ hu => .ite hu.reject (.ite hu.reject (.ite hu.same.applyCommit hu.same))))

theorem commitTime (h : s.Kept (k + 2) t) : s.Kept (k + 2) t.commitTime :=
  .ite h.applyCommit h

theorem execStageCommitTime (h : s.Kept 2 t) : s.KeptBy (execStageCommitTime t) :=
  .next (.ite h h.commitTime)

end Sys2Proof.Machine.State.Kept
end

section
set_option Elab.async false
/-! SUPPORT. What is kept by the beds and reports. -/
namespace Sys2Proof.Machine.State.Kept

variable {s t u : State} {k : Nat}

theorem makeBed (h : s.Kept (k + 1) t) {b w} (e : t.makeBed b w = some u) : s.Kept (k + 1) u := by
  unfold State.makeBed at e
  dsimp only at e
  split at e
  · cases e
  · split at e
    · cases e
    · next added => exact State.Kept.addFrames (.addFrames (.foldl h.setBed fun _ _ hu => hu.setCfg) added) e

theorem execBedCreate (h : s.Kept 2 t) {b q} : s.KeptBy (execBedCreate b q t) := by
  unfold Machine.execBedCreate
  refine .next (h.command fun v c hv => .ite hv.reject (.ite hv.reject ?_))
  dsimp only
  split
  · exact hv.rejectSet
  · split
    · exact hv.reject
    · next e =>
      split at e
      · cases e
      · exact .finish (State.Kept.makeBed (k := 1) hv e)

theorem dropMesh (h : s.Kept k t) {b} : s.Kept k (t.dropMesh b) :=
  h.same.foldl fun _ _ hu => hu.updNib

theorem dropCopies (h : s.Kept k t) {b} : s.Kept k (t.dropCopies b) :=
  h.same.foldl fun _ _ hu => hu.foldl fun _ _ hu1 => hu1.updFrame

theorem dropJobs (h : s.Kept k t) {b} : s.Kept k (t.dropJobs b) :=
  h.same

theorem forgetRef (h : s.Kept k t) {p} : s.Kept k (t.forgetRef p) :=
  h.same

theorem removeQueues (h : s.Kept k t) {b} : s.Kept k (t.removeQueues b) :=
  .updBed (h.foldl fun _ _ hu => hu.forgetRef)

theorem abortFetched (h : s.Kept k t) {b keep} : s.Kept k (t.abortFetched b keep) :=
  h.updBed.foldl fun _ _ hu => hu.forgetRef.finish

theorem joinCancels (h : s.Kept k t) {b} : s.Kept k (t.joinCancels b) := by
  unfold State.joinCancels
  refine h.foldl fun _ _ hu => ?_
  split
  · exact hu
  · split
    · exact hu
    · refine .ite hu ?_
      split
      · exact hu
      · split
        · exact hu
        · exact .ite hu.updReq hu

theorem abortRequests (h : s.Kept k t) {b} : s.Kept k (t.abortRequests b) :=
  h.foldl fun _ _ hu => .ite hu.endImport hu.dropRequest

theorem startReset (h : s.Kept k t) {b keep destroy} : s.Kept k (t.startReset b keep destroy) :=
  .ite (.foldl (.abortFetched (.updBed (.abortRequests (.joinCancels (.cancelCommitOf (.foldl
      (h.updBed.dropMesh.dropCopies.dropJobs.foldl fun _ _ hu => hu.updNib) fun _ _ hu => hu.abortStream)))))) fun _ _ hu =>
          hu.drain) (.foldl (.foldl (.abortFetched (.updBed (.abortRequests (.joinCancels (.cancelCommitOf (.foldl
              (h.updBed.dropMesh.dropCopies.dropJobs.foldl fun _ _ hu => hu.updNib) fun _ _ hu => hu.abortStream))))))
                  fun _ _ hu => hu.drain) fun _ _ hu => hu.closeNow)

theorem resetNibs (h : s.Kept k t) : s.Kept k t.resetNibs :=
  h.foldl fun _ _ hu => hu.foldl fun _ _ hu1 => hu1.updNib

theorem runReset (h : s.Kept k t) {b kind} : s.Kept k (t.runReset b kind) :=
  .ite h.startReset (.ite h.startReset.removeQueues h.startReset)

theorem orderReset (h : s.Kept k t) {b kind} : s.Kept k (t.orderReset b kind) :=
  .ite h.updBed h.runReset

theorem askedResets (h : s.Kept k t) : s.Kept k t.askedResets :=
  h.foldl fun _ _ hu => hu.runReset

theorem finishDestroy (h : s.Kept (k + 1) t) {b} : s.Kept (k + 1) (t.finishDestroy b) := by
  unfold State.finishDestroy
  dsimp only
  split
  · exact .finish (.setBed (.foldl (.same1 (h.foldl fun _ _ hu => hu.updSes)) fun _ _ hu => hu.forgetRef))
  · exact .setBed (.foldl (.same1 (h.foldl fun _ _ hu => hu.updSes)) fun _ _ hu => hu.forgetRef)

theorem execBedDestroy (h : s.Kept 2 t) {b q} : s.KeptBy (execBedDestroy b q t) := by
  unfold Machine.execBedDestroy
  dsimp only
  refine .next (h.command (fun _ _ hu => ?_))
  split
  · exact hu.reject
  · exact hu.reject
  · exact hu.reject
  · exact hu.updBed.cancelCommitOf.foldl fun _ _ hu => hu.closeNow
  · exact hu.updBed.orderReset

theorem resetBed (h : s.Kept k t) {b} : s.Kept k (t.resetBed b) := by
  unfold State.resetBed
  split
  · exact h.orderReset
  · exact h.orderReset
  · exact h

theorem resetBedFlr (h : s.Kept k t) {b} : s.Kept k (t.resetBedFlr b) := by
  unfold State.resetBedFlr
  split
  · exact h.orderReset
  · exact h.orderReset
  · exact .ite h.updBed.removeQueues h
  · exact h.updBed

theorem execBedReset (h : s.Kept 2 t) {f b} : s.KeptBy (execBedReset f b t) :=
  .next (.ite h.resetBed h)

theorem setIntr (h : s.Kept k t) {b en} : s.Kept k (t.setIntr b en) :=
  .ite (.ite h.updBed.sendOwed h.updBed) h

theorem execIntrEn (h : s.Kept 2 t) {f b en} : s.KeptBy (execIntrEn f b en t) :=
  .next (.ite h.setIntr h)

theorem q0Enable (h : s.Kept k t) {b} : s.Kept k (t.q0Enable b) :=
  h.updBed

theorem q0Disable (h : s.Kept k t) {b} : s.Kept k (t.q0Disable b) :=
  h.updBed.updQueue

theorem writeQ0 (h : s.Kept k t) {b v} : s.Kept k (t.writeQ0 b v) :=
  .ite h (.ite (.ite h h.q0Disable) (.ite h.updBed.q0Enable h.updBed))

theorem execQ0Enable (h : s.Kept 2 t) {f b v} : s.KeptBy (execQ0Enable f b v t) :=
  .next (.ite h.writeQ0 h)

theorem execQ0Disable (h : s.Kept 2 t) {f b v} : s.KeptBy (execQ0Disable f b v t) :=
  .next (.ite h.writeQ0 h)

theorem resetFn (h : s.Kept k t) {f} : s.Kept k (t.resetFn f) :=
  h.same

theorem execVfFlr (h : s.Kept 2 t) {n} : s.KeptBy (execVfFlr n t) :=
  .next (.ite h (.ite h.resetBedFlr.resetFn h.resetFn))

theorem execPfFlr (h : s.Kept 2 t) : s.KeptBy (execPfFlr t) := by
  unfold Machine.execPfFlr
  have taken : s.Kept 2
    { t with stage := { t.stage with pending := false, ref := none, mode := 0, bed := 0, at_ := 0 } } := h.same
  generalize ({ t with stage := { t.stage with pending := false, ref := none, mode := 0, bed := 0, at_ := 0 } } : State) = v
    at taken ⊢
  have reset : s.Kept 2 (if v.ready then bedNums.foldl State.resetBedFlr v else v) :=
    .ite (taken.foldl fun _ _ hu => hu.resetBedFlr) taken
  exact .next reset.same

theorem execD3hotEntry (h : s.Kept 2 t) {f} : s.KeptBy (execD3hotEntry f t) :=
  .next (.ite h.updFn h)

theorem execD0Return (h : s.Kept 2 t) {f} : s.KeptBy (execD0Return f t) :=
  .next (h.updFn.foldl fun _ _ hu => hu.sendOwed)

theorem computeReset (h : s.Kept k t) : s.Kept k t.computeReset := by
  unfold State.computeReset
  have enabled : s.Kept k (bedNums.foldl
      (fun s b => if s.bedExists b || b == 0 then s.updBed b fun bd => { bd with intrEn := false } else s) t.cancelCommit) :=
    .foldl h.cancelCommit fun _ _ hu => .ite hu.updBed hu
  extract_lets s1 s2 s3 hit s4 s5
  have reset : s.Kept k s3 := .foldl enabled fun _ _ hu => hu.resetBed
  clear_value s3
  have counted : s.Kept k s5 := .foldl (State.Kept.same (t := s3) reset) fun _ _ hu => hu.updNib
  clear_value s5
  exact counted.same

theorem answer (h : s.Kept k t) {k₁ bs r1} : s.Kept k (t.answer k₁ bs r1) :=
  .ite h.reject h.replyDone

theorem execFloorPlanRead (h : s.Kept 2 t) {b q} : s.KeptBy (execFloorPlanRead b q t) :=
  .next (h.command (fun _ _ hu => hu.answer))

theorem execAttest (h : s.Kept 2 t) {b q} : s.KeptBy (execAttest b q t) :=
  .next (h.command (fun _ _ hu => hu.same.answer))

end Sys2Proof.Machine.State.Kept
end

section
set_option Elab.async false
/-! SUPPORT. What is kept by the loader and the ports. -/
namespace Sys2Proof.Machine.State.Kept

variable {s t u : State} {k : Nat}

theorem placeImages (h : s.Kept k t) {b cl forms ims} (e : t.placeImages b cl forms ims = some u) : s.Kept k u := by
  induction ims generalizing t with
  | nil => exact Option.some.inj e ▸ h
  | cons im r ih =>
    unfold State.placeImages at e
    split at e
    · cases e
    · next placed =>
      refine ih (.of_foldl_option (fun _ e => Option.some.inj e ▸ h) (fun o x ho u e => ?_) placed) e
      split at e
      · cases e
      · split at e
        · cases e
        · cases e
          exact .updNib (ho _ rfl)

theorem beginLoad (h : s.Kept k t) {b ref i m v reply len space} (e : t.beginLoad b ref i m v reply len space = some u) :
    s.Kept k u := by
  obtain ⟨x, placed, e⟩ := Option.map_eq_some_iff.mp e
  cases e
  exact .updBed (h.placeImages placed)

theorem reloaded (h : s.Kept k t) {b y slots st} : s.Kept k (t.reloaded b y slots st) :=
  h.updBed.event

theorem emptySlots (h : s.Kept k t) {b l} : s.Kept k (t.emptySlots b l) :=
  h.foldl fun _ _ hu => hu.foldl fun _ _ hu1 => hu1.updNib

theorem failLoad (h : s.Kept k t) {b l} : s.Kept k (t.failLoad b l) := by
  unfold State.failLoad
  dsimp only
  split
  · exact h.updBed.emptySlots.reloaded
  · exact .ite h.updBed.emptySlots.replyDone h.updBed.emptySlots.finish

theorem armLoad (h : s.Kept k t) {b l} : s.Kept k (t.armLoad b l) := by
  unfold State.armLoad
  dsimp only
  split
  · refine .reloaded (.updBed (h.foldl fun _ _ hu => hu.foldl fun _ _ hu1 => ?_))
    split
    · exact hu1.updNib
    · exact hu1
  · refine .replyDone (.updBed (h.foldl fun _ _ hu => hu.foldl fun _ _ hu1 => ?_))
    split
    · exact hu1.updNib
    · exact hu1

theorem armReady (h : s.Kept k t) {b} : s.Kept k (t.armReady b) :=
  .ite h (h.foldl fun _ _ hu => .ite hu.armLoad hu.failLoad)

theorem loadRound (h : s.Kept k t) {b l} : s.Kept k (t.loadRound b l) :=
  .ite h (.ite (.ite h.failLoad h.updBed.armReady) (.ite h.failLoad (.updBed (h.foldl fun _ _ hu => hu.foldl fun _ _ hu1 =>
      hu1.updNib))))

theorem report (h : s.Kept k t) {p slot r} : s.Kept k (t.report p slot r) := by
  unfold State.report
  split
  · exact h
  · exact h.updNib.loadRound

theorem afterReset (h : s.Kept k t) {b} : s.Kept k (t.afterReset b) := by
  unfold State.afterReset
  dsimp only
  split
  · exact h.updBed.updBed
  · refine .ite h.updBed.updBed.reloaded ?_
    split
    · exact h.updBed.updBed.reloaded
    · split
      · exact h.updBed.updBed.reloaded
      · next e =>
          exact h.updBed.beginLoad e

theorem linkEvent (h : s.Kept k t) {n st} : s.Kept k (t.linkEvent n st) :=
  h.event

theorem setActive (h : s.Kept k t) {n mask} : s.Kept k (t.setActive n mask) :=
  h.updPort.foldl fun _ _ hu => hu.raiseEpoch

theorem failPort (h : s.Kept k t) {n cause event} : s.Kept k (t.failPort n cause event) :=
  .ite h.updPort.setActive.linkEvent h.updPort.setActive

theorem endPortStreams (h : s.Kept k t) {n} : s.Kept k (t.endPortStreams n) :=
  .same (h.foldl fun _ _ hu => hu.endStream)

theorem streamsBack (h : s.Kept k t) {n} : s.Kept k (t.streamsBack n) :=
  h.same

theorem portUp (h : s.Kept k t) {n working} : s.Kept k (t.portUp n working) :=
  .ite h.failPort (.pumpAll (.ite (.linkEvent (.streamsBack (.setActive (.updPort (.ite (.ite h h.updPort) (.endPortStreams
      (.ite h h.updPort))))))) (.streamsBack (.setActive (.updPort (.ite (.ite h h.updPort) (.endPortStreams (.ite h
          h.updPort))))))))

theorem sendNegotiate (h : s.Kept k t) {n} : s.Kept k (t.sendNegotiate n) :=
  h.sendFrame.updPort

theorem retrainGo (h : s.Kept k t) {n} : s.Kept k (t.retrainGo n) := by
  unfold State.retrainGo
  split
  · exact h.startRetrain
  · exact .ite h h.startTraining
  · exact .ite h h.startTraining
  · exact h

theorem execLinkRetrain (h : s.Kept 2 t) {f n} : s.KeptBy (execLinkRetrain f n t) :=
  .next (.ite h.retrainGo h)

theorem execLaneAlignmentLoss (h : s.Kept 2 t) {n lane} : s.KeptBy (execLaneAlignmentLoss n lane t) :=
  .next (.ite h.startRetrain h)

theorem execRetrainComplete (h : s.Kept 2 t) {n lanes} : s.KeptBy (execRetrainComplete n lanes t) :=
  .next (.ite h (.ite h.portUp (.ite (.portUp (.ite h.updPort.sendNegotiate h)) (.ite h.updPort.sendNegotiate h))))

theorem execLinkTrainingTimeout (h : s.Kept 2 t) {n} : s.KeptBy (execLinkTrainingTimeout n t) :=
  .next (.ite h.failPort h)

theorem execNegotiate (h : s.Kept 2 t) {n raw} : s.KeptBy (execNegotiate n raw t) := by
  unfold Machine.execNegotiate
  dsimp only
  refine .next (.ite h ?_)
  split
  · next e =>
      exact h.receive.snd e
  · next e =>
      refine .ite (.updPort (h.receive.snd e)) ?_
      split
      · exact .failPort (h.receive.snd e)
      · exact .updPort (h.receive.snd e)

theorem execNegotiateRepeat (h : s.Kept 2 t) {n} : s.KeptBy (execNegotiateRepeat n t) :=
  .next (.ite h.sendNegotiate h)

theorem execIdleFrame (h : s.Kept 2 t) {n raw} : s.KeptBy (execIdleFrame n raw t) := by
  unfold Machine.execIdleFrame
  refine .next (.ite h ?_)
  split
  · next e =>
      exact h.receive.snd e
  · next e =>
      exact .frameNews (h.receive.snd e)

theorem execDataFrame (h : s.Kept 2 t) {n raw} : s.KeptBy (execDataFrame n raw t) := by
  unfold Machine.execDataFrame
  dsimp only
  refine .next (.ite h ?_)
  split
  · next e =>
      exact h.receive.snd e
  · next e =>
      refine .ite (.frameNews (h.receive.snd e)) (.ite (.updPort (.frameNews (h.receive.snd e))) ?_)
      split
      · exact .frameNews (h.receive.snd e)
      · exact .sendIdle (.updPort (.frameNews (h.receive.snd e)))

theorem execReplayTimer (h : s.Kept 2 t) {n} : s.KeptBy (execReplayTimer n t) :=
  .next (.ite h.replayDue h)

theorem execNakRepeatTimer (h : s.Kept 2 t) {n} : s.KeptBy (execNakRepeatTimer n t) := by
  unfold Machine.execNakRepeatTimer
  refine .next ?_
  split
  · exact h
  · exact .ite h.updPort.sendIdle h

theorem execRemoteWrite (h : s.Kept 2 t) {n} : s.KeptBy (execRemoteWrite n t) := by
  unfold Machine.execRemoteWrite
  refine .next ?_
  split
  · exact h
  · next e =>
    split at e
    · split
      · exact (h.takeRx e).same
      · exact .updPort (h.takeRx e)
    · cases e

theorem popControl (h : s.Kept k t) {n} : s.Kept k (t.popControl n) := by
  unfold State.popControl
  split
  · next e =>
      exact h.takeRx e
  · exact h

theorem execLevelChange (h : s.Kept 2 t) {n cl clmin seq} : s.KeptBy (execLevelChange n cl clmin seq t) := by
  unfold Machine.execLevelChange
  dsimp only
  refine .next (.ite h ?_)
  split
  · exact h.popControl
  · exact h.popControl.updPort

theorem offerLevels (h : s.Kept k t) : s.Kept k t.offerLevels :=
  h.foldl fun _ _ hu => hu.emit

theorem execEthernetFrame (h : s.Kept 2 t) {n raw} : s.KeptBy (execEthernetFrame n raw t) := by
  unfold Machine.execEthernetFrame
  refine .next (.ite h ?_)
  split
  · exact h.updPort
  · exact h.updPort

end Sys2Proof.Machine.State.Kept
end

section
set_option Elab.async false
/-! SUPPORT. What is kept by updates, temperatures and bring-up. -/
namespace Sys2Proof.Machine.State.Kept

variable {s t u : State} {k : Nat}

theorem stageBytes (h : s.Kept k t) {off bs} : s.Kept k (t.stageBytes off bs) :=
  h.same

theorem endUpdate (h : s.Kept k t) {p st detail r0} : s.Kept k (t.endUpdate p st detail r0) :=
  h.same.finish

theorem execUpdateWrite (h : s.Kept 2 t) {b q} : s.KeptBy (execUpdateWrite b q t) := by
  unfold Machine.execUpdateWrite
  refine .next (h.command (fun _ _ hu => ?_))
  split
  · exact hu.stageBytes.endUpdate
  · exact hu.stageBytes.endUpdate
  · exact hu.stageBytes.endUpdate
  · exact hu.endUpdate

theorem execUpdateVerify (h : s.Kept 2 t) {b q} : s.KeptBy (execUpdateVerify b q t) := by
  unfold Machine.execUpdateVerify
  refine .next (h.command (fun _ _ hu => ?_))
  split
  · split
    · exact hu.same.endUpdate
    · exact hu.same.endUpdate
  · split
    · exact hu.same.endUpdate
    · exact hu.same.endUpdate
  · exact hu.endUpdate

theorem execUpdateActivate (h : s.Kept 2 t) {b q} : s.KeptBy (execUpdateActivate b q t) :=
  .next (h.command (fun _ _ hu => .ite hu.endUpdate (.ite hu.endUpdate (.ite hu.endUpdate hu.same))))

theorem startPause (h : s.Kept k t) : s.Kept k t.startPause :=
  .same (h.foldl fun _ _ hu => hu.updBed)

theorem resume (h : s.Kept k t) : s.Kept k t.resume :=
  .same (h.foldl fun _ _ hu => hu.updBed)

theorem runImage (h : s.Kept k t) {slot} : s.Kept k (t.runImage slot) :=
  h.same.offerLevels

theorem toTrial (h : s.Kept k t) : s.Kept k t.toTrial := by
  unfold State.toTrial
  dsimp only
  split
  · exact h.resume.runImage.same.same.endUpdate
  · exact h.resume.runImage.same.same

theorem toActive (h : s.Kept k t) {cause} : s.Kept k (t.toActive cause) :=
  h.resume.runImage.same.event

theorem execHandover (h : s.Kept 2 t) : s.KeptBy (execHandover t) := by
  unfold Machine.execHandover
  dsimp only
  refine .next (.ite h ?_)
  split
  · exact h.same.startPause
  · refine .ite h ?_
    split
    · exact h.toTrial
    · exact h.toActive
  · exact h

theorem execHandoverPauseTimeout (h : s.Kept 2 t) : s.KeptBy (execHandoverPauseTimeout t) := by
  unfold Machine.execHandoverPauseTimeout
  dsimp only
  refine .next ?_
  split
  · exact h
  · refine .ite h (.ite h.resume.same ?_)
    split
    · exact h.resume.same.same.endUpdate
    · exact h.resume.same.same

theorem execHandoverRetry (h : s.Kept 2 t) : s.KeptBy (execHandoverRetry t) := by
  unfold Machine.execHandoverRetry
  refine .next ?_
  split
  · exact h
  · exact .ite h.startPause h

theorem handBack (h : s.Kept k t) {cause} : s.Kept k (t.handBack cause) :=
  h.same.startPause

theorem execSelfTest (h : s.Kept 2 t) {ok} : s.KeptBy (execSelfTest ok t) :=
  .next (.ite (.ite h.same h.handBack) h)

theorem execSelftestTimeout (h : s.Kept 2 t) : s.KeptBy (execSelftestTimeout t) :=
  .next (.ite h.handBack h)

theorem execHealthWindowExpiry (h : s.Kept 2 t) : s.KeptBy (execHealthWindowExpiry t) :=
  .next (.ite h.handBack h)

theorem execUpdateConfirm (h : s.Kept 2 t) {b q} : s.KeptBy (execUpdateConfirm b q t) :=
  .next (h.command (fun _ _ hu => .ite hu.endUpdate hu.same.endUpdate))

theorem resetTrial (h : s.Kept k t) : s.Kept k t.resetTrial :=
  .ite h.same h

theorem execLifeHourTick (h : s.Kept 2 t) : s.KeptBy (execLifeHourTick t) :=
  .next (.ite h.same h)

theorem endRec (h : s.Kept k t) {ok st detail} : s.Kept k (t.endRec ok st detail) :=
  h.same

theorem execRecWrite (h : s.Kept 2 t) : s.KeptBy (execRecWrite t) :=
  .next (.ite h (.ite h.endRec h.same.endRec))

theorem execRecVerify (h : s.Kept 2 t) : s.KeptBy (execRecVerify t) := by
  unfold Machine.execRecVerify
  refine .next (.ite h ?_)
  split
  · exact h.same.endRec
  · exact h.same.endRec

theorem execRecInstall (h : s.Kept 2 t) : s.KeptBy (execRecInstall t) :=
  .next (.ite h (.ite h.endRec h.same.endRec))

theorem recCommand (h : s.Kept k t) {v} : s.Kept k (t.recCommand v) :=
  .ite h h.same

theorem execLicenceInstall (h : s.Kept 2 t) {b q} : s.KeptBy (execLicenceInstall b q t) := by
  unfold Machine.execLicenceInstall
  dsimp only
  refine .next (h.command (fun _ _ hu => ?_))
  split
  · exact hu.reject
  · exact hu.same.same.finish

theorem noteAlert (h : s.Kept k t) {v : State} : s.Kept k (v.noteAlert t) :=
  .ite h.emit h

theorem thermEvent (h : s.Kept k t) {bits} : s.Kept k (t.thermEvent bits) :=
  h.same.noteAlert

theorem sense (h : s.Kept k t) {r} : s.Kept k (t.sense r) :=
  .ite h.same.thermEvent h.same

theorem noteBelow (h : s.Kept k t) {r} : s.Kept k (t.noteBelow r) :=
  h.same

theorem setDivReq (h : s.Kept (k + 2) t) {d} : s.Kept (k + 2) (t.setDivReq d) := by
  unfold State.setDivReq
  have event : s.Kept (k + 2) (State.thermEvent { t with therm := { t.therm with divReq := d, below := none } } 1) :=
    h.same.thermEvent
  exact event.repend.same2

theorem execThrottleRequest (h : s.Kept 2 t) {r} : s.KeptBy (execThrottleRequest r t) :=
  .next (.noteBelow (.ite h.sense.setDivReq h.sense))

theorem execDivReqFall (h : s.Kept 2 t) {r} : s.KeptBy (execDivReqFall r t) := by
  unfold Machine.execDivReqFall
  dsimp only
  refine .next ?_
  split
  · exact h.sense.noteBelow
  · exact .ite h.sense.noteBelow.setDivReq.noteBelow h.sense.noteBelow

theorem execThermtrip (h : s.Kept 2 t) {r} : s.KeptBy (execThermtrip r t) :=
  .next (.ite h.sense.same.noteAlert h.sense)

theorem execHbmHot (h : s.Kept 2 t) {r} : s.KeptBy (execHbmHot r t) :=
  .next (.ite h.sense.same h.sense.same.thermEvent)

theorem execSensorFailure (h : s.Kept 2 t) {i} : s.KeptBy (execSensorFailure i t) := by
  unfold Machine.execSensorFailure
  extract_lets failed therm s1 dead therm' s2
  have event : s.Kept 2 s1 := h.same.thermEvent
  have stuck : s.Kept 2 s2 := State.Kept.same (t := s1) event
  exact .next (.ite (.ite stuck stuck.setDivReq) event)

theorem execPllLoss (h : s.Kept 2 t) : s.KeptBy (execPllLoss t) :=
  .next (.ite h (.noteAlert (.same2 h)))

theorem execTwinPres (h : s.Kept 2 t) {present} : s.KeptBy (execTwinPres present t) :=
  .next (.ite h h.same.thermEvent.event)

theorem restart (_ : s.Kept (k + 2) t) {boot pcie therm} : s.Kept (k + 2) (t.restart boot pcie therm) :=
  ⟨fun _ => rfl, fun hk => absurd hk (by omega), fun hk => absurd hk (Nat.succ_ne_zero _)⟩

theorem warmReset (h : s.Kept (k + 2) t) : s.Kept (k + 2) t.warmReset :=
  .ite h h.restart

theorem coldReset (h : s.Kept (k + 2) t) : s.Kept (k + 2) t.coldReset :=
  h.restart

theorem setPower (h : s.Kept k t) {io mem core} : s.Kept k (t.setPower io mem core) :=
  h.same

theorem execColdReset (h : s.Kept 2 t) {power} : s.KeptBy (execColdReset power t) :=
  .next (.ite h.coldReset.setPower h.coldReset.same)

theorem execPerstRelease (h : s.Kept 2 t) {speed width flit} : s.KeptBy (execPerstRelease speed width flit t) :=
  .next (.ite h h.same)

theorem execPowerGoodLoss (h : s.Kept 2 t) {io mem core} : s.KeptBy (execPowerGoodLoss io mem core t) :=
  .next (.ite h h.coldReset.setPower)

theorem execPowerGoodAssertion (h : s.Kept 2 t) {mode addr} : s.KeptBy (execPowerGoodAssertion mode addr t) :=
  .next (.ite h (.ite h.coldReset.same h.coldReset.setPower))

theorem execComputeReset (h : s.Kept 2 t) {f} : s.KeptBy (execComputeReset f t) := by
  unfold Machine.execComputeReset
  have reset : s.Kept 2 t.computeReset := h.computeReset
  generalize t.computeReset = v at reset ⊢
  exact .next (.ite reset.same h)

theorem execBootWarmReset (h : s.Kept 2 t) {f} : s.KeptBy (execBootWarmReset f t) :=
  .next (.ite h.warmReset h)

theorem startBoot (h : s.Kept k t) {n} : s.Kept k (t.startBoot n) :=
  .ite h.same.same h.same.same

theorem endBoot (h : s.Kept k t) {n detail} : s.Kept k (t.endBoot n detail) :=
  h.same

theorem failBoot (h : s.Kept k t) {cause code detail} : s.Kept k (t.failBoot cause code detail) :=
  .ite h.same.logEntry h.same

theorem execBootStepTimeout (h : s.Kept 2 t) : s.KeptBy (execBootStepTimeout t) :=
  .next (.ite h.failBoot h)

theorem execBringUpStep1 (h : s.Kept 2 t) {locked} : s.KeptBy (execBringUpStep1 locked t) :=
  .next (.ite h (.ite h.failBoot h.same2.endBoot))

theorem execBringUpStep2 (h : s.Kept 2 t) : s.KeptBy (execBringUpStep2 t) :=
  .next (.ite h (.ite h.failBoot h.same.endBoot))

theorem disable (h : s.Kept k t) {ps} : s.Kept k (t.disable ps) :=
  h.foldl fun _ _ hu => .ite hu.updNib hu

theorem execBringUpStep3 (h : s.Kept 2 t) {nibs perimeter} : s.KeptBy (execBringUpStep3 nibs perimeter t) :=
  .next (.ite h (.ite h.disable.failBoot h.disable.endBoot))

theorem execBringUpStep4 (h : s.Kept 2 t) {a b bad} : s.KeptBy (execBringUpStep4 a b bad t) := by
  unfold Machine.execBringUpStep4
  dsimp only
  refine .next (.ite h ?_)
  split
  · exact h.same.failBoot
  · exact .ite h.same.failBoot h.same.endBoot

theorem execBringUpStep5 (h : s.Kept 2 t) {nibs routers samplers} : s.KeptBy (execBringUpStep5 nibs routers samplers t) :=
  .next (.ite h (.ite h.disable.same.failBoot h.disable.same.same.endBoot))

theorem applyStore (h : s.Kept (k + 1) t) {p} : s.Kept (k + 1) (t.applyStore p) := by
  unfold State.applyStore
  refine h.foldl fun _ _ hu => ?_
  split
  · exact .ite hu.setCfg hu
  · exact hu

theorem execBringUpStep6 (h : s.Kept 2 t) {hbm lp} : s.KeptBy (execBringUpStep6 hbm lp t) := by
  unfold Machine.execBringUpStep6
  refine .next (.ite h ?_)
  have cleared : ∀ v : State, v.mem = [] → s.Kept 2 v := fun v hv =>
    ⟨fun _ => by unfold State.Sound; rw [hv]; rfl, fun hk => absurd hk (by omega), fun hk => absurd hk (by omega)⟩
  exact .ite (.failBoot (cleared _ rfl)) (.endBoot (cleared _ rfl))

theorem bootPort (h : s.Kept k t) {n r} : s.Kept k (t.bootPort n r) := by
  unfold State.bootPort
  dsimp only
  refine .ite h ?_
  split
  · exact h.startTraining.failPort
  · refine .ite h.startTraining.portUp ?_
    split
    · exact h.startTraining.failPort
    · split
      · exact h.startTraining.failPort
      · exact h.startTraining.updPort.portUp

theorem execBringUpStep7 (h : s.Kept 2 t) {ports} : s.KeptBy (execBringUpStep7 ports t) :=
  .next (.ite h (.endBoot (h.applyStore.foldl fun _ _ hu => hu.bootPort)))

theorem execBringUpStep8 (h : s.Kept 2 t) : s.KeptBy (execBringUpStep8 t) :=
  .next (.ite h h.applyStore.same.same.same2.repend.endBoot)

theorem execBringUpStep9 (h : s.Kept 2 t) : s.KeptBy (execBringUpStep9 t) :=
  .next (.ite h (.ite h.same.endBoot.event h.same.endBoot))

theorem execFenceNow (h : s.Kept 2 t) {f p} : s.KeptBy (execFenceNow f p t) :=
  .next (.ite h.fence h)

theorem execClearRetirementMark (h : s.Kept 2 t) {f p} : s.KeptBy (execClearRetirementMark f p t) :=
  .next (.ite h.same h)

theorem execScribeRetirement (h : s.Kept 2 t) {k₁} : s.KeptBy (execScribeRetirement k₁ t) :=
  .next (.ite h h.same.raiseEpoch)

theorem execSamplerRetirement (h : s.Kept 2 t) {k₁} : s.KeptBy (execSamplerRetirement k₁ t) :=
  .next (.ite h h.same.raiseEpoch)

theorem execPcieLinkRetraining (h : s.Kept 2 t) {speed width flit} : s.KeptBy (execPcieLinkRetraining speed width flit t) :=
  .next (.ite h.same h)

theorem execVfEnable (h : s.Kept 2 t) {num} : s.KeptBy (execVfEnable num t) :=
  .next (.ite h (h.same.foldl fun _ _ hu => hu.sendOwed))

end Sys2Proof.Machine.State.Kept
end

section
set_option Elab.async false
/-! SUPPORT. What is kept by steps, copies and pages. -/
namespace Sys2Proof.Machine.State.Kept

variable {s t u : State} {k : Nat}

theorem chunkFrames (h : s.Kept k t) {i pos0 new} : s.Kept k (t.chunkFrames i pos0 new) := by
  unfold State.chunkFrames
  dsimp only
  split
  · exact h
  · refine .ite h ?_
    split
    · exact h
    · exact h.swap.updReq

theorem enterSeq (h : s.Kept k t) {w row0 bucket} : s.Kept k (t.enterSeq w row0 bucket).2 := by
  unfold State.enterSeq
  dsimp only
  split
  · exact h.chunkFrames.readList.dropRequest
  · refine .foldl (.updSes ?_) fun _ _ hu => hu.stepBatch
    split
    · next e =>
        exact .writeDev (h.chunkFrames.readList.arenaTake e)
    · exact h.chunkFrames.readList

theorem enterAll (h : s.Kept k t) {p row0 ws} : s.Kept k (t.enterAll p row0 ws).2.2 := by
  induction ws generalizing t row0 with
  | nil => exact h
  | cons w ws ih =>
    unfold State.enterAll
    dsimp only
    split
    · next e => exact ih (.snd h.enterSeq e)
    · next e => exact ih (.snd h.enterSeq e)

theorem dropLate (h : s.Kept k t) {b} : s.Kept k (t.dropLate b) :=
  h.foldl fun _ _ hu => hu.missDeadline

theorem publishStep (h : s.Kept k t) {b interactive t₁} : s.Kept k (t.publishStep b interactive t₁) :=
  h.updBed

theorem buildStep (h : s.Kept k t) {b interactive slot p bulk fuel taken lists} :
    s.Kept k (t.buildStep b interactive slot p bulk fuel taken lists) := by
  induction fuel generalizing taken lists with
  | zero => exact h
  | succ fuel ih =>
    unfold State.buildStep
    dsimp only
    refine .ite h.enterAll ?_
    split
    · exact h.enterAll.publishStep
    · split
      · exact ih
      · split
        · exact h.dropRequest
        · exact h

theorem execStepDescriptorPublish (h : s.Kept 2 t) {b lists} : s.KeptBy (execStepDescriptorPublish b lists t) := by
  unfold Machine.execStepDescriptorPublish
  dsimp only
  refine .next (.ite h ?_)
  split
  · exact h.dropLate.fetchPages
  · exact h.dropLate.fetchPages.buildStep

theorem enterGiven (h : s.Kept k t) {rs ws} : s.Kept k (t.enterGiven rs ws).2 := by
  induction rs generalizing t ws with
  | nil => exact h
  | cons r rs ih =>
    cases ws with
    | nil => exact h
    | cons w ws =>
      unfold State.enterGiven
      dsimp only
      split
      · next e => exact ih (.snd (.ite_snd h.missDeadline h.enterSeq) e)
      · next e => exact ih (.snd (.ite_snd h.missDeadline h.enterSeq) e)

theorem execStepCmd (h : s.Kept 2 t) {b q} : s.KeptBy (execStepCmd b q t) := by
  unfold Machine.execStepCmd
  dsimp only
  refine .next (h.command (fun _ _ hu => .ite hu.reject (.ite hu.reject ?_)))
  split
  · exact hu.finish
  · split
    · exact hu.finish
    · split
      · exact hu.reject
      · refine .ite hu.reject (.ite hu.reject (.ite hu.reject (.ite hu.reject ?_)))
        split
        · exact hu.finish
        · exact .ite h (.ite hu.enterGiven.finish hu.enterGiven.publishStep)

theorem startStep (h : s.Kept k t) {b} : s.Kept k (t.startStep b) := by
  unfold State.startStep
  dsimp only
  split
  · exact h
  · exact .ite h (h.updBed.foldl fun _ _ hu => hu.updNib)

theorem startSteps (h : s.Kept k t) : s.Kept k t.startSteps :=
  h.foldl fun _ _ hu => hu.startStep

theorem execStepStart (h : s.Kept 2 t) {b} : s.KeptBy (execStepStart b t) :=
  .next h.startStep

theorem samplersEnd (h : s.Kept k t) : s.Kept k t.samplersEnd :=
  h.same

theorem execSamplerJob (h : s.Kept 2 t) {k₁ b seq logits} : s.KeptBy (execSamplerJob k₁ b seq logits t) := by
  unfold Machine.execSamplerJob
  dsimp only
  refine .next ?_
  split
  · exact h
  · split
    · exact h
    · refine .ite h ?_
      split
      · exact h
      · exact h.same

theorem execStepWatchdog (h : s.Kept 2 t) {b} : s.KeptBy (execStepWatchdog b t) := by
  unfold Machine.execStepWatchdog
  refine .next ?_
  split
  · exact h
  · exact .ite h.bedFault h

theorem execDeadlineExpiry (h : s.Kept 2 t) {i} : s.KeptBy (execDeadlineExpiry i t) := by
  unfold Machine.execDeadlineExpiry
  dsimp only
  refine .next ?_
  split
  · exact h
  · exact .ite h.missDeadline h

theorem execSessionIdleExpiry (h : s.Kept 2 t) {i} : s.KeptBy (execSessionIdleExpiry i t) :=
  .next (.ite h.closeNow.event h)

theorem careChannels (h : s.Kept (k + 1) t) : s.Kept (k + 1) t.careChannels :=
  .retrainNext (.retrainNext (.tendRetiring (h.foldl fun _ _ hu => hu.markChannel)))

theorem retrainWrite (h : s.Kept k t) {lp ch migrate} : s.Kept k (t.retrainWrite lp ch migrate) :=
  .ite h.queueRetrain.emptyChans h.queueRetrain

theorem execHbmRetrainWait (h : s.Kept 2 t) {f lp ch} : s.KeptBy (execHbmRetrainWait f lp ch t) :=
  .next (.ite h.retrainWrite h)

theorem execHbmRetrainMigrate (h : s.Kept 2 t) {f lp ch} : s.KeptBy (execHbmRetrainMigrate f lp ch t) :=
  .next (.ite h.retrainWrite h)

theorem execMemoryRetrainEnd (h : s.Kept 2 t) {lp r} : s.KeptBy (execMemoryRetrainEnd lp r t) := by
  unfold Machine.execMemoryRetrainEnd
  dsimp only
  refine .next ?_
  split
  · exact h
  · exact .retrainNext (.ite h.same.updChan h.same.updChan.updChan.markChannel)

theorem execPhyCalibrationDrift (h : s.Kept 2 t) {lp ch} : s.KeptBy (execPhyCalibrationDrift lp ch t) :=
  .next (.ite h.queueRetrain h)

theorem execMemoryScrub (h : s.Kept 2 t) {lp q} : s.KeptBy (execMemoryScrub lp q t) := by
  unfold Machine.execMemoryScrub
  dsimp only
  refine .next (.ite h ?_)
  split
  · exact h.updChan.uncorrEvent
  · exact h.updChan.countCorr.putOne
  · exact h.updChan

theorem dropCopy (h : s.Kept k t) {k₁} : s.Kept k (t.dropCopy k₁) :=
  .endCopyJob (h.same.foldl fun _ _ hu => hu.updFrame)

theorem failCopy (h : s.Kept k t) {k₁ st} : s.Kept k (t.failCopy k₁ st) := by
  unfold State.failCopy
  dsimp only
  split
  · exact .ite h.dropCopy.dropRequest h.dropCopy
  · exact h.dropCopy

theorem readUnits (h : s.Kept k t) {g es l} : s.Kept k (t.readUnits g es l).2 := by
  induction l generalizing t with
  | nil => exact h
  | cons x l ih =>
    unfold State.readUnits
    dsimp only
    split
    · next e => exact .snd h.readDev e
    · next e =>
      split
      · next e2 => exact .snd (ih (.snd h.readDev e)) e2
      · next e2 => exact .snd (ih (.snd h.readDev e)) e2

theorem publishCopy (h : s.Kept k t) {c} (e : t.publishCopy c = some u) : s.Kept k u := by
  obtain ⟨x, edited, e⟩ := Option.map_eq_some_iff.mp e
  cases e
  exact .foldl (h.edit edited) fun _ _ hu => hu.updFrame

theorem prefetched (h : s.Kept k t) {i} : s.Kept k (t.prefetched i) :=
  .ite h h.updReq

theorem execFrameCopyComplete (h : s.Kept 2 t) {i p} : s.KeptBy (execFrameCopyComplete i p t) := by
  unfold Machine.execFrameCopyComplete
  refine .next ?_
  split
  · exact h
  · refine .ite h (.ite h.dropCopy.prefetched ?_)
    dsimp only
    split
    · next e => exact .failCopy (.uncorrEvent (h.readUnits.snd e))
    · next e =>
      have read := h.readUnits.snd e
      split
      · exact read
      · next e1 =>
        have published := State.Kept.publishCopy (s := s) (k := 2) (by
          refine .foldl read fun _ _ hu => ?_
          split
          · exact hu.writeDev
          · exact hu) e1
        exact .emptyChans (.prefetched (.endCopyJob (.ite published.same.updReq published.same)))

theorem spillPages (h : s.Kept k t) {b i mark ps} : s.Kept k (t.spillPages b i mark ps) := by
  induction ps generalizing t with
  | nil => exact h
  | cons p ps ih =>
    unfold State.spillPages
    refine .ite h (.ite (ih h) ?_)
    split
    · exact h
    · next e => exact ih (h.planCopies e)

theorem execKvSpill (h : s.Kept 2 t) {b} : s.KeptBy (execKvSpill b t) :=
  .next (.ite h (h.evictTo.foldl fun _ _ hu => hu.spillPages))

theorem execDmaProgressTimeout (h : s.Kept 2 t) {c} : s.KeptBy (execDmaProgressTimeout c t) := by
  unfold Machine.execDmaProgressTimeout
  dsimp only
  refine .next ?_
  split
  · exact h
  · refine .ite h (.assignDma ?_)
    split
    · split
      · exact h.updDma.failCopy
      · exact h.updDma
    · exact h.updDma.endStream
    · exact h.updDma

theorem pageRows (h : s.Kept k t) {p r n} : s.Kept k (t.pageRows p r n).2 := by
  induction n generalizing t r with
  | zero => exact h
  | succ n ih =>
    unfold State.pageRows
    split
    · exact h
    · split
      · next e => exact .snd h.readDev e
      · next e =>
        split
        · next e2 => exact .snd (ih (.snd h.readDev e)) e2
        · next e2 => exact .snd (ih (.snd h.readDev e)) e2

theorem putRows (h : s.Kept k t) {p r rows} : s.Kept k (t.putRows p r rows) := by
  unfold State.putRows
  refine h.foldl fun _ _ hu => ?_
  split
  · exact hu.writeDev
  · exact hu

theorem recordRow (h : s.Kept k t) {p row} : s.Kept k (t.recordRow p row).2 := by
  unfold State.recordRow
  split
  · exact h.setNib
  · exact h.setNib

theorem record (h : s.Kept k t) {kv4 x t₁ cb} : s.Kept k (t.record kv4 x t₁ cb).2 := by
  unfold State.record
  dsimp only
  split
  · next e =>
      exact h.recordRow.snd e
  · next e =>
      split
      · next e1 =>
          exact .snd (.recordRow (h.recordRow.snd e)) e1
      · next e1 =>
          exact .snd (.recordRow (h.recordRow.snd e)) e1

theorem freeRows (h : s.Kept k t) {n} : s.Kept k (t.freeRows n).2 := by
  induction n generalizing t with
  | zero => exact h
  | succ n ih => exact ih h.same

theorem placeRecords (h : s.Kept k t) {p prog q j l acc} : s.Kept k (t.placeRecords p prog q j l acc).2 := by
  induction l generalizing t acc with
  | nil => exact h
  | cons pos l ih =>
    unfold State.placeRecords
    dsimp only
    split
    · exact ih h
    · split
      · next e => exact .snd h.record e
      · next e => exact ih (.snd h.record e)

theorem writeSet (h : s.Kept k t) {p prog q j} : s.Kept k (t.writeSet p prog q j).2 := by
  unfold State.writeSet
  dsimp only
  split
  · exact .ite_snd h.pageRows h.freeRows
  · split
    · next e => exact .snd (.placeRecords (.ite_snd h.pageRows h.freeRows)) e
    · next e => exact .putRows (.snd (.placeRecords (.ite_snd h.pageRows h.freeRows)) e)

theorem writeSets (h : s.Kept k t) {p prog q l} : s.Kept k (t.writeSets p prog q l).2 := by
  induction l generalizing t with
  | nil => exact h
  | cons j l ih =>
    unfold State.writeSets
    split
    · next e => exact .snd h.writeSet e
    · next e =>
      split
      · next e2 => exact .snd (ih (.snd h.writeSet e)) e2
      · next e2 => exact .snd (ih (.snd h.writeSet e)) e2

theorem writeSummaries (h : s.Kept k t) {p full l} : s.Kept k (t.writeSummaries p full l).2 := by
  induction l generalizing t with
  | nil => exact h
  | cons x l ih =>
    unfold State.writeSummaries
    split
    · split
      · next e => exact .snd h.pageRows e
      · next e => exact ih (.putRows (.snd h.pageRows e))
    · exact ih h.putRows

theorem writePages (h : s.Kept k t) {g m es layer prog q session l} :
    s.Kept k (t.writePages g m es layer prog q session l).2 := by
  induction l generalizing t with
  | nil => exact h
  | cons pg l ih =>
    unfold State.writePages
    dsimp only
    split
    · next e => exact .snd h.writeSets e
    · next e =>
      have pages := State.Kept.snd h.writeSets e
      split
      · next e2 => exact .snd pages.putRows.writeSummaries e2
      · next e2 =>
        have summaries := State.Kept.snd pages.putRows.writeSummaries e2
        split
        · next e3 => exact .snd (ih summaries) e3
        · next e3 => exact .snd (ih summaries) e3

theorem listKept (h : s.Kept k t) {q} : s.Kept k (t.listKept q).2 := by
  unfold State.listKept
  split
  · next e =>
      exact h.readDev.snd e
  · next e =>
      exact h.readDev.snd e

theorem releaseRow (h : s.Kept k t) {b c x} : s.Kept k (t.releaseRow b c x) :=
  h.same

theorem updSeq (h : s.Kept k t) {b k₁ f} : s.Kept k (t.updSeq b k₁ f) :=
  h.updBed

theorem execPageWriter (h : s.Kept 2 t) {b k₁ layer prog} : s.KeptBy (execPageWriter b k₁ layer prog t) := by
  unfold Machine.execPageWriter
  dsimp only
  refine .next ?_
  split
  · exact h
  · split
    · exact h
    · refine .ite h ?_
      split
      · exact h
      · split
        · next e =>
            split
            · exact h.writePages.snd e
            · exact .bedFault (.uncorrEvent (h.writePages.snd e))
        · next e =>
            exact .ite (.foldl (.updSeq (.foldl (.updDma (h.writePages.snd e)) fun _ _ hu => hu.releaseRow)) fun _ _ hu =>
                hu.eligible) (.drain (.updSeq (.listKept (.foldl (.updSeq (.foldl (.updDma (h.writePages.snd e)) fun _ _ hu =>
                    hu.releaseRow)) fun _ _ hu => hu.eligible))))

theorem pageArrival (h :
    s.Kept k t) {c b seq layer page row n pkt} : s.Kept k (t.pageArrival c b seq layer page row n pkt) := by
  unfold State.pageArrival
  dsimp only
  split
  · exact h
  · refine .ite h ?_
    split
    · next e =>
        exact .bedFault (.uncorrEvent (h.pageRows.snd e))
    · next e =>
        exact .same (h.pageRows.snd e)

theorem execAsyncWriteArrival (h : s.Kept 2 t) {a} : s.KeptBy (execAsyncWriteArrival a t) := by
  unfold Machine.execAsyncWriteArrival
  refine .next (.ite h ?_)
  split
  · split
    · exact h
    · exact .ite h (.ite h.arrive.same h.arrive)
  · exact h.arrive
  · exact h.pageArrival

end Sys2Proof.Machine.State.Kept
end

section
set_option Elab.async false
/-! SUPPORT. What is kept by the shipper. -/
namespace Sys2Proof.Machine.State.Kept

variable {s t u : State} {k : Nat}

theorem frontAct (h : s.Kept k t) {n bs src} (e : t.frontAct n = some (bs, src, u)) : s.Kept k u := by
  unfold State.frontAct at e
  split at e
  · split at e
    · cases e
    · cases e
      exact h.updPort
  · obtain ⟨x, taken, e⟩ := Option.map_eq_some_iff.mp e
    cases e
    exact h.takeRx taken

theorem actRow (h : s.Kept k t) {n type f}
    (f_kept : ∀ u x1 x2 x3, s.Kept k u → s.Kept k (f u x1 x2 x3)) : s.Kept k (t.actRow n type f) := by
  unfold State.actRow
  refine .ite h ?_
  split
  · exact h
  · next e =>
      split
      · exact h.frontAct e
      · exact .ite (f_kept _ _ _ _ (h.frontAct e)) h

theorem buildMsg (h : s.Kept k t) {t₁ m} : s.Kept k (t.buildMsg t₁ m).2 := by
  unfold State.buildMsg
  dsimp only
  split
  · exact h
  · exact h
  · exact h
  · exact h
  · exact h
  · split
    · next e =>
        exact h.pageRows.snd e
    · next e =>
        exact h.pageRows.snd e
  · split
    · next e =>
        exact h.pageRows.snd e
    · next e =>
        exact h.pageRows.snd e

theorem breakStream (h : s.Kept k t) {num a} : s.Kept k (t.breakStream num a) :=
  h.uncorrEvent.updTx

theorem sendTx (h : s.Kept k t) {t₁ bs} : s.Kept k (t.sendTx t₁ bs) :=
  h.sendVia

theorem post (h : s.Kept k t) {num batch k₁} : s.Kept k (t.post num batch k₁).1 := by
  unfold State.post
  dsimp only
  split
  · exact h
  · split
    · next e =>
        exact .breakStream (h.buildMsg.snd e)
    · next e =>
        exact .sendTx (.updTx (h.buildMsg.snd e))

theorem postAll (h : s.Kept k t) {num batch l} : s.Kept k (t.postAll num batch l).1 := by
  induction l generalizing t with
  | nil => exact h
  | cons x l ih =>
    unfold State.postAll
    split
    · next e => exact .fst h.post e
    · next e => exact ih (.fst h.post e)

theorem updBatch (h : s.Kept k t) {num b f} : s.Kept k (t.updBatch num b f) :=
  h.updTx

theorem releaseShipped (h : s.Kept k t) {num} : s.Kept k (t.releaseShipped num) := by
  unfold State.releaseShipped
  dsimp only
  split
  · exact h
  · exact .ite h (.ite h h.swap)

theorem dropBatches (h : s.Kept k t) {num} : s.Kept k (t.dropBatches num) := by
  unfold State.dropBatches
  split
  · exact h
  · exact h.updTx.drain.releaseShipped

theorem closeStream (h : s.Kept k t) {num} : s.Kept k (t.closeStream num) := by
  unfold State.closeStream
  dsimp only
  split
  · exact h
  · refine .ite h.endStream ?_
    split
    · exact h.endStream.closeNow
    · exact .ite h.endStream h.endStream.updReq.cancelReq

theorem streamDone (h : s.Kept k t) {num} : s.Kept k (t.streamDone num) := by
  unfold State.streamDone
  split
  · exact h
  · exact .ite h.closeStream h

theorem itemSent (h : s.Kept k t) {t₁ b c layer bytes} : s.Kept k (t.itemSent t₁ b c layer bytes) :=
  .drain (.ite h.updBatch.updTx.updDma h.updBatch.updTx.updDma.assignDma)

theorem hostPage (h : s.Kept k t) {t₁ b c layer j} : s.Kept k (t.hostPage t₁ b c layer j) := by
  unfold State.hostPage
  dsimp only
  refine .ite h.updTx ?_
  split
  · next e =>
      exact .breakStream (h.pageRows.snd e)
  · next e =>
      exact .itemSent (.updTx (.emit (.emit (h.pageRows.snd e))))

theorem sendItem (h : s.Kept k t) {t₁ b layer page} : s.Kept k (t.sendItem t₁ b layer page) := by
  unfold State.sendItem
  dsimp only
  split
  · exact h
  · refine .ite h.hostPage ?_
    split
    · next e =>
        exact .dropShip (h.postAll.fst e)
    · next e =>
        exact .itemSent (h.postAll.fst e)

theorem batchOver (h : s.Kept k t) {num b} : s.Kept k (t.batchOver num b) :=
  h.updBatch.dropBatches.streamDone

theorem settleBatch (h : s.Kept k t) {t₁ b k₁} : s.Kept k (t.settleBatch t₁ b k₁) := by
  unfold State.settleBatch
  dsimp only
  refine .batchOver ?_
  split
  · exact h.post.updTx
  · exact h.post

theorem settleNext (h : s.Kept k t) {t₁ b k₁} : s.Kept k (t.settleNext t₁ b k₁) := by
  unfold State.settleNext
  refine .ite h.settleBatch ?_
  split
  · exact h.updTx.batchOver
  · exact h.batchOver

theorem shipNext (h : s.Kept k t) {t₁} : s.Kept k (t.shipNext t₁) := by
  unfold State.shipNext
  dsimp only
  refine .ite h.post (.ite h ?_)
  split
  · exact .ite h (.ite h.streamDone h.post.updTx.streamDone)
  · split
    · exact h.post.updBatch
    · split
      · exact h.settleNext
      · split
        · exact h.sendItem
        · exact h

theorem execShipperSend (h : s.Kept 2 t) {num} : s.KeptBy (execShipperSend num t) := by
  unfold Machine.execShipperSend
  refine .next ?_
  split
  · exact h
  · exact .ite h h.shipNext

theorem resend (h : s.Kept k t) {num seq} : s.Kept k (t.resend num seq) := by
  unfold State.resend
  dsimp only
  split
  · exact h
  · split
    · exact h
    · refine .ite h (.ite h.endStream ?_)
      split
      · next e =>
          refine .endStream ?_
          split
          · split
            · exact .post (.breakStream (h.buildMsg.snd e))
            · exact .breakStream (h.buildMsg.snd e)
          · exact .breakStream (h.buildMsg.snd e)
      · next e =>
          exact .sendTx (.updTx (h.buildMsg.snd e))

theorem execOpenAck (h : s.Kept 2 t) {n} : s.KeptBy (execOpenAck n t) := by
  unfold Machine.execOpenAck
  dsimp only
  refine .next (h.actRow (fun _ _ _ _ hu => ?_))
  split
  · exact hu
  · split
    · exact .ite hu hu.updTx
    · exact hu.updTx

theorem execActAck (h : s.Kept 2 t) {n} : s.KeptBy (execActAck n t) := by
  unfold Machine.execActAck
  dsimp only
  refine .next (h.actRow (fun _ _ _ _ hu => ?_))
  split
  · exact hu
  · exact hu.updTx.dropBatches.streamDone

theorem execActNack (h : s.Kept 2 t) {n} : s.KeptBy (execActNack n t) := by
  unfold Machine.execActNack
  dsimp only
  refine .next (h.actRow (fun _ _ _ _ hu => ?_))
  split
  · exact hu
  · exact hu.foldl fun _ _ hu => hu.resend

theorem execActRefuse (h : s.Kept 2 t) {n} : s.KeptBy (execActRefuse n t) := by
  unfold Machine.execActRefuse
  refine .next (h.actRow (fun _ _ _ _ hu => ?_))
  split
  · exact hu
  · exact hu.endStream

theorem execAckTimeout (h : s.Kept 2 t) {num} : s.KeptBy (execAckTimeout num t) := by
  unfold Machine.execAckTimeout
  refine .next ?_
  split
  · exact h
  · split
    · exact h
    · exact .ite h.updTx.resend h

theorem execExportLinkWaitExpiry (h : s.Kept 2 t) {num} : s.KeptBy (execExportLinkWaitExpiry num t) := by
  unfold Machine.execExportLinkWaitExpiry
  refine .next ?_
  split
  · exact h
  · split
    · exact h
    · exact .ite h.endStream h

theorem updRx (h : s.Kept k t) {r f} : s.Kept k (t.updRx r f) :=
  h.same

theorem dropRx (h : s.Kept k t) {r} : s.Kept k (t.dropRx r) :=
  h.same

theorem sendAck (h : s.Kept k t) {r} : s.Kept k (t.sendAck r) := by
  unfold State.sendAck
  split
  · exact h
  · exact h.updRx.sendBack

theorem reservePages (h : s.Kept k t) {i len n} (e : t.reservePages i len = some (n, u)) : s.Kept k u := by
  unfold State.reservePages at e
  dsimp only at e
  split at e
  · cases e
  · split at e
    · cases e
      exact h
    · split at e
      · cases e
      · split at e
        · cases e
        · obtain ⟨x, edited, e⟩ := Option.map_eq_some_iff.mp e
          cases e
          exact h.edit edited

theorem judgeOpen (h : s.Kept k t) {n m src i mir l f} (e : t.judgeOpen n m src = .ok (i, mir, l, f, u)) : s.Kept k u := by
  unfold State.judgeOpen at e
  dsimp only at e
  split at e
  · cases e
  · split at e
    · cases e
    · split at e
      · cases e
      · split at e
        · cases e
        · split at e
          · cases e
          · next reserved =>
            cases e
            exact h.reservePages reserved

theorem execActOpen (h : s.Kept 2 t) {n} : s.KeptBy (execActOpen n t) := by
  unfold Machine.execActOpen
  dsimp only
  refine .next (h.actRow (fun _ _ _ _ hu => ?_))
  split
  · exact hu.sendBack
  · split
    · exact hu.sendBack
    · next e =>
        exact .sendBack (.same (hu.judgeOpen e))

theorem placePage (h : s.Kept k t) {p bs} : s.Kept k (t.placePage p bs) := by
  unfold State.placePage
  dsimp only
  refine h.foldl fun _ _ hu => ?_
  split
  · exact hu
  · exact hu.writeDev.updFrame

theorem applyBatch (h : s.Kept k t) {r b} : s.Kept k (t.applyBatch r b) := by
  unfold State.applyBatch
  dsimp only
  split
  · exact h
  · refine .ite h ?_
    split
    · exact h
    · split
      · exact h
      · next e =>
          exact .ite (.updSes (.updRx (.foldl (h.edit e) fun _ _ hu => hu.placePage))) (.updSes (.updRx (.foldl (h.edit e)
              fun _ _ hu => hu.placePage)))

theorem rxProcess (h : s.Kept k t) {r m} : s.Kept k (t.rxProcess r m) := by
  unfold State.rxProcess
  dsimp only
  split
  · exact .ite h h.updRx
  · refine .ite h ?_
    split
    · exact h.updRx.applyBatch
    · exact h.updRx
  · refine .ite h.sendBack.dropRx ?_
    split
    · exact h.updRx.applyBatch
    · exact h.updRx
  · exact .ite h.dropRx (.ite h.updRx.updSes h.updRx.updSes)
  · exact .ite (.dropRx (.ite h.sendAck h)) (.ite (.dropAbove (.dropRx (.ite h.sendAck h))) (.endImport (.ite h.sendAck h)))
  · exact h

theorem rxAhead (h : s.Kept k t) {r n} : s.Kept k (t.rxAhead r n) := by
  induction n generalizing t r with
  | zero => exact h
  | succ n ih =>
    unfold State.rxAhead
    split
    · exact h
    · split
      · exact h
      · refine ih ?_
        split
        · exact h.updRx.rxProcess
        · exact h.updRx

theorem rxMessage (h : s.Kept k t) {n m src raw} : s.Kept k (t.rxMessage n m src raw) := by
  unfold State.rxMessage
  dsimp only
  split
  · exact h
  · refine .ite h.updRx.updRx.rxProcess ?_
    split
    · exact .ite h.updRx.updRx.updRx.rxAhead.sendAck h.updRx.updRx.updRx.rxAhead
    · exact h.updRx.updRx.updRx.rxAhead

theorem execActPage (h : s.Kept 2 t) {n} : s.KeptBy (execActPage n t) :=
  .next (h.actRow (fun _ _ _ _ hu => hu.rxMessage))

theorem execLayerDone (h : s.Kept 2 t) {n} : s.KeptBy (execLayerDone n t) :=
  .next (h.actRow (fun _ _ _ _ hu => hu.rxMessage))

theorem execActCommit (h : s.Kept 2 t) {n} : s.KeptBy (execActCommit n t) :=
  .next (h.actRow (fun _ _ _ _ hu => hu.rxMessage))

theorem execActAbort (h : s.Kept 2 t) {n} : s.KeptBy (execActAbort n t) :=
  .next (h.actRow (fun _ _ _ _ hu => hu.rxMessage))

theorem execActClose (h : s.Kept 2 t) {n} : s.KeptBy (execActClose n t) :=
  .next (h.actRow (fun _ _ _ _ hu => hu.rxMessage))

theorem execAckDelayTimer (h : s.Kept 2 t) {n num} : s.KeptBy (execAckDelayTimer n num t) := by
  unfold Machine.execAckDelayTimer
  refine .next (.ite h (h.foldl fun _ _ hu => ?_))
  split
  · exact .ite hu.sendAck hu
  · exact hu

theorem sendNack (h : s.Kept k t) {r} : s.Kept k (t.sendNack r) :=
  .ite h h.updRx.sendBack

theorem execNackGapTimer (h : s.Kept 2 t) {n num} : s.KeptBy (execNackGapTimer n num t) :=
  .next (.ite h (h.foldl fun _ _ hu => hu.sendNack))

theorem holdOver (h : s.Kept k t) {r} : s.Kept k (t.holdOver r) := by
  unfold State.holdOver
  extract_lets kept
  have kept_kept {v : State} (hv : s.Kept k v) : s.Kept k (kept v) := .ite hv (State.Kept.same (t := v.dropRx r) hv.dropRx)
  exact .ite h (.ite (.ite h (kept_kept h).dropAbove) (kept_kept h.endImport))

theorem execHoldLimit (h : s.Kept 2 t) {obj} : s.KeptBy (execHoldLimit obj t) := by
  unfold Machine.execHoldLimit
  refine .next (.ite h ?_)
  split
  · exact h.foldl fun _ _ hu => hu.holdOver
  · split
    · exact h
    · exact .ite h.endImport h
  · split
    · exact h
    · split
      · exact .ite h.endStream h
      · exact h

end Sys2Proof.Machine.State.Kept
end

section
set_option Elab.async false
/-! SUPPORT. What is kept by loads and the twin. -/
namespace Sys2Proof.Machine.State.Kept

variable {s t u : State} {k : Nat}

theorem refuseLoad (h : s.Kept k t) {k₁ r} : s.Kept k (t.refuseLoad k₁ r) :=
  .finish (.ite h h.logEntry)

theorem load (h : s.Kept k t) {k₁ script} : s.Kept k (t.load k₁ script) := by
  unfold State.load
  dsimp only
  refine .ite h.reject ?_
  split
  · exact h.reject
  · refine .ite h.reject ?_
    split
    · refine .ite h.reject (.ite h.reject ?_)
      split
      · exact h.refuseLoad
      · refine .ite h.reject ?_
        split
        · exact h.reject
        · next e =>
            exact h.beginLoad e
    · exact h.reject

theorem execModelLoad (h : s.Kept 2 t) {b q} : s.KeptBy (execModelLoad b q t) :=
  .next (h.command (fun _ _ hu => hu.load))

theorem execScriptLoad (h : s.Kept 2 t) {b q} : s.KeptBy (execScriptLoad b q t) :=
  .next (h.command (fun _ _ hu => hu.load))

theorem execLoadSegment (h : s.Kept 2 t) {p slot seg rows bad} : s.KeptBy (execLoadSegment p slot seg rows bad t) :=
  .next (.ite h (.ite h.updNib h.updNib.report))

theorem execLoadGapTimer (h : s.Kept 2 t) {p slot} : s.KeptBy (execLoadGapTimer p slot t) := by
  unfold Machine.execLoadGapTimer
  dsimp only
  refine .next ?_
  split
  · exact h
  · exact .ite h.report h

theorem execLoadTimeout (h : s.Kept 2 t) {b y} : s.KeptBy (execLoadTimeout b y t) := by
  unfold Machine.execLoadTimeout
  refine .next ?_
  split
  · exact h
  · exact .ite h.failLoad h

theorem rcSet (h : s.Kept (k + 2) t) {o v} : s.Kept (k + 2) (t.rcSet o v) :=
  .ite h.same (.ite h.same2 (.ite h.same (.ite h.same (.ite h.same (.ite h.same (.ite h.same (.ite h.same (.ite h.updChan (.ite
      h.updPort (.ite h.updDma (.ite h.same h.updNib)))))))))))

theorem rcClear (h : s.Kept (k + 2) t) {o} : s.Kept (k + 2) (t.rcClear o) :=
  h.rcSet.same

theorem clearEvents (h : s.Kept k t) {v} : s.Kept k (t.clearEvents v) :=
  h.same

theorem moveTwin (h : s.Kept k t) {st} : s.Kept k (t.moveTwin st) :=
  .ite h h.same.event

theorem flushDeltas (h : s.Kept k t) : s.Kept k t.flushDeltas :=
  .ite h h.sendTwin

theorem sendCopy (h : s.Kept k t) : s.Kept k t.sendCopy :=
  h.same.sendTwin.flushDeltas.sendTwin

theorem beginPairing (h : s.Kept k t) : s.Kept k t.beginPairing :=
  h.same.moveTwin.sendTwin

theorem checkPaired (h : s.Kept k t) : s.Kept k t.checkPaired :=
  .ite h.same.moveTwin.flushDeltas h

theorem twinRow (h : s.Kept k t) {n f} (f_kept : ∀ u, s.Kept k u → s.Kept k (f u)) : s.Kept k (t.twinRow n f) :=
  .ite h (f_kept _ h.popControl)

theorem freeMirror (h : s.Kept k t) {i} : s.Kept k (t.freeMirror i) :=
  .updSes (.ite h.same h.same.dropList)

theorem writeMirror (h : s.Kept k t) {i e} : s.Kept k (t.writeMirror i e) := by
  unfold State.writeMirror
  dsimp only
  refine .ite h (.ite h.setSes (.setSes ?_))
  split
  · next e =>
      exact .writeDev (.arenaTake (.ite h.freeMirror h) e)
  · exact .ite h.freeMirror h

theorem applyDelta (h : s.Kept k t) {d} : s.Kept k (t.applyDelta d) := by
  unfold State.applyDelta
  dsimp only
  split
  · exact .ite (.ite h.same.freeMirror h.same) h.same.writeMirror
  · exact h.updTenant
  · exact h.same
  · exact h.updTenant
  · refine h.foldl fun _ _ hu => ?_
    split
    · exact hu.updPfx
    · exact hu
  · exact h.same

theorem applyDeltas (h : s.Kept k t) {l} : s.Kept k (t.applyDeltas l) := by
  induction l generalizing t with
  | nil => exact h
  | cons x l ih =>
    unfold State.applyDeltas
    exact .ite (ih h.applyDelta.same) (ih h)

theorem ackDeltas (h : s.Kept k t) : s.Kept k t.ackDeltas :=
  h.sendTwin

theorem execTwinHello (h : s.Kept 2 t) {n y} : s.KeptBy (execTwinHello n y t) := by
  unfold Machine.execTwinHello
  dsimp only
  refine .next (h.twinRow (fun _ hu => ?_))
  split
  · exact hu
  · exact hu
  · exact hu
  · refine .ite hu.same.moveTwin ?_
    split
    · exact hu.same.moveTwin
    · exact .ite (.ite hu hu.beginPairing) (.sendCopy (.ite (.sendTwin (.same (.ite hu hu.beginPairing))) (.same (.ite hu
        hu.beginPairing))))

theorem execTwinBeat (h : s.Kept 2 t) {n count upd} : s.KeptBy (execTwinBeat n count upd t) := by
  unfold Machine.execTwinBeat
  dsimp only
  refine .next (h.twinRow (fun _ hu => ?_))
  split
  · exact .ite hu.same.beginPairing hu.same.moveTwin.flushDeltas
  · exact .ite hu.same.beginPairing hu.same.moveTwin.flushDeltas
  · exact .ite hu.same.beginPairing hu.same
  · exact hu.same

theorem execTwinDelta (h : s.Kept 2 t) {n recs} : s.KeptBy (execTwinDelta n recs t) := by
  unfold Machine.execTwinDelta
  refine .next (h.twinRow (fun _ hu => ?_))
  split
  · exact hu.same
  · exact hu
  · exact hu
  · exact hu.applyDeltas.ackDeltas

theorem execTwinDeltaAck (h : s.Kept 2 t) {n k₁} : s.KeptBy (execTwinDeltaAck n k₁ t) :=
  .next (h.twinRow (fun _ hu => hu.same.checkPaired))

theorem execTwinLog (h : s.Kept 2 t) {n entry} : s.KeptBy (execTwinLog n entry t) :=
  .next (h.twinRow (fun _ hu => hu.same))

theorem execTwinSyncBegin (h : s.Kept 2 t) {n} : s.KeptBy (execTwinSyncBegin n t) :=
  .next (h.twinRow (fun _ hu => .ite hu.same hu))

theorem execTwinSyncEnd (h : s.Kept 2 t) {n} : s.KeptBy (execTwinSyncEnd n t) :=
  .next (h.twinRow (fun _ hu => .ite hu (.checkPaired (.ackDeltas (.same (hu.foldl fun _ _ hu1 => hu1.freeMirror))))))

theorem execTwinTaken (h : s.Kept 2 t) {n} : s.KeptBy (execTwinTaken n t) :=
  .next (h.twinRow (fun _ hu => hu.same.moveTwin))

theorem execTwinBeatTick (h : s.Kept 2 t) : s.KeptBy (execTwinBeatTick t) :=
  .next (.ite (.ite h.same.sendTwin h.same) h)

theorem judgeMisses (h : s.Kept k t) : s.Kept k t.judgeMisses := by
  unfold State.judgeMisses
  dsimp only
  split
  · exact .ite h.moveTwin (.ite h.moveTwin h)
  · exact .ite h.moveTwin h
  · exact h

theorem hostBeat (h : s.Kept k t) {v} : s.Kept k (t.hostBeat v) :=
  .ite h h.same.judgeMisses

theorem execPeerBeat (h : s.Kept 2 t) {f v} : s.KeptBy (execPeerBeat f v t) :=
  .next (.ite h.hostBeat h)

theorem execBeatMiss (h : s.Kept 2 t) {host} : s.KeptBy (execBeatMiss host t) :=
  .next (.ite h h.same.judgeMisses)

theorem adoptSession (h : s.Kept k t) {i} : s.Kept k (t.adoptSession i) := by
  unfold State.adoptSession
  dsimp only
  refine .ite h.same.updSes.dropAbove (.updSes (.ite ?_ h.same.swap))
  split
  · next e =>
      exact .updSes (.writeDev (h.same.arenaTake e))
  · exact h.same

theorem adoptBed (h : s.Kept k t) {b} : s.Kept k (t.adoptBed b) :=
  .same (.foldl (h.foldl fun _ _ hu => hu.adoptSession) fun _ _ hu => hu.updTenant)

theorem refuseTwin (h : s.Kept k t) : s.Kept k t.refuseTwin :=
  h.same

theorem takeover (h : s.Kept k t) : s.Kept k t.takeover := by
  unfold State.takeover
  dsimp only
  split
  · exact .foldl (.moveTwin (.same (h.foldl fun _ _ hu => hu.emit))) fun _ _ hu => .ite hu.same hu.adoptBed
  · exact .foldl (.moveTwin (.same (h.foldl fun _ _ hu => hu.emit))) fun _ _ hu => .ite hu.same hu.adoptBed
  · exact h.refuseTwin

theorem attach (h : s.Kept k t) : s.Kept k t.attach :=
  .ite h.beginPairing h.refuseTwin

theorem detach (h : s.Kept k t) : s.Kept k t.detach :=
  .moveTwin (.same (.ite h (.foldl (h.foldl fun _ _ hu => hu.abortStream) fun _ _ hu => hu.freeMirror)))

theorem execTakeover (h : s.Kept 2 t) {f} : s.KeptBy (execTakeover f t) :=
  .next (.ite h.takeover h)

theorem execAttach (h : s.Kept 2 t) {f} : s.KeptBy (execAttach f t) :=
  .next (.ite h.attach h)

theorem execDetach (h : s.Kept 2 t) {f} : s.KeptBy (execDetach f t) :=
  .next (.ite h.detach h)

end Sys2Proof.Machine.State.Kept
end

section
set_option Elab.async false
/-! SUPPORT. What is kept by the seal. -/
namespace Sys2Proof.Machine.State.Kept

variable {s t u : State} {k : Nat}

theorem sealBlocks (h : s.Kept k t) {q r lr k₁ pre j l} : s.Kept k (t.sealBlocks q r lr k₁ pre j l) := by
  induction l generalizing t j with
  | nil => exact h
  | cons blk l ih =>
    unfold State.sealBlocks
    have inserted {c : Prop} [Decidable c] {i n y ents ix sat f g} :
        s.Kept k (((if c then t.pfxInsert i n y ents ix sat else t).updSes f g)) := .updSes (.ite h.pfxInsert h)
    exact .ite h.updSes (ih (.ite inserted.updSes inserted))

theorem sealTail (h : s.Kept k t) {q r} : s.Kept k (t.sealTail q r) :=
  h.updSes

theorem commitSeq (h : s.Kept k t) {lr q r} : s.Kept k (t.commitSeq lr q r) :=
  .ite (.sealTail (.updSes (h.foldl fun _ _ hu => hu.updFrame))) (.sealBlocks (.updSes (h.foldl fun _ _ hu => hu.updFrame)))

theorem publishToken (h : s.Kept k t) {q r o} : s.Kept k (t.publishToken q r o) := by
  unfold State.publishToken
  dsimp only
  split
  · exact h
  · exact h.updSes
  · exact .ite h (.ite h.updSes.reply.updReq h.updSes)

theorem advanceAdmit (h : s.Kept k t) {i} : s.Kept k (t.advanceAdmit i) :=
  h.updSes.updReq

theorem publishSeq (h : s.Kept k t) {lr q} : s.Kept k (t.publishSeq lr q).2 := by
  unfold State.publishSeq
  extract_lets i
  split
  · exact h
  · next e s1 s2 _ r _ =>
    extract_lets o fin s3 s4 s5 r' e' s6 s7 s8
    have charged : s.Kept k s2 := h.charge.updReq
    clear_value s2 o
    have token : s.Kept k s3 := charged.commitSeq.publishToken
    clear_value s3
    have advanced : s.Kept k s5 := .ite (.updSes (.ite token.advanceAdmit token)) (.ite token.advanceAdmit token)
    clear_value s5
    have aborted : s.Kept k s7 := charged.settleAll
    clear_value s7
    refine .ite_snd (.ite advanced.settleAll (.sesDelta (State.Kept.updSes advanced.settleAll))) ?_
    show s.Kept k s8
    unfold s8
    split
    · exact .ite aborted.commitSeq.dropAbove aborted.rollback
    · exact aborted.rollback
    · exact aborted.keepHash

theorem publishSeqs (h : s.Kept k t) {lr l} : s.Kept k (t.publishSeqs lr l).2 := by
  induction l generalizing t with
  | nil => exact h
  | cons q l ih => exact ih h.publishSeq

theorem recordSeq (h : s.Kept k t) {x} : s.Kept k (t.recordSeq x) :=
  .ite h.endRequest (.ite h.dropRequest h)

theorem recordStep (h : s.Kept k t) {t₁ l} : s.Kept k (t.recordStep t₁ l) := by
  unfold State.recordStep
  dsimp only
  split
  · exact h
  · exact h.finish

theorem applyDivider (h : s.Kept (k + 2) t) : s.Kept (k + 2) t.applyDivider :=
  .ite h h.same2.event

theorem sealCommit (h : s.Kept (k + 2) t) {b} : s.Kept (k + 2) (t.sealCommit b) :=
  .ite h.applyCommit h

theorem sealClock (h : s.Kept (k + 2) t) : s.Kept (k + 2) t.sealClock :=
  .ite h h.commitTime.applyDivider

theorem spillChunk (h : s.Kept k t) {x} : s.Kept k (t.spillChunk x) :=
  h.foldl fun _ _ hu => .ite hu (hu.getD fun _ => hu.planCopies)

theorem sealPause (h : s.Kept k t) {b} : s.Kept k (t.sealPause b) :=
  .ite h h.same

theorem sealed (h : s.Kept (k + 2) t) {b t₁} : s.Kept (k + 2) (t.seal b t₁) :=
  .emptyChans (.foldl (.sealPause (.ite (.adoptBed (.armReady (.sealClock (.sealCommit (.same (.foldl (.foldl (.recordStep
      (h.publishSeqs.updBed.foldl fun _ _ hu => hu.recordSeq)) fun _ _ hu => hu.drain) fun _ _ hu => hu.updNib)))))) (.armReady
          (.sealClock (.sealCommit (.same (.foldl (.foldl (.recordStep (h.publishSeqs.updBed.foldl fun _ _ hu => hu.recordSeq))
              fun _ _ hu => hu.drain) fun _ _ hu => hu.updNib))))))) fun _ _ hu => hu.spillChunk)

theorem sealStep (h : s.Kept (k + 2) t) {b} : s.Kept (k + 2) (t.sealStep b) := by
  unfold State.sealStep
  split
  · exact h
  · exact .ite h.sealed h

theorem sealSteps (h : s.Kept (k + 2) t) : s.Kept (k + 2) t.sealSteps :=
  h.foldl fun _ _ hu => hu.sealStep

theorem execStepSeal (h : s.Kept 2 t) {b} : s.KeptBy (execStepSeal b t) :=
  .next h.sealStep

end Sys2Proof.Machine.State.Kept
end

section
set_option Elab.async false
/-! SUPPORT. What is kept by the sideband and register accesses. -/
namespace Sys2Proof.Machine.State.Kept

variable {s t u : State} {k : Nat}

theorem sbRead (h : s.Kept k t) {bs} : s.Kept k (t.sbRead bs) :=
  .ite h.emit h.emit

theorem execSbIdent (h : s.Kept 2 t) : s.KeptBy (execSbIdent t) :=
  .next h.sbRead

theorem execSbStatus (h : s.Kept 2 t) : s.KeptBy (execSbStatus t) :=
  .next h.sbRead

theorem execSbTemp (h : s.Kept 2 t) : s.KeptBy (execSbTemp t) :=
  .next h.sbRead

theorem execSbHbmTemp (h : s.Kept 2 t) : s.KeptBy (execSbHbmTemp t) :=
  .next h.sbRead

theorem execSbPower (h : s.Kept 2 t) : s.KeptBy (execSbPower t) :=
  .next h.sbRead

theorem execEventsClear (h : s.Kept 2 t) {v pec} : s.KeptBy (execEventsClear v pec t) :=
  .next (.ite h.emit (.ite h.clearEvents h))

theorem execSbWarmReset (h : s.Kept 2 t) {v pec} : s.KeptBy (execSbWarmReset v pec t) :=
  .next (.ite h.emit (.ite h.warmReset h))

theorem execJtagTck (h : s.Kept 2 t) {tms tdi trst} : s.KeptBy (execJtagTck tms tdi trst t) :=
  .next (.ite h.emit (.ite h.same.emit h.same.emit))

theorem readReg (h : s.Kept (k + 2) t) {o a b} : s.Kept (k + 2) (t.readReg o a b).2 := by
  unfold State.readReg
  dsimp only
  split
  · split
    · exact h.rcClear
    · exact h
  · exact h

theorem unserved (h : s.Kept k t) {f write} : s.Kept k (t.unserved f write) :=
  .ite h.emit h.emit

theorem readRegs (h : s.Kept (k + 2) t) {f lo hi l} : s.Kept (k + 2) (t.readRegs f lo hi l).2 := by
  induction l generalizing t with
  | nil => exact h
  | cons o l ih =>
    unfold State.readRegs
    dsimp only
    split
    · exact ih h
    · exact ih h.readReg

theorem readBar0 (h : s.Kept (k + 2) t) {f off len} : s.Kept (k + 2) (t.readBar0 f off len) :=
  .ite h (.ite h.unserved (.ite h.emit (.ite h.updFn.emit (.ite h.emit h.readRegs.emit))))

theorem readBar2 (h : s.Kept k t) {f off len} : s.Kept k (t.readBar2 f off len) :=
  .ite h (.ite h.unserved (.ite h.emit h.emit))

theorem readConfig (h : s.Kept k t) {f r len} : s.Kept k (t.readConfig f r len) :=
  .ite h (.ite h.emit h.emit)

theorem execRcFieldRead (h : s.Kept 2 t) {f r len} : s.KeptBy (execRcFieldRead f r len t) := by
  unfold Machine.execRcFieldRead
  refine .next ?_
  split
  · exact h.readBar0
  · exact h.readBar2
  · exact h.readConfig

theorem execTimeNowLowRead (h : s.Kept 2 t) {f} : s.KeptBy (execTimeNowLowRead f t) :=
  .next h.readBar0

theorem bootFence (h : s.Kept k t) {v} : s.Kept k (t.bootFence v) := by
  unfold State.bootFence
  dsimp only
  refine .ite h ?_
  split
  · exact .ite h.fence h
  · exact .ite h h.same
  · exact h

theorem bootReset (h : s.Kept (k + 2) t) {v} : s.Kept (k + 2) (t.bootReset v) := by
  unfold State.bootReset
  have reset : s.Kept (k + 2) t.computeReset := h.computeReset
  generalize t.computeReset = w at reset ⊢
  dsimp only
  refine .ite h ?_
  split
  · exact .ite reset.same h
  · exact h.warmReset
  · exact h

theorem writeWindow (h : s.Kept (k + 2) t) {o lo hi v} : s.Kept (k + 2) (t.writeWindow o lo hi v) :=
  .ite (.ite h.startBoot h) (.ite (.ite h.same h) (.ite (.ite h.bootReset h) (.ite (.ite h.same h) (.ite (.ite h.bootFence h)
      (.ite (.ite h.clearEvents h) (.ite (.ite h.same.noteAlert h) (.ite h (.ite (.ite h.recCommand h) (.ite (.ite h.same h)
          (.ite (.ite h.same h) (.ite h.same h)))))))))))

theorem writeBed (h : s.Kept k t) {b o lo hi v} : s.Kept k (t.writeBed b o lo hi v) :=
  .ite (.ite (.ite h.setIntr.resetBed h.setIntr) h) (.ite h.updBed (.ite h.updBed (.ite h.updBed (.ite (.ite h.writeQ0 h) (.ite
      (.ite h.updBed h) h)))))

theorem twinCtrl (h : s.Kept k t) {v} : s.Kept k (t.twinCtrl v) :=
  .ite h.refuseTwin (.ite (.detach (.ite (.attach (.ite h.takeover h)) (.ite h.takeover h))) (.ite (.attach (.ite h.takeover
      h)) (.ite h.takeover h)))

theorem retrainReg (h : s.Kept k t) {lp v} : s.Kept k (t.retrainReg lp v) :=
  .ite h.retrainWrite h

theorem writeReg (h : s.Kept (k + 2) t) {o lo hi v} : s.Kept (k + 2) (t.writeReg o lo hi v) :=
  .ite h.writeWindow (.ite h.writeBed (.ite h (.ite h.retrainReg (.ite h.retrainReg (.ite (.ite h.retrainGo h) (.ite (.ite
      h.same h) (.ite h.twinCtrl (.ite h.hostBeat h))))))))

theorem writeBar2 (h : s.Kept k t) {f off len v} : s.Kept k (t.writeBar2 f off len v) :=
  .ite h (.ite h.unserved (.ite h.emit (.ite h.updFn.sendPending h)))

theorem writeConfig (h : s.Kept k t) {f r v} : s.Kept k (t.writeConfig f r v) := by
  unfold State.writeConfig
  dsimp only
  refine .ite h (.ite h.emit ?_)
  split
  · exact h.updFn.sendPending
  · exact .ite h.updFn h
  · exact .ite h.same h
  · exact h

theorem writeBar0 (h : s.Kept (k + 2) t) {f off len v} : s.Kept (k + 2) (t.writeBar0 f off len v) := by
  unfold State.writeBar0
  dsimp only
  refine .ite h (.ite h.unserved (.ite h.emit (.ite (.ite h ?_) (.ite h.same h))))
  split
  · exact h.writeReg
  · exact h

theorem execRegisterWrite (h : s.Kept 2 t) {f r len v} : s.KeptBy (execRegisterWrite f r len v t) := by
  unfold Machine.execRegisterWrite
  refine .next ?_
  split
  · exact h.writeBar0
  · exact h.writeBar2
  · exact h.writeConfig

theorem bar4Reject (h : s.Kept k t) {f write} : s.Kept k (t.bar4Reject f write) :=
  .event (.emit (.ite h h.emit))

theorem execBar4Read (h : s.Kept 2 t) {f off len} : s.KeptBy (execBar4Read f off len t) := by
  unfold Machine.execBar4Read
  dsimp only
  refine .next (.ite h (.ite h.unserved (.ite h.emit (.ite h.bar4Reject ?_))))
  split
  · next e =>
      exact .emit (h.readDev.snd e)
  · next e =>
      exact .uncorrRead (.emit (.emit (h.readDev.snd e)))

theorem sendWindow (h : s.Kept k t) {a bs} : s.Kept k (t.sendWindow a bs) :=
  h.foldl fun _ _ hu => hu.same

theorem execBar4Write (h : s.Kept 2 t) {f off bytes poisoned} : s.KeptBy (execBar4Write f off bytes poisoned t) :=
  .next (.ite h (.ite h.unserved (.ite h.emit (.ite h.emit (.ite h.bar4Reject (.ite (.ite (.ite_fst h h.writeDev) (.sendWindow
      (.ite_fst h h.writeDev))) (.dropEvents (.emit (.ite (.ite_fst h h.writeDev) (.sendWindow (.ite_fst h h.writeDev)))))))))))

theorem execUnservedMemoryRequest (h :
    s.Kept 2 t) {f bar off len write} : s.KeptBy (execUnservedMemoryRequest f bar off len write t) :=
  .next (.ite h h.unserved)

end Sys2Proof.Machine.State.Kept
end

section
set_option Elab.async false
/-! SUPPORT. What is kept by an A-cycle. -/
namespace Sys2Proof.Machine.State.Kept

variable {s t u : State} {k : Nat}

theorem byNib (h : s.Kept k t) {p f} : s.Kept k (t.byNib p f).1 :=
  h.setNib

theorem actStep (h : s.Kept k t) {p a} : s.Kept k (t.actStep p a).1 := by
  unfold State.actStep
  split
  · exact h.nibFault
  · exact h.bedFaultAt
  · exact h.updNib
  · exact .ite_fst h.setNib h.nibFault
  · exact h.byNib
  · exact h.byNib
  · exact h.byNib
  · exact h.sendStep
  · exact h.rawStep
  · exact h.byNib
  · exact h.gatherStep
  · exact h.byNib
  · exact h.matStep
  · exact h.scanStep
  · exact h.byNib
  · exact h.streamStep
  · exact h.readStep
  · exact h.combStep
  · exact h.updNib
  · exact h.byNib
  · exact h.finStep
  · exact h.attStep
  · exact h.spanStep

theorem runAct (h : s.Kept k t) {p a} : s.Kept k (t.runAct p a) := by
  unfold State.runAct
  refine .ite h ?_
  split
  next e =>
  have acted := State.Kept.fst h.actStep e
  split
  · exact acted
  · exact .ite acted.addAct acted

theorem runActs (h : s.Kept k t) {p f} : s.Kept k (t.runActs p f) :=
  .ite h (h.updNib.foldl fun _ _ hu => hu.runAct)

theorem workActs (h : s.Kept k t) {p n} : s.Kept k (t.workActs p n) := by
  induction n generalizing t with
  | zero => exact h
  | succ n ih => exact .ite (ih h.runActs) h

theorem nibActs (h : s.Kept k t) {p} : s.Kept k (t.nibActs p) :=
  h.workActs.runActs

theorem flitStep (h : s.Kept k t) {p w} : s.Kept k (t.flitStep p w) := by
  unfold State.flitStep
  dsimp only
  split
  · exact .updNib (.ite h.same h)
  · exact h.same.updNib.bedFaultAt

theorem nibFlits (h : s.Kept k t) {p} : s.Kept k (t.nibFlits p) :=
  h.foldl fun _ _ hu => hu.flitStep

theorem nibScript (h : s.Kept k t) {p} : s.Kept k (t.nibScript p) := by
  unfold State.nibScript
  dsimp only
  refine .ite h ?_
  split
  · exact .ite h h.nibFault
  · exact .ite h.updNib h

theorem nibsRun (h : s.Kept k t) : s.Kept k t.nibsRun :=
  .same (.foldl (.foldl (h.foldl fun _ _ hu => hu.nibFlits) fun _ _ hu => hu.nibActs) fun _ _ hu => hu.nibScript)

theorem nibsCount (h : s.Kept k t) : s.Kept k t.nibsCount :=
  h.same.foldl fun _ _ hu => hu.bedFaultAt

theorem endReset (h : s.Kept (k + 1) t) {b} : s.Kept (k + 1) (t.endReset b) :=
  .ite h.updBed.finishDestroy (.afterReset (.ite h.updBed.removeQueues h.updBed))

theorem endResets (h : s.Kept (k + 1) t) : s.Kept (k + 1) t.endResets := by
  unfold State.endResets
  dsimp only
  split
  · exact .ite (.same (h.foldl fun _ _ hu => hu.endReset)) (h.foldl fun _ _ hu => hu.endReset)
  · exact h.foldl fun _ _ hu => hu.endReset

theorem falls (h : s.Kept (k + 2) t) : s.Kept (k + 2) t.falls :=
  h.sealSteps.commitTime.askedResets.startSteps

theorem advance (h : s.Kept (k + 2) t) : s.Kept (k + 2) t.advance := by
  unfold State.advance
  have run : s.Kept (k + 2) t.nibsRun := h.nibsRun
  generalize t.nibsRun = v at run ⊢
  exact .careChannels (.endResets (.resetNibs (.samplersEnd (.nibsCount run.same2))))

theorem tick (h : s.Kept (k + 2) t) : s.Kept (k + 2) t.tick :=
  .ite h.same2 h.falls.advance

end Sys2Proof.Machine.State.Kept
end

section
set_option Elab.async false
/-! SUPPORT. What is kept by every command: one arm per constructor of Instr. -/
namespace Sys2Proof.Machine

variable {s t : State}

theorem State.Kept.exec (h : s.Kept 2 t) (i : Instr) : s.KeptBy (exec i t) :=
  match i with
  | .nop .. => h.execNop
  | .queueCreate .. => h.execQueueCreate
  | .queueDelete .. => h.execQueueDelete
  | .modelLoad .. => h.execModelLoad
  | .scriptLoad .. => h.execScriptLoad
  | .sessionOpen .. => h.execSessionOpen
  | .sessionClose .. => h.execSessionClose
  | .prefill .. => h.execPrefill
  | .admitCmd .. => h.execAdmit
  | .stepCmd .. => h.execStepCmd
  | .decode .. => h.execDecode
  | .cancel .. => h.execCancel
  | .kvExport .. => h.execKvExport
  | .kvImport .. => h.execKvImport
  | .listSwap .. => h.execListSwap
  | .prefixPin .. => h.execPrefixPin
  | .stageWrite .. => h.execStageWrite
  | .stageCheck .. => h.execStageCheck
  | .stageCommit .. => h.execStageCommit
  | .bedCreate .. => h.execBedCreate
  | .bedDestroy .. => h.execBedDestroy
  | .tenantSet .. => h.execTenantSet
  | .updateWrite .. => h.execUpdateWrite
  | .updateVerify .. => h.execUpdateVerify
  | .updateActivate .. => h.execUpdateActivate
  | .updateConfirm .. => h.execUpdateConfirm
  | .licenceInstall .. => h.execLicenceInstall
  | .attest .. => h.execAttest
  | .floorPlanRead .. => h.execFloorPlanRead
  | .sqTail .. => h.execSqTail
  | .cqHead .. => h.execCqHead
  | .exportDb .. => h.execExportDb
  | .packetFetch .. => h.execPacketFetch
  | .holdRecordWrite .. => h.execHoldRecordWrite
  | .moderationTimer .. => h.execModerationTimer
  | .bedReset .. => h.execBedReset
  | .intrEn .. => h.execIntrEn
  | .q0Enable .. => h.execQ0Enable
  | .q0Disable .. => h.execQ0Disable
  | .registerWrite .. => h.execRegisterWrite
  | .rcFieldRead .. => h.execRcFieldRead
  | .timeNowLowRead .. => h.execTimeNowLowRead
  | .bar4Read .. => h.execBar4Read
  | .bar4Write .. => h.execBar4Write
  | .unservedMemoryRequest .. => h.execUnservedMemoryRequest
  | .vfFlr .. => h.execVfFlr
  | .pfFlr => h.execPfFlr
  | .d3hotEntry .. => h.execD3hotEntry
  | .d0Return .. => h.execD0Return
  | .coldReset .. => h.execColdReset
  | .perstRelease .. => h.execPerstRelease
  | .powerGoodLoss .. => h.execPowerGoodLoss
  | .bringUpStep1 .. => h.execBringUpStep1
  | .bringUpStep2 => h.execBringUpStep2
  | .bringUpStep3 .. => h.execBringUpStep3
  | .bringUpStep4 .. => h.execBringUpStep4
  | .bringUpStep5 .. => h.execBringUpStep5
  | .bringUpStep6 .. => h.execBringUpStep6
  | .bringUpStep7 .. => h.execBringUpStep7
  | .bringUpStep8 => h.execBringUpStep8
  | .bringUpStep9 => h.execBringUpStep9
  | .bootStepTimeout => h.execBootStepTimeout
  | .computeReset .. => h.execComputeReset
  | .bootWarmReset .. => h.execBootWarmReset
  | .fenceNow .. => h.execFenceNow
  | .clearRetirementMark .. => h.execClearRetirementMark
  | .hbmRetrainWait .. => h.execHbmRetrainWait
  | .hbmRetrainMigrate .. => h.execHbmRetrainMigrate
  | .memoryRetrainEnd .. => h.execMemoryRetrainEnd
  | .phyCalibrationDrift .. => h.execPhyCalibrationDrift
  | .memoryScrub .. => h.execMemoryScrub
  | .frameCopyComplete .. => h.execFrameCopyComplete
  | .kvSpill .. => h.execKvSpill
  | .linkRetrain .. => h.execLinkRetrain
  | .laneAlignmentLoss .. => h.execLaneAlignmentLoss
  | .retrainComplete .. => h.execRetrainComplete
  | .linkTrainingTimeout .. => h.execLinkTrainingTimeout
  | .idleFrame .. => h.execIdleFrame
  | .dataFrame .. => h.execDataFrame
  | .negotiate .. => h.execNegotiate
  | .negotiateRepeat .. => h.execNegotiateRepeat
  | .replayTimer .. => h.execReplayTimer
  | .nakRepeatTimer .. => h.execNakRepeatTimer
  | .remoteWrite .. => h.execRemoteWrite
  | .levelChange .. => h.execLevelChange
  | .ethernetFrame .. => h.execEthernetFrame
  | .shipperSend .. => h.execShipperSend
  | .actOpen .. => h.execActOpen
  | .openAck .. => h.execOpenAck
  | .actPage .. => h.execActPage
  | .layerDone .. => h.execLayerDone
  | .actCommit .. => h.execActCommit
  | .actAbort .. => h.execActAbort
  | .actAck .. => h.execActAck
  | .actNack .. => h.execActNack
  | .actClose .. => h.execActClose
  | .actRefuse .. => h.execActRefuse
  | .ackDelayTimer .. => h.execAckDelayTimer
  | .nackGapTimer .. => h.execNackGapTimer
  | .ackTimeout .. => h.execAckTimeout
  | .exportLinkWaitExpiry .. => h.execExportLinkWaitExpiry
  | .holdLimit .. => h.execHoldLimit
  | .twinHello .. => h.execTwinHello
  | .twinBeat _ n _ => h.execTwinBeat (count := n)
  | .twinDelta .. => h.execTwinDelta
  | .twinDeltaAck .. => h.execTwinDeltaAck
  | .twinLog .. => h.execTwinLog
  | .twinSyncBegin .. => h.execTwinSyncBegin
  | .twinSyncEnd .. => h.execTwinSyncEnd
  | .twinTaken .. => h.execTwinTaken
  | .twinBeatTick => h.execTwinBeatTick
  | .peerBeat .. => h.execPeerBeat
  | .beatMiss .. => h.execBeatMiss
  | .takeover .. => h.execTakeover
  | .attach .. => h.execAttach
  | .detach .. => h.execDetach
  | .stepDescriptorPublish .. => h.execStepDescriptorPublish
  | .stepStart .. => h.execStepStart
  | .stepSeal .. => h.execStepSeal
  | .pageWriter .. => h.execPageWriter
  | .samplerJob .. => h.execSamplerJob
  | .stepWatchdog .. => h.execStepWatchdog
  | .dmaProgressTimeout .. => h.execDmaProgressTimeout
  | .deadlineExpiry .. => h.execDeadlineExpiry
  | .sessionIdleExpiry .. => h.execSessionIdleExpiry
  | .stageCommitTime => h.execStageCommitTime
  | .front .. => h.execFront
  | .nibPass .. => h.execNibPass
  | .prescan .. => h.execPrescan
  | .accClear .. => h.execAccClear
  | .accShift .. => h.execAccShift
  | .accRead .. => h.execAccRead
  | .accCombine .. => h.execAccCombine
  | .vload .. => h.execVload
  | .vstore .. => h.execVstore
  | .vop .. => h.execVop
  | .vcvt .. => h.execVcvt
  | .vquant .. => h.execVquant
  | .vred .. => h.execVred
  | .vsfu .. => h.execVsfu
  | .sendSched .. => h.execSendSched
  | .sendAsync .. => h.execSendAsync
  | .readRawSend .. => h.execReadRawSend
  | .transpose .. => h.execTranspose
  | .gather .. => h.execGather
  | .nibWait .. => h.execNibWait
  | .waitComplete .. => h.execWaitComplete
  | .waitTimeout .. => h.execWaitTimeout
  | .tallyClear .. => h.execTallyClear
  | .nibLoop .. => h.execNibLoop
  | .nibPhase .. => h.execNibPhase
  | .nibSync .. => h.execNibSync
  | .barrierRelease .. => h.execBarrierRelease
  | .barrierTimeout .. => h.execBarrierTimeout
  | .elasticPhaseTimeout .. => h.execElasticPhaseTimeout
  | .endStep .. => h.execEndStep
  | .nibIdle .. => h.execNibIdle
  | .matmul .. => h.execMatmul
  | .macFinish .. => h.execMacFinish
  | .attend .. => h.execAttend
  | .macroExt .. => h.execMacroExt
  | .gatedVisitStart .. => h.execGatedVisitStart
  | .attSpan .. => h.execAttSpan
  | .mergeLocal .. => h.execMergeLocal
  | .mergeIn .. => h.execMergeIn
  | .attendSend .. => h.execAttendSend
  | .attendFinish .. => h.execAttendFinish
  | .asyncWriteArrival .. => h.execAsyncWriteArrival
  | .scratchpadScrub .. => h.execScratchpadScrub
  | .scrubForcedGrant .. => h.execScrubForcedGrant
  | .loadSegment .. => h.execLoadSegment
  | .loadGapTimer .. => h.execLoadGapTimer
  | .loadTimeout .. => h.execLoadTimeout
  | .handover => h.execHandover
  | .handoverPauseTimeout => h.execHandoverPauseTimeout
  | .handoverRetry => h.execHandoverRetry
  | .selfTest .. => h.execSelfTest
  | .selftestTimeout => h.execSelftestTimeout
  | .healthWindowExpiry => h.execHealthWindowExpiry
  | .lifeHourTick => h.execLifeHourTick
  | .recWrite => h.execRecWrite
  | .recVerify => h.execRecVerify
  | .recInstall => h.execRecInstall
  | .throttleRequest .. => h.execThrottleRequest
  | .divReqFall .. => h.execDivReqFall
  | .thermtrip .. => h.execThermtrip
  | .hbmHot .. => h.execHbmHot
  | .sensorFailure .. => h.execSensorFailure
  | .pllLoss => h.execPllLoss
  | .twinPres .. => h.execTwinPres
  | .sbIdent => h.execSbIdent
  | .sbStatus => h.execSbStatus
  | .sbTemp => h.execSbTemp
  | .sbHbmTemp => h.execSbHbmTemp
  | .sbPower => h.execSbPower
  | .eventsClear .. => h.execEventsClear
  | .sbWarmReset .. => h.execSbWarmReset
  | .powerGoodAssertion .. => h.execPowerGoodAssertion
  | .pcieLinkRetraining .. => h.execPcieLinkRetraining
  | .vfEnable .. => h.execVfEnable
  | .scribeRetirement .. => h.execScribeRetirement
  | .samplerRetirement .. => h.execSamplerRetirement
  | .jtagTck .. => h.execJtagTck

/-- A step is an A-cycle or the command at the front of the queue (R4, log 8). -/
theorem State.Kept.step (h : s.Kept 2 t) : s.KeptBy (step t) := by
  unfold Machine.step
  split
  · exact .next h.tick
  · exact State.Kept.exec (.same2 h) _

end Sys2Proof.Machine
end

section
open Sys2Proof Sys2Proof.Machine

/-- Settles O59: device memory is written by the house code's stores alone, which keep it canonical, and every operation the step
is made of keeps that (`State.Kept`, level 2). -/
theorem memoryStaysCanonical : Obligations.MemoryStaysCanonical := by
  intro s t sound run
  exact ((State.Kept.refl s 2).step t run).1 sound

end

section
/-! SUPPORT. An A-cycle on an empty queue (R31, R33, R472, R480, R482). -/
namespace Sys2Proof.Machine

variable {s t : State}

/-! ### The steps that seal -/

theorem mget_cons_self {α : Type} (d v : α) (m : SMap α) (k : Nat) : mget d ((k, v) :: m) k = v := by
  simp [mget]

theorem mget_cons_ne {α : Type} (d v : α) (m : SMap α) {k c : Nat} (ne : c ≠ k) : mget d ((k, v) :: m) c = mget d m c := by
  simp [mget, ne.symm]

/-- In a map that lists no key twice, each entry is the one that is read. -/
theorem mget_of_mem {α : Type} {d : α} {m : SMap α} {e : Nat × α} (nodup : (m.map (·.1)).Nodup) (listed : e ∈ m) :
    mget d m e.1 = e.2 := by
  induction m with
  | nil => cases listed
  | cons x m ih =>
    rw [List.map_cons, List.nodup_cons] at nodup
    rcases List.mem_cons.mp listed with rfl | later
    · exact mget_cons_self ..
    · have ne : e.1 ≠ x.1 := fun same => nodup.1 (List.mem_map.mpr ⟨e, later, same⟩)
      exact (mget_cons_ne d x.2 m ne).trans (ih nodup.2 later)

/-- In a map that lists no key twice, where one key alone holds what `p` asks, that key alone is found. -/
theorem mkeys_single {α : Type} {d : α} {p : α → Bool} {m : SMap α} {b : Nat} (nodup : (m.map (·.1)).Nodup) (default_ : p d = false)
    (holds : p (mget d m b) = true) (others : ∀ c, c ≠ b → p (mget d m c) = false) : mkeys (fun _ v => p v) m = [b] := by
  induction m with
  | nil => exact absurd (default_.symm.trans holds) Bool.false_ne_true
  | cons e m ih =>
    obtain ⟨k, v⟩ := e
    rw [List.map_cons, List.nodup_cons] at nodup
    obtain ⟨fresh, nodup⟩ := nodup
    have absent : mget d m k = d := mget_absent d m k fun e listed same => fresh (List.mem_map.mpr ⟨e, listed, same⟩)
    have tail (c : Nat) (ne : c ≠ k) : mget d m c = mget d ((k, v) :: m) c := (mget_cons_ne d v m ne).symm
    by_cases here : k = b
    · subst here
      have none_ : ∀ e ∈ m, p e.2 = false := by
        intro e listed
        have ne : e.1 ≠ k := fun same => fresh (List.mem_map.mpr ⟨e, listed, same⟩)
        rw [← mget_of_mem (d := d) nodup listed, tail _ ne]
        exact others _ ne
      rw [mget_cons_self] at holds
      unfold mkeys
      rw [List.filter_cons, if_pos holds, List.filter_eq_nil_iff.mpr fun e listed => Bool.eq_false_iff.mp (none_ e listed)]
      rfl
    · have skipped : p v = false := by
        have := others k here
        rwa [mget_cons_self] at this
      have rest : mkeys (fun _ v => p v) m = [b] := by
        refine ih nodup ?_ fun c ne => ?_
        · rwa [tail b (Ne.symm here)]
        · by_cases same : c = k
          · rw [same, absent, default_]
          · rw [tail c same]
            exact others c ne
      unfold mkeys at rest ⊢
      rw [List.filter_cons, if_neg (Bool.eq_false_iff.mp skipped)]
      exact rest

/-- Where one bed alone runs a step, and it can seal, it seals. -/
theorem State.sealSteps_single {b : Nat} {x : Step} (nodup : (s.beds.map (·.1)).Nodup) (runs : (s.bed b).step = some x)
    (may : s.sealable b = true) (others : ∀ c, c ≠ b → (s.bed c).step = none) : s.sealSteps = s.seal b x := by
  have keys : mkeys (fun _ (bd : Bed) => bd.step.isSome) s.beds = [b] := by
    refine mkeys_single (d := {}) (p := fun bd => bd.step.isSome) nodup rfl ?_ fun c ne => ?_
    · exact Option.isSome_iff_exists.mpr ⟨x, runs⟩
    · exact Option.isSome_eq_false_iff.mpr (Option.isNone_iff_eq_none.mpr (others c ne))
  have sealed : s.sealStep b = s.seal b x := by
    unfold State.sealStep
    rw [runs]
    exact if_pos may
  unfold State.sealSteps
  rw [keys]
  exact sealed

/-- Where no step can seal, none does. -/
theorem State.sealSteps_none (none_ : ∀ b, s.sealable b = false) : s.sealSteps = s := by
  have still (b : Nat) : s.sealStep b = s := by
    unfold State.sealStep
    split
    · rfl
    · exact if_neg (Bool.eq_false_iff.mp (none_ b))
  unfold State.sealSteps
  induction mkeys (fun _ (bd : Bed) => bd.step.isSome) s.beds with
  | nil => rfl
  | cons b l ih => rw [List.foldl_cons, still, ih]

theorem State.commitTime_other (mode : s.stage.mode ≠ 2) : s.commitTime = s := by
  refine if_neg ?_
  simp [mode]

/-- With no seal and no commit due, what falls in an A-cycle leaves the queue and the clocks alone. -/
theorem State.falls_kept (none_ : ∀ b, s.sealable b = false) (mode : s.stage.mode ≠ 2) : s.Kept 1 s.falls := by
  unfold State.falls
  rw [State.sealSteps_none none_, State.commitTime_other mode]
  exact (State.Kept.refl s 1).askedResets.startSteps

/-! ### The clocks -/

/-- An A-cycle moves the clocks by its length, and the next takes the divider in force; the queue stays as it is. -/
theorem State.advance_clocks (s : State) : s.advance.acyc = s.acyc + 1 ∧ s.advance.root = s.root + s.clk.cur ∧
    s.advance.ref = s.ref + s.clk.cur ∧ s.advance.clk = { s.clk with cur := s.clk.div } ∧ s.advance.pending = s.pending := by
  obtain ⟨-, run, -⟩ := (State.Kept.refl s 1).nibsRun
  obtain ⟨pending, acyc, root, ref, clk⟩ := run (Nat.le_refl 1)
  let v : State := { s.nibsRun with
    acyc := s.nibsRun.acyc + 1, root := s.nibsRun.root + s.nibsRun.clk.cur, ref := s.nibsRun.ref + s.nibsRun.clk.cur
    clk := { s.nibsRun.clk with cur := s.nibsRun.clk.div }
    mark := if (s.nibsRun.root + s.nibsRun.clk.cur) / 8 = s.nibsRun.root / 8 then s.nibsRun.mark else s.nibsRun.markNow }
  have ends : v.Kept 1 s.advance := (State.Kept.refl v 1).nibsCount.samplersEnd.resetNibs.endResets.careChannels
  obtain ⟨pending', acyc', root', ref', clk'⟩ := ends.2.1 (Nat.le_refl 1)
  refine ⟨acyc'.trans ?_, root'.trans ?_, ref'.trans ?_, clk'.trans ?_, pending'.trans pending⟩
  · exact congrArg (· + 1) acyc
  · exact congr (congrArg (fun r (c : Clk) => r + c.cur) root) clk
  · exact congr (congrArg (fun r (c : Clk) => r + c.cur) ref) clk
  · exact congrArg (fun c : Clk => { c with cur := c.div }) clk

/-- The timebase does not go back. -/
theorem State.now_le_of_root (le : s.root ≤ t.root) : s.now ≤ t.now := Nat.div_le_div_right le

/-! ### A step on an empty queue -/

theorem step_empty (empty : s.pending = []) : step s = .next s.tick := by
  unfold step
  rw [empty]

theorem step_runs (empty : s.pending = []) (runs : s.runs = true) : step s = .next s.falls.advance := by
  refine (step_empty empty).trans (congrArg Host.Outcome.next (if_neg ?_))
  rw [runs]
  exact Bool.false_ne_true

theorem step_stopped (empty : s.pending = []) (stopped : s.runs = false) :
    step s = .next { s with ref := s.ref + 48, mark := s.markNow } := by
  refine (step_empty empty).trans (congrArg Host.Outcome.next (if_pos ?_))
  rw [stopped]
  rfl

end Sys2Proof.Machine
end

section
open Sys2Proof Sys2Proof.Machine

/-- Settles O56: an A-cycle advances the clocks as `State.advance_clocks` says, over what the nibs, the resets and the channels
leave alone (`State.Kept`, level 1). -/
theorem idleTick : Obligations.IdleTick := by
  refine ⟨fun s empty => ⟨fun runs => ⟨step_runs empty runs, fun b x nodup step_ may others => ?_, fun none_ mode => ?_⟩,
    step_stopped empty⟩, State.advance_clocks⟩
  · unfold State.falls
    rw [State.sealSteps_single nodup step_ may others]
  · obtain ⟨-, falls, -⟩ := State.falls_kept none_ mode
    obtain ⟨pending, acyc, root, ref, clk⟩ := falls (Nat.le_refl 1)
    obtain ⟨acyc', root', ref', clk', pending'⟩ := s.falls.advance_clocks
    rw [acyc] at acyc'
    rw [root, clk] at root'
    rw [ref, clk] at ref'
    rw [clk] at clk'
    refine ⟨_, step_runs empty runs, acyc', root', ref', clk', (pending'.trans pending).trans empty, State.now_le_of_root ?_⟩
    rw [root']
    exact Nat.le_add_right _ _

end

section
/-! SUPPORT. Steps built (R32, R162, R163, R254, R376): a descriptor that passes its checks is published. -/
namespace Sys2Proof.Machine

variable {s t u : State} {b q : Nat}

/-- No number satisfies a predicate that fails on the whole range. -/
theorem firstNat_eq_none {p : Nat → Bool} {i n : Nat} (h : ∀ j, j < n → p (i + j) = false) : firstNat p i n = none := by
  induction n generalizing i with
  | zero => rfl
  | succ n ih =>
    unfold firstNat
    rw [if_neg (by simpa using h 0 n.succ_pos)]
    refine ih fun j hj => ?_
    have := h (j + 1) (Nat.succ_lt_succ hj)
    rwa [Nat.add_assoc, Nat.add_comm 1 j]

/-! ### A descriptor published (R32, R275) -/

theorem State.publishStep_onlyBed (s : State) (b n : Nat) (x : Step) : s.OnlyBed (s.publishStep b n x) b := s.setBed_onlyBed b _

theorem State.publishStep_bed (s : State) (b n : Nat) (x : Step) : (s.publishStep b n x).bed b = { s.bed b with
    interactive := n, next := some x, arena := (s.bed b).arena.filter fun y => x.seqs.all fun q => q.cap != y.1 } :=
  s.setBed_bed_self b _

/-- A step whose lists and shape block fail no check may be published (R162, R163, R254). -/
theorem State.builtFault_eq_none {p : ShapePlan} {x : Step} (lists : s.tileFault b p x = none)
    (shapes : shapesAbove p x.shapes = false) (scales : bscaleDiffers p x.shapes = false) : s.builtFault b p x = none := by
  unfold State.builtFault
  rw [lists, shapes, scales]
  rfl

/-- The step made of the requests taken is published when it fails no check (R32). -/
theorem State.buildStep_of_fault_none {n slot rows : Nat} {p : ShapePlan} {bulk : Bool} {fuel : Nat} {w : Want} {ws : List Want}
    {lists : List TileList} {qs : List Seq} (entered : s.enterAll p 0 (byBucket p bulk (w :: ws)) = (qs, rows, u)) (ne : qs ≠ [])
    (fault : u.builtFault b p { slot := slot, handle := w.handle, bulk := bulk, nrows := rows, buckets := p.buckets
                                shapes := planShapes p rows, lists := lists, seqs := qs, at_ := u.acyc, lr := u.retrievalLen b } =
      none) :
    s.buildStep b n slot p bulk (fuel + 1) (w :: ws) lists = u.publishStep b n {
      slot := slot, handle := w.handle, bulk := bulk, nrows := rows, buckets := p.buckets
      shapes := planShapes p rows, lists := lists, seqs := qs, at_ := u.acyc, lr := u.retrievalLen b } := by
  rw [State.buildStep, entered]
  have some_left : qs.isEmpty = false := by simpa using ne
  simp only [some_left, fault] <;> rfl

/-! ### The checks of an expert STEP (R376) -/

/-- A shape block at or below its plan, with its loops, stands in no field above it (R135, R162). -/
theorem shapesAbove_eq_false {p : ShapePlan} {sh : List Shape}
    (fields : ∀ x, x ∈ sh.zipIdx → x.1.m ≤ p.max x.2 0 ∧ x.1.n ≤ p.max x.2 1 ∧ x.1.k ≤ p.max x.2 2 ∧ x.1.aux0 ≤ p.max x.2 3 ∧
      x.1.aux1 ≤ p.max x.2 4)
    (loops : ∀ x, x ∈ p.loops → cdiv ((sh.getD x.1 {}).field x.2.1) (2 ^ x.2.2.1) ≤ x.2.2.2) : shapesAbove p sh = false := by
  unfold shapesAbove
  rw [Bool.or_eq_false_iff, List.any_eq_false, List.any_eq_false]
  refine ⟨fun x hx => ?_, fun x hx => ?_⟩
  · obtain ⟨m, n, k, aux0, aux1⟩ := fields x hx
    simp [Nat.not_lt.mpr m, Nat.not_lt.mpr n, Nat.not_lt.mpr k, Nat.not_lt.mpr aux0, Nat.not_lt.mpr aux1]
  · simpa using loops x hx

theorem bscaleDiffers_eq_false {p : ShapePlan} {sh : List Shape}
    (scales : ∀ x, x ∈ p.bscale → (sh.getD x.1 {}).bscale = x.2) : bscaleDiffers p sh = false := by
  unfold bscaleDiffers
  rw [List.any_eq_false]
  intro x hx
  simp [-List.getD_eq_getElem?_getD, scales x hx]

/-- NROWS stands in field M of the token-row registers, and the others are as they were (R251). -/
theorem rowShapes_getElem? {p : ShapePlan} {n j : Nat} {sh : List Shape} {x : Shape} (h : (rowShapes p n sh)[j]? = some x) :
    x = if j ∈ p.rowRegs then { sh.getD j {} with m := n } else sh.getD j {} := by
  unfold rowShapes at h
  rw [List.getElem?_map, List.getElem?_zipIdx] at h
  cases hj : sh[j]? with
  | none => simp [hj] at h
  | some y =>
    have found : sh.getD j {} = y := by simp [hj]
    rw [found]
    simpa [hj] using h.symm

/-- Taking requests into a descriptor changes no register, so the retrieval length stays (R254). -/
theorem State.enterGiven_retrievalLen {rs : List (Nat × Nat)} {ws : List Want} {qs : List Seq} (h : t.enterGiven rs ws = (qs, u)) :
    u.retrievalLen b = t.retrievalLen b := by
  have kept := (State.Kept.refl t 0).enterGiven (rs := rs) (ws := ws)
  rw [h] at kept
  have registers : u.cfg = t.cfg := kept.2.2 rfl
  unfold State.retrievalLen State.cfgAt
  rw [registers]

/-- The sequence entries of an expert STEP. -/
def stepEntries (d : StepData) : List Nat := (List.range (lenTab d.lt).nseq).map (seqEntry d.lt)

/-- The sessions the entries name. -/
def State.stepSessions (t : State) (b : Nat) (d : StepData) : List (Option Nat) :=
  (stepEntries d).map fun e => t.sesOk b (bitsAt e 0 32)

/-- What the entries ask of their requests. -/
def State.stepWants (t : State) (b handle layers : Nat) (d : StepData) : List Want :=
  ((stepEntries d).zip (t.stepSessions b d)).filterMap fun x => match x.2 with
    | some i => (t.reqOf i).map fun r => t.wantGiven r handle layers d.lt x.1
    | none => none

/-- The step before any of its sequences is entered. -/
def State.stepPlanned (t : State) (b handle layers : Nat) (d : StepData) (p : ShapePlan) (ref : PktRef) : Step :=
  d.step p ref handle (t.retrievalLen b) (((stepEntries d).zip (t.stepWants b handle layers d)).map fun x =>
    { index := x.2.index, row0 := bitsAt x.1 32 24, new := x.2.rows, pos0 := x.2.pos, bucket := bitsAt x.1 154 3
      pfx := x.2.pfx, segs := x.2.segs, retr := x.2.retr })

/-- A step published, or completed where every sequence was left out (R376). -/
def State.publishGiven (t : State) (b handle layers : Nat) (d : StepData) (p : ShapePlan) (ref : PktRef) : State :=
  let r := t.enterGiven ((stepEntries d).map fun e => (bitsAt e 32 24, bitsAt e 154 3)) (t.stepWants b handle layers d)
  if r.1.isEmpty then r.2.finish ref { r0 := 0, r1 := (lenTab d.lt).nseq }
  else r.2.publishStep b (t.bed b).interactive { d.step p ref handle (r.2.retrievalLen b) r.1 with at_ := r.2.acyc }

theorem State.publishGiven_of_entered {handle layers : Nat} {d : StepData} {p : ShapePlan} {ref : PktRef} {qs : List Seq}
    (h : t.enterGiven ((stepEntries d).map fun e => (bitsAt e 32 24, bitsAt e 154 3)) (t.stepWants b handle layers d) = (qs, u)) :
    t.publishGiven b handle layers d p ref = if qs.isEmpty then u.finish ref { r0 := 0, r1 := (lenTab d.lt).nseq }
      else u.publishStep b (t.bed b).interactive { d.step p ref handle (t.retrievalLen b) qs with at_ := u.acyc } := by
  rw [← State.enterGiven_retrievalLen h]
  unfold State.publishGiven
  rw [h] <;> rfl

/-- An expert STEP whose sequences, generations, slot and shape registers pass: what remains is the check of its lists (R162, R163,
R376). -/
theorem execStepCmd_of_checks {k : Pkt} {handle : Nat} {m : Model} {p : ShapePlan} (taken : s.take b q 0x32 = some (k, t))
    (ready : (t.bed b).st = .ready) (armed : (t.bed b).armed = true)
    (licence : t.licensed 3 = true ∨ ∀ e, e ∈ stepEntries (stepData k.data) → bitAt e 153 = false)
    (entries : ∀ j, j < (lenTab (stepData k.data).lt).nseq → t.entryBad b (stepData k.data).lt j = false ∧
      ∃ i, (t.stepSessions b (stepData k.data)).getD j none = some i ∧ (t.ses i).listGen = (stepData k.data).gens.getD j 0 ∧
        (t.ses i).model = handle)
    (plan : (t.bed b).planOf (stepData k.data).slot = some (handle, m, p))
    (shapes : shapesAbove p (rowShapes p (lenTab (stepData k.data).lt).nrows (stepData k.data).shapes) = false)
    (blocks : ∀ x, x ∈ (stepData k.data).shapes → x.nb = cdiv x.k 32)
    (scales : bscaleDiffers p (stepData k.data).shapes = false)
    (rows : (lenTab (stepData k.data).lt).nrows =
      sumNat ((List.range (lenTab (stepData k.data).lt).nseq).map (entryRows (stepData k.data).lt))) :
    exec (.stepCmd b q) s = .next
      (match (if (stepData k.data).lists && !listsInside (stepData k.data).tl then some { st := .tileListInvalid }
        else t.tileFault b p (t.stepPlanned b handle m.pkg.layers (stepData k.data) p k.ref)) with
      | some f => t.finish k.ref (t.tileRecord k (t.stepPlanned b handle m.pkg.layers (stepData k.data) p k.ref) f)
      | none => if (t.bed b).next.isSome then s
        else t.publishGiven b handle m.pkg.layers (stepData k.data) p k.ref) := by
  refine congrArg Host.Outcome.next ((State.command_of_take taken _).trans ?_)
  have retrieval : ¬ (!t.licensed 3 && (stepEntries (stepData k.data)).any (bitAt · 153)) = true := by
    rw [Bool.and_eq_true, List.any_eq_true]
    rintro ⟨off, e, he, set⟩
    rcases licence with on | clear
    · simp [on] at off
    · simp [clear e he] at set
  refine (if_neg (by simp [ready, armed])).trans ((if_neg retrieval).trans ?_)
  dsimp only
  split
  case h_1 i bad =>
    exact absurd (bad.symm.trans (firstNat_eq_none fun j hj => by rw [Nat.zero_add]; exact (entries j hj).1)) (by simp)
  split
  case h_1 i stale =>
    refine absurd (stale.symm.trans (firstNat_eq_none fun j hj => ?_)) (by simp)
    obtain ⟨-, x, named, gen, -⟩ := entries j hj
    unfold State.stepSessions stepEntries at named
    rw [Nat.zero_add, named]
    simp [gen]
  rw [plan]
  refine (if_neg (Bool.eq_false_iff.mp shapes)).trans ((if_neg ?_).trans ((if_neg (Bool.eq_false_iff.mp scales)).trans
    ((if_neg ?_).trans ?_)))
  · rw [List.any_eq_true]
    rintro ⟨x, hx, ne⟩
    simp [blocks x hx] at ne
  · rw [rows, bne_self_eq_false, Bool.or_false, List.any_eq_true]
    rintro ⟨x, hx, other⟩
    obtain ⟨j, hj, rfl⟩ := List.getElem_of_mem hx
    obtain ⟨-, i, named, -, model⟩ := entries j (by simpa using hj)
    have listed : (t.stepSessions b (stepData k.data)).getD j none = _ := getD_of_lt hj none
    rw [show _ = some i from listed.symm.trans named] at other
    simp [model] at other
  · rfl

end Sys2Proof.Machine
end

section
open Sys2Proof Sys2Proof.Machine

/-- Settles O34: a step that fails no check is published, and an expert STEP that passes its own checks is answered by what its
lists show. -/
theorem stepsBuilt : Obligations.StepsBuilt := by
  unfold Obligations.StepsBuilt
  refine ⟨?_, ?_⟩
  · intro s b slot rows bulk p w ws lists qs u may v ready step built entered ne fault shapes scales
    have publish := State.buildStep_of_fault_none (fuel := ws.length)
      (n := if bulk then 0 else if ready.any (·.bulk) then (v.bed b).interactive + 1 else 0) entered ne (State.builtFault_eq_none fault shapes scales)
    refine ⟨_, congrArg Host.Outcome.next ((if_neg (by simp [may])).trans ?_), State.publishStep_onlyBed u b _ step,
      State.publishStep_bed u b _ step⟩
    dsimp only
    rw [show v.buildFrom b (v.bed b).interactive ready = _ from built]
    exact publish
  · intro s t u b q handle k m p qs taken ready armed d l ents ids ws made planned sh licence entries plan fields loops blocks scales
    refine ⟨fun j x h => rowShapes_getElem? h, fun rows lists => ?_⟩
    have run := execStepCmd_of_checks taken ready armed licence entries plan (shapesAbove_eq_false fields loops) blocks
      (bscaleDiffers_eq_false scales) rows
    have inside : ¬ (d.lists && !listsInside d.tl) = true := by
      rw [Bool.and_eq_true]
      rintro ⟨own, out⟩
      simp [lists own] at out
    rw [if_neg inside] at run
    rw [show t.stepPlanned b handle m.pkg.layers d p k.ref = planned from rfl] at run
    cases checked : t.tileFault b p planned with
    | some f =>
      rw [checked] at run
      exact run
    | none =>
      rw [checked] at run
      refine ⟨fun waits => run.trans (congrArg Host.Outcome.next (if_pos (Option.isSome_iff_ne_none.mpr waits))),
        fun idle entered => ?_⟩
      have answer := run.trans (congrArg Host.Outcome.next (if_neg (by simp [idle])))
      rw [State.publishGiven_of_entered entered] at answer
      refine ⟨fun out => answer.trans (by rw [out]; rfl), fun ne => ?_⟩
      exact ⟨_, answer.trans (congrArg Host.Outcome.next (if_neg (by simpa using ne))), State.publishStep_onlyBed ..,
        State.publishStep_bed ..⟩
end
